-- ==== Sys2Proof/Word.lean ====
section
/-!
DEFINITION. The word types of the machine (00_scope R1, 01_device R13).
-/
namespace Sys2Proof

/-- A byte of memory. -/
abbrev Byte := BitVec 8
/-- A halfword of an instruction line (02_lines R21). -/
abbrev HWord := BitVec 16
/-- The low 64 bits of a register, a mask, or a control register. -/
abbrev Word := BitVec 64
/-- A full register (01_device R13: entries of 512 bits). -/
abbrev VWord := BitVec 512

/-- A finite map as a list of key and value pairs, keys strictly rising; absent keys read as a default
that the reader names. -/
abbrev AMap (V : Type) := List (Nat × V)

end Sys2Proof
end

