-- ==== Sys2Proof/Config.lean ====
section
/-!
DEFINITION. What the spec leaves open, as constants without a body: free times within their stated bounds, and the
results of the cryptographic operations the spec names by standard alone. Each is applied to the data it depends on or
to State.fresh, a counter that the machine advances. Logged in notes/assumptions.
-/
namespace Sys2Proof.Config

/-- Cycles or nanoseconds by which an event exceeds its stated minimum, for the n-th use (log 2). -/
opaque jitter : Nat → Nat
/-- Whether an RSA-4096 signature over a SHA-512 digest passes under the key in the boot ROM (23_retire R445). -/
opaque sigOk : List Byte → List Byte → Bool
/-- The RSA-4096 signature of a digest under the module's identity key (23_retire R447). -/
opaque sign : List Byte → List Byte
/-- The identity certificate (23_retire R447). -/
opaque certificate : List Byte
/-- A tenant's new matrix key, for the n-th key made (13_matrix R322). -/
opaque newKey : Nat → List Byte
/-- The correctly rounded result of a transcendental function that the enclosure of Machine/Maths.lean does not settle:
function code, format and operand bits (11_formats R285). -/
opaque mathResult : Nat → Nat → Nat → Nat → Nat

end Sys2Proof.Config
end

