-- ==== Sys2Proof/Syntax.lean ====
section
/-!
DEFINITION. The syntax of the machine's steps: one constructor for each row of spec/opcode_table.json. The
instructions (02_lines R33 to R42) carry their operand fields; the events (95_what_each_step_holds) take the unit
or the item in flight on which they act from the machine's state (its field subj).
-/
namespace Sys2Proof

/-- Access widths of LD and ST, k[7:5] (02_lines R39). For ST the signed codes store as the unsigned ones (R205). -/
inductive Width where
  | b8s | b8z | b16s | b16z | b32s | b32z | b64 | b512
deriving DecidableEq, Repr

/-- Address modes (08_access R192). -/
inductive Mode where
  | global | loc | bank | spread | tob | ring
deriving DecidableEq, Repr

/-- Space codes of SLD and SST (02_lines R39). -/
inductive Space where
  | spread | tob | bank
deriving DecidableEq, Repr

/-- Scopes (03_odx R54, 15_ordering R365). -/
inductive Scope where
  | core | column | cluster | stack | device | system
deriving DecidableEq, Repr

/-- Orders of AMO, f[5:4] (02_lines R40). -/
inductive Order where
  | relaxed | acq | rel | acqrel
deriving DecidableEq, Repr

/-- Floating types of vector lanes (02_lines R41). -/
inductive FType where
  | f64 | f32 | bf16 | f16
deriving DecidableEq, Repr

/-- Lane widths 64, 32, 16, 8 (02_lines R41). -/
inductive LaneW where
  | w64 | w32 | w16 | w8
deriving DecidableEq, Repr

/-- The type of a comparison: floating (f[6] = 0) or integer (12_vector R302). -/
inductive CmpT where
  | flt (ty : FType)
  | int (w : LaneW)
deriving DecidableEq, Repr

/-- Rounding codes 0 to 4 (11_formats R274). -/
inductive Round where
  | rne | rtz | rup | rdn | rmm
deriving DecidableEq, Repr

/-- Format codes 0 to 14 (11_formats R268). -/
inductive Fmt where
  | f64 | f32 | bf16 | f16 | e4m3 | e5m2 | log6 | i64 | i32 | i16 | i8 | n32 | n16 | n8 | i4
deriving DecidableEq, Repr

/-- Plane widths of VPL (12_vector R315). -/
inductive PlaneW where
  | w4 | w8 | w16 | w6
deriving DecidableEq, Repr

/-- Shift kinds of LOGI.SH (02_lines R37). -/
inductive ShKind where
  | shl | shr | sar | rol
deriving DecidableEq, Repr

/-- The barrier operand of BAR: an immediate number or a register (02_lines R40). -/
inductive BarSel where
  | imm (n : Nat)
  | reg (r : Nat)
deriving DecidableEq, Repr

/-- The two forms of VST: one block under a mask, or strided elements (12_vector R308). -/
inductive VstForm where
  | block (m : Nat)
  | strided (b : Nat) (w : LaneW)
deriving DecidableEq, Repr

/-- The steps of the machine, one constructor for each row of the opcode table. Registers, masks, handles and
unsigned immediates are numbers whose ranges WellFormed states. -/
inductive Instr where
  /-- BR_EQZ (R166). -/
  | brEqz (a : Nat) (delta : Int) (index : Nat)
  /-- BR_NEZ (R166). -/
  | brNez (a : Nat) (delta : Int) (index : Nat)
  /-- BR_LTZ (R166). -/
  | brLtz (a : Nat) (delta : Int) (index : Nat)
  /-- BR_GEZ (R166). -/
  | brGez (a : Nat) (delta : Int) (index : Nat)
  /-- BR_GTZ (R166). -/
  | brGtz (a : Nat) (delta : Int) (index : Nat)
  /-- BR_LEZ (R166). -/
  | brLez (a : Nat) (delta : Int) (index : Nat)
  /-- JMP (R167). -/
  | jmp (d : Nat) (delta : Int) (index : Nat)
  /-- JR (R167). -/
  | jr (d a : Nat)
  /-- CSR_READ (R177). -/
  | csrRead (d csr : Nat)
  /-- CSR_WRITE (R177). -/
  | csrWrite (d a csr : Nat)
  /-- CSR_SET (R177). -/
  | csrSet (d a csr : Nat)
  /-- CSR_CLEAR (R177). -/
  | csrClear (d a csr : Nat)
  /-- SYS_TRAP (R184). -/
  | sysTrap (code : Nat)
  /-- SYS_SVC (R184). -/
  | sysSvc (code : Nat)
  /-- SYS_IDLE (R185). -/
  | sysIdle
  /-- SYS_TLBINV (R186). -/
  | sysTlbinv (a : Nat) (scope : Scope)
  /-- SYS_SAVECTX (R408). -/
  | sysSavectx (a b : Nat)
  /-- SYS_LOADCTX (R408). -/
  | sysLoadctx (a b : Nat)
  /-- SYS_SCRUB (R408). -/
  | sysScrub (a : Nat)
  /-- SYSQ_NOP (R188). -/
  | sysqNop
  /-- SYSQ_EXIT (R189). -/
  | sysqExit
  /-- SYSQ_ERET (R190). -/
  | sysqEret
  /-- ALU_ADD (R169). -/
  | aluAdd (d a b : Nat)
  /-- ALU_SUB (R169). -/
  | aluSub (d a b : Nat)
  /-- ALU_AND (R169). -/
  | aluAnd (d a b : Nat)
  /-- ALU_OR (R169). -/
  | aluOr (d a b : Nat)
  /-- ALU_XOR (R169). -/
  | aluXor (d a b : Nat)
  /-- ALU_ANDN (R169). -/
  | aluAndn (d a b : Nat)
  /-- ALU_SHL (R169). -/
  | aluShl (d a b : Nat)
  /-- ALU_SHR (R169). -/
  | aluShr (d a b : Nat)
  /-- ALU_SAR (R169). -/
  | aluSar (d a b : Nat)
  /-- ALU_ROL (R169). -/
  | aluRol (d a b : Nat)
  /-- ALU_MIN (R169). -/
  | aluMin (d a b : Nat)
  /-- ALU_MAX (R169). -/
  | aluMax (d a b : Nat)
  /-- ALU_MINN (R169). -/
  | aluMinn (d a b : Nat)
  /-- ALU_MAXN (R169). -/
  | aluMaxn (d a b : Nat)
  /-- ALU_MUL (R169). -/
  | aluMul (d a b : Nat)
  /-- ALU_MULH (R169). -/
  | aluMulh (d a b : Nat)
  /-- ALU_MULHN (R169). -/
  | aluMulhn (d a b : Nat)
  /-- ALU_DIV (R169). -/
  | aluDiv (d a b : Nat)
  /-- ALU_DIVN (R169). -/
  | aluDivn (d a b : Nat)
  /-- ALU_REM (R169). -/
  | aluRem (d a b : Nat)
  /-- ALU_REMN (R169). -/
  | aluRemn (d a b : Nat)
  /-- ALU_CLZ (R169). -/
  | aluClz (d a : Nat)
  /-- ALU_CTZ (R169). -/
  | aluCtz (d a : Nat)
  /-- ALU_POPC (R169). -/
  | aluPopc (d a : Nat)
  /-- ALU_BREV (R169). -/
  | aluBrev (d a : Nat)
  /-- ALU_BSWAP (R169). -/
  | aluBswap (d a : Nat)
  /-- ALU_SEL (R169). -/
  | aluSel (d a b c : Nat)
  /-- ALU_ADDW (R169). -/
  | aluAddw (d a b : Nat)
  /-- ALU_SUBW (R169). -/
  | aluSubw (d a b : Nat)
  /-- ALU_MULW (R169). -/
  | aluMulw (d a b : Nat)
  /-- ALUQ_ADD (R170). -/
  | aluqAdd (d a b : Nat)
  /-- ALUQ_SUB (R170). -/
  | aluqSub (d a b : Nat)
  /-- ALUQ_AND (R170). -/
  | aluqAnd (d a b : Nat)
  /-- ALUQ_OR (R170). -/
  | aluqOr (d a b : Nat)
  /-- ADDI (R171). -/
  | addi (d a : Nat) (k : Int)
  /-- LI_S32 (R171). -/
  | liS32 (d k : Nat)
  /-- LI_HI (R171). -/
  | liHi (d a k : Nat)
  /-- LI_Z32 (R171). -/
  | liZ32 (d k : Nat)
  /-- LOGI_AND (R172). -/
  | logiAnd (d a k : Nat)
  /-- LOGI_OR (R172). -/
  | logiOr (d a k : Nat)
  /-- LOGI_XOR (R172). -/
  | logiXor (d a k : Nat)
  /-- LOGI_SH (R172). -/
  | logiSh (d a : Nat) (kind : ShKind) (n : Nat)
  /-- CMP_EQ (R173). -/
  | cmpEq (d a b : Nat)
  /-- CMP_NE (R173). -/
  | cmpNe (d a b : Nat)
  /-- CMP_LT (R173). -/
  | cmpLt (d a b : Nat)
  /-- CMP_GE (R173). -/
  | cmpGe (d a b : Nat)
  /-- CMP_LTN (R173). -/
  | cmpLtn (d a b : Nat)
  /-- CMP_GEN (R173). -/
  | cmpGen (d a b : Nat)
  /-- BIT_EXT (R174). -/
  | bitExt (d a pos len : Nat) (sx : Bool)
  /-- BIT_INS (R174). -/
  | bitIns (d a b pos len : Nat)
  /-- AGEN (R175). -/
  | agen (d a b : Nat) (disp : Int) (sh : Nat)
  /-- SEND_TASK (R74). -/
  | sendTask (busy : Option Nat) (a b count : Nat)
  /-- SEND_REMOP (R74). -/
  | sendRemop (busy : Option Nat) (a b count : Nat)
  /-- CHAN_BLOCK (R83). -/
  | chanBlock (a : Nat)
  /-- CHAN_UNBLOCK (R83). -/
  | chanUnblock (a : Nat)
  /-- CHAN_QUERY (R84). -/
  | chanQuery (d a : Nat)
  /-- CHAN_TTSET (R83). -/
  | chanTtset (a b : Nat)
  /-- SPAWN (R89). -/
  | spawn (busy : Option Nat) (a b c pri : Nat) (park : Option Nat) (lim : Nat)
  /-- FREEZE (R103). -/
  | freeze (d a b : Nat)
  /-- JOIN_WAIT (R120). -/
  | joinWait (d a : Nat)
  /-- JOIN_TEST (R120). -/
  | joinTest (d a : Nat)
  /-- MIGR_GOTO (R222). -/
  | migrGoto (a : Nat)
  /-- MIGR_HOME (R222). -/
  | migrHome (d : Nat)
  /-- LD (R205). -/
  | ld (d a b : Nat) (acq : Bool) (w : Width) (mode : Mode) (off : Int)
  /-- LD_LAST (R216). -/
  | ldLast (d h b : Nat) (acq : Bool) (w : Width) (off : Int)
  /-- ST (R205). -/
  | st (d a b : Nat) (rel : Bool) (w : Width) (mode : Mode) (off : Int)
  /-- LDM (R208). -/
  | ldm (d a count : Nat) (mode : Mode) (off : Int)
  /-- STM (R208). -/
  | stm (d a count : Nat) (mode : Mode) (off : Int)
  /-- SLD (R208). -/
  | sld (d a : Nat) (space : Space) (acq : Bool) (off : Int) (count : Nat)
  /-- SST (R208). -/
  | sst (d a : Nat) (space : Space) (rel : Bool) (off : Int) (count : Nat)
  /-- AMO_ADD (R351). -/
  | amoAdd (d a b : Nat) (w64 : Bool) (order : Order) (scope : Scope) (spread : Bool)
  /-- AMO_AND (R351). -/
  | amoAnd (d a b : Nat) (w64 : Bool) (order : Order) (scope : Scope) (spread : Bool)
  /-- AMO_OR (R351). -/
  | amoOr (d a b : Nat) (w64 : Bool) (order : Order) (scope : Scope) (spread : Bool)
  /-- AMO_XOR (R351). -/
  | amoXor (d a b : Nat) (w64 : Bool) (order : Order) (scope : Scope) (spread : Bool)
  /-- AMO_MIN (R351). -/
  | amoMin (d a b : Nat) (w64 : Bool) (order : Order) (scope : Scope) (spread : Bool)
  /-- AMO_MAX (R351). -/
  | amoMax (d a b : Nat) (w64 : Bool) (order : Order) (scope : Scope) (spread : Bool)
  /-- AMO_MINN (R351). -/
  | amoMinn (d a b : Nat) (w64 : Bool) (order : Order) (scope : Scope) (spread : Bool)
  /-- AMO_MAXN (R351). -/
  | amoMaxn (d a b : Nat) (w64 : Bool) (order : Order) (scope : Scope) (spread : Bool)
  /-- AMO_SWAP (R351). -/
  | amoSwap (d a b : Nat) (w64 : Bool) (order : Order) (scope : Scope) (spread : Bool)
  /-- AMO_CAS (R351). -/
  | amoCas (d a b c : Nat) (w64 : Bool) (order : Order) (scope : Scope) (spread : Bool)
  /-- AMO_FADD32 (R351). -/
  | amoFadd32 (d a b : Nat) (order : Order) (scope : Scope) (spread : Bool)
  /-- AMO_FADD64 (R351). -/
  | amoFadd64 (d a b : Nat) (order : Order) (scope : Scope) (spread : Bool)
  /-- RING_INIT (R214). -/
  | ringInit (a b h : Nat)
  /-- RING_WFILL (R214). -/
  | ringWfill (h n : Nat)
  /-- RING_WFREE (R214). -/
  | ringWfree (h n : Nat)
  /-- RING_ACONS (R214). -/
  | ringAcons (h n : Nat)
  /-- RING_APROD (R214). -/
  | ringAprod (h n : Nat)
  /-- RING_STAT (R214). -/
  | ringStat (d h : Nat)
  /-- WAITT_ANY (R256). -/
  | waittAny (free : Bool) (d a : Nat)
  /-- WAITT_ALL (R256). -/
  | waittAll (free : Bool) (a : Nat)
  /-- WAITT_FFR (R256). -/
  | waittFfr (free : Bool) (d a : Nat)
  /-- WAITT_CLR (R256). -/
  | waittClr (free : Bool) (a : Nat)
  /-- WAITT_TEST (R256). -/
  | waittTest (free : Bool) (d a : Nat)
  /-- CPQ (R252). -/
  | cpq (busy : Option Nat) (a b c e : Nat)
  /-- BAR_INIT (R346). -/
  | barInit (a : Nat) (bar : BarSel) (group : Nat)
  /-- BAR_ARRIVE (R346). -/
  | barArrive (bar : BarSel) (group : Nat)
  /-- BAR_WAIT (R346). -/
  | barWait (bar : BarSel) (group : Nat)
  /-- BAR_SYNC (R346). -/
  | barSync (bar : BarSel) (group : Nat)
  /-- MON_ARM (R354). -/
  | monArm (a : Nat)
  /-- MON_WAIT (R355). -/
  | monWait (d : Nat)
  /-- MON_DISARM (R355). -/
  | monDisarm
  /-- FENCE_FULL (R358). -/
  | fenceFull (scope : Scope)
  /-- FENCE_RELEASE (R358). -/
  | fenceRelease (scope : Scope)
  /-- FENCE_ACQUIRE (R358). -/
  | fenceAcquire (scope : Scope)
  /-- FENCE_XPATH (R358). -/
  | fenceXpath (scope : Scope)
  /-- MEMOP_STAG (R241). -/
  | memopStag (a b : Nat)
  /-- MEMOP_LTAG (R241). -/
  | memopLtag (d a : Nat)
  /-- MEMOP_PIN (R241). -/
  | memopPin (a b : Nat)
  /-- MEMOP_UNPIN (R241). -/
  | memopUnpin (a b : Nat)
  /-- MEMOP_WBL (R241). -/
  | memopWbl (a : Nat)
  /-- MEMOP_PF (R241). -/
  | memopPf (a : Nat)
  /-- VF_ADD (R296). -/
  | vfAdd (d a b : Nat) (ty : FType) (rnd : Round) (m : Nat)
  /-- VF_SUB (R296). -/
  | vfSub (d a b : Nat) (ty : FType) (rnd : Round) (m : Nat)
  /-- VF_MUL (R296). -/
  | vfMul (d a b : Nat) (ty : FType) (rnd : Round) (m : Nat)
  /-- VF_DIV (R296). -/
  | vfDiv (d a b : Nat) (ty : FType) (rnd : Round) (m : Nat)
  /-- VF_MIN (R297). -/
  | vfMin (d a b : Nat) (ty : FType) (m : Nat)
  /-- VF_MAX (R297). -/
  | vfMax (d a b : Nat) (ty : FType) (m : Nat)
  /-- VF_ABS (R296). -/
  | vfAbs (d a : Nat) (ty : FType) (m : Nat)
  /-- VF_NEG (R296). -/
  | vfNeg (d a : Nat) (ty : FType) (m : Nat)
  /-- VF_SQRT (R296). -/
  | vfSqrt (d a : Nat) (ty : FType) (rnd : Round) (m : Nat)
  /-- VF_RSQRT (R296). -/
  | vfRsqrt (d a : Nat) (ty : FType) (rnd : Round) (m : Nat)
  /-- VF_COPYSIGN (R296). -/
  | vfCopysign (d a b : Nat) (ty : FType) (m : Nat)
  /-- VF_MINNUM (R297). -/
  | vfMinnum (d a b : Nat) (ty : FType) (m : Nat)
  /-- VF_MAXNUM (R297). -/
  | vfMaxnum (d a b : Nat) (ty : FType) (m : Nat)
  /-- VFMA_FMA (R299). -/
  | vfmaFma (d a b c : Nat) (ty : FType) (rnd : Round) (m : Nat)
  /-- VFMA_FMS (R299). -/
  | vfmaFms (d a b c : Nat) (ty : FType) (rnd : Round) (m : Nat)
  /-- VFMA_FNMA (R299). -/
  | vfmaFnma (d a b c : Nat) (ty : FType) (rnd : Round) (m : Nat)
  /-- VFMA_FNMS (R299). -/
  | vfmaFnms (d a b c : Nat) (ty : FType) (rnd : Round) (m : Nat)
  /-- VI_ADD (R301). -/
  | viAdd (d a b : Nat) (w : LaneW) (m : Nat)
  /-- VI_SUB (R301). -/
  | viSub (d a b : Nat) (w : LaneW) (m : Nat)
  /-- VI_MUL (R301). -/
  | viMul (d a b : Nat) (w : LaneW) (m : Nat)
  /-- VI_MULH (R301). -/
  | viMulh (d a b : Nat) (w : LaneW) (m : Nat)
  /-- VI_MULHN (R301). -/
  | viMulhn (d a b : Nat) (w : LaneW) (m : Nat)
  /-- VI_AND (R301). -/
  | viAnd (d a b : Nat) (w : LaneW) (m : Nat)
  /-- VI_OR (R301). -/
  | viOr (d a b : Nat) (w : LaneW) (m : Nat)
  /-- VI_XOR (R301). -/
  | viXor (d a b : Nat) (w : LaneW) (m : Nat)
  /-- VI_ANDN (R301). -/
  | viAndn (d a b : Nat) (w : LaneW) (m : Nat)
  /-- VI_SHL (R301). -/
  | viShl (d a b : Nat) (w : LaneW) (m : Nat)
  /-- VI_SHR (R301). -/
  | viShr (d a b : Nat) (w : LaneW) (m : Nat)
  /-- VI_SAR (R301). -/
  | viSar (d a b : Nat) (w : LaneW) (m : Nat)
  /-- VI_MIN (R301). -/
  | viMin (d a b : Nat) (w : LaneW) (m : Nat)
  /-- VI_MAX (R301). -/
  | viMax (d a b : Nat) (w : LaneW) (m : Nat)
  /-- VI_MINN (R301). -/
  | viMinn (d a b : Nat) (w : LaneW) (m : Nat)
  /-- VI_MAXN (R301). -/
  | viMaxn (d a b : Nat) (w : LaneW) (m : Nat)
  /-- VI_ADDSAT (R301). -/
  | viAddsat (d a b : Nat) (w : LaneW) (m : Nat)
  /-- VI_SUBSAT (R301). -/
  | viSubsat (d a b : Nat) (w : LaneW) (m : Nat)
  /-- VI_ADDSATN (R301). -/
  | viAddsatn (d a b : Nat) (w : LaneW) (m : Nat)
  /-- VI_SUBSATN (R301). -/
  | viSubsatn (d a b : Nat) (w : LaneW) (m : Nat)
  /-- VI_ABS (R301). -/
  | viAbs (d a : Nat) (w : LaneW) (m : Nat)
  /-- VCMP_EQ (R303). -/
  | vcmpEq (md a b : Nat) (ty : CmpT) (m : Nat)
  /-- VCMP_NE (R303). -/
  | vcmpNe (md a b : Nat) (ty : CmpT) (m : Nat)
  /-- VCMP_LT (R303). -/
  | vcmpLt (md a b : Nat) (ty : CmpT) (m : Nat)
  /-- VCMP_LE (R303). -/
  | vcmpLe (md a b : Nat) (ty : CmpT) (m : Nat)
  /-- VCMP_GT (R303). -/
  | vcmpGt (md a b : Nat) (ty : CmpT) (m : Nat)
  /-- VCMP_GE (R303). -/
  | vcmpGe (md a b : Nat) (ty : CmpT) (m : Nat)
  /-- VCMP_UNORD (R303). -/
  | vcmpUnord (md a b : Nat) (ty : FType) (m : Nat)
  /-- VCMP_LTN (R303). -/
  | vcmpLtn (md a b : Nat) (w : LaneW) (m : Nat)
  /-- VCMP_GEN (R303). -/
  | vcmpGen (md a b : Nat) (w : LaneW) (m : Nat)
  /-- VCVT (R284). -/
  | vcvt (d a : Nat) (src dst : Fmt) (rnd : Round) (m : Nat)
  /-- VMATH_EXP (R287). -/
  | vmathExp (d a : Nat) (f32 : Bool) (m : Nat)
  /-- VMATH_EXP2 (R287). -/
  | vmathExp2 (d a : Nat) (f32 : Bool) (m : Nat)
  /-- VMATH_EXP10 (R287). -/
  | vmathExp10 (d a : Nat) (f32 : Bool) (m : Nat)
  /-- VMATH_EXPM1 (R287). -/
  | vmathExpm1 (d a : Nat) (f32 : Bool) (m : Nat)
  /-- VMATH_LOG (R287). -/
  | vmathLog (d a : Nat) (f32 : Bool) (m : Nat)
  /-- VMATH_LOG2 (R287). -/
  | vmathLog2 (d a : Nat) (f32 : Bool) (m : Nat)
  /-- VMATH_LOG10 (R287). -/
  | vmathLog10 (d a : Nat) (f32 : Bool) (m : Nat)
  /-- VMATH_LOG1P (R287). -/
  | vmathLog1p (d a : Nat) (f32 : Bool) (m : Nat)
  /-- VMATH_SIN (R287). -/
  | vmathSin (d a : Nat) (f32 : Bool) (m : Nat)
  /-- VMATH_COS (R287). -/
  | vmathCos (d a : Nat) (f32 : Bool) (m : Nat)
  /-- VMATH_TAN (R287). -/
  | vmathTan (d a : Nat) (f32 : Bool) (m : Nat)
  /-- VMATH_ASIN (R287). -/
  | vmathAsin (d a : Nat) (f32 : Bool) (m : Nat)
  /-- VMATH_ACOS (R287). -/
  | vmathAcos (d a : Nat) (f32 : Bool) (m : Nat)
  /-- VMATH_ATAN (R287). -/
  | vmathAtan (d a : Nat) (f32 : Bool) (m : Nat)
  /-- VMATH_ATAN2 (R287). -/
  | vmathAtan2 (d a b : Nat) (f32 : Bool) (m : Nat)
  /-- VMATH_SINH (R287). -/
  | vmathSinh (d a : Nat) (f32 : Bool) (m : Nat)
  /-- VMATH_COSH (R287). -/
  | vmathCosh (d a : Nat) (f32 : Bool) (m : Nat)
  /-- VMATH_TANH (R287). -/
  | vmathTanh (d a : Nat) (f32 : Bool) (m : Nat)
  /-- VMATH_POW (R287). -/
  | vmathPow (d a b : Nat) (f32 : Bool) (m : Nat)
  /-- VMATH_CBRT (R287). -/
  | vmathCbrt (d a : Nat) (f32 : Bool) (m : Nat)
  /-- VMATH_HYPOT (R287). -/
  | vmathHypot (d a b : Nat) (f32 : Bool) (m : Nat)
  /-- VMATH_ERF (R287). -/
  | vmathErf (d a : Nat) (f32 : Bool) (m : Nat)
  /-- VRED_SUM (R280). -/
  | vredSum (d a : Nat) (ty : FType) (rnd : Round) (m : Nat)
  /-- VRED_SUMX (R281). -/
  | vredSumx (d a : Nat) (ty : FType) (rnd : Round) (m : Nat)
  /-- VRED_MIN (R305). -/
  | vredMin (d a : Nat) (ty : FType) (m : Nat)
  /-- VRED_MAX (R305). -/
  | vredMax (d a : Nat) (ty : FType) (m : Nat)
  /-- VRED_ISUM (R305). -/
  | vredIsum (d a : Nat) (w : LaneW) (m : Nat)
  /-- VRED_AND (R305). -/
  | vredAnd (d a : Nat) (w : LaneW) (m : Nat)
  /-- VRED_OR (R305). -/
  | vredOr (d a : Nat) (w : LaneW) (m : Nat)
  /-- VRED_XOR (R305). -/
  | vredXor (d a : Nat) (w : LaneW) (m : Nat)
  /-- VPERM_BCAST (R307). -/
  | vpermBcast (d a : Nat) (w : LaneW) (c : Nat)
  /-- VPERM_SHUF (R307). -/
  | vpermShuf (d a b : Nat) (w : LaneW)
  /-- VPERM_ROT (R307). -/
  | vpermRot (d a : Nat) (w : LaneW) (c : Nat)
  /-- VPERM_SLIDEUP (R307). -/
  | vpermSlideup (d a : Nat) (w : LaneW) (c : Nat)
  /-- VPERM_SLIDEDN (R307). -/
  | vpermSlidedn (d a : Nat) (w : LaneW) (c : Nat)
  /-- VPERM_ZIPLO (R307). -/
  | vpermZiplo (d a b : Nat) (w : LaneW)
  /-- VPERM_ZIPHI (R307). -/
  | vpermZiphi (d a b : Nat) (w : LaneW)
  /-- VPERM_UNZIPE (R307). -/
  | vpermUnzipe (d a b : Nat) (w : LaneW)
  /-- VPERM_UNZIPO (R307). -/
  | vpermUnzipo (d a b : Nat) (w : LaneW)
  /-- VPERM_INS (R307). -/
  | vpermIns (d a b : Nat) (w : LaneW) (c : Nat)
  /-- VPERM_EXT (R307). -/
  | vpermExt (d a : Nat) (w : LaneW) (c : Nat)
  /-- VPERM_SEL (R307). -/
  | vpermSel (d a b : Nat) (w : LaneW) (m : Nat)
  /-- VLD (R309). -/
  | vld (d a : Nat) (acq : Bool) (off : Int) (mode : Mode) (stride : Option (Nat × LaneW))
  /-- VST (R309). -/
  | vst (d a : Nat) (rel : Bool) (off : Int) (mode : Mode) (form : VstForm)
  /-- VGS_GATHER (R313). -/
  | vgsGather (d a b : Nat) (w : LaneW) (mode : Mode) (m : Nat)
  /-- VGS_SCATTER (R313). -/
  | vgsScatter (d a b : Nat) (w : LaneW) (mode : Mode) (m : Nat)
  /-- VPL_PLANE (R315). -/
  | vplPlane (d a : Nat) (pw : PlaneW)
  /-- VPL_UNPLANE (R315). -/
  | vplUnplane (d a : Nat) (pw : PlaneW)
  /-- MX_CTX (R325). -/
  | mxCtx (busy : Option Nat) (a c e : Nat) (tag : Option Nat)
  /-- MX_MMA (R325). -/
  | mxMma (busy : Option Nat) (a c e : Nat) (tag : Option Nat)
  /-- MX_MMAS (R325). -/
  | mxMmas (busy : Option Nat) (a b c e : Nat) (tag : Option Nat)
  /-- MX_ZERO (R325). -/
  | mxZero (busy : Option Nat) (a c e : Nat) (tag : Option Nat)
  /-- MX_DRAIN (R325). -/
  | mxDrain (busy : Option Nat) (a c e : Nat) (tag : Option Nat)
  /-- MX_LOADC (R325). -/
  | mxLoadc (busy : Option Nat) (a c e : Nat) (tag : Option Nat)
  /-- MX_ORDER (R325). -/
  | mxOrder (busy : Option Nat) (a c e : Nat) (tag : Option Nat)
  /-- SK_MUL (R339). -/
  | skMul (d a b group : Nat)
  /-- SK_LINK (R340). -/
  | skLink (d group : Nat)
  /-- RESET_INPUT (R19). -/
  | resetInput
  /-- BOOT_STAGE (R445). -/
  | bootStage
  /-- ISLAND_BRING_UP (R20). -/
  | islandBringUp
  /-- ISLAND_FREQUENCY_CHANGE (R451). -/
  | islandFrequencyChange
  /-- ARRIVAL (R77). -/
  | arrival
  /-- SEND_ANSWER (R74). -/
  | sendAnswer
  /-- SEND_RETRANSMIT (R74). -/
  | sendRetransmit
  /-- SELECTION (R92). -/
  | selection
  /-- ADMISSION (R78). -/
  | admission
  /-- REMOP_ADMISSION (R80). -/
  | remopAdmission
  /-- STEAL_REQUEST (R95). -/
  | stealRequest
  /-- STEAL_ANSWER (R96). -/
  | stealAnswer
  /-- STEAL_RECEIVE (R96). -/
  | stealReceive
  /-- CHAN_REMOTE (R83). -/
  | chanRemote
  /-- DEALER_SEND_SHEAF (R106). -/
  | dealerSendSheaf
  /-- IMAGE_INSTALL (R103). -/
  | imageInstall
  /-- IMAGE_FETCH (R109). -/
  | imageFetch
  /-- TILLER_ADMISSION (R111). -/
  | tillerAdmission
  /-- JOIN_DECREMENT (R118). -/
  | joinDecrement
  /-- CROWN_RELEASE (R123). -/
  | crownRelease
  /-- BANK_MEETING (R140). -/
  | bankMeeting
  /-- ROSEDATA2_WRITE (R146). -/
  | rosedata2Write
  /-- OUTROSE_SELECT (R147). -/
  | outroseSelect
  /-- OUTROSE_WRITE (R147). -/
  | outroseWrite
  /-- ROSECTL_SWAP_REQUEST (R148). -/
  | rosectlSwapRequest
  /-- ROSE_SWAP (R149). -/
  | roseSwap
  /-- BANKROLE_WRITE (R153). -/
  | bankroleWrite
  /-- BANKROLE_CHANGE (R153). -/
  | bankroleChange
  /-- SLICE_PASS_COMPLETE (R232). -/
  | slicePassComplete
  /-- IDOM_WRITE (R399). -/
  | idomWrite
  /-- DOMAIN_PASS_COMPLETE (R231). -/
  | domainPassComplete
  /-- CNT_WRITE (R90). -/
  | cntWrite
  /-- TWINCTL_WRITE (R412). -/
  | twinctlWrite
  /-- MXSTAT_CLEAR (R178). -/
  | mxstatClear
  /-- LINE_FILL (R159). -/
  | lineFill
  /-- PAGE_WALK (R201). -/
  | pageWalk
  /-- TLBINV_REMOTE (R186). -/
  | tlbinvRemote
  /-- HOME_SLICE_ACCESS (R225). -/
  | homeSliceAccess
  /-- REHOME_REPLAY (R230). -/
  | rehomeReplay
  /-- TIER_FILL (R237). -/
  | tierFill
  /-- TIER_WRITE_ACK (R235). -/
  | tierWriteAck
  /-- COPY_INVALIDATION (R233). -/
  | copyInvalidation
  /-- MIGRANT_ARRIVAL (R220). -/
  | migrantArrival
  /-- MIGRANT_QUEUE_ADMIT (R220). -/
  | migrantQueueAdmit
  /-- MIGRATION_RETRY (R220). -/
  | migrationRetry
  /-- RING_WAIT_REREAD (R217). -/
  | ringWaitReread
  /-- COPY (R248). -/
  | copy
  /-- COPY2D (R248). -/
  | copy2d
  /-- FILL (R248). -/
  | fill
  /-- MCREAD (R259). -/
  | mcread
  /-- WBR (R258). -/
  | wbr
  /-- INVR (R258). -/
  | invr
  /-- SQZ (R264). -/
  | sqz
  /-- XPND (R265). -/
  | xpnd
  /-- TAGFREE_SET (R254). -/
  | tagfreeSet
  /-- TAGDONE_SET (R254). -/
  | tagdoneSet
  /-- MCREAD_LINE_REQUEST (R260). -/
  | mcreadLineRequest
  /-- MULTICAST_SECTOR_SEND (R396). -/
  | multicastSectorSend
  /-- MULTICAST_BLOCK_WRITE (R396). -/
  | multicastBlockWrite
  /-- MATRIX_ACCEPT (R326). -/
  | matrixAccept
  /-- MATRIX_GRANT (R327). -/
  | matrixGrant
  /-- CTX (R331). -/
  | ctx
  /-- MMA (R332). -/
  | mma
  /-- MMAS (R332). -/
  | mmas
  /-- ZERO (R331). -/
  | zero
  /-- DRAIN (R331). -/
  | drain
  /-- LOADC (R331). -/
  | loadc
  /-- ORDER (R331). -/
  | order
  /-- MATRIX_COMPLETE (R328). -/
  | matrixComplete
  /-- LINK_VALUE_DELIVERY (R337). -/
  | linkValueDelivery
  /-- BARRIER_ARRIVAL (R346). -/
  | barrierArrival
  /-- BARRIER_INIT (R346). -/
  | barrierInit
  /-- PHASE_NOTICE (R343). -/
  | phaseNotice
  /-- MONITOR_REGISTRATION (R354). -/
  | monitorRegistration
  /-- WATCHDOG_EXPIRY (R361). -/
  | watchdogExpiry
  /-- REPORT_RETRY (R411). -/
  | reportRetry
  /-- TWIN_COMPARE (R413). -/
  | twinCompare
  /-- PREEMPT (R415). -/
  | preempt
  /-- PREEMPT_DRAINING (R415). -/
  | preemptDraining
  /-- PREEMPT_SAVING (R415). -/
  | preemptSaving
  /-- PREEMPT_SAVED (R415). -/
  | preemptSaved
  /-- RESUME (R415). -/
  | resume
  /-- RESTORE_COMPLETE (R417). -/
  | restoreComplete
  /-- RESUME_RUNNING (R415). -/
  | resumeRunning
  /-- SPILL_RETRY (R417). -/
  | spillRetry
  /-- PACKET_DELIVERY (R426). -/
  | packetDelivery
  /-- PACKET_ACK (R426). -/
  | packetAck
  /-- LINK_RETRY (R427). -/
  | linkRetry
  /-- LINK_DEAD (R427). -/
  | linkDead
  /-- CHART_INSTALL (R429). -/
  | chartInstall
  /-- EDITION_TURN (R429). -/
  | editionTurn
  /-- ETHERNET_FRAME_RX (R433). -/
  | ethernetFrameRx
  /-- SYSTEM_EDITION_TURN (R436). -/
  | systemEditionTurn
  /-- MX_RETRY (R325). -/
  | mxRetry
  /-- FW_MATRIX_CHECK_CODE (R450). -/
  | fwMatrixCheckCode
  /-- FW_PREEMPT_CORE (R450). -/
  | fwPreemptCore
  /-- FW_RESUME_CORE (R450). -/
  | fwResumeCore
  /-- FW_ISLAND_FREQUENCY (R450). -/
  | fwIslandFrequency
  /-- FW_RETIRE_BANK (R450). -/
  | fwRetireBank
  /-- FW_WRITE_GROUP (R450). -/
  | fwWriteGroup
  /-- FW_CHECKPOINT (R443). -/
  | fwCheckpoint
  /-- FW_RESTORE (R444). -/
  | fwRestore
  /-- FW_ATTESTATION_QUOTE (R447). -/
  | fwAttestationQuote
  /-- FW_TENANT_RESET (R450). -/
  | fwTenantReset
  /-- ILLEGAL_ENCODING (R43). -/
  | illegalEncoding
  /-- REFUSED_REQUEST_KIND (R247). -/
  | refusedRequestKind
  /-- MX_ANSWER (R325). -/
  | mxAnswer
  /-- STACK_COPY_FILL (R382). -/
  | stackCopyFill
  /-- NETWORK_PORT_ACCESS (R202). -/
  | networkPortAccess
  /-- HEADER_ROUTING (R425). -/
  | headerRouting
  /-- PORT_FAILURE (R436). -/
  | portFailure
  /-- POWER_LIMIT_THROTTLE (R451). -/
  | powerLimitThrottle
  /-- ISLAND_POWER_DOWN (R451). -/
  | islandPowerDown
  /-- KEEPER_CHANGE (R336). -/
  | keeperChange
  /-- TENANT_ASSIGNMENT (R449). -/
  | tenantAssignment
deriving DecidableEq, Repr

end Sys2Proof
end

