-- ==== Sys2Proof/WellFormed.lean ====
section
/-!
DEFINITION. The well-formed instructions: the ranges of the operand fields and the stated limits of 02_lines R34 to
R44. An event has no encoding and every event is well formed.
-/
namespace Sys2Proof

/-- A register field names g0 to g127 (R32). -/
def reg (r : Nat) : Bool := decide (r < 128)
/-- An unsigned field below its bound. -/
def below (k n : Nat) : Bool := decide (k < n)
/-- A signed field of n bits (R1). -/
def fits (k : Int) (n : Nat) : Bool := decide (-(2 : Int) ^ (n - 1) ≤ k ∧ k < (2 : Int) ^ (n - 1))
/-- A run of count registers from r must not pass g127 (R38, R39). -/
def run (r count : Nat) : Bool := decide (r + count ≤ 128)
/-- A branch target: a signed 20-bit line delta and a head index 1 to 31 (R29). -/
def targetOk (delta : Int) (index : Nat) : Bool := fits delta 20 && decide (1 ≤ index) && below index 32
/-- Position plus length must not exceed 64 (R37). -/
def bitField (pos len : Nat) : Bool := decide (1 ≤ len) && decide (pos + len ≤ 64)
/-- A busy register, when q = 1 (R34). -/
def busyOk (o : Option Nat) : Bool := match o with
  | none => true
  | some d => reg d
/-- A counter number, when f[2] = 1 (R38). -/
def parkOk (o : Option Nat) : Bool := match o with
  | none => true
  | some n => below n 16
/-- A tag, when f[9] = 1 (R42). -/
def tagOk (o : Option Nat) : Bool := match o with
  | none => true
  | some n => below n 64
/-- The base of LD and ST: a register, or a handle h0 to h15 in mode RING (R39). -/
def baseOk (m : Mode) (a : Nat) : Bool := match m with
  | .ring => below a 16
  | _ => reg a
/-- The stride register of VLD (R39). -/
def strideOk (o : Option (Nat × LaneW)) : Bool := match o with
  | none => true
  | some (b, _) => reg b
/-- The mask or the stride register of VST (R39). -/
def VstForm.ok (f : VstForm) : Bool := match f with
  | .block m => below m 8
  | .strided b _ => reg b
/-- The number named in field c of BAR (R40). -/
def BarSel.field (b : BarSel) : Nat := match b with
  | .imm n => n
  | .reg r => r
/-- The lanes of a width: 512 / width (R290). -/
def LaneW.lanes (w : LaneW) : Nat := match w with
  | .w64 => 8
  | .w32 => 16
  | .w16 => 32
  | .w8 => 64
/-- For W16, d and a name register pairs and must be even (R41). -/
def pairOk (pw : PlaneW) (d a : Nat) : Bool := match pw with
  | .w16 => decide (d % 2 = 0) && decide (a % 2 = 0)
  | _ => true

/-- The CSR numbers of the two tables (07_issue R178, R180). -/
def csrDefined (n : Nat) : Bool :=
  decide (n ≤ 0x00E) || (decide (0x010 ≤ n) && decide (n ≤ 0x01C)) || (decide (0x020 ≤ n) && decide (n ≤ 0x02F)) ||
  (decide (0x100 ≤ n) && decide (n ≤ 0x106)) || (decide (0x108 ≤ n) && decide (n ≤ 0x11A)) ||
  (decide (0x140 ≤ n) && decide (n ≤ 0x17F))

/-- The instruction's operand fields lie in their ranges and break no stated limit (R44). -/
def Instr.wf (i : Instr) : Bool :=
  match i with
  | .brEqz a delta index
  | .brNez a delta index
  | .brLtz a delta index
  | .brGez a delta index
  | .brGtz a delta index
  | .brLez a delta index => reg a && targetOk delta index
  | .jmp d delta index => reg d && targetOk delta index
  | .jr d a
  | .aluClz d a
  | .aluCtz d a
  | .aluPopc d a
  | .aluBrev d a
  | .aluBswap d a
  | .chanQuery d a
  | .joinWait d a
  | .joinTest d a
  | .memopLtag d a => reg d && reg a
  | .csrRead d csr => reg d && csrDefined csr
  | .csrWrite d a csr
  | .csrSet d a csr
  | .csrClear d a csr => reg d && reg a && csrDefined csr
  | .sysTrap code
  | .sysSvc code => reg code
  | .sysIdle
  | .sysqNop
  | .sysqExit
  | .sysqEret
  | .monDisarm => true
  | .sysTlbinv a _ => reg a
  | .sysSavectx a b
  | .sysLoadctx a b
  | .chanTtset a b
  | .memopStag a b
  | .memopPin a b
  | .memopUnpin a b => reg a && reg b
  | .sysScrub a
  | .chanBlock a
  | .chanUnblock a
  | .migrGoto a
  | .monArm a
  | .memopWbl a
  | .memopPf a => reg a
  | .aluAdd d a b
  | .aluSub d a b
  | .aluAnd d a b
  | .aluOr d a b
  | .aluXor d a b
  | .aluAndn d a b
  | .aluShl d a b
  | .aluShr d a b
  | .aluSar d a b
  | .aluRol d a b
  | .aluMin d a b
  | .aluMax d a b
  | .aluMinn d a b
  | .aluMaxn d a b
  | .aluMul d a b
  | .aluMulh d a b
  | .aluMulhn d a b
  | .aluDiv d a b
  | .aluDivn d a b
  | .aluRem d a b
  | .aluRemn d a b
  | .aluAddw d a b
  | .aluSubw d a b
  | .aluMulw d a b
  | .aluqAdd d a b
  | .aluqSub d a b
  | .aluqAnd d a b
  | .aluqOr d a b
  | .cmpEq d a b
  | .cmpNe d a b
  | .cmpLt d a b
  | .cmpGe d a b
  | .cmpLtn d a b
  | .cmpGen d a b
  | .freeze d a b => reg d && reg a && reg b
  | .aluSel d a b c => reg d && reg a && reg b && reg c
  | .addi d a k => reg d && reg a && fits k 25
  | .liS32 d k
  | .liZ32 d k => reg d && below k 4294967296
  | .liHi d a k
  | .logiAnd d a k
  | .logiOr d a k
  | .logiXor d a k => reg d && reg a && below k 4294967296
  | .logiSh d a _ n => reg d && reg a && below n 64
  | .bitExt d a pos len _ => reg d && reg a && bitField pos len
  | .bitIns d a b pos len => reg d && reg a && reg b && bitField pos len
  | .agen d a b disp sh => reg d && reg a && reg b && fits disp 7 && below sh 8
  | .sendTask busy a b count
  | .sendRemop busy a b count => busyOk busy && reg a && reg b && decide (1 ≤ count) && decide (count ≤ 8) && run b count
  | .spawn busy a b c pri park lim => busyOk busy && reg a && reg b && reg c && below pri 4 && parkOk park && below lim 16
  | .migrHome d
  | .monWait d => reg d
  | .ld d a b _ _ mode off => reg d && baseOk mode a && reg b && fits off 24
  | .st d a b _ _ mode off => reg d && baseOk mode a && reg b && fits off 24
  | .ldLast d h b _ _ off => reg d && below h 16 && reg b && fits off 24
  | .ldm d a count mode off
  | .stm d a count mode off => reg d && reg a && decide (1 ≤ count) && decide (count ≤ 64) && run d count && decide (mode ≠ .ring) && fits off 8
  | .sld d a _ _ off count => reg d && reg a && decide (1 ≤ count) && decide (count ≤ 32) && run d count && fits off 24
  | .sst d a _ _ off count => reg d && reg a && decide (1 ≤ count) && decide (count ≤ 32) && run d count && fits off 24
  | .amoAdd d a b _ _ _ _
  | .amoAnd d a b _ _ _ _
  | .amoOr d a b _ _ _ _
  | .amoXor d a b _ _ _ _
  | .amoMin d a b _ _ _ _
  | .amoMax d a b _ _ _ _
  | .amoMinn d a b _ _ _ _
  | .amoMaxn d a b _ _ _ _
  | .amoSwap d a b _ _ _ _ => reg d && reg a && reg b
  | .amoCas d a b c _ _ _ _ => reg d && reg a && reg b && reg c
  | .amoFadd32 d a b _ _ _
  | .amoFadd64 d a b _ _ _ => reg d && reg a && reg b
  | .ringInit a b h => reg a && reg b && below h 16
  | .ringWfill h n
  | .ringWfree h n
  | .ringAcons h n
  | .ringAprod h n => below h 16 && decide (1 ≤ n) && below n 256
  | .ringStat d h => reg d && below h 16
  | .waittAny _ d a
  | .waittFfr _ d a
  | .waittTest _ d a => reg d && reg a
  | .waittAll _ a
  | .waittClr _ a => reg a
  | .cpq busy a b c e => busyOk busy && reg a && reg b && reg c && reg e
  | .barInit a bar group => reg a && reg bar.field && below group 256
  | .barArrive bar group
  | .barWait bar group
  | .barSync bar group => reg bar.field && below group 256
  | .fenceFull _
  | .fenceRelease _
  | .fenceAcquire _
  | .fenceXpath _ => true
  | .vfAdd d a b _ _ m
  | .vfSub d a b _ _ m
  | .vfMul d a b _ _ m
  | .vfDiv d a b _ _ m => reg d && reg a && reg b && below m 8
  | .vfMin d a b _ m
  | .vfMax d a b _ m
  | .vfCopysign d a b _ m
  | .vfMinnum d a b _ m
  | .vfMaxnum d a b _ m => reg d && reg a && reg b && below m 8
  | .vfAbs d a _ m
  | .vfNeg d a _ m
  | .vredMin d a _ m
  | .vredMax d a _ m => reg d && reg a && below m 8
  | .vfSqrt d a _ _ m
  | .vfRsqrt d a _ _ m
  | .vredSum d a _ _ m
  | .vredSumx d a _ _ m => reg d && reg a && below m 8
  | .vfmaFma d a b c _ _ m
  | .vfmaFms d a b c _ _ m
  | .vfmaFnma d a b c _ _ m
  | .vfmaFnms d a b c _ _ m => reg d && reg a && reg b && reg c && below m 8
  | .viAdd d a b _ m
  | .viSub d a b _ m
  | .viMul d a b _ m
  | .viMulh d a b _ m
  | .viMulhn d a b _ m
  | .viAnd d a b _ m
  | .viOr d a b _ m
  | .viXor d a b _ m
  | .viAndn d a b _ m
  | .viShl d a b _ m
  | .viShr d a b _ m
  | .viSar d a b _ m
  | .viMin d a b _ m
  | .viMax d a b _ m
  | .viMinn d a b _ m
  | .viMaxn d a b _ m
  | .viAddsat d a b _ m
  | .viSubsat d a b _ m
  | .viAddsatn d a b _ m
  | .viSubsatn d a b _ m
  | .vpermSel d a b _ m => reg d && reg a && reg b && below m 8
  | .viAbs d a _ m
  | .vredIsum d a _ m
  | .vredAnd d a _ m
  | .vredOr d a _ m
  | .vredXor d a _ m => reg d && reg a && below m 8
  | .vcmpEq md a b _ m
  | .vcmpNe md a b _ m
  | .vcmpLt md a b _ m
  | .vcmpLe md a b _ m
  | .vcmpGt md a b _ m
  | .vcmpGe md a b _ m
  | .vcmpUnord md a b _ m => decide (1 ≤ md) && below md 8 && reg a && reg b && below m 8
  | .vcmpLtn md a b _ m
  | .vcmpGen md a b _ m => decide (1 ≤ md) && below md 8 && reg a && reg b && below m 8
  | .vcvt d a _ _ _ m => reg d && reg a && below m 8
  | .vmathExp d a _ m
  | .vmathExp2 d a _ m
  | .vmathExp10 d a _ m
  | .vmathExpm1 d a _ m
  | .vmathLog d a _ m
  | .vmathLog2 d a _ m
  | .vmathLog10 d a _ m
  | .vmathLog1p d a _ m
  | .vmathSin d a _ m
  | .vmathCos d a _ m
  | .vmathTan d a _ m
  | .vmathAsin d a _ m
  | .vmathAcos d a _ m
  | .vmathAtan d a _ m
  | .vmathSinh d a _ m
  | .vmathCosh d a _ m
  | .vmathTanh d a _ m
  | .vmathCbrt d a _ m
  | .vmathErf d a _ m => reg d && reg a && below m 8
  | .vmathAtan2 d a b _ m
  | .vmathPow d a b _ m
  | .vmathHypot d a b _ m => reg d && reg a && reg b && below m 8
  | .vpermBcast d a w c
  | .vpermRot d a w c
  | .vpermSlideup d a w c
  | .vpermSlidedn d a w c
  | .vpermExt d a w c => reg d && reg a && below c w.lanes
  | .vpermShuf d a b _
  | .vpermZiplo d a b _
  | .vpermZiphi d a b _
  | .vpermUnzipe d a b _
  | .vpermUnzipo d a b _ => reg d && reg a && reg b
  | .vpermIns d a b w c => reg d && reg a && reg b && below c w.lanes
  | .vld d a _ off _ stride => reg d && reg a && fits off 24 && strideOk stride
  | .vst d a _ off _ form => reg d && reg a && fits off 24 && form.ok
  | .vgsGather d a b _ mode m
  | .vgsScatter d a b _ mode m => reg d && reg a && reg b && decide (mode ≠ .ring) && below m 8
  | .vplPlane d a pw
  | .vplUnplane d a pw => reg d && reg a && pairOk pw d a
  | .mxCtx busy a c e tag
  | .mxMma busy a c e tag
  | .mxZero busy a c e tag
  | .mxDrain busy a c e tag
  | .mxLoadc busy a c e tag
  | .mxOrder busy a c e tag => busyOk busy && reg a && reg c && reg e && tagOk tag
  | .mxMmas busy a b c e tag => busyOk busy && reg a && reg b && reg c && reg e && tagOk tag
  | .skMul d a b group => reg d && reg a && reg b && below group 256
  | .skLink d group => reg d && below group 256
  | .resetInput
  | .bootStage
  | .islandBringUp
  | .islandFrequencyChange
  | .arrival
  | .sendAnswer
  | .sendRetransmit
  | .selection
  | .admission
  | .remopAdmission
  | .stealRequest
  | .stealAnswer
  | .stealReceive
  | .chanRemote
  | .dealerSendSheaf
  | .imageInstall
  | .imageFetch
  | .tillerAdmission
  | .joinDecrement
  | .crownRelease
  | .bankMeeting
  | .rosedata2Write
  | .outroseSelect
  | .outroseWrite
  | .rosectlSwapRequest
  | .roseSwap
  | .bankroleWrite
  | .bankroleChange
  | .slicePassComplete
  | .idomWrite
  | .domainPassComplete
  | .cntWrite
  | .twinctlWrite
  | .mxstatClear
  | .lineFill
  | .pageWalk
  | .tlbinvRemote
  | .homeSliceAccess
  | .rehomeReplay
  | .tierFill
  | .tierWriteAck
  | .copyInvalidation
  | .migrantArrival
  | .migrantQueueAdmit
  | .migrationRetry
  | .ringWaitReread
  | .copy
  | .copy2d
  | .fill
  | .mcread
  | .wbr
  | .invr
  | .sqz
  | .xpnd
  | .tagfreeSet
  | .tagdoneSet
  | .mcreadLineRequest
  | .multicastSectorSend
  | .multicastBlockWrite
  | .matrixAccept
  | .matrixGrant
  | .ctx
  | .mma
  | .mmas
  | .zero
  | .drain
  | .loadc
  | .order
  | .matrixComplete
  | .linkValueDelivery
  | .barrierArrival
  | .barrierInit
  | .phaseNotice
  | .monitorRegistration
  | .watchdogExpiry
  | .reportRetry
  | .twinCompare
  | .preempt
  | .preemptDraining
  | .preemptSaving
  | .preemptSaved
  | .resume
  | .restoreComplete
  | .resumeRunning
  | .spillRetry
  | .packetDelivery
  | .packetAck
  | .linkRetry
  | .linkDead
  | .chartInstall
  | .editionTurn
  | .ethernetFrameRx
  | .systemEditionTurn
  | .mxRetry
  | .fwMatrixCheckCode
  | .fwPreemptCore
  | .fwResumeCore
  | .fwIslandFrequency
  | .fwRetireBank
  | .fwWriteGroup
  | .fwCheckpoint
  | .fwRestore
  | .fwAttestationQuote
  | .fwTenantReset
  | .illegalEncoding
  | .refusedRequestKind
  | .mxAnswer
  | .stackCopyFill
  | .networkPortAccess
  | .headerRouting
  | .portFailure
  | .powerLimitThrottle
  | .islandPowerDown
  | .keeperChange
  | .tenantAssignment => true

/-- The constructor is an instruction with an encoding, and no event. -/
def Instr.isOp (i : Instr) : Bool :=
  match i with
  | .resetInput
  | .bootStage
  | .islandBringUp
  | .islandFrequencyChange
  | .arrival
  | .sendAnswer
  | .sendRetransmit
  | .selection
  | .admission
  | .remopAdmission
  | .stealRequest
  | .stealAnswer
  | .stealReceive
  | .chanRemote
  | .dealerSendSheaf
  | .imageInstall
  | .imageFetch
  | .tillerAdmission
  | .joinDecrement
  | .crownRelease
  | .bankMeeting
  | .rosedata2Write
  | .outroseSelect
  | .outroseWrite
  | .rosectlSwapRequest
  | .roseSwap
  | .bankroleWrite
  | .bankroleChange
  | .slicePassComplete
  | .idomWrite
  | .domainPassComplete
  | .cntWrite
  | .twinctlWrite
  | .mxstatClear
  | .lineFill
  | .pageWalk
  | .tlbinvRemote
  | .homeSliceAccess
  | .rehomeReplay
  | .tierFill
  | .tierWriteAck
  | .copyInvalidation
  | .migrantArrival
  | .migrantQueueAdmit
  | .migrationRetry
  | .ringWaitReread
  | .copy
  | .copy2d
  | .fill
  | .mcread
  | .wbr
  | .invr
  | .sqz
  | .xpnd
  | .tagfreeSet
  | .tagdoneSet
  | .mcreadLineRequest
  | .multicastSectorSend
  | .multicastBlockWrite
  | .matrixAccept
  | .matrixGrant
  | .ctx
  | .mma
  | .mmas
  | .zero
  | .drain
  | .loadc
  | .order
  | .matrixComplete
  | .linkValueDelivery
  | .barrierArrival
  | .barrierInit
  | .phaseNotice
  | .monitorRegistration
  | .watchdogExpiry
  | .reportRetry
  | .twinCompare
  | .preempt
  | .preemptDraining
  | .preemptSaving
  | .preemptSaved
  | .resume
  | .restoreComplete
  | .resumeRunning
  | .spillRetry
  | .packetDelivery
  | .packetAck
  | .linkRetry
  | .linkDead
  | .chartInstall
  | .editionTurn
  | .ethernetFrameRx
  | .systemEditionTurn
  | .mxRetry
  | .fwMatrixCheckCode
  | .fwPreemptCore
  | .fwResumeCore
  | .fwIslandFrequency
  | .fwRetireBank
  | .fwWriteGroup
  | .fwCheckpoint
  | .fwRestore
  | .fwAttestationQuote
  | .fwTenantReset
  | .illegalEncoding
  | .refusedRequestKind
  | .mxAnswer
  | .stackCopyFill
  | .networkPortAccess
  | .headerRouting
  | .portFailure
  | .powerLimitThrottle
  | .islandPowerDown
  | .keeperChange
  | .tenantAssignment => false
  | _ => true

end Sys2Proof
end

