-- ==== Sys2Proof/Decode.lean ====
section
/-!
DEFINITION. The decoder of heads, tails and lines (02_lines R21 to R44), total on any words, and the encoder written
from the same tables.
-/
namespace Sys2Proof

/-- k[7:5] of LD and ST (R39). -/
def Width.code (x : Width) : Nat := match x with
  | .b8s => 0
  | .b8z => 1
  | .b16s => 2
  | .b16z => 3
  | .b32s => 4
  | .b32z => 5
  | .b64 => 6
  | .b512 => 7
/-- The value of a code of Width; none for a reserved code. -/
def Width.ofCode (n : Nat) : Option Width := match n with
  | 0 => some .b8s
  | 1 => some .b8z
  | 2 => some .b16s
  | 3 => some .b16z
  | 4 => some .b32s
  | 5 => some .b32z
  | 6 => some .b64
  | 7 => some .b512
  | _ => none

/-- Mode codes (R39, R192). -/
def Mode.code (x : Mode) : Nat := match x with
  | .global => 0
  | .loc => 1
  | .bank => 2
  | .spread => 3
  | .tob => 4
  | .ring => 5
/-- The value of a code of Mode; none for a reserved code. -/
def Mode.ofCode (n : Nat) : Option Mode := match n with
  | 0 => some .global
  | 1 => some .loc
  | 2 => some .bank
  | 3 => some .spread
  | 4 => some .tob
  | 5 => some .ring
  | _ => none

/-- Space codes of SLD and SST (R39). -/
def Space.code (x : Space) : Nat := match x with
  | .spread => 0
  | .tob => 1
  | .bank => 2
/-- The value of a code of Space; none for a reserved code. -/
def Space.ofCode (n : Nat) : Option Space := match n with
  | 0 => some .spread
  | 1 => some .tob
  | 2 => some .bank
  | _ => none

/-- Scope codes (R54). -/
def Scope.code (x : Scope) : Nat := match x with
  | .core => 0
  | .column => 1
  | .cluster => 2
  | .stack => 3
  | .device => 4
  | .system => 5
/-- The value of a code of Scope; none for a reserved code. -/
def Scope.ofCode (n : Nat) : Option Scope := match n with
  | 0 => some .core
  | 1 => some .column
  | 2 => some .cluster
  | 3 => some .stack
  | 4 => some .device
  | 5 => some .system
  | _ => none

/-- Order codes of AMO (R40). -/
def Order.code (x : Order) : Nat := match x with
  | .relaxed => 0
  | .acq => 1
  | .rel => 2
  | .acqrel => 3
/-- The value of a code of Order; none for a reserved code. -/
def Order.ofCode (n : Nat) : Option Order := match n with
  | 0 => some .relaxed
  | 1 => some .acq
  | 2 => some .rel
  | 3 => some .acqrel
  | _ => none

/-- Floating type codes (R41). -/
def FType.code (x : FType) : Nat := match x with
  | .f64 => 0
  | .f32 => 1
  | .bf16 => 2
  | .f16 => 3
/-- The value of a code of FType; none for a reserved code. -/
def FType.ofCode (n : Nat) : Option FType := match n with
  | 0 => some .f64
  | 1 => some .f32
  | 2 => some .bf16
  | 3 => some .f16
  | _ => none

/-- Lane width codes (R41). -/
def LaneW.code (x : LaneW) : Nat := match x with
  | .w64 => 0
  | .w32 => 1
  | .w16 => 2
  | .w8 => 3
/-- The value of a code of LaneW; none for a reserved code. -/
def LaneW.ofCode (n : Nat) : Option LaneW := match n with
  | 0 => some .w64
  | 1 => some .w32
  | 2 => some .w16
  | 3 => some .w8
  | _ => none

/-- Rounding codes (R274). -/
def Round.code (x : Round) : Nat := match x with
  | .rne => 0
  | .rtz => 1
  | .rup => 2
  | .rdn => 3
  | .rmm => 4
/-- The value of a code of Round; none for a reserved code. -/
def Round.ofCode (n : Nat) : Option Round := match n with
  | 0 => some .rne
  | 1 => some .rtz
  | 2 => some .rup
  | 3 => some .rdn
  | 4 => some .rmm
  | _ => none

/-- Format codes (R268). -/
def Fmt.code (x : Fmt) : Nat := match x with
  | .f64 => 0
  | .f32 => 1
  | .bf16 => 2
  | .f16 => 3
  | .e4m3 => 4
  | .e5m2 => 5
  | .log6 => 6
  | .i64 => 7
  | .i32 => 8
  | .i16 => 9
  | .i8 => 10
  | .n32 => 11
  | .n16 => 12
  | .n8 => 13
  | .i4 => 14
/-- The value of a code of Fmt; none for a reserved code. -/
def Fmt.ofCode (n : Nat) : Option Fmt := match n with
  | 0 => some .f64
  | 1 => some .f32
  | 2 => some .bf16
  | 3 => some .f16
  | 4 => some .e4m3
  | 5 => some .e5m2
  | 6 => some .log6
  | 7 => some .i64
  | 8 => some .i32
  | 9 => some .i16
  | 10 => some .i8
  | 11 => some .n32
  | 12 => some .n16
  | 13 => some .n8
  | 14 => some .i4
  | _ => none

/-- Plane width codes (R41). -/
def PlaneW.code (x : PlaneW) : Nat := match x with
  | .w4 => 0
  | .w8 => 1
  | .w16 => 2
  | .w6 => 3
/-- The value of a code of PlaneW; none for a reserved code. -/
def PlaneW.ofCode (n : Nat) : Option PlaneW := match n with
  | 0 => some .w4
  | 1 => some .w8
  | 2 => some .w16
  | 3 => some .w6
  | _ => none

/-- Shift kinds of LOGI.SH (R37). -/
def ShKind.code (x : ShKind) : Nat := match x with
  | .shl => 0
  | .shr => 1
  | .sar => 2
  | .rol => 3
/-- The value of a code of ShKind; none for a reserved code. -/
def ShKind.ofCode (n : Nat) : Option ShKind := match n with
  | 0 => some .shl
  | 1 => some .shr
  | 2 => some .sar
  | 3 => some .rol
  | _ => none


/-- Bits lo to lo + n - 1 of a word read as a number (R1). -/
def fld (w lo n : Nat) : Nat := w / 2 ^ lo % 2 ^ n
/-- A field of n bits read as signed (R1). -/
def sfld (w lo n : Nat) : Int :=
  if fld w lo n < 2 ^ (n - 1) then (fld w lo n : Int) else (fld w lo n : Int) - 2 ^ n
/-- The n-bit field that holds a signed number (R1). -/
def signed (k : Int) (n : Nat) : Nat := (k % (2 : Int) ^ n).toNat

/-- The k field of a branch target (R29). -/
def target (delta : Int) (index : Nat) : Nat := signed delta 20 * 32 + index
/-- The d field of a busy code (R34). -/
def busyD (o : Option Nat) : Nat := o.getD 0
/-- The q bit of a busy code (R34). -/
def busyQ (o : Option Nat) : Nat := match o with
  | none => 0
  | some _ => 1
/-- f[6:2] of SPAWN (R38). -/
def parkBits (o : Option Nat) : Nat := match o with
  | none => 0
  | some n => 4 + n * 8
/-- f[15:9] of MX (R42). -/
def tagBits (o : Option Nat) : Nat := match o with
  | none => 0
  | some n => 512 + n * 1024
/-- f[10] of BAR (R40). -/
def BarSel.bit (b : BarSel) : Nat := match b with
  | .imm _ => 0
  | .reg _ => 1
/-- f[6:4] of VCMP less the relation: f[6] integer, f[5:4] type or width (R41). -/
def CmpT.code (t : CmpT) : Nat := match t with
  | .flt ty => ty.code
  | .int w => 4 + w.code
/-- Field b of VLD: the stride register (R39). -/
def strideB (o : Option (Nat × LaneW)) : Nat := match o with
  | none => 0
  | some (b, _) => b
/-- k[7:6] and k[2] of VLD (R39). -/
def strideBits (o : Option (Nat × LaneW)) : Nat := match o with
  | none => 0
  | some (_, w) => w.code * 64 + 4
/-- Field b of VST (R39). -/
def VstForm.field (f : VstForm) : Nat := match f with
  | .block m => m
  | .strided b _ => b
/-- k[7:6] and k[2] of VST (R39). -/
def VstForm.bits (f : VstForm) : Nat := match f with
  | .block _ => 0
  | .strided _ w => w.code * 64 + 4

/-- A head: M[15:10] T[9:8] d[7:1] q[0] (R23). -/
def head (m t d q : Nat) : Nat := m * 1024 + t * 256 + d * 2 + q

/-- The decoder's view of one instruction: major, tail code, d, q and the assembled tail (R23, R25). -/
structure Parts where
  m : Nat
  t : Nat
  d : Nat
  q : Nat
  tail : Nat
deriving DecidableEq, Repr

/-- The fields of a head and its tail. -/
def partsOf (h tail : Nat) : Parts := { m := fld h 10 6, t := fld h 8 2, d := fld h 1 7, q := fld h 0 1, tail := tail }

/-- Answer i when the condition holds, else none: the words are illegal (R44). -/
def need (c : Bool) (i : Option Instr) : Option Instr := match c with
  | true => i
  | false => none

/-- Fields of the P form: a[15:9] b[8:2] f[1:0] (R31). -/
def pA (t : Nat) : Nat := fld t 9 7
/-- Field b of the P form. -/
def pB (t : Nat) : Nat := fld t 2 7
/-- Field f of the P form. -/
def pF (t : Nat) : Nat := fld t 0 2
/-- Fields of the W form: a[31:25] b[24:18] c[17:11] f[10:0] (R31); field a of the I form too. -/
def wA (t : Nat) : Nat := fld t 25 7
/-- Field b of the W form. -/
def wB (t : Nat) : Nat := fld t 18 7
/-- Field c of the W form. -/
def wC (t : Nat) : Nat := fld t 11 7
/-- Field f of the W form. -/
def wF (t : Nat) : Nat := fld t 0 11
/-- Field a of the L and M forms: [47:41] (R31). -/
def lA (t : Nat) : Nat := fld t 41 7
/-- Field b of the L and M forms: [40:34]. -/
def lB (t : Nat) : Nat := fld t 34 7
/-- Field f of the L form: [33:32]. -/
def lF (t : Nat) : Nat := fld t 32 2
/-- Field c of the M form: [33:27]. -/
def mC (t : Nat) : Nat := fld t 27 7
/-- Field e of the M form: [26:20]. -/
def mE (t : Nat) : Nat := fld t 20 7
/-- Field f of the M form: [19:0]. -/
def mF (t : Nat) : Nat := fld t 0 20

/-- Zero fields (R35). -/
def z (l : List Nat) : Bool := l.all (· == 0)

/-- A busy code register: d when q = 1; d must be zero when q = 0 (R34). -/
def withBusy (q d : Nat) (k : Option Nat → Option Instr) : Option Instr :=
  match q with
  | 0 => need (d == 0) (k none)
  | _ => k (some d)

/-- BR: d is the condition (R36). -/
def decBr (d q t : Nat) : Option Instr :=
  need (q == 0 && targetOk (sfld t 5 20) (fld t 0 5)) (
    match d with
    | 0 => some (.brEqz (wA t) (sfld t 5 20) (fld t 0 5))
    | 1 => some (.brNez (wA t) (sfld t 5 20) (fld t 0 5))
    | 2 => some (.brLtz (wA t) (sfld t 5 20) (fld t 0 5))
    | 3 => some (.brGez (wA t) (sfld t 5 20) (fld t 0 5))
    | 4 => some (.brGtz (wA t) (sfld t 5 20) (fld t 0 5))
    | 5 => some (.brLez (wA t) (sfld t 5 20) (fld t 0 5))
    | _ => none)

/-- JMP (R36). -/
def decJmp (d q t : Nat) : Option Instr :=
  need (z [q, wA t] && targetOk (sfld t 5 20) (fld t 0 5)) (some (.jmp d (sfld t 5 20) (fld t 0 5)))

/-- JR (R36). -/
def decJr (d q t : Nat) : Option Instr :=
  need (z [q, pB t, pF t]) (some (.jr d (pA t)))

/-- CSR: k[24:12] number, k[11:10] operation (R36). -/
def decCsr (d q t : Nat) : Option Instr :=
  need (z [q, fld t 0 10] && csrDefined (fld t 12 13)) (
    match fld t 10 2 with
    | 0 => need (wA t == 0) (some (.csrRead d (fld t 12 13)))
    | 1 => some (.csrWrite d (wA t) (fld t 12 13))
    | 2 => some (.csrSet d (wA t) (fld t 12 13))
    | 3 => some (.csrClear d (wA t) (fld t 12 13))
    | _ => none)

/-- SYS: f is the function (R36). -/
def decSys (d q t : Nat) : Option Instr :=
  need (z [q, d]) (
    match wF t with
    | 0 => need (z [wA t, wB t]) (some (.sysTrap (wC t)))
    | 1 => need (z [wA t, wB t]) (some (.sysSvc (wC t)))
    | 2 => need (z [wA t, wB t, wC t]) (some .sysIdle)
    | 3 => need (z [wB t]) ((Scope.ofCode (wC t)).map (.sysTlbinv (wA t)))
    | 4 => need (z [wC t]) (some (.sysSavectx (wA t) (wB t)))
    | 5 => need (z [wC t]) (some (.sysLoadctx (wA t) (wB t)))
    | 6 => need (z [wB t, wC t]) (some (.sysScrub (wA t)))
    | _ => none)

/-- ALU (R37). -/
def decAlu (d q t : Nat) : Option Instr :=
  need (q == 0) (
    match wF t with
    | 0 => need (wC t == 0) (some (.aluAdd d (wA t) (wB t)))
    | 1 => need (wC t == 0) (some (.aluSub d (wA t) (wB t)))
    | 2 => need (wC t == 0) (some (.aluAnd d (wA t) (wB t)))
    | 3 => need (wC t == 0) (some (.aluOr d (wA t) (wB t)))
    | 4 => need (wC t == 0) (some (.aluXor d (wA t) (wB t)))
    | 5 => need (wC t == 0) (some (.aluAndn d (wA t) (wB t)))
    | 6 => need (wC t == 0) (some (.aluShl d (wA t) (wB t)))
    | 7 => need (wC t == 0) (some (.aluShr d (wA t) (wB t)))
    | 8 => need (wC t == 0) (some (.aluSar d (wA t) (wB t)))
    | 9 => need (wC t == 0) (some (.aluRol d (wA t) (wB t)))
    | 10 => need (wC t == 0) (some (.aluMin d (wA t) (wB t)))
    | 11 => need (wC t == 0) (some (.aluMax d (wA t) (wB t)))
    | 12 => need (wC t == 0) (some (.aluMinn d (wA t) (wB t)))
    | 13 => need (wC t == 0) (some (.aluMaxn d (wA t) (wB t)))
    | 14 => need (wC t == 0) (some (.aluMul d (wA t) (wB t)))
    | 15 => need (wC t == 0) (some (.aluMulh d (wA t) (wB t)))
    | 16 => need (wC t == 0) (some (.aluMulhn d (wA t) (wB t)))
    | 17 => need (wC t == 0) (some (.aluDiv d (wA t) (wB t)))
    | 18 => need (wC t == 0) (some (.aluDivn d (wA t) (wB t)))
    | 19 => need (wC t == 0) (some (.aluRem d (wA t) (wB t)))
    | 20 => need (wC t == 0) (some (.aluRemn d (wA t) (wB t)))
    | 21 => need (z [wB t, wC t]) (some (.aluClz d (wA t)))
    | 22 => need (z [wB t, wC t]) (some (.aluCtz d (wA t)))
    | 23 => need (z [wB t, wC t]) (some (.aluPopc d (wA t)))
    | 24 => need (z [wB t, wC t]) (some (.aluBrev d (wA t)))
    | 25 => need (z [wB t, wC t]) (some (.aluBswap d (wA t)))
    | 26 => some (.aluSel d (wA t) (wB t) (wC t))
    | 27 => need (wC t == 0) (some (.aluAddw d (wA t) (wB t)))
    | 28 => need (wC t == 0) (some (.aluSubw d (wA t) (wB t)))
    | 29 => need (wC t == 0) (some (.aluMulw d (wA t) (wB t)))
    | _ => none)

/-- ADDI (R37). -/
def decAddi (d q t : Nat) : Option Instr :=
  need (q == 0) (some (.addi d (wA t) (sfld t 0 25)))

/-- LI (R37). -/
def decLi (d q t : Nat) : Option Instr :=
  need (z [q, lB t]) (
    match lF t with
    | 0 => need (lA t == 0) (some (.liS32 d (fld t 0 32)))
    | 1 => some (.liHi d (lA t) (fld t 0 32))
    | 2 => need (lA t == 0) (some (.liZ32 d (fld t 0 32)))
    | _ => none)

/-- LOGI (R37). -/
def decLogi (d q t : Nat) : Option Instr :=
  need (z [q, lB t]) (
    match lF t with
    | 0 => some (.logiAnd d (lA t) (fld t 0 32))
    | 1 => some (.logiOr d (lA t) (fld t 0 32))
    | 2 => some (.logiXor d (lA t) (fld t 0 32))
    | 3 => need (fld t 8 24 == 0) ((ShKind.ofCode (fld t 6 2)).map fun k => .logiSh d (lA t) k (fld t 0 6))
    | _ => none)

/-- CMP (R37). -/
def decCmp (d q t : Nat) : Option Instr :=
  need (z [q, wC t]) (
    match wF t with
    | 0 => some (.cmpEq d (wA t) (wB t))
    | 1 => some (.cmpNe d (wA t) (wB t))
    | 2 => some (.cmpLt d (wA t) (wB t))
    | 3 => some (.cmpGe d (wA t) (wB t))
    | 4 => some (.cmpLtn d (wA t) (wB t))
    | 5 => some (.cmpGen d (wA t) (wB t))
    | _ => none)

/-- BIT: f[10] EXT or INS (R37). -/
def decBit (d q t : Nat) : Option Instr :=
  need (z [q, fld t 6 3] && bitField (wC t) (fld t 0 6 + 1)) (
    match fld t 10 1 with
    | 0 => need (wB t == 0) (some (.bitExt d (wA t) (wC t) (fld t 0 6 + 1) (fld t 9 1 == 1)))
    | 1 => need (fld t 9 1 == 0) (some (.bitIns d (wA t) (wB t) (wC t) (fld t 0 6 + 1)))
    | _ => none)

/-- AGEN (R37). -/
def decAgen (d q t : Nat) : Option Instr :=
  need (z [q, fld t 3 8]) (some (.agen d (wA t) (wB t) (sfld t 11 7) (fld t 0 3)))

/-- ALUQ: every code is defined (R37). -/
def decAluq (d q t : Nat) : Option Instr :=
  need (q == 0) (
    match pF t with
    | 0 => some (.aluqAdd d (pA t) (pB t))
    | 1 => some (.aluqSub d (pA t) (pB t))
    | 2 => some (.aluqAnd d (pA t) (pB t))
    | 3 => some (.aluqOr d (pA t) (pB t))
    | _ => none)

/-- SEND (R38). -/
def decSend (d q t : Nat) : Option Instr :=
  need (decide (1 ≤ wC t) && decide (wC t ≤ 8) && run (wB t) (wC t)) (withBusy q d fun o =>
    match wF t with
    | 0 => some (.sendTask o (wA t) (wB t) (wC t))
    | 1 => some (.sendRemop o (wA t) (wB t) (wC t))
    | _ => none)

/-- CHAN (R38). -/
def decChan (d q t : Nat) : Option Instr :=
  need (z [q, wC t]) (
    match wF t with
    | 0 => need (z [d, wB t]) (some (.chanBlock (wA t)))
    | 1 => need (z [d, wB t]) (some (.chanUnblock (wA t)))
    | 2 => need (wB t == 0) (some (.chanQuery d (wA t)))
    | 3 => need (d == 0) (some (.chanTtset (wA t) (wB t)))
    | _ => none)

/-- SPAWN (R38). -/
def decSpawn (d q t : Nat) : Option Instr :=
  withBusy q d fun o =>
    match fld t 2 1 with
    | 0 => need (fld t 3 4 == 0) (some (.spawn o (wA t) (wB t) (wC t) (fld t 0 2) none (fld t 7 4)))
    | _ => some (.spawn o (wA t) (wB t) (wC t) (fld t 0 2) (some (fld t 3 4)) (fld t 7 4))

/-- FREEZE (R38). -/
def decFreeze (d q t : Nat) : Option Instr :=
  need (z [q, wC t, wF t]) (some (.freeze d (wA t) (wB t)))

/-- JOIN (R38). -/
def decJoin (d q t : Nat) : Option Instr :=
  need (z [q, wB t, wC t]) (
    match wF t with
    | 0 => some (.joinWait d (wA t))
    | 1 => some (.joinTest d (wA t))
    | _ => none)

/-- MIGR (R38). -/
def decMigr (d q t : Nat) : Option Instr :=
  need (z [q, wB t, wC t]) (
    match wF t with
    | 0 => need (d == 0) (some (.migrGoto (wA t)))
    | 1 => need (wA t == 0) (some (.migrHome d))
    | _ => none)

/-- The acquire or release code f of a memory major: 2 and 3 are reserved (R39). -/
def ordered (f : Nat) (k : Bool → Option Instr) : Option Instr :=
  match f with
  | 0 => k false
  | 1 => k true
  | _ => none

/-- LD: q is the last-read mark, allowed with mode RING only (R34, R39). -/
def decLd (d q t : Nat) : Option Instr :=
  need (fld t 0 2 == 0) (ordered (lF t) fun o =>
    (Width.ofCode (fld t 5 3)).bind fun w => (Mode.ofCode (fld t 2 3)).bind fun m =>
    need (baseOk m (lA t)) (match q with
      | 0 => some (.ld d (lA t) (lB t) o w m (sfld t 8 24))
      | _ => need (decide (m = .ring)) (some (.ldLast d (lA t) (lB t) o w (sfld t 8 24)))))

/-- ST (R39). -/
def decSt (d q t : Nat) : Option Instr :=
  need (q == 0) (need (fld t 0 2 == 0) (ordered (lF t) fun o =>
    (Width.ofCode (fld t 5 3)).bind fun w => (Mode.ofCode (fld t 2 3)).bind fun m =>
    need (baseOk m (lA t)) (some (.st d (lA t) (lB t) o w m (sfld t 8 24)))))

/-- LDM (R39). -/
def decLdm (d q t : Nat) : Option Instr :=
  need (z [q, wB t, fld t 17 1] && run d (fld t 11 6 + 1)) ((Mode.ofCode (fld t 8 3)).bind fun m =>
    need (decide (m ≠ .ring)) (some (.ldm d (wA t) (fld t 11 6 + 1) m (sfld t 0 8))))

/-- STM (R39). -/
def decStm (d q t : Nat) : Option Instr :=
  need (z [q, wB t, fld t 17 1] && run d (fld t 11 6 + 1)) ((Mode.ofCode (fld t 8 3)).bind fun m =>
    need (decide (m ≠ .ring)) (some (.stm d (wA t) (fld t 11 6 + 1) m (sfld t 0 8))))

/-- SLD (R39). -/
def decSld (d q t : Nat) : Option Instr :=
  need (z [q, fld t 0 3] && run d (fld t 3 5 + 1)) (ordered (lF t) fun o => (Space.ofCode (lB t)).bind fun s =>
    some (.sld d (lA t) s o (sfld t 8 24) (fld t 3 5 + 1)))

/-- SST (R39). -/
def decSst (d q t : Nat) : Option Instr :=
  need (z [q, fld t 0 3] && run d (fld t 3 5 + 1)) (ordered (lF t) fun o => (Space.ofCode (lB t)).bind fun s =>
    some (.sst d (lA t) s o (sfld t 8 24) (fld t 3 5 + 1)))

/-- AMO (R40). -/
def decAmo (d q t : Nat) : Option Instr :=
  need (q == 0) ((Order.ofCode (fld t 4 2)).bind fun o => (Scope.ofCode (fld t 1 3)).bind fun s =>
    match fld t 7 4 with
    | 0 => need (wC t == 0) (some (.amoAdd d (wA t) (wB t) (fld t 6 1 == 1) o s (fld t 0 1 == 1)))
    | 1 => need (wC t == 0) (some (.amoAnd d (wA t) (wB t) (fld t 6 1 == 1) o s (fld t 0 1 == 1)))
    | 2 => need (wC t == 0) (some (.amoOr d (wA t) (wB t) (fld t 6 1 == 1) o s (fld t 0 1 == 1)))
    | 3 => need (wC t == 0) (some (.amoXor d (wA t) (wB t) (fld t 6 1 == 1) o s (fld t 0 1 == 1)))
    | 4 => need (wC t == 0) (some (.amoMin d (wA t) (wB t) (fld t 6 1 == 1) o s (fld t 0 1 == 1)))
    | 5 => need (wC t == 0) (some (.amoMax d (wA t) (wB t) (fld t 6 1 == 1) o s (fld t 0 1 == 1)))
    | 6 => need (wC t == 0) (some (.amoMinn d (wA t) (wB t) (fld t 6 1 == 1) o s (fld t 0 1 == 1)))
    | 7 => need (wC t == 0) (some (.amoMaxn d (wA t) (wB t) (fld t 6 1 == 1) o s (fld t 0 1 == 1)))
    | 8 => need (wC t == 0) (some (.amoSwap d (wA t) (wB t) (fld t 6 1 == 1) o s (fld t 0 1 == 1)))
    | 9 => some (.amoCas d (wA t) (wB t) (wC t) (fld t 6 1 == 1) o s (fld t 0 1 == 1))
    | 10 => need (z [wC t, fld t 6 1]) (some (.amoFadd32 d (wA t) (wB t) o s (fld t 0 1 == 1)))
    | 11 => need (wC t == 0 && fld t 6 1 == 1) (some (.amoFadd64 d (wA t) (wB t) o s (fld t 0 1 == 1)))
    | _ => none)

/-- RING (R39). -/
def decRing (d q t : Nat) : Option Instr :=
  need (q == 0 && below (wC t) 16) (
    match fld t 8 3 with
    | 0 => need (z [d, fld t 0 8]) (some (.ringInit (wA t) (wB t) (wC t)))
    | 1 => need (z [d, wA t, wB t] && decide (1 ≤ fld t 0 8)) (some (.ringWfill (wC t) (fld t 0 8)))
    | 2 => need (z [d, wA t, wB t] && decide (1 ≤ fld t 0 8)) (some (.ringWfree (wC t) (fld t 0 8)))
    | 3 => need (z [d, wA t, wB t] && decide (1 ≤ fld t 0 8)) (some (.ringAcons (wC t) (fld t 0 8)))
    | 4 => need (z [d, wA t, wB t] && decide (1 ≤ fld t 0 8)) (some (.ringAprod (wC t) (fld t 0 8)))
    | 5 => need (z [wA t, wB t, fld t 0 8]) (some (.ringStat d (wC t)))
    | _ => none)

/-- WAITT: q selects the bitmap (R34, R40). -/
def decWaitt (d q t : Nat) : Option Instr :=
  need (z [wB t, wC t]) (
    match wF t with
    | 0 => some (.waittAny (q == 1) d (wA t))
    | 1 => need (d == 0) (some (.waittAll (q == 1) (wA t)))
    | 2 => some (.waittFfr (q == 1) d (wA t))
    | 3 => need (d == 0) (some (.waittClr (q == 1) (wA t)))
    | 4 => some (.waittTest (q == 1) d (wA t))
    | _ => none)

/-- CPQ (R40). -/
def decCpq (d q t : Nat) : Option Instr :=
  need (mF t == 0) (withBusy q d fun o => some (.cpq o (lA t) (lB t) (mC t) (mE t)))

/-- BAR (R40). -/
def decBar (d q t : Nat) : Option Instr :=
  need (z [q, d, wB t]) (match (if fld t 10 1 == 0 then BarSel.imm (wC t) else .reg (wC t)), fld t 0 8 with
  | c, g =>
    match fld t 8 2 with
    | 0 => some (.barInit (wA t) c g)
    | 1 => need (wA t == 0) (some (.barArrive c g))
    | 2 => need (wA t == 0) (some (.barWait c g))
    | 3 => need (wA t == 0) (some (.barSync c g))
    | _ => none)

/-- MON (R40). -/
def decMon (d q t : Nat) : Option Instr :=
  need (z [q, wB t, wC t]) (
    match wF t with
    | 0 => need (d == 0) (some (.monArm (wA t)))
    | 1 => need (wA t == 0) (some (.monWait d))
    | 2 => need (z [d, wA t]) (some .monDisarm)
    | _ => none)

/-- FENCE (R40). -/
def decFence (d q t : Nat) : Option Instr :=
  need (z [q, d, wA t, wB t, wC t, fld t 5 6]) ((Scope.ofCode (fld t 0 3)).bind fun s =>
    match fld t 3 2 with
    | 0 => some (.fenceFull s)
    | 1 => some (.fenceRelease s)
    | 2 => some (.fenceAcquire s)
    | 3 => some (.fenceXpath s)
    | _ => none)

/-- MEMOP (R39). -/
def decMemop (d q t : Nat) : Option Instr :=
  need (z [q, wC t]) (
    match wF t with
    | 0 => need (d == 0) (some (.memopStag (wA t) (wB t)))
    | 1 => need (wB t == 0) (some (.memopLtag d (wA t)))
    | 2 => need (d == 0) (some (.memopPin (wA t) (wB t)))
    | 3 => need (d == 0) (some (.memopUnpin (wA t) (wB t)))
    | 4 => need (z [d, wB t]) (some (.memopWbl (wA t)))
    | 5 => need (z [d, wB t]) (some (.memopPf (wA t)))
    | _ => none)

/-- VF (R41). -/
def decVf (d q t : Nat) : Option Instr :=
  need (z [q, fld t 0 1] && below (wC t) 8) ((FType.ofCode (fld t 4 2)).bind fun ty =>
    match fld t 6 5 with
    | 0 => (Round.ofCode (fld t 1 3)).map fun r => .vfAdd d (wA t) (wB t) ty r (wC t)
    | 1 => (Round.ofCode (fld t 1 3)).map fun r => .vfSub d (wA t) (wB t) ty r (wC t)
    | 2 => (Round.ofCode (fld t 1 3)).map fun r => .vfMul d (wA t) (wB t) ty r (wC t)
    | 3 => (Round.ofCode (fld t 1 3)).map fun r => .vfDiv d (wA t) (wB t) ty r (wC t)
    | 4 => need (fld t 1 3 == 0) (some (.vfMin d (wA t) (wB t) ty (wC t)))
    | 5 => need (fld t 1 3 == 0) (some (.vfMax d (wA t) (wB t) ty (wC t)))
    | 6 => need (z [wB t, fld t 1 3]) (some (.vfAbs d (wA t) ty (wC t)))
    | 7 => need (z [wB t, fld t 1 3]) (some (.vfNeg d (wA t) ty (wC t)))
    | 8 => need (wB t == 0) ((Round.ofCode (fld t 1 3)).map fun r => .vfSqrt d (wA t) ty r (wC t))
    | 9 => need (wB t == 0) ((Round.ofCode (fld t 1 3)).map fun r => .vfRsqrt d (wA t) ty r (wC t))
    | 10 => need (fld t 1 3 == 0) (some (.vfCopysign d (wA t) (wB t) ty (wC t)))
    | 11 => need (fld t 1 3 == 0) (some (.vfMinnum d (wA t) (wB t) ty (wC t)))
    | 12 => need (fld t 1 3 == 0) (some (.vfMaxnum d (wA t) (wB t) ty (wC t)))
    | _ => none)

/-- VFMA (R41). -/
def decVfma (d q t : Nat) : Option Instr :=
  need (z [q, fld t 0 13] && below (mE t) 8) ((FType.ofCode (fld t 18 2)).bind fun ty => (Round.ofCode (fld t 15 3)).bind fun r =>
    match fld t 13 2 with
    | 0 => some (.vfmaFma d (lA t) (lB t) (mC t) ty r (mE t))
    | 1 => some (.vfmaFms d (lA t) (lB t) (mC t) ty r (mE t))
    | 2 => some (.vfmaFnma d (lA t) (lB t) (mC t) ty r (mE t))
    | 3 => some (.vfmaFnms d (lA t) (lB t) (mC t) ty r (mE t))
    | _ => none)

/-- VI (R41). -/
def decVi (d q t : Nat) : Option Instr :=
  need (z [q, fld t 0 4] && below (wC t) 8) ((LaneW.ofCode (fld t 4 2)).bind fun w =>
    match fld t 6 5 with
    | 0 => some (.viAdd d (wA t) (wB t) w (wC t))
    | 1 => some (.viSub d (wA t) (wB t) w (wC t))
    | 2 => some (.viMul d (wA t) (wB t) w (wC t))
    | 3 => some (.viMulh d (wA t) (wB t) w (wC t))
    | 4 => some (.viMulhn d (wA t) (wB t) w (wC t))
    | 5 => some (.viAnd d (wA t) (wB t) w (wC t))
    | 6 => some (.viOr d (wA t) (wB t) w (wC t))
    | 7 => some (.viXor d (wA t) (wB t) w (wC t))
    | 8 => some (.viAndn d (wA t) (wB t) w (wC t))
    | 9 => some (.viShl d (wA t) (wB t) w (wC t))
    | 10 => some (.viShr d (wA t) (wB t) w (wC t))
    | 11 => some (.viSar d (wA t) (wB t) w (wC t))
    | 12 => some (.viMin d (wA t) (wB t) w (wC t))
    | 13 => some (.viMax d (wA t) (wB t) w (wC t))
    | 14 => some (.viMinn d (wA t) (wB t) w (wC t))
    | 15 => some (.viMaxn d (wA t) (wB t) w (wC t))
    | 16 => some (.viAddsat d (wA t) (wB t) w (wC t))
    | 17 => some (.viSubsat d (wA t) (wB t) w (wC t))
    | 18 => some (.viAddsatn d (wA t) (wB t) w (wC t))
    | 19 => some (.viSubsatn d (wA t) (wB t) w (wC t))
    | 20 => need (wB t == 0) (some (.viAbs d (wA t) w (wC t)))
    | _ => none)

/-- f[6:4] of VCMP: a floating type or a lane width (R41). -/
def CmpT.ofCode (n : Nat) : Option CmpT :=
  if n < 4 then (FType.ofCode n).map .flt else (LaneW.ofCode (n - 4)).map .int

/-- VCMP: d names a mask m1 to m7 (R41). -/
def decVcmp (d q t : Nat) : Option Instr :=
  need (z [q, fld t 0 4] && below (wC t) 8 && decide (1 ≤ d) && below d 8) (
    match fld t 7 4 with
    | 0 => (CmpT.ofCode (fld t 4 3)).map fun ty => .vcmpEq d (wA t) (wB t) ty (wC t)
    | 1 => (CmpT.ofCode (fld t 4 3)).map fun ty => .vcmpNe d (wA t) (wB t) ty (wC t)
    | 2 => (CmpT.ofCode (fld t 4 3)).map fun ty => .vcmpLt d (wA t) (wB t) ty (wC t)
    | 3 => (CmpT.ofCode (fld t 4 3)).map fun ty => .vcmpLe d (wA t) (wB t) ty (wC t)
    | 4 => (CmpT.ofCode (fld t 4 3)).map fun ty => .vcmpGt d (wA t) (wB t) ty (wC t)
    | 5 => (CmpT.ofCode (fld t 4 3)).map fun ty => .vcmpGe d (wA t) (wB t) ty (wC t)
    | 6 => need (fld t 6 1 == 0) ((FType.ofCode (fld t 4 2)).map fun ty => .vcmpUnord d (wA t) (wB t) ty (wC t))
    | 7 => need (fld t 6 1 == 1) ((LaneW.ofCode (fld t 4 2)).map fun w => .vcmpLtn d (wA t) (wB t) w (wC t))
    | 8 => need (fld t 6 1 == 1) ((LaneW.ofCode (fld t 4 2)).map fun w => .vcmpGen d (wA t) (wB t) w (wC t))
    | _ => none)

/-- VCVT (R41). -/
def decVcvt (d q t : Nat) : Option Instr :=
  need (z [q, wB t] && below (wC t) 8) ((Fmt.ofCode (fld t 7 4)).bind fun a => (Fmt.ofCode (fld t 3 4)).bind fun b =>
    (Round.ofCode (fld t 0 3)).map fun r => .vcvt d (wA t) a b r (wC t))

/-- VMATH: types 2 and 3 are reserved (R41). -/
def decVmath (d q t : Nat) : Option Instr :=
  need (z [q, fld t 0 4, fld t 5 1] && below (wC t) 8) (
    match fld t 6 5 with
    | 0 => need (wB t == 0) (some (.vmathExp d (wA t) (fld t 4 1 == 1) (wC t)))
    | 1 => need (wB t == 0) (some (.vmathExp2 d (wA t) (fld t 4 1 == 1) (wC t)))
    | 2 => need (wB t == 0) (some (.vmathExp10 d (wA t) (fld t 4 1 == 1) (wC t)))
    | 3 => need (wB t == 0) (some (.vmathExpm1 d (wA t) (fld t 4 1 == 1) (wC t)))
    | 4 => need (wB t == 0) (some (.vmathLog d (wA t) (fld t 4 1 == 1) (wC t)))
    | 5 => need (wB t == 0) (some (.vmathLog2 d (wA t) (fld t 4 1 == 1) (wC t)))
    | 6 => need (wB t == 0) (some (.vmathLog10 d (wA t) (fld t 4 1 == 1) (wC t)))
    | 7 => need (wB t == 0) (some (.vmathLog1p d (wA t) (fld t 4 1 == 1) (wC t)))
    | 8 => need (wB t == 0) (some (.vmathSin d (wA t) (fld t 4 1 == 1) (wC t)))
    | 9 => need (wB t == 0) (some (.vmathCos d (wA t) (fld t 4 1 == 1) (wC t)))
    | 10 => need (wB t == 0) (some (.vmathTan d (wA t) (fld t 4 1 == 1) (wC t)))
    | 11 => need (wB t == 0) (some (.vmathAsin d (wA t) (fld t 4 1 == 1) (wC t)))
    | 12 => need (wB t == 0) (some (.vmathAcos d (wA t) (fld t 4 1 == 1) (wC t)))
    | 13 => need (wB t == 0) (some (.vmathAtan d (wA t) (fld t 4 1 == 1) (wC t)))
    | 14 => some (.vmathAtan2 d (wA t) (wB t) (fld t 4 1 == 1) (wC t))
    | 15 => need (wB t == 0) (some (.vmathSinh d (wA t) (fld t 4 1 == 1) (wC t)))
    | 16 => need (wB t == 0) (some (.vmathCosh d (wA t) (fld t 4 1 == 1) (wC t)))
    | 17 => need (wB t == 0) (some (.vmathTanh d (wA t) (fld t 4 1 == 1) (wC t)))
    | 18 => some (.vmathPow d (wA t) (wB t) (fld t 4 1 == 1) (wC t))
    | 19 => need (wB t == 0) (some (.vmathCbrt d (wA t) (fld t 4 1 == 1) (wC t)))
    | 20 => some (.vmathHypot d (wA t) (wB t) (fld t 4 1 == 1) (wC t))
    | 21 => need (wB t == 0) (some (.vmathErf d (wA t) (fld t 4 1 == 1) (wC t)))
    | _ => none)

/-- VRED (R41). -/
def decVred (d q t : Nat) : Option Instr :=
  need (z [q, wB t, fld t 0 3] && below (wC t) 8) (
    match fld t 8 3 with
    | 0 => (FType.ofCode (fld t 6 2)).bind fun ty => (Round.ofCode (fld t 3 3)).map fun r => .vredSum d (wA t) ty r (wC t)
    | 1 => (FType.ofCode (fld t 6 2)).bind fun ty => (Round.ofCode (fld t 3 3)).map fun r => .vredSumx d (wA t) ty r (wC t)
    | 2 => need (fld t 3 3 == 0) ((FType.ofCode (fld t 6 2)).map fun ty => .vredMin d (wA t) ty (wC t))
    | 3 => need (fld t 3 3 == 0) ((FType.ofCode (fld t 6 2)).map fun ty => .vredMax d (wA t) ty (wC t))
    | 4 => need (fld t 3 3 == 0) ((LaneW.ofCode (fld t 6 2)).map fun w => .vredIsum d (wA t) w (wC t))
    | 5 => need (fld t 3 3 == 0) ((LaneW.ofCode (fld t 6 2)).map fun w => .vredAnd d (wA t) w (wC t))
    | 6 => need (fld t 3 3 == 0) ((LaneW.ofCode (fld t 6 2)).map fun w => .vredOr d (wA t) w (wC t))
    | 7 => need (fld t 3 3 == 0) ((LaneW.ofCode (fld t 6 2)).map fun w => .vredXor d (wA t) w (wC t))
    | _ => none)

/-- VPERM (R41). -/
def decVperm (d q t : Nat) : Option Instr :=
  need (z [q, fld t 0 5]) ((LaneW.ofCode (fld t 5 2)).bind fun w =>
    match fld t 7 4 with
    | 0 => need (wB t == 0 && below (wC t) w.lanes) (some (.vpermBcast d (wA t) w (wC t)))
    | 1 => need (wC t == 0) (some (.vpermShuf d (wA t) (wB t) w))
    | 2 => need (wB t == 0 && below (wC t) w.lanes) (some (.vpermRot d (wA t) w (wC t)))
    | 3 => need (wB t == 0 && below (wC t) w.lanes) (some (.vpermSlideup d (wA t) w (wC t)))
    | 4 => need (wB t == 0 && below (wC t) w.lanes) (some (.vpermSlidedn d (wA t) w (wC t)))
    | 5 => need (wC t == 0) (some (.vpermZiplo d (wA t) (wB t) w))
    | 6 => need (wC t == 0) (some (.vpermZiphi d (wA t) (wB t) w))
    | 7 => need (wC t == 0) (some (.vpermUnzipe d (wA t) (wB t) w))
    | 8 => need (wC t == 0) (some (.vpermUnzipo d (wA t) (wB t) w))
    | 9 => need (below (wC t) w.lanes) (some (.vpermIns d (wA t) (wB t) w (wC t)))
    | 10 => need (wB t == 0 && below (wC t) w.lanes) (some (.vpermExt d (wA t) w (wC t)))
    | 11 => need (below (wC t) 8) (some (.vpermSel d (wA t) (wB t) w (wC t)))
    | _ => none)

/-- VLD: mode 5 is not reserved, it traps RINGERR when executed (R39, R309). -/
def decVld (d q t : Nat) : Option Instr :=
  need (z [q, fld t 0 2]) (ordered (lF t) fun o => (Mode.ofCode (fld t 3 3)).bind fun m =>
    match fld t 2 1 with
    | 0 => need (z [lB t, fld t 6 2]) (some (.vld d (lA t) o (sfld t 8 24) m none))
    | _ => (LaneW.ofCode (fld t 6 2)).bind fun w => some (.vld d (lA t) o (sfld t 8 24) m (some (lB t, w))))

/-- VST (R39). -/
def decVst (d q t : Nat) : Option Instr :=
  need (z [q, fld t 0 2]) (ordered (lF t) fun o => (Mode.ofCode (fld t 3 3)).bind fun m =>
    match fld t 2 1 with
    | 0 => need (below (lB t) 8 && fld t 6 2 == 0) (some (.vst d (lA t) o (sfld t 8 24) m (.block (lB t))))
    | _ => (LaneW.ofCode (fld t 6 2)).bind fun w => some (.vst d (lA t) o (sfld t 8 24) m (.strided (lB t) w)))

/-- VGS (R39). -/
def decVgs (d q t : Nat) : Option Instr :=
  need (z [q, wC t, fld t 0 2]) ((LaneW.ofCode (fld t 8 2)).bind fun w => (Mode.ofCode (fld t 5 3)).bind fun m =>
    need (decide (m ≠ .ring)) (match fld t 10 1 with
      | 0 => some (.vgsGather d (wA t) (wB t) w m (fld t 2 3))
      | _ => some (.vgsScatter d (wA t) (wB t) w m (fld t 2 3))))

/-- VPL (R41). -/
def decVpl (d q t : Nat) : Option Instr :=
  need (z [q, wB t, wC t, fld t 0 8]) ((PlaneW.ofCode (fld t 8 2)).bind fun p => need (pairOk p d (wA t)) (
    match fld t 10 1 with
    | 0 => some (.vplPlane d (wA t) p)
    | _ => some (.vplUnplane d (wA t) p)))

/-- SYSQ: d is the function (R36). -/
def decSysq (d q t : Nat) : Option Instr :=
  need (q == 0) (
    match d with
    | 0 => some .sysqNop
    | 1 => some .sysqExit
    | 2 => some .sysqEret
    | _ => none)

/-- The tag of MX: f[15:10] when f[9] = 1, zero otherwise (R42). -/
def withTag (t : Nat) (k : Option Nat → Option Instr) : Option Instr :=
  match fld t 9 1 with
  | 0 => need (fld t 10 6 == 0) (k none)
  | _ => k (some (fld t 10 6))

/-- MX (R42). -/
def decMx (d q t : Nat) : Option Instr :=
  need (fld t 0 9 == 0) (withBusy q d fun o => withTag t fun g =>
    match fld t 16 4 with
    | 0 => need (lB t == 0) (some (.mxCtx o (lA t) (mC t) (mE t) g))
    | 1 => need (lB t == 0) (some (.mxMma o (lA t) (mC t) (mE t) g))
    | 2 => some (.mxMmas o (lA t) (lB t) (mC t) (mE t) g)
    | 3 => need (lB t == 0) (some (.mxZero o (lA t) (mC t) (mE t) g))
    | 4 => need (lB t == 0) (some (.mxDrain o (lA t) (mC t) (mE t) g))
    | 5 => need (lB t == 0) (some (.mxLoadc o (lA t) (mC t) (mE t) g))
    | 6 => need (lB t == 0) (some (.mxOrder o (lA t) (mC t) (mE t) g))
    | _ => none)

/-- SK (R42). -/
def decSk (d q t : Nat) : Option Instr :=
  need (z [q, wC t]) (
    match fld t 8 3 with
    | 0 => some (.skMul d (wA t) (wB t) (fld t 0 8))
    | 1 => need (z [wA t, wB t]) (some (.skLink d (fld t 0 8)))
    | _ => none)

/-- The tail code of a major's form; none for a reserved major (R24, R31, R33). -/
def majorT (m : Nat) : Option Nat :=
  match m with
  | 1 => some 2
  | 2 => some 2
  | 3 => some 1
  | 4 => some 2
  | 5 => some 2
  | 6 => some 2
  | 7 => some 2
  | 8 => some 3
  | 9 => some 3
  | 10 => some 2
  | 11 => some 2
  | 12 => some 2
  | 13 => some 1
  | 14 => some 2
  | 15 => some 2
  | 16 => some 3
  | 17 => some 3
  | 18 => some 2
  | 19 => some 2
  | 20 => some 3
  | 21 => some 3
  | 22 => some 2
  | 23 => some 2
  | 24 => some 2
  | 25 => some 3
  | 26 => some 2
  | 27 => some 2
  | 28 => some 2
  | 29 => some 2
  | 30 => some 2
  | 31 => some 2
  | 32 => some 2
  | 33 => some 2
  | 34 => some 2
  | 35 => some 3
  | 36 => some 2
  | 37 => some 2
  | 38 => some 2
  | 39 => some 2
  | 40 => some 2
  | 41 => some 2
  | 42 => some 3
  | 43 => some 3
  | 44 => some 2
  | 45 => some 2
  | 46 => some 0
  | 48 => some 3
  | 49 => some 2
  | _ => none

/-- The fields of one instruction, by major (R33, R36 to R42). -/
def decodeMajor (m d q t : Nat) : Option Instr :=
  match m with
  | 1 => decBr d q t
  | 2 => decJmp d q t
  | 3 => decJr d q t
  | 4 => decCsr d q t
  | 5 => decSys d q t
  | 6 => decAlu d q t
  | 7 => decAddi d q t
  | 8 => decLi d q t
  | 9 => decLogi d q t
  | 10 => decCmp d q t
  | 11 => decBit d q t
  | 12 => decAgen d q t
  | 13 => decAluq d q t
  | 14 => decSend d q t
  | 15 => decChan d q t
  | 16 => decLd d q t
  | 17 => decSt d q t
  | 18 => decLdm d q t
  | 19 => decStm d q t
  | 20 => decSld d q t
  | 21 => decSst d q t
  | 22 => decAmo d q t
  | 23 => decRing d q t
  | 24 => decWaitt d q t
  | 25 => decCpq d q t
  | 26 => decBar d q t
  | 27 => decMon d q t
  | 28 => decFence d q t
  | 29 => decSpawn d q t
  | 30 => decFreeze d q t
  | 31 => decJoin d q t
  | 32 => decMigr d q t
  | 33 => decMemop d q t
  | 34 => decVf d q t
  | 35 => decVfma d q t
  | 36 => decVi d q t
  | 37 => decVcmp d q t
  | 38 => decVcvt d q t
  | 39 => decVmath d q t
  | 40 => decVred d q t
  | 41 => decVperm d q t
  | 42 => decVld d q t
  | 43 => decVst d q t
  | 44 => decVgs d q t
  | 45 => decVpl d q t
  | 46 => decSysq d q t
  | 48 => decMx d q t
  | 49 => decSk d q t
  | _ => none

/-- Decode one head and its tail. None: the words are illegal (R44): a reserved major, a tail code that is not the
major's, a reserved code, a field that must be zero, or a broken limit. -/
def decode (h tail : Nat) : Option Instr :=
  let p := partsOf h tail
  need (majorT p.m == some p.t) (decodeMajor p.m p.d p.q p.tail)

/-! ## Lines (R21 to R29) -/

/-- Halfword i of a line copy. -/
def hwAt (l : List HWord) (i : Nat) : Nat := (l.getD i 0).toNat
/-- The number of heads, header bits [15:11] (R22). -/
def lineN (l : List HWord) : Nat := fld (hwAt l 0) 11 5
/-- The tail code of head j (R23). -/
def tailLen (l : List HWord) (j : Nat) : Nat := fld (hwAt l j) 8 2
/-- The halfwords of the tails of heads 1 to j (R25). -/
def tailSum (l : List HWord) (j : Nat) : Nat := match j with
  | 0 => 0
  | k + 1 => tailSum l k + tailLen l (k + 1)
/-- The tail of head j: its lowest halfword is 32 less the running sum (R25). -/
def tailOf (l : List HWord) (j : Nat) : Nat :=
  let first := 32 - tailSum l j
  match tailLen l j with
  | 0 => 0
  | 1 => hwAt l first
  | 2 => hwAt l first + hwAt l (first + 1) * 65536
  | _ => hwAt l first + hwAt l (first + 1) * 65536 + hwAt l (first + 2) * 4294967296
/-- A line is well formed (R26). -/
def lineOk (l : List HWord) : Bool :=
  let n := lineN l
  let s := tailSum l n
  decide (1 ≤ n) && decide (fld (hwAt l 0) 0 11 = 0) && decide (1 + n + s ≤ 32) &&
  ((List.range 32).all fun i => if n < i ∧ i + s < 32 then hwAt l i == 0 else true)

/-- What a fetch of head k of a line gives (R43, R44). -/
inductive Fetch where
  | illine
  | illegal
  | op (i : Instr)
deriving DecidableEq, Repr

/-- Decode head k of a line: ILLINE for a malformed line or k beyond n, ILLEGAL for illegal words. -/
def decodeAt (l : List HWord) (k : Nat) : Fetch :=
  if lineOk l && decide (1 ≤ k) && decide (k ≤ lineN l) then
    match decode (hwAt l k) (tailOf l k) with
    | some i => .op i
    | none => .illegal
  else .illine

/-- The smallest line that holds one instruction: one head, its tail at the top, zero padding (R25, R26). -/
def oneLine (h tail : Nat) : List HWord :=
  let t := fld h 8 2
  BitVec.ofNat 16 2048 :: BitVec.ofNat 16 h :: (List.replicate (30 - t) (BitVec.ofNat 16 0) ++
    (List.range t).map fun i => BitVec.ofNat 16 (tail / 2 ^ (16 * i)))

/-- The instruction read from a word as spec/opcode_table.json numbers its bits: the head is bits [15:0] and the tail
the bits above. The head and tail are laid into a line, and the line decoder reads it. -/
def decodeTableWord (_nbits w : Nat) : Option Instr :=
  if w / 65536 < 2 ^ (16 * fld w 8 2) then
    match decodeAt (oneLine (w % 65536) (w / 65536)) 1 with
    | .op i => some i
    | _ => none
  else none

/-! ## The encoder (R31 to R42) -/

/-- A head and its tail, form N. -/
def formN (m d : Nat) : Option (Nat × Nat) := some (head m 0 d 0, 0)
/-- Form P: a[15:9] b[8:2] f[1:0]. -/
def formP (m d a b f : Nat) : Option (Nat × Nat) := some (head m 1 d 0, a * 512 + b * 4 + f)
/-- Form W: a[31:25] b[24:18] c[17:11] f[10:0]. -/
def formW (m d q a b c f : Nat) : Option (Nat × Nat) := some (head m 2 d q, a * 33554432 + b * 262144 + c * 2048 + f)
/-- Form I: a[31:25] k[24:0]. -/
def formI (m d a k : Nat) : Option (Nat × Nat) := some (head m 2 d 0, a * 33554432 + k)
/-- Form L: a[47:41] b[40:34] f[33:32] k[31:0]. -/
def formL (m d q a b f k : Nat) : Option (Nat × Nat) :=
  some (head m 3 d q, a * 2199023255552 + b * 17179869184 + f * 4294967296 + k)
/-- Form M: a[47:41] b[40:34] c[33:27] e[26:20] f[19:0]. -/
def formM (m d q a b c e f : Nat) : Option (Nat × Nat) :=
  some (head m 3 d q, a * 2199023255552 + b * 17179869184 + c * 134217728 + e * 1048576 + f)

/-- The head and the tail of a well-formed instruction; none for an event. -/
def encode (i : Instr) : Option (Nat × Nat) :=
  match i with
  | .brEqz a delta index => formI 0x01 0 a (target delta index)
  | .brNez a delta index => formI 0x01 1 a (target delta index)
  | .brLtz a delta index => formI 0x01 2 a (target delta index)
  | .brGez a delta index => formI 0x01 3 a (target delta index)
  | .brGtz a delta index => formI 0x01 4 a (target delta index)
  | .brLez a delta index => formI 0x01 5 a (target delta index)
  | .jmp d delta index => formI 0x02 d 0 (target delta index)
  | .jr d a => formP 0x03 d a 0 0
  | .csrRead d csr => formI 0x04 d 0 (csr * 4096 + 0)
  | .csrWrite d a csr => formI 0x04 d a (csr * 4096 + 1024)
  | .csrSet d a csr => formI 0x04 d a (csr * 4096 + 2048)
  | .csrClear d a csr => formI 0x04 d a (csr * 4096 + 3072)
  | .sysTrap code => formW 0x05 0 0 0 0 code 0
  | .sysSvc code => formW 0x05 0 0 0 0 code 1
  | .sysIdle => formW 0x05 0 0 0 0 0 2
  | .sysTlbinv a scope => formW 0x05 0 0 a 0 scope.code 3
  | .sysSavectx a b => formW 0x05 0 0 a b 0 4
  | .sysLoadctx a b => formW 0x05 0 0 a b 0 5
  | .sysScrub a => formW 0x05 0 0 a 0 0 6
  | .sysqNop => formN 0x2E 0
  | .sysqExit => formN 0x2E 1
  | .sysqEret => formN 0x2E 2
  | .aluAdd d a b => formW 0x06 d 0 a b 0 0
  | .aluSub d a b => formW 0x06 d 0 a b 0 1
  | .aluAnd d a b => formW 0x06 d 0 a b 0 2
  | .aluOr d a b => formW 0x06 d 0 a b 0 3
  | .aluXor d a b => formW 0x06 d 0 a b 0 4
  | .aluAndn d a b => formW 0x06 d 0 a b 0 5
  | .aluShl d a b => formW 0x06 d 0 a b 0 6
  | .aluShr d a b => formW 0x06 d 0 a b 0 7
  | .aluSar d a b => formW 0x06 d 0 a b 0 8
  | .aluRol d a b => formW 0x06 d 0 a b 0 9
  | .aluMin d a b => formW 0x06 d 0 a b 0 10
  | .aluMax d a b => formW 0x06 d 0 a b 0 11
  | .aluMinn d a b => formW 0x06 d 0 a b 0 12
  | .aluMaxn d a b => formW 0x06 d 0 a b 0 13
  | .aluMul d a b => formW 0x06 d 0 a b 0 14
  | .aluMulh d a b => formW 0x06 d 0 a b 0 15
  | .aluMulhn d a b => formW 0x06 d 0 a b 0 16
  | .aluDiv d a b => formW 0x06 d 0 a b 0 17
  | .aluDivn d a b => formW 0x06 d 0 a b 0 18
  | .aluRem d a b => formW 0x06 d 0 a b 0 19
  | .aluRemn d a b => formW 0x06 d 0 a b 0 20
  | .aluClz d a => formW 0x06 d 0 a 0 0 21
  | .aluCtz d a => formW 0x06 d 0 a 0 0 22
  | .aluPopc d a => formW 0x06 d 0 a 0 0 23
  | .aluBrev d a => formW 0x06 d 0 a 0 0 24
  | .aluBswap d a => formW 0x06 d 0 a 0 0 25
  | .aluSel d a b c => formW 0x06 d 0 a b c 26
  | .aluAddw d a b => formW 0x06 d 0 a b 0 27
  | .aluSubw d a b => formW 0x06 d 0 a b 0 28
  | .aluMulw d a b => formW 0x06 d 0 a b 0 29
  | .aluqAdd d a b => formP 0x0D d a b 0
  | .aluqSub d a b => formP 0x0D d a b 1
  | .aluqAnd d a b => formP 0x0D d a b 2
  | .aluqOr d a b => formP 0x0D d a b 3
  | .addi d a k => formI 0x07 d a (signed k 25)
  | .liS32 d k => formL 0x08 d 0 0 0 0 k
  | .liHi d a k => formL 0x08 d 0 a 0 1 k
  | .liZ32 d k => formL 0x08 d 0 0 0 2 k
  | .logiAnd d a k => formL 0x09 d 0 a 0 0 k
  | .logiOr d a k => formL 0x09 d 0 a 0 1 k
  | .logiXor d a k => formL 0x09 d 0 a 0 2 k
  | .logiSh d a kind n => formL 0x09 d 0 a 0 3 (kind.code * 64 + n)
  | .cmpEq d a b => formW 0x0A d 0 a b 0 0
  | .cmpNe d a b => formW 0x0A d 0 a b 0 1
  | .cmpLt d a b => formW 0x0A d 0 a b 0 2
  | .cmpGe d a b => formW 0x0A d 0 a b 0 3
  | .cmpLtn d a b => formW 0x0A d 0 a b 0 4
  | .cmpGen d a b => formW 0x0A d 0 a b 0 5
  | .bitExt d a pos len sx => formW 0x0B d 0 a 0 pos (sx.toNat * 512 + (len - 1))
  | .bitIns d a b pos len => formW 0x0B d 0 a b pos (1024 + (len - 1))
  | .agen d a b disp sh => formW 0x0C d 0 a b (signed disp 7) sh
  | .sendTask busy a b count => formW 0x0E (busyD busy) (busyQ busy) a b count 0
  | .sendRemop busy a b count => formW 0x0E (busyD busy) (busyQ busy) a b count 1
  | .chanBlock a => formW 0x0F 0 0 a 0 0 0
  | .chanUnblock a => formW 0x0F 0 0 a 0 0 1
  | .chanQuery d a => formW 0x0F d 0 a 0 0 2
  | .chanTtset a b => formW 0x0F 0 0 a b 0 3
  | .spawn busy a b c pri park lim => formW 0x1D (busyD busy) (busyQ busy) a b c (pri + parkBits park + lim * 128)
  | .freeze d a b => formW 0x1E d 0 a b 0 0
  | .joinWait d a => formW 0x1F d 0 a 0 0 0
  | .joinTest d a => formW 0x1F d 0 a 0 0 1
  | .migrGoto a => formW 0x20 0 0 a 0 0 0
  | .migrHome d => formW 0x20 d 0 0 0 0 1
  | .ld d a b acq w mode off => formL 0x10 d 0 a b acq.toNat (signed off 24 * 256 + w.code * 32 + mode.code * 4)
  | .st d a b rel w mode off => formL 0x11 d 0 a b rel.toNat (signed off 24 * 256 + w.code * 32 + mode.code * 4)
  | .ldLast d h b acq w off => formL 0x10 d 1 h b acq.toNat (signed off 24 * 256 + w.code * 32 + 20)
  | .ldm d a count mode off => formW 0x12 d 0 a 0 (count - 1) (mode.code * 256 + signed off 8)
  | .stm d a count mode off => formW 0x13 d 0 a 0 (count - 1) (mode.code * 256 + signed off 8)
  | .sld d a space acq off count => formL 0x14 d 0 a space.code acq.toNat (signed off 24 * 256 + (count - 1) * 8)
  | .sst d a space rel off count => formL 0x15 d 0 a space.code rel.toNat (signed off 24 * 256 + (count - 1) * 8)
  | .amoAdd d a b w64 order scope spread => formW 0x16 d 0 a b 0 (0 + w64.toNat * 64 + order.code * 16 + scope.code * 2 + spread.toNat)
  | .amoAnd d a b w64 order scope spread => formW 0x16 d 0 a b 0 (128 + w64.toNat * 64 + order.code * 16 + scope.code * 2 + spread.toNat)
  | .amoOr d a b w64 order scope spread => formW 0x16 d 0 a b 0 (256 + w64.toNat * 64 + order.code * 16 + scope.code * 2 + spread.toNat)
  | .amoXor d a b w64 order scope spread => formW 0x16 d 0 a b 0 (384 + w64.toNat * 64 + order.code * 16 + scope.code * 2 + spread.toNat)
  | .amoMin d a b w64 order scope spread => formW 0x16 d 0 a b 0 (512 + w64.toNat * 64 + order.code * 16 + scope.code * 2 + spread.toNat)
  | .amoMax d a b w64 order scope spread => formW 0x16 d 0 a b 0 (640 + w64.toNat * 64 + order.code * 16 + scope.code * 2 + spread.toNat)
  | .amoMinn d a b w64 order scope spread => formW 0x16 d 0 a b 0 (768 + w64.toNat * 64 + order.code * 16 + scope.code * 2 + spread.toNat)
  | .amoMaxn d a b w64 order scope spread => formW 0x16 d 0 a b 0 (896 + w64.toNat * 64 + order.code * 16 + scope.code * 2 + spread.toNat)
  | .amoSwap d a b w64 order scope spread => formW 0x16 d 0 a b 0 (1024 + w64.toNat * 64 + order.code * 16 + scope.code * 2 + spread.toNat)
  | .amoCas d a b c w64 order scope spread => formW 0x16 d 0 a b c (1152 + w64.toNat * 64 + order.code * 16 + scope.code * 2 + spread.toNat)
  | .amoFadd32 d a b order scope spread => formW 0x16 d 0 a b 0 (1280 + 0 + order.code * 16 + scope.code * 2 + spread.toNat)
  | .amoFadd64 d a b order scope spread => formW 0x16 d 0 a b 0 (1408 + 64 + order.code * 16 + scope.code * 2 + spread.toNat)
  | .ringInit a b h => formW 0x17 0 0 a b h 0
  | .ringWfill h n => formW 0x17 0 0 0 0 h (256 + n)
  | .ringWfree h n => formW 0x17 0 0 0 0 h (512 + n)
  | .ringAcons h n => formW 0x17 0 0 0 0 h (768 + n)
  | .ringAprod h n => formW 0x17 0 0 0 0 h (1024 + n)
  | .ringStat d h => formW 0x17 d 0 0 0 h 1280
  | .waittAny free d a => formW 0x18 d free.toNat a 0 0 0
  | .waittAll free a => formW 0x18 0 free.toNat a 0 0 1
  | .waittFfr free d a => formW 0x18 d free.toNat a 0 0 2
  | .waittClr free a => formW 0x18 0 free.toNat a 0 0 3
  | .waittTest free d a => formW 0x18 d free.toNat a 0 0 4
  | .cpq busy a b c e => formM 0x19 (busyD busy) (busyQ busy) a b c e 0
  | .barInit a bar group => formW 0x1A 0 0 a 0 bar.field (bar.bit * 1024 + 0 + group)
  | .barArrive bar group => formW 0x1A 0 0 0 0 bar.field (bar.bit * 1024 + 256 + group)
  | .barWait bar group => formW 0x1A 0 0 0 0 bar.field (bar.bit * 1024 + 512 + group)
  | .barSync bar group => formW 0x1A 0 0 0 0 bar.field (bar.bit * 1024 + 768 + group)
  | .monArm a => formW 0x1B 0 0 a 0 0 0
  | .monWait d => formW 0x1B d 0 0 0 0 1
  | .monDisarm => formW 0x1B 0 0 0 0 0 2
  | .fenceFull scope => formW 0x1C 0 0 0 0 0 (0 + scope.code)
  | .fenceRelease scope => formW 0x1C 0 0 0 0 0 (8 + scope.code)
  | .fenceAcquire scope => formW 0x1C 0 0 0 0 0 (16 + scope.code)
  | .fenceXpath scope => formW 0x1C 0 0 0 0 0 (24 + scope.code)
  | .memopStag a b => formW 0x21 0 0 a b 0 0
  | .memopLtag d a => formW 0x21 d 0 a 0 0 1
  | .memopPin a b => formW 0x21 0 0 a b 0 2
  | .memopUnpin a b => formW 0x21 0 0 a b 0 3
  | .memopWbl a => formW 0x21 0 0 a 0 0 4
  | .memopPf a => formW 0x21 0 0 a 0 0 5
  | .vfAdd d a b ty rnd m => formW 0x22 d 0 a b m (0 + ty.code * 16 + rnd.code * 2)
  | .vfSub d a b ty rnd m => formW 0x22 d 0 a b m (64 + ty.code * 16 + rnd.code * 2)
  | .vfMul d a b ty rnd m => formW 0x22 d 0 a b m (128 + ty.code * 16 + rnd.code * 2)
  | .vfDiv d a b ty rnd m => formW 0x22 d 0 a b m (192 + ty.code * 16 + rnd.code * 2)
  | .vfMin d a b ty m => formW 0x22 d 0 a b m (256 + ty.code * 16)
  | .vfMax d a b ty m => formW 0x22 d 0 a b m (320 + ty.code * 16)
  | .vfAbs d a ty m => formW 0x22 d 0 a 0 m (384 + ty.code * 16)
  | .vfNeg d a ty m => formW 0x22 d 0 a 0 m (448 + ty.code * 16)
  | .vfSqrt d a ty rnd m => formW 0x22 d 0 a 0 m (512 + ty.code * 16 + rnd.code * 2)
  | .vfRsqrt d a ty rnd m => formW 0x22 d 0 a 0 m (576 + ty.code * 16 + rnd.code * 2)
  | .vfCopysign d a b ty m => formW 0x22 d 0 a b m (640 + ty.code * 16)
  | .vfMinnum d a b ty m => formW 0x22 d 0 a b m (704 + ty.code * 16)
  | .vfMaxnum d a b ty m => formW 0x22 d 0 a b m (768 + ty.code * 16)
  | .vfmaFma d a b c ty rnd m => formM 0x23 d 0 a b c m (ty.code * 262144 + rnd.code * 32768 + 0)
  | .vfmaFms d a b c ty rnd m => formM 0x23 d 0 a b c m (ty.code * 262144 + rnd.code * 32768 + 8192)
  | .vfmaFnma d a b c ty rnd m => formM 0x23 d 0 a b c m (ty.code * 262144 + rnd.code * 32768 + 16384)
  | .vfmaFnms d a b c ty rnd m => formM 0x23 d 0 a b c m (ty.code * 262144 + rnd.code * 32768 + 24576)
  | .viAdd d a b w m => formW 0x24 d 0 a b m (0 + w.code * 16)
  | .viSub d a b w m => formW 0x24 d 0 a b m (64 + w.code * 16)
  | .viMul d a b w m => formW 0x24 d 0 a b m (128 + w.code * 16)
  | .viMulh d a b w m => formW 0x24 d 0 a b m (192 + w.code * 16)
  | .viMulhn d a b w m => formW 0x24 d 0 a b m (256 + w.code * 16)
  | .viAnd d a b w m => formW 0x24 d 0 a b m (320 + w.code * 16)
  | .viOr d a b w m => formW 0x24 d 0 a b m (384 + w.code * 16)
  | .viXor d a b w m => formW 0x24 d 0 a b m (448 + w.code * 16)
  | .viAndn d a b w m => formW 0x24 d 0 a b m (512 + w.code * 16)
  | .viShl d a b w m => formW 0x24 d 0 a b m (576 + w.code * 16)
  | .viShr d a b w m => formW 0x24 d 0 a b m (640 + w.code * 16)
  | .viSar d a b w m => formW 0x24 d 0 a b m (704 + w.code * 16)
  | .viMin d a b w m => formW 0x24 d 0 a b m (768 + w.code * 16)
  | .viMax d a b w m => formW 0x24 d 0 a b m (832 + w.code * 16)
  | .viMinn d a b w m => formW 0x24 d 0 a b m (896 + w.code * 16)
  | .viMaxn d a b w m => formW 0x24 d 0 a b m (960 + w.code * 16)
  | .viAddsat d a b w m => formW 0x24 d 0 a b m (1024 + w.code * 16)
  | .viSubsat d a b w m => formW 0x24 d 0 a b m (1088 + w.code * 16)
  | .viAddsatn d a b w m => formW 0x24 d 0 a b m (1152 + w.code * 16)
  | .viSubsatn d a b w m => formW 0x24 d 0 a b m (1216 + w.code * 16)
  | .viAbs d a w m => formW 0x24 d 0 a 0 m (1280 + w.code * 16)
  | .vcmpEq md a b ty m => formW 0x25 md 0 a b m (0 + ty.code * 16)
  | .vcmpNe md a b ty m => formW 0x25 md 0 a b m (128 + ty.code * 16)
  | .vcmpLt md a b ty m => formW 0x25 md 0 a b m (256 + ty.code * 16)
  | .vcmpLe md a b ty m => formW 0x25 md 0 a b m (384 + ty.code * 16)
  | .vcmpGt md a b ty m => formW 0x25 md 0 a b m (512 + ty.code * 16)
  | .vcmpGe md a b ty m => formW 0x25 md 0 a b m (640 + ty.code * 16)
  | .vcmpUnord md a b ty m => formW 0x25 md 0 a b m (768 + ty.code * 16)
  | .vcmpLtn md a b w m => formW 0x25 md 0 a b m (896 + 64 + w.code * 16)
  | .vcmpGen md a b w m => formW 0x25 md 0 a b m (1024 + 64 + w.code * 16)
  | .vcvt d a src dst rnd m => formW 0x26 d 0 a 0 m (src.code * 128 + dst.code * 8 + rnd.code)
  | .vmathExp d a f32 m => formW 0x27 d 0 a 0 m (0 + f32.toNat * 16)
  | .vmathExp2 d a f32 m => formW 0x27 d 0 a 0 m (64 + f32.toNat * 16)
  | .vmathExp10 d a f32 m => formW 0x27 d 0 a 0 m (128 + f32.toNat * 16)
  | .vmathExpm1 d a f32 m => formW 0x27 d 0 a 0 m (192 + f32.toNat * 16)
  | .vmathLog d a f32 m => formW 0x27 d 0 a 0 m (256 + f32.toNat * 16)
  | .vmathLog2 d a f32 m => formW 0x27 d 0 a 0 m (320 + f32.toNat * 16)
  | .vmathLog10 d a f32 m => formW 0x27 d 0 a 0 m (384 + f32.toNat * 16)
  | .vmathLog1p d a f32 m => formW 0x27 d 0 a 0 m (448 + f32.toNat * 16)
  | .vmathSin d a f32 m => formW 0x27 d 0 a 0 m (512 + f32.toNat * 16)
  | .vmathCos d a f32 m => formW 0x27 d 0 a 0 m (576 + f32.toNat * 16)
  | .vmathTan d a f32 m => formW 0x27 d 0 a 0 m (640 + f32.toNat * 16)
  | .vmathAsin d a f32 m => formW 0x27 d 0 a 0 m (704 + f32.toNat * 16)
  | .vmathAcos d a f32 m => formW 0x27 d 0 a 0 m (768 + f32.toNat * 16)
  | .vmathAtan d a f32 m => formW 0x27 d 0 a 0 m (832 + f32.toNat * 16)
  | .vmathAtan2 d a b f32 m => formW 0x27 d 0 a b m (896 + f32.toNat * 16)
  | .vmathSinh d a f32 m => formW 0x27 d 0 a 0 m (960 + f32.toNat * 16)
  | .vmathCosh d a f32 m => formW 0x27 d 0 a 0 m (1024 + f32.toNat * 16)
  | .vmathTanh d a f32 m => formW 0x27 d 0 a 0 m (1088 + f32.toNat * 16)
  | .vmathPow d a b f32 m => formW 0x27 d 0 a b m (1152 + f32.toNat * 16)
  | .vmathCbrt d a f32 m => formW 0x27 d 0 a 0 m (1216 + f32.toNat * 16)
  | .vmathHypot d a b f32 m => formW 0x27 d 0 a b m (1280 + f32.toNat * 16)
  | .vmathErf d a f32 m => formW 0x27 d 0 a 0 m (1344 + f32.toNat * 16)
  | .vredSum d a ty rnd m => formW 0x28 d 0 a 0 m (0 + ty.code * 64 + rnd.code * 8)
  | .vredSumx d a ty rnd m => formW 0x28 d 0 a 0 m (256 + ty.code * 64 + rnd.code * 8)
  | .vredMin d a ty m => formW 0x28 d 0 a 0 m (512 + ty.code * 64)
  | .vredMax d a ty m => formW 0x28 d 0 a 0 m (768 + ty.code * 64)
  | .vredIsum d a w m => formW 0x28 d 0 a 0 m (1024 + w.code * 64)
  | .vredAnd d a w m => formW 0x28 d 0 a 0 m (1280 + w.code * 64)
  | .vredOr d a w m => formW 0x28 d 0 a 0 m (1536 + w.code * 64)
  | .vredXor d a w m => formW 0x28 d 0 a 0 m (1792 + w.code * 64)
  | .vpermBcast d a w c => formW 0x29 d 0 a 0 c (0 + w.code * 32)
  | .vpermShuf d a b w => formW 0x29 d 0 a b 0 (128 + w.code * 32)
  | .vpermRot d a w c => formW 0x29 d 0 a 0 c (256 + w.code * 32)
  | .vpermSlideup d a w c => formW 0x29 d 0 a 0 c (384 + w.code * 32)
  | .vpermSlidedn d a w c => formW 0x29 d 0 a 0 c (512 + w.code * 32)
  | .vpermZiplo d a b w => formW 0x29 d 0 a b 0 (640 + w.code * 32)
  | .vpermZiphi d a b w => formW 0x29 d 0 a b 0 (768 + w.code * 32)
  | .vpermUnzipe d a b w => formW 0x29 d 0 a b 0 (896 + w.code * 32)
  | .vpermUnzipo d a b w => formW 0x29 d 0 a b 0 (1024 + w.code * 32)
  | .vpermIns d a b w c => formW 0x29 d 0 a b c (1152 + w.code * 32)
  | .vpermExt d a w c => formW 0x29 d 0 a 0 c (1280 + w.code * 32)
  | .vpermSel d a b w m => formW 0x29 d 0 a b m (1408 + w.code * 32)
  | .vld d a acq off mode stride => formL 0x2A d 0 a (strideB stride) acq.toNat (signed off 24 * 256 + mode.code * 8 + strideBits stride)
  | .vst d a rel off mode form => formL 0x2B d 0 a form.field rel.toNat (signed off 24 * 256 + mode.code * 8 + form.bits)
  | .vgsGather d a b w mode m => formW 0x2C d 0 a b 0 (0 + w.code * 256 + mode.code * 32 + m * 4)
  | .vgsScatter d a b w mode m => formW 0x2C d 0 a b 0 (1024 + w.code * 256 + mode.code * 32 + m * 4)
  | .vplPlane d a pw => formW 0x2D d 0 a 0 0 (0 + pw.code * 256)
  | .vplUnplane d a pw => formW 0x2D d 0 a 0 0 (1024 + pw.code * 256)
  | .mxCtx busy a c e tag => formM 0x30 (busyD busy) (busyQ busy) a 0 c e (0 + tagBits tag)
  | .mxMma busy a c e tag => formM 0x30 (busyD busy) (busyQ busy) a 0 c e (65536 + tagBits tag)
  | .mxMmas busy a b c e tag => formM 0x30 (busyD busy) (busyQ busy) a b c e (131072 + tagBits tag)
  | .mxZero busy a c e tag => formM 0x30 (busyD busy) (busyQ busy) a 0 c e (196608 + tagBits tag)
  | .mxDrain busy a c e tag => formM 0x30 (busyD busy) (busyQ busy) a 0 c e (262144 + tagBits tag)
  | .mxLoadc busy a c e tag => formM 0x30 (busyD busy) (busyQ busy) a 0 c e (327680 + tagBits tag)
  | .mxOrder busy a c e tag => formM 0x30 (busyD busy) (busyQ busy) a 0 c e (393216 + tagBits tag)
  | .skMul d a b group => formW 0x31 d 0 a b 0 group
  | .skLink d group => formW 0x31 d 0 0 0 0 (256 + group)
  | .resetInput
  | .bootStage
  | .islandBringUp
  | .islandFrequencyChange
  | .arrival
  | .sendAnswer
  | .sendRetransmit
  | .selection
  | .admission
  | .remopAdmission
  | .stealRequest
  | .stealAnswer
  | .stealReceive
  | .chanRemote
  | .dealerSendSheaf
  | .imageInstall
  | .imageFetch
  | .tillerAdmission
  | .joinDecrement
  | .crownRelease
  | .bankMeeting
  | .rosedata2Write
  | .outroseSelect
  | .outroseWrite
  | .rosectlSwapRequest
  | .roseSwap
  | .bankroleWrite
  | .bankroleChange
  | .slicePassComplete
  | .idomWrite
  | .domainPassComplete
  | .cntWrite
  | .twinctlWrite
  | .mxstatClear
  | .lineFill
  | .pageWalk
  | .tlbinvRemote
  | .homeSliceAccess
  | .rehomeReplay
  | .tierFill
  | .tierWriteAck
  | .copyInvalidation
  | .migrantArrival
  | .migrantQueueAdmit
  | .migrationRetry
  | .ringWaitReread
  | .copy
  | .copy2d
  | .fill
  | .mcread
  | .wbr
  | .invr
  | .sqz
  | .xpnd
  | .tagfreeSet
  | .tagdoneSet
  | .mcreadLineRequest
  | .multicastSectorSend
  | .multicastBlockWrite
  | .matrixAccept
  | .matrixGrant
  | .ctx
  | .mma
  | .mmas
  | .zero
  | .drain
  | .loadc
  | .order
  | .matrixComplete
  | .linkValueDelivery
  | .barrierArrival
  | .barrierInit
  | .phaseNotice
  | .monitorRegistration
  | .watchdogExpiry
  | .reportRetry
  | .twinCompare
  | .preempt
  | .preemptDraining
  | .preemptSaving
  | .preemptSaved
  | .resume
  | .restoreComplete
  | .resumeRunning
  | .spillRetry
  | .packetDelivery
  | .packetAck
  | .linkRetry
  | .linkDead
  | .chartInstall
  | .editionTurn
  | .ethernetFrameRx
  | .systemEditionTurn
  | .mxRetry
  | .fwMatrixCheckCode
  | .fwPreemptCore
  | .fwResumeCore
  | .fwIslandFrequency
  | .fwRetireBank
  | .fwWriteGroup
  | .fwCheckpoint
  | .fwRestore
  | .fwAttestationQuote
  | .fwTenantReset
  | .illegalEncoding
  | .refusedRequestKind
  | .mxAnswer
  | .stackCopyFill
  | .networkPortAccess
  | .headerRouting
  | .portFailure
  | .powerLimitThrottle
  | .islandPowerDown
  | .keeperChange
  | .tenantAssignment => none

end Sys2Proof
end

