-- ==== Sys2Proof/Machine/State.lean ====
section
/-!
DEFINITION. The machine's state as plain data: every piece of state the spec gives the module, from a thread's
registers to the fabric's retry buffers, with the reasons a step can stop and the state right after reset. Maps are
association lists whose absent keys read as the default named at the field. Where a field is the model's own and not
the spec's, its docstring says so.
-/
namespace Sys2Proof.Machine

open Sys2Proof

/-- Memory: bytes by address in canonical form, addresses strictly rising and no byte equal to what an unlisted
address reads as (Memory.wf in Machine/Ops.lean). -/
abbrev Memory := List Host.Cell

/-- Why a step stops although the machine goes on. -/
inductive Fault where
  /-- An instruction row was executed while no thread is selected as the current one. Raised by the meanings of
  instructions only when step did not select a thread. SAFE: step always selects one first. -/
  | noThread
deriving DecidableEq, Repr

/-- Why a step has no meaning. -/
inductive Refusal where
  /-- The instruction has no meaning in this model yet. Raised by the dispatch only. SAFE. -/
  | notModelled (mnemonic : String)
deriving DecidableEq, Repr

/-! ### Accesses -/

/-- Who made an access: a thread, the engine for a core's request, the matrix unit, a column's instruction fetch, a
walker for one of these, the firmware, or an outside device (15_ordering R363). -/
inductive Agent where
  | thread (core slot : Nat)
  | engine (core : Nat)
  | matrix (cl : Nat)
  | fetch (col : Nat)
  /-- another device's: its number, the access's own number, the port it came in by, and the endpoint that asks (21_fabric R435) -/
  | device (dev item port scl sep : Nat)
  /-- a multicast's write at its destination cluster -/
  | mcast (cl id : Nat)
deriving DecidableEq, Repr

/-- What an access does at the place where it is performed. -/
inductive AccOp where
  | load (n : Nat) (acq : Bool)
  | store (bs : List Byte)
  /-- a store of the lanes a mask leaves (12_vector R308): byte offset and bytes of each -/
  | storeSome (parts : List (Nat × List Byte))
  | amo (op : Nat) (w : Nat) (y z : Nat)
  | stag (tag : Nat)
  | ltag
  | pin
  | unpin
  | wbl
  | pf
  | inv
  | mcast (c : Nat)
  /-- a monitor's registration (14_sync R354) -/
  | watch
deriving DecidableEq, Repr

/-- An access on its way: named address va in its space, and where it goes. For the banked spaces: cluster, bank and
row of R137; for GLOBAL: physical address, tier, home and the domain generation it carries (R230). -/
structure Access where
  agent : Agent
  uid : Nat := 0
  idx : Nat
  space : Mode
  va : Nat
  op : AccOp
  world : Bool := false
  cl : Nat := 0
  bank : Nat := 0
  row : Nat := 0
  off : Nat := 0
  /-- cycle of the requesting cluster on which it was requested (R140); once its home has accepted it, the home's cycle then -/
  reqT : Nat := 0
  /-- held at its rider by a role change or a swap (R149, R153) -/
  held : Bool := false
  pa : Nat := 0
  tier : Bool := false
  /-- HOMING and HOME of the leaf (R199) -/
  hashed : Bool := false
  home : Nat := 0
  /-- home core this attempt goes to -/
  homeCore : Nat := 0
  gen : Nat := 0
  tagchk : Bool := false
  tag : Nat := 0
  posted : Bool := false
  poison : Bool := false
  /-- relaxed load or fill that a stack copy may serve (R233) -/
  copyOk : Bool := false
  /-- PC of the instruction that makes it, 0 for no thread (20_traps R409) -/
  pc : Word := 0
  /-- a masked block store: its checks cover all 64 bytes (12_vector R309) -/
  whole : Bool := false
  /-- accepted by the home: its generation has been compared, and it stands in the queue of its line -/
  filled : Bool := false
  /-- number of the directory's fill that waits for this load (model's own) -/
  stamp : Nat := 0
  /-- of another device's access: its mapped tenant (21_fabric R435) -/
  tenant : Option Nat := none
  /-- the elements that one access to a block carries (12_vector R310): number, first byte in the block, and width; none
  listed: the one of number idx -/
  members : List (Nat × Nat × Nat) := []
  /-- the cycle from which it waits for its meetings: the one of its request, or that on which a hold of it ended (R149,
  R153) -/
  since : Nat := 0
deriving DecidableEq, Repr

/-! ### Threads -/

/-- The trap causes (20_traps R402), in the order of their codes 1 to 20. -/
inductive Cause where
  | illegal | illine | reglimit | misalign | page | perm | tagmismatch | poison | copyfault | shadowfull
  | nomigrate | badscale | usertrap | svc | freezedepth | priv | ringerr | misdirect | twinmismatch | range
deriving DecidableEq, Repr

/-- A ring handle that is bound (08_access R212). -/
structure Handle where
  desc : Word := 0
  geo : Word := 0
  ccur : Word := 0
  pcur : Word := 0
  seenp : Word := 0
  seenc : Word := 0
deriving DecidableEq, Repr

/-- The thread's monitor (14_sync R355): the cause is 1 WRITE, 2 LOST or 3 SPURIOUS; line is L of PA div 192. reg is the number
of the registration (model's own), by which an event of a cancelled one is known (R356). -/
inductive Monitor where
  | disarmed
  | armed (line reg : Nat)
  | fired (cause line : Nat)
deriving DecidableEq, Repr

/-- An arrival record (14_sync R344) and the held-wait word (20_traps R407). -/
structure BarRec where
  group : Nat
  bar : Nat
  phase : Nat
deriving DecidableEq, Repr

/-- What a thread has beyond a plain one when it is a tiller (05_crowns R110, R112, R116). -/
structure Tiller where
  /-- the crown's handle (R104) -/
  handle : Nat
  /-- the index -/
  index : Nat
  /-- the index register d, 0 when FREEZE discarded the index -/
  dreg : Nat
  /-- private map: register to entry of the register file (R110) -/
  priv : List (Nat × Nat) := []
  /-- reserved entries not yet used (R111) -/
  spare : List Nat := []
  /-- copies taken, the index entry not counted (R113) -/
  taken : Nat := 0
  budget : Nat := 0
  /-- shadow blocks: block offset in the crown's column store to 64 bytes (R116) -/
  shadows : List (Nat × List Byte) := []
  shadowMax : Nat := 0
  /-- shadow blocks that hold poison (09_homing R238) -/
  shadowBad : List Nat := []
  /-- a parked tiller reads zero in every register it has not written (R410) -/
  zeroed : Bool := false
deriving DecidableEq, Repr

/-- A leaf of the page table as a translation cache holds it (08_access R199, R201): level 0 is 3 GiB, 1 is 12 MiB,
2 is 48 KiB. -/
structure Leaf where
  level : Nat
  vpn : Nat
  entry : Word
deriving DecidableEq, Repr

/-- A translation asked for and answered while an instruction waits; none is a PAGE fault (08_access R200). -/
structure Xlat where
  va : Nat
  leaf : Option Leaf
deriving DecidableEq, Repr

/-- The classes of the stall watchdog (14_sync R361). -/
inductive HoldClass where
  | send | waitt | bar | mon
deriving DecidableEq, Repr

/-- What a held thread waits for (07_issue R162; the classes of 20_traps R416). -/
inductive Hold where
  /-- the thread issues on its turns -/
  | ready
  /-- a line is being filled (07_issue R159) -/
  | fetch
  /-- the instruction is re-executed on each turn until it can complete: it is between retries or waits for a
  condition of its own core -/
  | again
  /-- an answer is in flight; the instruction completes when it arrives -/
  | answer
  /-- the translation it waited for is there: the instruction goes on at once -/
  | walked
  /-- a retry is due: a SEND, MX or migrant answered FULL -/
  | retry
  /-- a migrant was answered FULL: it is sent again to the column (08_access R220) -/
  | migrate (col : Nat)
  /-- its migrant is in flight to the column -/
  | migrating (col : Nat)
  /-- the comparator entry of a twin waits (20_traps R413) -/
  | twin
deriving DecidableEq, Repr

/-- The result of one access for the agent that made it: the bytes loaded, or a fault found at the home (08_access
R195), with poison noted. -/
structure AccResult where
  bytes : List Byte := []
  poison : Bool := false
  fault : Option Cause := none
  /-- the bytes of the 64-byte block in the sector that failed -/
  badLo : Nat := 0
  badHi : Nat := 64
  /-- a fault of the block's other sector, with its bytes of the block -/
  also : Option (Cause × Nat × Nat) := none
  /-- the failing storage for an error record (20_traps R409): storage code, unit index, address -/
  store : Nat := 0
  unit : Nat := 0
  pa : Nat := 0
deriving DecidableEq, Repr

/-- An instruction whose accesses are outstanding: how many, what came back for each, and from which index on
(08_access R208). -/
structure Pending where
  instr : Instr
  left : Nat
  first : Nat := 0
  got : List (Nat × AccResult) := []
  /-- the block at which the check loop of R208 stopped, with its trap -/
  stop : Option (Nat × Cause × Word) := none
  /-- of a run: the address of its block 0, from the base register as it was when the blocks were requested -/
  start : Option Word := none
deriving DecidableEq, Repr

/-- A thread. Registers stand in the core's register file (06_wheels R131); the rest is here. -/
structure Thread where
  /-- number of this admission (model's own), by which late answers know their thread -/
  uid : Nat := 0
  pc : Word := 0
  limit : Nat := 8
  base : Nat := 0
  /-- masks m1 to m7 (12_vector R291); absent reads zero -/
  masks : List (Nat × Word) := []
  fflags : Word := 0
  thandler : Word := 0
  tepc : Word := 0
  tcause : Word := 0
  tword : Word := 0
  taddr : Word := 0
  tprog : Word := 0
  tplbase : Word := 0
  tplsize : Word := 0
  lastcrown : Word := 0
  heads : Bool := false
  /-- crown level, 0 for a thread that is no tiller and heads no crown -/
  level : Nat := 0
  /-- true: secure world -/
  world : Bool := false
  sup : Bool := false
  pri : Nat := 0
  tid : Nat := 0
  handles : List (Nat × Handle) := []
  monitor : Monitor := .disarmed
  /-- what the monitor was when the MON.ARM under way was issued: it stands if the ARM faults at the home (R48, R354) -/
  monBefore : Option Monitor := none
  /-- the accesses of its registrations by number, from which a resumed core registers it again (R355; model's own) -/
  monAt : List (Nat × Access) := []
  records : List BarRec := []
  heldWait : Option BarRec := none
  wo : Bool := false
  /-- link seen counts by membership (13_matrix R337) -/
  seen : List (Nat × Nat) := []
  tiller : Option Tiller := none
  /-- the slot's own line copy: address and 64 bytes (07_issue R158) -/
  line : Option (Nat × List Byte) := none
  /-- the fetch at this line faulted: the cause is raised when the thread would issue from it (R160) -/
  lineFault : Option Cause := none
  hold : Hold := .ready
  /-- first cycle of the cluster's count on which the thread may issue (07_issue R162) -/
  issueAt : Nat := 0
  /-- class, start and report of the current hold (14_sync R361) -/
  holding : Option (HoldClass × Nat × Bool) := none
  pend : Option Pending := none
  /-- translations answered for the held instruction (model's own bookkeeping of R201) -/
  xl : List Xlat := []
  /-- posted GLOBAL stores not yet acknowledged (08_access R206) -/
  posted : Nat := 0
  /-- their stack-copy invalidations not yet applied (09_homing R233, 14_sync R360) -/
  invals : Nat := 0
  /-- copy requests and matrix commands issued and not yet done (08_access R219) -/
  engine : List Nat := []
  /-- TLBINV, FREEZE or SK.MUL acknowledgements still to come -/
  acks : Nat := 0
  /-- result an answer will deliver once every acknowledgement is in -/
  result : Word := 0
  /-- number of the next content when a release or a fence of the thread was first held (model's own): it waits for no
  invalidation sent later -/
  mark : Nat := 0
  /-- the handler's first instruction has not issued yet (02_lines R49) -/
  entering : Bool := false
  /-- the cause for which it was parked (05_crowns R118) -/
  parkCause : Nat := 0
  /-- a comparator entry that matched: the lead performs the effect on its next turn (20_traps R413) -/
  twinGo : Bool := false
  /-- what the lead still owes the load-value queue: registers, and 128 + h for ring handle h (R413) -/
  twinOwes : List Nat := []
  /-- instructions issued by a lead or a trail (R413) -/
  twinCount : Nat := 0
deriving DecidableEq, Repr

/-- The state of a slot (20_traps R407, R408). reserved is a FREE slot kept for a LOADCTX. -/
inductive SlotSt where
  | free | run | service | parked | reserved
deriving DecidableEq, Repr

/-- A slot and its thread. -/
structure Slot where
  st : SlotSt := .free
  th : Thread := {}
  /-- a FREE slot: first cycle on which it and the register range in th may be given away (07_issue R164, R189) -/
  freeAt : Nat := 0
deriving DecidableEq, Repr

/-! ### Messages, records and requests -/

/-- A TASK or REMOP message (04_channels R72, R73): source core and slot (or an outside device), its world, its
tenant, destination, payload. -/
structure Msg where
  remop : Bool
  srcDev : Nat
  srcCore : Nat
  srcSlot : Nat
  world : Bool
  /-- none: the device itself, which counts as the destination's own tenant (R80) -/
  tenant : Option Nat
  dstDev : Nat
  dstCore : Nat
  channel : Nat
  words : List Word
  /-- true: a report or service request, answered to the core and not to a slot (20_traps R406, R411) -/
  report : Bool := false
  /-- in a spill queue: the cycle of its acceptance, from which its wait counts (04_channels R92) -/
  taken : Option Nat := none
deriving DecidableEq, Repr

/-- A message in the arrival queue with its acceptance cycle (04_channels R77, R92). -/
structure Arrival where
  msg : Msg
  entered : Nat
deriving DecidableEq, Repr

/-- A task record (04_channels R86) with its age; parked is the counter it waits on (R91). -/
structure Rec where
  k : Bool
  w : Bool
  pri : Nat
  lim : Nat
  crown : Nat := 0
  hl : Bool := false
  cnt : Nat := 0
  w0 : Word
  arg0 : Word := 0
  arg1 : Word := 0
  entered : Nat := 0
  parked : Option Nat := none
  /-- number of the record (model's own), by which selection names it -/
  uid : Nat := 0
deriving DecidableEq, Repr

/-- What selection has chosen and not yet admitted (04_channels R93): an arrival by channel, or a deque entry by
its number. -/
inductive Chosen where
  | arrival (channel : Nat)
  | record (uid : Nat)
deriving DecidableEq, Repr

/-- The crown image (05_crowns R101). -/
structure Image where
  regs : List (Nat × VWord) := []
  masks : List (Nat × Word) := []
  pc : Word := 0
  thandler : Word := 0
  tplbase : Word := 0
  tplsize : Word := 0
  world : Bool := false
  sup : Bool := false
  limit : Nat := 8
  pri : Nat := 0
  level : Nat := 1
  budget : Nat := 0
  shadow : Nat := 0
  sheaf : Nat := 64
  group : Nat := 0
  members : List Nat := []
  dreg : Nat := 0
  n : Nat := 0
deriving DecidableEq, Repr

/-- One of a core's four crown slots (05_crowns R101, R103). -/
structure CrownSlot where
  handle : Nat
  /-- this core is the crown's home and holds its join count -/
  home : Bool := false
  /-- none: reserved, the image is still on its way (R109) -/
  image : Option Image := none
  join : Nat := 0
  failed : Nat := 0
  /-- the crown thread has ended (R123) -/
  crownEnded : Bool := false
  /-- next index the dealer sends; none when it is not started (R106) -/
  dealer : Option Nat := none
  /-- first cycle on which the dealer sends: FREEZE has completed before it (R106) -/
  dealAt : Nat := 0
  /-- sheaves sent to each member and still on their way (R107) -/
  onWay : List (Nat × Nat) := []
  /-- members that have not yet confirmed the image (R103) -/
  installing : List Nat := []
  /-- cores that hold the image and get the release (R123) -/
  holders : List Nat := []
  /-- members whose install stands in their spill queue (20_traps R416, R417) -/
  spilledIn : List Nat := []
deriving DecidableEq, Repr

/-- A request in a core's FIFO with the attributes CPQ records (10_engines R246, R247). at_ is the first cycle on which the
engine can take it. -/
structure Req where
  w0 : Word
  w1 : Word
  w2 : Word
  w3 : Word
  world : Bool
  tenant : Option Nat
  ptbase : Word
  core : Nat
  slot : Nat
  at_ : Nat := 0
deriving DecidableEq, Repr

/-- Why a request fails: cause code, byte offset, stream error code, address (10_engines R250, 20_traps R409). -/
structure Fail where
  cause : Nat
  off : Nat
  code : Nat := 0
  addr : Word := 0
deriving DecidableEq, Repr

/-- The engine's progress with the request of one core (10_engines R244 to R250). -/
structure Running where
  req : Req
  /-- number of the request (model's own), by which late answers know it -/
  no : Nat := 0
  /-- blocks or lines to read, or blocks to fill, in all -/
  total : Nat := 0
  /-- 0 working on blocks, 1 reading the stream's header, 2 reading SQZ or XPND input, 3 writing their output -/
  phase : Nat := 0
  nextRead : Nat := 0
  /-- reads outstanding, by number -/
  reads : List Nat := []
  /-- data read and not yet written: number to bytes and poison -/
  got : List (Nat × (List Byte × Bool)) := []
  nextWrite : Nat := 0
  /-- writes outstanding, by number and address -/
  writes : List (Nat × Word) := []
  /-- the output of SQZ and XPND: address, bytes, byte offset -/
  out : List (Word × List Byte × Nat) := []
  poisoned : Bool := false
  failed : Option Fail := none
  /-- a failure found ahead of the blocks still to be moved -/
  later : Option Fail := none
  /-- TAGFREE is set; TAGDONE is due -/
  freed : Bool := false
  ending : Bool := false
  /-- the translation it waits for -/
  walking : Option Nat := none
  xl : List Xlat := []
  /-- stack-copy invalidations of its writes not yet applied (R233) -/
  invals : Nat := 0
  /-- line requests of MCREAD under way and not accepted; lines whose last sector has not been noticed (R260) -/
  mcLines : Nat := 0
  mcSrc : Nat := 0
  /-- blocks of MCREAD still to be held: multicast, destination (16 * cluster + core), block of the line -/
  mcNeed : List (Nat × Nat × Nat) := []
deriving DecidableEq, Repr

/-- A report waiting at the core (20_traps R411): record address and word 0. -/
structure Report where
  addr : Word
  w0 : Word
  sent : Bool := false
  /-- the dropped count it carried -/
  told : Nat := 0
deriving DecidableEq, Repr

/-- A watch-table entry at a home core (14_sync R354). -/
structure Watch where
  core : Nat
  slot : Nat
  line : Nat
  tier : Bool
  /-- the line's homing domain, none for NAMED -/
  dom : Option Nat := none
  /-- number of the registration (model's own) -/
  reg : Nat := 0
deriving DecidableEq, Repr

/-- A barrier cell (14_sync R343). -/
structure Cell where
  group : Option Nat := none
  expected : Nat := 0
  count : Nat := 0
  phase : Nat := 0
  /-- the cycle after the one on which an ARRIVE or INIT was last applied: one is applied per cycle (R349) -/
  nextAt : Nat := 0
deriving DecidableEq, Repr

/-- The state of pre-emption (20_traps R414). -/
inductive PreSt where
  | running | stopping | draining | saving | preempted | restoring
deriving DecidableEq, Repr

/-! ### What travels -/

/-- An answer to another device's access that waits until the stack-copy invalidations of its write are applied (15_ordering
R384): the access's agent, the invalidations still to come, and the answer once there is one. -/
structure DevAck where
  agent : Agent
  left : Nat
  ans : Option (Access × AccResult) := none
deriving DecidableEq, Repr

/-- A packed thread (08_access R219): the thread and its registers g1 to g(limit-1). -/
structure Migrant where
  th : Thread
  regs : List (Nat × VWord)
  col : Nat
  fromCore : Nat
  fromSlot : Nat
deriving DecidableEq, Repr

/-- A command to a matrix unit (13_matrix R323 to R325). -/
structure MxCmd where
  core : Nat
  slot : Nat
  /-- number of the admission that sent it (model's own) -/
  uid : Nat := 0
  /-- the device, tenant and world it comes from (R322) -/
  dev : Nat := 0
  tenant : Option Nat := none
  world : Bool := false
  cl : Nat
  channel : Nat
  op : Nat
  w0 : Word
  w1 : Word
  cap : Word
  tag : Option Nat
  /-- acceptance order within its context (R331 ORDER) -/
  seq : Nat := 0
  /-- first cycle on which its bits may be set in the issuer's own cluster (R325) -/
  okAt : Nat := 0
deriving DecidableEq, Repr

/-- An answer to a held thread: a value, a trap, or nothing but completion. -/
inductive Ans where
  | done
  | value (v : Word)
  | trap (c : Cause) (addr : Word)
  | full
  | refused
deriving DecidableEq, Repr

/-- A line request of a multicast (10_engines R259, R260): pushing core, bytes of the line from lo on, destination space,
cluster, offset of the first byte, and destination cores. -/
structure McReq where
  core : Nat
  tenant : Option Nat
  lo : Nat
  len : Nat
  dsp : Nat
  cl : Nat
  off : Nat
  mask : Nat
  access : Access
deriving DecidableEq, Repr

/-- A multicast or tail transfer in a home slice's send list (R260, R396). -/
structure McSend where
  /-- the multicast's number, shared by its tail; the entry's own number -/
  id : Nat
  no : Nat
  home : Nat
  reqs : List McReq
  data : List Byte
  bad : List Nat
  /-- the allocation tags of the line's sectors as it was read, which a joining request is checked against -/
  tags : List Nat := []
  next : Nat
  last : Nat
  /-- destinations of the stream: cluster to core mask -/
  dests : List (Nat × Nat)
  /-- joiners: first sector they receive, cluster, mask of the destinations they add, and requester -/
  joins : List (Nat × Nat × Nat × Nat) := []
  isTail : Bool := false
  dirty : Bool := false
  readyAt : Nat := 0
deriving DecidableEq, Repr

/-- A stack copy in a directory (R233): line, tier, 192 bytes, and the sectors that are good in it. -/
structure CopyLine where
  l : Nat
  tier : Bool
  data : List Byte
  has : List Nat
  /-- the allocation tags of its four sectors -/
  tags : List Nat := []
deriving DecidableEq, Repr

/-- What travels between units: the content of a packet or of a delayed notice inside a cluster. -/
inductive Content where
  | msg (m : Msg)
  | sendAns (core slot : Nat) (a : Ans)
  | reportAns (core : Nat) (a : Ans)
  | stealReq (thief victim group : Nat) (handles : List Nat) (room : Bool)
  | stealAns (thief : Nat) (r : Option Rec)
  | chanOp (op core channel : Nat) (w : Word) (rcore rslot : Nat) (secure : Bool)
  | thrAns (core slot : Nat) (a : Ans)
  | imgInstall (member handle : Nat) (img : Image)
  | imgDone (home handle member : Nat) (spilled : Bool)
  | imgFetch (thief handle : Nat)
  | imgData (thief handle : Nat) (img : Option Image)
  | joinDec (handle : Nat) (fail : Bool) (src : Nat)
  | joinOp (handle : Nat) (test : Bool) (rcore rslot : Nat)
  | crownEnd (handle : Nat)
  | crownRel (core handle : Nat)
  | sheaf (core : Nat) (r : Rec) (home : Nat)
  | tlbInv (core : Nat) (va : Nat) (tenant : Word) (rcore rslot : Nat)
  | acc (a : Access)
  | accAns (a : Access) (r : AccResult)
  | rehome (a : Access) (mask gen : Nat)
  | walk (agent : Agent) (core : Nat) (ptbase : Word) (va : Nat)
  | walkAns (agent : Agent) (core : Nat) (ptbase : Word) (va : Nat) (leaf : Option Leaf)
  | copyInv (stack line : Nat) (tier : Bool) (by_ : Agent) (uid : Nat)
  | copyInvAck (by_ : Agent) (uid : Nat)
  | copyFill (stack : Nat) (a : Access) (r : AccResult) (copy : Option CopyLine)
  | migrant (m : Migrant)
  | migAns (core slot : Nat) (ok : Bool)
  | mcLine (r : McReq)
  | mcSector (send : Nat) (req : McReq) (sector : Nat) (data : List Byte) (poison : Bool) (cl mask : Nat)
  | mcSrcDone (core : Nat)
  | mxCmd (c : MxCmd)
  | mxAns (c : MxCmd) (a : Ans)
  | mxDone (c : MxCmd) (check : Option Nat)
  | skReq (keeper slot group : Nat) (p : Word)
  | linkVal (core group : Nat) (v : Word) (kcore kslot : Nat)
  | linkAck (kcore kslot : Nat) (v : Word)
  | barArrive (group bar home rcore rslot : Nat)
  | barInit (group bar home e rcore rslot : Nat)
  | barAns (core slot : Nat) (a : Ans)
  | phase (core group bar phase : Nat)
  | monFire (core slot reg cause : Nat)
  | preempt (core : Nat)
  | resume (core : Nat)
  /-- another device acknowledges a system-scope packet (21_fabric R435): the ends of its stream, class and number -/
  | farAck (scl sep dcl dep cls seq : Nat)
  /-- a router reports a dead link to the fabric manager of its base die (21_fabric R427): router and port -/
  | linkDown (cl port : Nat)
  /-- an engine's block for a home of its own cluster at the cluster's mesh port (17_crosspath_at_work R394) -/
  | atPort (a : Access)
deriving DecidableEq, Repr

/-! ### The fabric (21_fabric) -/

/-- A further destination of a multicast sector's copy (10_engines R261): cluster, endpoint, the number in the stream to it, and
the content for it. -/
structure Branch where
  dcl : Nat
  dep : Nat
  seq : Nat
  content : Nat
deriving DecidableEq, Repr

/-- A packet (R422): its header and, by number, its content. -/
structure Packet where
  edition : Nat
  seq : Nat
  len : Nat
  cls : Nat
  esc : Bool := false
  scl : Nat
  sep : Nat
  dcl : Nat
  dep : Nat
  sdev : Nat := 0
  ddev : Nat := 0
  /-- OP and the operation fields of header word 1, whose codes R422 leaves to the class (log 79) -/
  op : Nat := 0
  fields : Nat := 0
  content : Nat
  /-- of a multicast sector: the number that its copies share, 0 for any other packet; the destinations this copy serves beside its
  own (10_engines R261, R431) -/
  cast : Nat := 0
  more : List Branch := []
  /-- where its header is: router (cluster number), and nanoseconds it has waited for adaptive space (R425) -/
  at_ : Nat := 0
  waited : Nat := 0
  /-- buffer it stands in there: input port, flits, and whether it is the escape buffer (R424) -/
  inPort : Nat := 0
  holds : Nat := 0
  inEsc : Bool := false
  /-- while it is on a link: the router and output it comes from -/
  via : Option (Nat × Nat) := none
  /-- of a packet that another device sent: the device, and the class it bore there, in whose stream it is (R435) -/
  far : Option (Nat × Nat) := none
  /-- how long before the nanosecond in which it left its island's cycle began: a number of cycles' thousandths over MHz (R8; the
  model's own clock division) -/
  ago : Nat × Nat := (0, 1)
deriving DecidableEq, Repr

/-- The two ends of a stream (R426); far names the other device of a system-scope one (R435). -/
structure Stream where
  scl : Nat
  sep : Nat
  dcl : Nat
  dep : Nat
  cls : Nat
  far : Option Nat := none
deriving DecidableEq, Repr

/-- A stream's counts: next number at the source, next at the destination, packets kept for replay, packets held for
a gap (R426). -/
structure StreamSt where
  id : Stream
  next : Nat := 0
  expect : Nat := 0
  retry : List Packet := []
  early : List Packet := []
  /-- packets beyond 256 unacknowledged ones, or held for an unreachable destination (R426, R430) -/
  waiting : List Packet := []
deriving DecidableEq, Repr

/-- A chart entry (R428): allowed outputs +x, -x, +y, -y in bits 0 to 3, escape output 0 to 3, unreachable. -/
structure ChartEntry where
  allowed : Nat
  esc : Nat
  unreachable : Bool := false
deriving DecidableEq, Repr

/-- A router (R424 to R429): none is the default chart. used counts the flits in its adaptive buffers by 8 * input port +
class, escUsed those in its escape buffers by input port, retries the failed retries of a flit by port; held are packets
of the next edition. -/
structure Router where
  active : Option (List (Nat × ChartEntry)) := none
  shadow : Option (List (Nat × ChartEntry)) := none
  edition : Nat := 0
  dead : List Nat := []
  used : List (Nat × Nat) := []
  escUsed : List (Nat × Nat) := []
  retries : List (Nat × Nat) := []
  held : List Nat := []
  shadowAck : Bool := false
deriving DecidableEq, Repr

/-- An Ethernet frame as the port hands it over (R433, R434). zero is what its reserved bytes hold. -/
structure Frame where
  etherType : Nat
  version : Nat
  flags : Nat
  edition : Nat
  src : Nat
  dst : Nat
  srcMac : Nat
  dstMac : Nat := 0
  /-- the priority of an 802.1Q tag, which the port strips -/
  tag : Option Nat := none
  /-- the port it came in by or goes out by -/
  port : Nat := 0
  packets : List (Packet × Content)
  count : Nat := packets.length
  zero : Nat := 0
  goodFcs : Bool := true
deriving DecidableEq, Repr

/-- An entry of the device map (R435). -/
structure DevEntry where
  mac : Nat
  ports : List Nat
  tenant : Nat
  world : Bool
deriving DecidableEq, Repr

/-! ### Cores, columns, clusters, quads, stacks -/

/-- A core (R11) with what it keeps. -/
structure Core where
  slots : List (Nat × Slot) := []
  /-- register file by entry 0 to 2047 (R131); absent reads zero -/
  rf : List (Nat × VWord) := []
  ttab : List (Nat × Word) := []
  cnt : List (Nat × Nat) := []
  tagdone : Word := 0
  tagfree : Word := 0
  mxstat : Word := 0
  inUse : List Nat := []
  stealgrp : Word := 0
  memb : List (Nat × Word) := []
  ptbase : Word := 0
  savebase : Word := 0
  spillbase : Word := 0
  /-- COUNT and SPILLMAX of PREEMPTST (R414); STATE is pre -/
  preCount : Nat := 0
  spillMax : Nat := 0
  pre : PreSt := .running
  /-- CYCLE when STOPPING began (R418) -/
  stopAt : Nat := 0
  /-- an entry of its spill queue is being applied (R417) -/
  applying : Bool := false
  /-- items that a full spill queue has refused and their senders send again, in order: kind and source, item (R417) -/
  refused : List ((Nat × Nat) × Nat) := []
  /-- blocks of the save area read since RESUME (R415) -/
  areaIn : List (List Byte) := []
  wdog : Word := 0
  /-- ERRLOG without NEXT (R403) -/
  errlog : Word := 0
  errNext : Nat := 0
  errSeq : Nat := 0
  arrivals : List Arrival := []
  /-- top of the deque first; parked records among them (R87, R91) -/
  deque : List Rec := []
  stealOut : Bool := false
  stealAsked : Nat := 0
  stealWait : Nat := 0
  chosen : Option Chosen := none
  serial : Nat := 0
  crowns : List (Nat × CrownSlot) := []
  cells : List (Nat × Cell) := []
  /-- phase mirrors by 128 * membership + barrier (R343) -/
  mirrors : List (Nat × Nat) := []
  /-- mirrors that a notice wrote on cycle mirrorAt, with what they held: a held WAIT sees them from the next cycle on (R348) -/
  mirrorAt : Nat := 0
  mirrorWas : List (Nat × Nat) := []
  /-- link queues by membership, oldest first (R337) -/
  links : List (Nat × List Word) := []
  watch : List Watch := []
  tcache : List Leaf := []
  /-- (cluster * 8 + domain) to (MASK, GEN) (R230) -/
  domCache : List (Nat × (Nat × Nat)) := []
  /-- HASHED accesses sent from the core and not yet answered; later ones of the same agent to the same line that wait
  because the earlier one is on its way to another home (R230: an access keeps its place in program order) -/
  sent : List Access := []
  behind : List Access := []
  /-- accesses accepted at its slice by line (2 * L + tier), in order of arrival: the first is being served (15_ordering
  R368, R380) -/
  homeQ : List (Nat × List Nat) := []
  /-- lines written at its slice on cycle wroteAt: one write of a line in a cycle (R367) -/
  wroteAt : Nat := 0
  wroteNow : List Nat := []
  /-- entries of its register file in which an error has arisen that no read has found yet: false one that its ECC corrects,
  true an uncorrectable one (20_traps R402, R409; an input) -/
  rfErr : List (Nat × Bool) := []
  /-- tag bits set on cycle tagSetAt, which a thread held in WAITT sees from the next cycle on (10_engines R257) -/
  tagSetAt : Nat := 0
  tagSetD : Word := 0
  tagSetF : Word := 0
  /-- the send-list entry its slice served last (R396) -/
  mcLast : Nat := 0
  fifo : List Req := []
  running : Option Running := none
  /-- earliest cycle at which the engine takes the next request (R244) -/
  engineAt : Nat := 0
  spill : List Content := []
  /-- the places in its spill area of the entries of spill (R417) -/
  spillAt : List Nat := []
  /-- next block of the save area, or next entry of the spill queue to be applied -/
  saveNext : Nat := 0
  reports : List Report := []
  dropped : Nat := 0
  /-- service requests of R406 that wait for the arrival queue -/
  svcWait : List Msg := []
  /-- matrix commands accepted from the core and not completed (R415) -/
  mxOut : Nat := 0
  /-- last cycle for which a GLOBAL access of the core to its own cluster, and a content of the core to another core of
  its cluster, is scheduled: later ones arrive no earlier (R144, R426: order of one source) -/
  homeAt : Nat := 0
  outAt : Nat := 0
deriving DecidableEq, Repr

/-- An entry of a twin pair's load-value queue: a value, or the trap that the lead's instruction took, with its TADDR
and TPROG. -/
inductive TwinVal where
  | value (v : VWord)
  | trap (c : Cause) (addr prog : Word)
deriving DecidableEq, Repr

/-- A twin pair's queues (20_traps R413): load values, and the two comparator entries as word lists. leadAt is the
cycle on which the lead last issued; owed are entries that wait for room in the load-value queue; got counts the values that
the trail has taken for its instruction, and trapped is the trap entry it has taken ahead of them. -/
structure TwinPair where
  values : List TwinVal := []
  owed : List TwinVal := []
  got : Nat := 0
  trapped : Option TwinVal := none
  lead : Option (List Word) := none
  trail : Option (List Word) := none
  leadAt : Nat := 0
deriving DecidableEq, Repr

/-- An access through a column store's port on a cycle: source 0 upper core, 1 lower core, 2 network (R202). -/
structure PortAcc where
  at_ : Nat
  src : Nat
  acc : Access
deriving DecidableEq, Repr

/-- A column: what its two cores share (R10). The column store's bytes stand in State.colMem. -/
structure Column where
  /-- instruction cache: by line address and the tables it was translated under (fetchKey in Machine/Ops.lean), the
  leaf's entry and 64 bytes (R158) -/
  icache : List (Nat × (Word × List Byte)) := []
  /-- lines being filled: by the same key, waiting slots (core * 16 + slot) (R159) -/
  filling : List (Nat × List Nat) := []
  twinctl : Word := 0
  miss : Nat := 0
  twins : List (Nat × TwinPair) := []
  migrants : List Migrant := []
  /-- shadow blocks reserved of 1,024 (R116) -/
  shadowUsed : Nat := 0
  /-- frozen windows: crown handle, first block offset, blocks (R115) -/
  frozen : List (Nat × (Nat × Nat)) := []
  port : List PortAcc := []
  /-- the cycle on which each core's port last performed a block (R202: one per cycle) -/
  portUsed : List (Nat × Nat) := []
  /-- first cycle on which the network port is free (R202: one block per cycle, in arrival order) -/
  netNext : Nat := 0
  /-- lines whose fill under way SYS.TLBINV has overtaken: they are filled again (R161, R186) -/
  refill : List Nat := []
deriving DecidableEq, Repr

/-- A sector of a line in a slice (R224). -/
structure LineSector where
  valid : Bool := false
  dirty : Bool := false
  poison : Bool := false
  tag : Nat := 0
deriving DecidableEq, Repr

/-- A way of a CACHE bank (R224). -/
structure Line where
  l : Nat
  tier : Bool
  /-- none: NAMED -/
  dom : Option Nat
  pinned : Bool := false
  orphan : Bool := false
  sectors : List LineSector
  data : List Byte
  used : Nat := 0
deriving DecidableEq, Repr

/-- An inner rose table: rows of 32 banks (R138). -/
abbrev InnerTable := List (List Nat)

/-- A pass over the slices (R231, R232): which lines and until which cycle. -/
structure Pass where
  /-- some d: domain d; none: every line of core `core` -/
  dom : Option Nat
  core : Nat
  until_ : Nat
deriving DecidableEq, Repr

/-- A BANKROLE write waiting to take effect (R153): the threads that wait, each with the value it reads (R152). -/
structure RoleChange where
  writers : List (Nat × Nat × Word)
  new : Word
  reqT : Nat
deriving DecidableEq, Repr

/-- A context of the matrix unit (R320). -/
structure MxCtx where
  /-- what a remote context is bound to: 4096 * device + core -/
  bound : Option Nat := none
  fmt : Nat := 0
  prec : Nat := 0
  int32 : Bool := false
  tmask : Nat := 0
  valid : Bool := false
  /-- commands accepted and not granted, oldest first -/
  queue : List MxCmd := []
  lastCh : Nat := 3
  /-- the cycle on which its last command to end completes (R327, R331) -/
  lateAt : Nat := 0
deriving DecidableEq, Repr

/-- A granted command being executed (R335). Blocks are numbered 128 * chunk + block, or by block. -/
structure MxRun where
  cmd : MxCmd
  ctx : Nat
  /-- chunk to be computed next -/
  chunk : Nat := 0
  got : List (Nat × List Byte) := []
  /-- blocks requested and not performed -/
  left : Nat := 0
  /-- blocks that mapped out of range (R452) -/
  bad : List Nat := []
  computing : Bool := false
  /-- the matrix check code on which it is refused or has failed -/
  check : Option Nat := none
  ending : Bool := false
deriving DecidableEq, Repr

/-- The matrix unit (R319 to R327): tiles are 8 * 4096 words of 32 bits, absent zero. -/
structure Matrix where
  tiles : List (Nat × BitVec 32) := []
  ctxs : List (Nat × MxCtx) := []
  lastCtx : Nat := 19
  /-- number of the next command accepted (R331 ORDER) -/
  seq : Nat := 0
  run : Option MxRun := none
  /-- cycle on which the last command completed: later ones complete no earlier (13_matrix R327) -/
  doneAt : Nat := 0
deriving DecidableEq, Repr

/-- A cluster (R10). -/
structure Cluster where
  up : Bool := false
  t : Nat := 0
  /-- thousandths of a cycle gathered since the last one (model's own clock division) -/
  phase : Nat := 0
  mhz : Nat := 1000
  mhzReq : Option Nat := none
  /-- cycles its clock is still stopped for (R15) -/
  stopped : Nat := 0
  bankrole : Word := 0
  inner : InnerTable
  innerShadow : InnerTable
  /-- staging of ROSEDATA0 and ROSEDATA1 (R146) -/
  stage0 : Word := 0
  stage1 : Word := 0
  roseidx : Word := 0
  sin : Nat := 32
  swap : Bool := false
  swapAt : Nat := 0
  done : Bool := true
  refused : Bool := false
  /-- IDOM0 to IDOM7: MASK and GEN (R229); absent reads (0xFFFF, 0) -/
  idom : List (Nat × (Nat × Nat)) := []
  pinbypass : Nat := 0
  orphans : Nat := 0
  keeper : Nat
  world : Bool := false
  tenant : Word := 0
  /-- accesses waiting at each rider, in request order (R135) -/
  riders : List (Nat × List Access) := []
  roleChange : Option RoleChange := none
  passes : List Pass := []
  /-- ways of CACHE banks by bank * 512 + set * 8 + way -/
  lines : List (Nat × Line) := []
  matrix : Matrix := {}
  /-- core the engine took a request from last (R244) -/
  engineLast : Nat := 15
  /-- multicast send lists (R396) -/
  mcast : List McSend := []
  /-- the engine's translation cache with the TIER and ROOT of each entry (R246) -/
  engineTc : List (Word × Leaf) := []
  /-- sectors received for destination blocks of multicasts: (multicast * 16 + core) * 4 + sector to bytes and poison
  (R260) -/
  mcParts : List (Nat × (List Byte × Bool)) := []
  /-- blocks of multicasts performed: (multicast * 16 + core) * 4 + block -/
  mcDone : List Nat := []
deriving DecidableEq, Repr

/-- A quad's outer tables (R139, R147, R148): rows are FACE bytes. -/
structure Quad where
  outer : List Nat := [0xE4]
  outerShadow : List Nat := [0xE4, 0xE4, 0xE4, 0xE4, 0xE4, 0xE4, 0xE4, 0xE4,
    0xE4, 0xE4, 0xE4, 0xE4, 0xE4, 0xE4, 0xE4, 0xE4]
  act : Bool := false
  row : Nat := 0
  sout : Nat := 1
deriving DecidableEq, Repr

/-- A copy fill under way: its number, line and tier, and whether an invalidation crossed it (R382). -/
structure CopyFillSt where
  stamp : Nat
  l : Nat
  tier : Bool
  crossed : Bool := false
deriving DecidableEq, Repr

/-- A page walk (08_access R201): the tables and the 48 KiB of the address, the quadrant whose walkers serve it, the requests
merged into it, and whether a walker has it. -/
structure Walk where
  tables : Word
  page : Nat
  quadrant : Nat
  ids : List Nat
  running : Bool := false
deriving DecidableEq, Repr

/-- What a stack's base die keeps (R9, R233, R445). -/
structure Stack where
  /-- the measurement register M, 64 bytes (R445) -/
  m : List Byte
  /-- firmware stages run so far; halted after a failed check -/
  stage : Nat := 0
  halted : Bool := false
  booted : Bool := false
  copies : List CopyLine := []
  filling : List CopyFillSt := []
  /-- the walks of its 64 walkers, sixteen to a quadrant, oldest first (R201, 21_fabric R421) -/
  walks : List Walk := []
deriving DecidableEq, Repr

/-- A group entry (R127) with its sequence count (R337). -/
structure Group where
  tenant : Nat
  members : List Nat
  seq : Nat := 0
deriving DecidableEq, Repr

/-- A sector of a tier beside its data (R236): the tag it was encoded under, the sector address it was encoded for when that
is another one, the stored symbols in which what is read differs from what was written, and whether both check symbols
were inverted (R238). -/
structure SectorMeta where
  tag : Nat := 0
  addr : Option Nat := none
  flips : List Nat := []
  inverted : Bool := false
deriving DecidableEq, Repr

/-- A leaf or a pointer of a page table in a checkpoint: tier of the tables, address of the entry, level, entry; for a leaf the
bytes of its page that are not zero and the tags of its sectors, both by place in the page (R443). -/
structure CkPage where
  tableLp : Bool
  at_ : Nat
  level : Nat
  entry : Word
  bytes : Memory := []
  sectors : List (Nat × SectorMeta) := []
deriving DecidableEq, Repr

/-- A cluster in a checkpoint: its domains, roles and inner table, its quad's outer table, column stores and bank spaces by
place in the cluster, and the task entries of its cores by 64 * local core + channel (R443). -/
structure CkCluster where
  cl : Nat
  idom : List (Nat × (Nat × Nat))
  bankrole : Word
  inner : InnerTable
  outer : List Nat
  cols : Memory
  banks : Memory
  entries : List (Nat × Word)
deriving DecidableEq, Repr

/-- A checkpoint image on a storage device (R443), as structured data. -/
structure CkImage where
  id : Word
  storage : Nat
  tenant : Nat
  device : Nat
  stackCount : Nat
  mathrev : Nat
  quiescent : Bool
  clusters : List CkCluster
  groups : List (Nat × List Nat)
  /-- save areas by core; none when quiescent -/
  areas : List (Nat × List Byte)
  pages : List CkPage
  /-- the signature of the digest of everything above -/
  sig : List Byte := []
deriving DecidableEq, Repr

/-- What an event row acts on: a unit, a part of it, an item in flight, and a value. Which of them a row uses its
meaning says. -/
structure Subject where
  unit : Nat := 0
  sub : Nat := 0
  item : Nat := 0
  val : Word := 0
deriving DecidableEq, Repr

/-- What step does next within the current cycle: an event row with its subject, a slot's turn, or the accesses of a
column's core ports that fall on this cycle (R202). -/
inductive Move where
  | dev (i : Instr) (subj : Subject)
  | issue (core slot : Nat)
  | port (col src : Nat) (loads : Bool)
  /-- a slot's turn, put behind the stores of the cycle when it is a LOCAL load (R203) -/
  | turn (core slot : Nat)
deriving DecidableEq, Repr

/-- A scheduled event: due at a cycle of a cluster's count, or at a nanosecond when it has no cluster. -/
structure Event where
  cl : Option Nat
  due : Nat
  row : Instr
  subj : Subject
  /-- a content that the mesh brought between two cycles of its cluster: such events come first (R8; model's own) -/
  landed : Bool := false
deriving DecidableEq, Repr

/-- What the platform firmware is to set up in a cluster when it brings its island up (23_retire R446): an input of the
machine. -/
structure PlanEntry where
  tenant : Option Nat := none
  world : Bool := false
  mhz : Nat := 1000
  keeper : Nat := 0
  /-- ERRLOG and PTBASE by local core; first task entries by 64 * local core + channel -/
  errlog : List (Nat × Word) := []
  ptbase : List (Nat × Word) := []
  entries : List (Nat × Word) := []
deriving DecidableEq, Repr

/-- The whole module. -/
structure State where
  /-- nanoseconds since the reset input was released (R8: the fabric and the DRAM tiers keep their own clocks) -/
  now : Nat := 0
  clusters : List (Nat × Cluster) := []
  cores : List (Nat × Core) := []
  columns : List (Nat × Column) := []
  quads : List (Nat × Quad) := []
  baseDies : List (Nat × Stack) := []
  routers : List (Nat × Router) := []
  /-- banks: ((cluster * 32 + bank) * 1536 + row) * 64 + byte (R133) -/
  bankMem : Memory := []
  /-- column stores: column * 2^18 + offset (R13) -/
  colMem : Memory := []
  hbm : Memory := []
  lp : Memory := []
  /-- blocks of bankMem and colMem whose ECC marks them poisoned (R238) -/
  bankBad : List Nat := []
  colBad : List Nat := []
  /-- blocks of bankMem and colMem in which an error has arisen that no access has found yet: false one that their ECC
  corrects, true an uncorrectable one (R155, 20_traps R409; an input) -/
  bankErr : List (Nat × Bool) := []
  colErr : List (Nat × Bool) := []
  /-- tags and errors of DRAM sectors: 2 * sector + tier (R236) -/
  sectors : List (Nat × SectorMeta) := []
  groups : List (Nat × Group) := []
  /-- matrix keys of the tenants (R322) -/
  keys : List (Nat × List Byte) := []
  /-- the module's device number and the device map (R11, R435) -/
  devNo : Nat := 0
  devMap : List (Nat × DevEntry) := []
  sysEdition : Nat := 0
  sysChart : List (Nat × List Nat) := []
  portsDown : List Nat := []
  /-- failed paths: device and port (R436) -/
  pathsDown : List (Nat × Nat) := []
  /-- frames received and not yet processed, frames sent -/
  ethIn : List Frame := []
  /-- frames of the next system edition -/
  ethEarly : List Frame := []
  ethOut : List Frame := []
  /-- counts the firmware keeps: foreign EtherTypes, unmapped or mismatched sources, old editions, undeliverable
  messages, requests without a reply core (R20, R433, R435, R436, R450) -/
  fwCounts : List (Nat × Nat) := []
  streams : List StreamSt := []
  /-- answers to other devices held for invalidations (15_ordering R384) -/
  devAcks : List DevAck := []
  packets : List (Nat × Packet) := []
  /-- packets of other devices that their endpoint has not acknowledged yet, each with the router at which it entered (R435) -/
  farIn : List (Nat × Packet) := []
  items : List (Nat × Content) := []
  /-- messages held because the island is down (R20) -/
  undeliverable : List Nat := []
  /-- tenants whose firmware request is being served (R450) -/
  fwBusy : List Nat := []
  /-- cores that a request (item) has asked to stop, which run again if it is refused (R450: never partly performed) -/
  fwStopped : List (Nat × Nat) := []
  fwNotes : List Word := []
  images : List CkImage := []
  /-- firmware stages in flash: bytes and signature (R445) -/
  flash : List (List Byte × List Byte) := []
  /-- the firmware's plan by cluster (an input; empty at reset) -/
  plan : List (Nat × PlanEntry) := []
  /-- the device number the firmware assigns (R446; an input) -/
  planDev : Nat := 0
  /-- the fabric manager's work: the dead links (4 * router + port) of the chart being installed and turned to, and whether
  another link has died since (R429) -/
  fmDead : Option (List Nat) := none
  fmAgain : Bool := false
  /-- the order of turns of its escape outputs, 4 for a tree (R429; log 50) -/
  fmOrder : Nat := 0
  /-- links that routers have reported dead to a fabric manager: 4 * router + port, both ends (R427) -/
  fmHeard : List Nat := []
  /-- current thread: the slot whose turn it is (model's own selection) -/
  curCore : Nat := 0
  curSlot : Nat := 0
  /-- whether a slot's turn is being taken -/
  curr : Bool := false
  subj : Subject := {}
  /-- moves left in this cycle; scheduled events with the time they fall due -/
  agenda : List Move := (List.range 4).map fun st => .dev .bootStage { unit := st }
  events : List Event := []
  /-- number of the next item, packet and free value (the model's own) -/
  nextId : Nat := 0
  fresh : Nat := 0
deriving DecidableEq, Repr

/-- The default inner table (R138): row r sends rider i to bank (i + r) mod 32. -/
def defaultInner : InnerTable :=
  (List.range 32).map fun r => (List.range 32).map fun i => (i + r) % 32

/-- A cluster at reset (R20, R136, R138, R148, R181, R229, R239). -/
def Cluster.reset (cl : Nat) : Cluster :=
  { inner := defaultInner, innerShadow := defaultInner, keeper := cl * 16 }

/-- A stack at reset: M is zero (R445). -/
def Stack.reset : Stack := { m := List.replicate 64 0 }

/-- The module right after its reset input is released: every island unpowered (R20), every core and cluster register
as R181 gives, the default rose tables (R138, R139), the default chart and edition 0 (R428). Maps list nothing: an
unlisted unit reads as its reset. -/
def State.reset : State := {}

end Sys2Proof.Machine
end

