-- ==== Sys2Proof/Machine/Ops.lean ====
section
/-!
DEFINITION. The named operations over memory, units, registers and threads, the schedule of events and the sending of
contents, the next PC and line copies, error records and reports, parking, taking a trap and returning from one, and
the end of a thread. Every meaning is written over these.
-/
namespace Sys2Proof.Machine

open Sys2Proof

/-! ### Maps -/

/-- The value at a key, or nothing. -/
def find {α : Type} (m : List (Nat × α)) (k : Nat) : Option α := match m with
  | [] => none
  | (k', v) :: r => if k' = k then some v else find r k

/-- The value at a key, or the default. -/
def look {α : Type} (m : List (Nat × α)) (k : Nat) (d : α) : α := match m with
  | [] => d
  | (k', v) :: r => if k' = k then v else look r k d

/-- Set a key, keeping the keys rising. -/
def assign {α : Type} (m : List (Nat × α)) (k : Nat) (v : α) : List (Nat × α) := match m with
  | [] => [(k, v)]
  | (k', v') :: r => if k = k' then (k, v) :: r else if k < k' then (k, v) :: (k', v') :: r else (k', v') :: assign r k v

/-- Remove a key. -/
def unset {α : Type} (m : List (Nat × α)) (k : Nat) : List (Nat × α) := m.filter fun p => p.1 != k

/-! ### Memory -/

/-- What a byte of memory that nothing has written reads as (log 1). -/
def unwritten : Byte := 0

/-- The canonical form: addresses strictly rising, no byte equal to what an unlisted address reads as. -/
def Memory.wf (m : Memory) : Bool := match m with
  | [] => true
  | (_, b) :: [] => b != unwritten
  | (a, b) :: (a', b') :: r => (b != unwritten) && decide (a < a') && Memory.wf ((a', b') :: r)

/-- Read one byte. -/
def Memory.read (m : Memory) (a : Nat) : Byte := look m a unwritten

/-- Write one byte: the address is listed once, in its place, or, when the byte is what an unlisted address reads as, not at all. -/
def Memory.write (m : Memory) (a : Nat) (b : Byte) : Memory := if b = unwritten then unset m a else assign (unset m a) a b

/-- Read n bytes from a on. -/
def Memory.readN (m : Memory) (a n : Nat) : List Byte := (List.range n).map fun i => Memory.read m (a + i)

/-- Write bytes from a on. -/
def Memory.writeN (m : Memory) (a : Nat) (bs : List Byte) : Memory := match bs with
  | [] => m
  | b :: r => Memory.writeN (Memory.write m a b) (a + 1) r

/-! ### Numbers and bytes (R1: little-endian) -/

/-- The number a list of bytes holds, the first byte least significant. -/
def ofBytes (bs : List Byte) : Nat := match bs with
  | [] => 0
  | b :: r => b.toNat + 256 * ofBytes r

/-- The n bytes of a number, least significant first. -/
def toBytes (n : Nat) (v : Nat) : List Byte := match n with
  | 0 => []
  | n + 1 => BitVec.ofNat 8 v :: toBytes n (v / 256)

/-- Bits [h:l] of a number. -/
def bits (v h l : Nat) : Nat := v / 2 ^ l % 2 ^ (h + 1 - l)
/-- Bit n of a number. -/
def bit (v n : Nat) : Bool := v / 2 ^ n % 2 == 1
/-- The n-bit field v read as signed. -/
def sext (v n : Nat) : Int := if v % 2 ^ n < 2 ^ (n - 1) then (v % 2 ^ n : Nat) else (v % 2 ^ n : Nat) - (2 : Int) ^ n
/-- An integer modulo 2^n. -/
def wrapN (n : Nat) (v : Int) : Nat := (v % (2 : Int) ^ n).toNat
/-- A word from an integer, modulo 2^64. -/
def wordOf (v : Int) : Word := BitVec.ofInt 64 v
/-- The low 64 bits of a register (R165). -/
def low64 (v : VWord) : Word := v.setWidth 64
/-- A 64-bit result in a register: bits [511:64] cleared (R165). -/
def widen (w : Word) : VWord := w.setWidth 512
/-- The set bits of a number below n. -/
def setBits (v n : Nat) : List Nat := (List.range n).filter fun i => bit v i
/-- A word with bit n set. -/
def withBit (w : Word) (n : Nat) : Word := w ||| BitVec.ofNat 64 (2 ^ n)
/-- A word with bit n cleared. -/
def withoutBit (w : Word) (n : Nat) : Word := w &&& ~~~(BitVec.ofNat 64 (2 ^ n))
/-- Element i of a list of numbers, zero beyond its end. -/
def nth (l : List Nat) (i : Nat) : Nat := l.getD i 0

/-! ### Units (R11) -/

/-- The cluster of a core. -/
def clusterOf (core : Nat) : Nat := core / 16
/-- The column of a core. -/
def columnOf (core : Nat) : Nat := core / 2
/-- The stack of a cluster. -/
def stackOf (cl : Nat) : Nat := cl / 64
/-- Mesh position x of a cluster. -/
def meshX (cl : Nat) : Nat := 8 * (stackOf cl % 2) + cl % 8
/-- Mesh position y of a cluster. -/
def meshY (cl : Nat) : Nat := 8 * (stackOf cl / 2) + cl / 8 % 8
/-- The cluster at a mesh position. -/
def clusterAt (x y : Nat) : Nat := 64 * (x / 8 + 2 * (y / 8)) + 8 * (y % 8) + x % 8
/-- Mesh hops between two clusters. -/
def hops (a b : Nat) : Nat :=
  (meshX a - meshX b) + (meshX b - meshX a) + (meshY a - meshY b) + (meshY b - meshY a)

/-- A core of the module. -/
def State.core (s : State) (c : Nat) : Core := look s.cores c {}
/-- Replace a core. -/
def State.setCore (s : State) (c : Nat) (v : Core) : State := { s with cores := assign s.cores c v }
/-- Change a core. -/
def State.onCore (s : State) (c : Nat) (f : Core → Core) : State := s.setCore c (f (s.core c))
/-- A column. -/
def State.column (s : State) (k : Nat) : Column := look s.columns k {}
/-- Change a column. -/
def State.onColumn (s : State) (k : Nat) (f : Column → Column) : State :=
  { s with columns := assign s.columns k (f (s.column k)) }
/-- A cluster. -/
def State.cluster (s : State) (k : Nat) : Cluster := look s.clusters k (Cluster.reset k)
/-- Change a cluster. -/
def State.onCluster (s : State) (k : Nat) (f : Cluster → Cluster) : State :=
  { s with clusters := assign s.clusters k (f (s.cluster k)) }
/-- A quad. -/
def State.quad (s : State) (k : Nat) : Quad := look s.quads k {}
/-- Change a quad. -/
def State.onQuad (s : State) (k : Nat) (f : Quad → Quad) : State :=
  { s with quads := assign s.quads k (f (s.quad k)) }
/-- A stack's base die. -/
def State.stack (s : State) (k : Nat) : Stack := look s.baseDies k Stack.reset
/-- Change a stack's base die. -/
def State.onStack (s : State) (k : Nat) (f : Stack → Stack) : State :=
  { s with baseDies := assign s.baseDies k (f (s.stack k)) }
/-- A router. -/
def State.router (s : State) (k : Nat) : Router := look s.routers k {}
/-- Change a router. -/
def State.onRouter (s : State) (k : Nat) (f : Router → Router) : State :=
  { s with routers := assign s.routers k (f (s.router k)) }
/-- A slot of a core. -/
def State.slot (s : State) (c sl : Nat) : Slot := look (s.core c).slots sl {}
/-- Replace a slot. -/
def State.setSlot (s : State) (c sl : Nat) (v : Slot) : State :=
  s.onCore c fun k => { k with slots := assign k.slots sl v }
/-- The thread of a slot. -/
def State.thread (s : State) (c sl : Nat) : Thread := (s.slot c sl).th
/-- Replace the thread of a slot. -/
def State.setThread (s : State) (c sl : Nat) (th : Thread) : State :=
  s.setSlot c sl { s.slot c sl with th := th }
/-- Change the thread of a slot. -/
def State.onThread (s : State) (c sl : Nat) (f : Thread → Thread) : State := s.setThread c sl (f (s.thread c sl))
/-- The cycle count of a core's cluster (R130). -/
def State.cyc (s : State) (c : Nat) : Nat := (s.cluster (clusterOf c)).t
/-- The tenant that owns a cluster, when it is assigned (R449). -/
def State.tenantOf (s : State) (cl : Nat) : Option Nat :=
  let w := (s.cluster cl).tenant.toNat
  if bit w 4 then some (w % 16) else none

/-! ### Events and contents -/

/-- A fresh number. -/
def State.draw (s : State) : Nat × State := (s.fresh, { s with fresh := s.fresh + 1 })

/-- Schedule a row at a cycle of a cluster. -/
def State.atCycle (s : State) (cl due : Nat) (row : Instr) (subj : Subject) : State :=
  { s with events := s.events ++ [{ cl := some cl, due := due, row := row, subj := subj }] }

/-- Schedule a row a number of cycles of a cluster from now. -/
def State.inCycles (s : State) (cl d : Nat) (row : Instr) (subj : Subject) : State :=
  s.atCycle cl ((s.cluster cl).t + d) row subj

/-- Schedule a row a number of nanoseconds from now. -/
def State.inNs (s : State) (d : Nat) (row : Instr) (subj : Subject) : State :=
  { s with events := s.events ++ [{ cl := none, due := s.now + d, row := row, subj := subj }] }

/-- The cycles that a time of the fabric or the tiers, given in cycles of 1 GHz, takes on a cluster's clock (R8: at a frequency f,
f / 1 GHz times as many, rounded up). -/
def State.islandCycles (s : State) (cl d : Nat) : Nat := (d * (s.cluster cl).mhz + 999) / 1000

/-- The round trip to the farthest of some cores' clusters, in a core's own cycles (21_fabric R423). -/
def State.roundTrip (s : State) (c : Nat) (others : List Nat) : Nat :=
  let me := clusterOf c
  s.islandCycles me (2 * (20 + 3 * others.foldl (fun h k => max h (hops me (clusterOf k))) 0))

/-- Schedule a row at least a number of nanoseconds from now: the excess is free (R235: "at least"). -/
def State.inAtLeast (s : State) (d : Nat) (row : Instr) (subj : Subject) : State :=
  let (n, s) := s.draw
  s.inNs (d + Config.jitter n) row subj

/-- Number a content. -/
def State.addItem (s : State) (c : Content) : Nat × State :=
  (s.nextId, { s with items := assign s.items s.nextId c, nextId := s.nextId + 1 })

/-- Take a content out. -/
def State.takeItem (s : State) (id : Nat) : Option Content × State :=
  (find s.items id, { s with items := unset s.items id })

/-- The row of a request to the firmware (23_retire R450): by its code, and for codes 2 and 6 by an operand. -/
def fwRow (ws : List Word) : Instr :=
  let w := fun i => (ws.getD i 0).toNat
  match bits (w 0) 7 0 with
  | 1 => .fwMatrixCheckCode
  | 2 => if w 2 = 1 then .fwResumeCore else .fwPreemptCore
  | 3 => .fwIslandFrequency
  | 4 => .fwRetireBank
  | 5 => .fwWriteGroup
  | 6 => if bit (w 2) 0 then .fwRestore else .fwCheckpoint
  | 7 => .fwAttestationQuote
  | 8 => .fwTenantReset
  | _ => .packetDelivery

/-- The row that a content's arrival is, with its subject's unit; contents that no row names are delivered by
PACKET_DELIVERY itself (sub = 1). -/
def rowOf (c : Content) : Instr × Nat := match c with
  | .msg m => if m.dstDev = 0xFFFE then (fwRow m.words, m.srcCore) else (.arrival, m.dstCore)
  | .sendAns core slot _ => (.sendAnswer, core * 16 + slot)
  | .stealReq _ victim .. => (.stealAnswer, victim)
  | .stealAns thief _ => (.stealReceive, thief)
  | .chanOp _ core .. => (.chanRemote, core)
  | .imgInstall member .. => (.imageInstall, member)
  | .imgFetch _ h => (.imageFetch, h / 2 ^ 20 % 4096)
  | .joinDec h _ _ => (.joinDecrement, h / 2 ^ 20 % 4096)
  | .crownRel core _ => (.crownRelease, core)
  | .tlbInv core .. => (.tlbinvRemote, core)
  | .acc a => match a.space with
    | .global => if a.op = .watch then (.monitorRegistration, a.homeCore) else (.homeSliceAccess, a.homeCore)
    | .loc => (.networkPortAccess, a.va / 2 ^ 18)
    | _ => (.packetDelivery, 0)
  | .accAns a _ => match a.agent with
    | .fetch col => (.lineFill, col)
    | _ => (.packetDelivery, 0)
  | .rehome a .. => (.rehomeReplay, a.homeCore)
  | .walk .. => (.pageWalk, 0)
  | .copyInv stack .. => (.copyInvalidation, stack)
  | .copyFill stack .. => (.stackCopyFill, stack)
  | .migrant m => (.migrantArrival, m.col)
  | .mcLine r => (.mcreadLineRequest, r.core)
  | .mcSector .. => (.multicastBlockWrite, 0)
  | .mxCmd c => (.matrixAccept, c.cl)
  | .mxAns c _ => (.mxAnswer, c.core * 16 + c.slot)
  | .linkVal core .. => (.linkValueDelivery, core)
  | .barArrive _ _ home .. => (.barrierArrival, home)
  | .barInit _ _ home .. => (.barrierInit, home)
  | .phase core .. => (.phaseNotice, core)
  | .preempt core => (.preempt, core)
  | .resume core => (.resume, core)
  | _ => (.packetDelivery, 0)

/-- The subject under which an item is delivered. -/
def subjOf (c : Content) (id : Nat) : Subject :=
  let (row, unit) := rowOf c
  { unit := unit, item := id, sub := if row = .packetDelivery then 1 else 0 }

/-- A notice inside a cluster, after d of its cycles. -/
def State.notify (s : State) (cl d : Nat) (c : Content) : State :=
  let (id, s) := s.addItem c
  s.inCycles cl d (rowOf c).1 (subjOf c id)

/-- A stream's counts. -/
def State.stream (s : State) (id : Stream) : StreamSt :=
  (s.streams.find? fun x => x.id = id).getD { id := id }

/-- Replace a stream's counts. -/
def State.setStream (s : State) (v : StreamSt) : State :=
  { s with streams := v :: s.streams.filter fun x => x.id != v.id }

/-- How long ago the cycle of a cluster began in which one of its own endpoints sends now; a base-die unit has the fabric's clock
(21_fabric R421). -/
def State.ago (s : State) (cl ep : Nat) : Nat × Nat :=
  let k := s.cluster cl
  if ep < 10 && decide (k.phase < k.mhz) then (k.phase, k.mhz) else (0, 1)

/-- What the mesh brings reaches a cluster on a cycle of it, counted up (R8): the one now beginning, unless that had begun when the content
came. -/
def State.onEdge (s : State) (cl : Nat) (ago : Nat × Nat) : Bool :=
  let k := s.cluster cl
  !k.up || (decide (k.stopped = 0) && decide (k.phase * ago.2 ≤ ago.1 * k.mhz))

/-- Schedule a row, which the mesh brings to a cluster, on its next cycle, behind those brought before and ahead of all else. -/
def State.land (s : State) (cl : Nat) (row : Instr) (subj : Subject) : State :=
  let (a, b) := s.events.span fun e => e.landed
  { s with events := a ++ { cl := some cl, due := (s.cluster cl).t + 1, row := row, subj := subj, landed := true } :: b }

/-- Put a packet on its way from a router: half of the fixed 20 ns of R423 passes before the first router and half after the last. A packet
may be kept at its source for some nanoseconds first. -/
def State.launchAt (s : State) (at_ lag : Nat) (p : Packet) : State :=
  let s := { s with packets := assign s.packets s.nextId { p with at_ := at_ }, nextId := s.nextId + 1 }
  s.inNs (10 + lag) .headerRouting { item := s.nextId - 1, unit := at_ }

/-- Put a packet on its way from its source's router. -/
def State.launch (s : State) (p : Packet) (lag : Nat := 0) : State := s.launchAt p.scl lag { p with ago := s.ago p.scl p.sep }

/-- The active chart marks a destination unreachable (R430). -/
def State.noWay (s : State) (cl dcl : Nat) : Bool := match (s.router cl).active with
  | none => false
  | some ch => match find ch dcl with
    | some e => e.unreachable
    | none => true

/-- Number a content in its stream and keep it for replay (R422, R426): the packet, or none where it waits at the source, beyond
256 unacknowledged ones or for an unreachable destination. -/
def State.number (s : State) (scl sep dcl dep cls len cast : Nat) (c : Content) : State × Option Packet :=
  let (id, s) := s.addItem c
  let key : Stream := { scl := scl, sep := sep, dcl := dcl, dep := dep, cls := cls }
  let st := s.stream key
  let p : Packet := { edition := (s.router scl).edition, seq := st.next % 65536, len := len, cls := cls, scl := scl, sep := sep,
                      dcl := dcl, dep := dep, sdev := s.devNo, ddev := s.devNo, op := c.ctorIdx, fields := (rowOf c).2 % 2 ^ 24,
                      content := id, cast := cast }
  if st.retry.length < 256 && !(s.noWay scl dcl) then
    (s.setStream { st with next := st.next + 1, retry := st.retry ++ [p] }, some p)
  else (s.setStream { st with next := st.next + 1, waiting := st.waiting ++ [p] }, none)

/-- Send a content across the mesh, kept at its source for some nanoseconds first. -/
def State.shipAfter (s : State) (lag scl sep dcl dep cls len : Nat) (c : Content) : State :=
  match s.number scl sep dcl dep cls len 0 c with
  | (s, some p) => s.launch p lag
  | (s, none) => s

/-- A packet joins those that leave together: the copies of one multicast sector leave as one packet (10_engines R261). -/
def joinCast (ps : List Packet) (p : Packet) : List Packet :=
  if p.cast ≠ 0 && ps.any (fun q => q.cast = p.cast) then
    ps.map fun q => if q.cast = p.cast then
      { q with more := q.more ++ [{ dcl := p.dcl, dep := p.dep, seq := p.seq, content := p.content }] } else q
  else ps ++ [p]

/-- Launch packets of one source. -/
def State.launchAll (s : State) (ps : List Packet) : State := (ps.foldl joinCast []).foldl (fun s p => s.launch p) s

/-- Send a multicast sector to its destinations, each numbered in the stream to it: cluster, endpoint, content (10_engines R261,
21_fabric R431). -/
def State.shipCast (s : State) (scl sep cls len : Nat) (ds : List (Nat × Nat × Content)) : State :=
  let s := { s with nextId := s.nextId + 1 }
  let n := s.nextId
  let (s, ps) := ds.foldl (fun (x : State × List Packet) d =>
    match x.1.number scl sep d.1 d.2.1 cls len n d.2.2 with
    | (s, some p) => (s, x.2 ++ [p])
    | (s, none) => (s, x.2)) (s, [])
  s.launchAll ps

/-- Send a content across the mesh at once. -/
def State.ship (s : State) (scl sep dcl dep cls len : Nat) (c : Content) : State := s.shipAfter 0 scl sep dcl dep cls len c

/-- Send a content to a unit: within a cluster after d cycles, else as a packet of a class and length between
endpoints. -/
def State.convey (s : State) (scl sep dcl dep cls len d : Nat) (c : Content) : State :=
  if scl = dcl then s.notify scl d c else s.ship scl sep dcl dep cls len c

/-- A free delay of 1 up to n cycles, for times the spec bounds from above. -/
def State.within (s : State) (n : Nat) : Nat × State :=
  let (k, s) := s.draw
  (1 + Config.jitter k % n, s)

/-- The endpoint of a core's column on its router (R421). -/
def epOf (core : Nat) : Nat := core / 2 % 8

/-- The endpoint of a core for a content (R421): messages and migrants use their column's, the barrier cells and the scheduler's
traffic the cluster port. -/
def epFor (core : Nat) (c : Content) : Nat := match c with
  | .msg _ | .sendAns .. | .reportAns .. | .migrant _ | .migAns .. => epOf core
  | _ => 8

/-- A content from one core to another on a class: within a cluster after a free time, in the order of its source. -/
def State.coreToCore (s : State) (src dst cls len : Nat) (c : Content) : State :=
  if src = dst then s.notify (clusterOf src) 1 c
  else if clusterOf src = clusterOf dst then
    let (d, s) := s.within 14
    let now := s.cyc src
    let at_ := max (now + d) (s.core src).outAt
    (s.onCore src fun k => { k with outAt := at_ }).notify (clusterOf src) (at_ - now) c
  else s.ship (clusterOf src) (epFor src c) (clusterOf dst) (epFor dst c) cls len c

/-! ### Registers (R131, R110) -/

/-- Register r of a thread. g0 reads zero; a tiller reads its private copy or the crown image. -/
def State.regOf (s : State) (c : Nat) (th : Thread) (r : Nat) : VWord :=
  if r = 0 then 0 else
  match th.tiller with
  | none => look (s.core c).rf (th.base + r) 0
  | some t => match find t.priv r with
    | some e => look (s.core c).rf e 0
    | none =>
      if t.zeroed then 0 else
      match ((s.core c).crowns.find? fun p => p.2.handle = t.handle) with
      | some (_, k) => match k.image with
        | some img => look img.regs r 0
        | none => 0
      | none => 0

/-- Register r of a slot. -/
def State.reg (s : State) (c sl r : Nat) : VWord := s.regOf c (s.thread c sl) r
/-- The low 64 bits of register r of a slot. -/
def State.reg64 (s : State) (c sl r : Nat) : Word := low64 (s.reg c sl r)

/-- Write an entry of the register file. -/
def State.setEntry (s : State) (c e : Nat) (v : VWord) : State :=
  s.onCore c fun k => { k with rf := assign k.rf e v, rfErr := unset k.rfErr e }

/-- Write register r of a slot: g0 discards; a tiller's first write of a register takes a private entry (R110). -/
def State.setReg (s : State) (c sl r : Nat) (v : VWord) : State :=
  if r = 0 then s else
  let th := s.thread c sl
  match th.tiller with
  | none => s.setEntry c (th.base + r) v
  | some t => match find t.priv r with
    | some e => s.setEntry c e v
    | none => match t.spare with
      | e :: rest =>
        let t := { t with priv := assign t.priv r e, spare := rest, taken := t.taken + 1 }
        (s.setThread c sl { th with tiller := some t }).setEntry c e v
      | [] => s

/-- put (R165): the 64-bit result, the upper bits cleared. -/
def State.put (s : State) (c sl d : Nat) (w : Word) : State := s.setReg c sl d (widen w)

/-- A mask (R291): m0 is all ones, absent masks read zero. -/
def Thread.mask (th : Thread) (m : Nat) : Word := if m = 0 then BitVec.allOnes 64 else look th.masks m 0

/-- Registers of a list that a tiller would have to copy (R113). -/
def Thread.newCopies (th : Thread) (ds : List Nat) : Nat := match th.tiller with
  | none => 0
  | some t => ((ds.eraseDups).filter fun r => (r != 0) && (find t.priv r).isNone).length

/-- The writes of an instruction would exceed the tiller's BUDGET (R113). -/
def Thread.overBudget (th : Thread) (ds : List Nat) : Bool := match th.tiller with
  | none => false
  | some t => decide (t.budget < t.taken + th.newCopies ds)

/-! ### Program counter and lines (R27, R158) -/

/-- The line of a PC. -/
def lineOf (pc : Nat) : Nat := pc / 64 * 64
/-- The head index of a PC. -/
def headOf (pc : Nat) : Nat := pc % 64 / 2
/-- A head address (R30): bit 0 clear, bits [5:1] nonzero, bits [63:48] zero. -/
def headAddress (pc : Word) : Bool :=
  decide (pc.toNat % 2 = 0) && decide (headOf pc.toNat ≠ 0) && decide (pc.toNat < 2 ^ 48)

/-- The halfwords of a line copy. -/
def halfwords (bs : List Byte) : List HWord := match bs with
  | a :: b :: r => BitVec.ofNat 16 (a.toNat + 256 * b.toNat) :: halfwords r
  | _ => []

/-- The halfwords of the slot's line copy. -/
def Thread.lineCopy (th : Thread) : List HWord := match th.line with
  | some (_, bs) => halfwords bs
  | none => []

/-- The next PC (R27): the next head of the line, or head 1 of the next line. DESIGN CHOICE (log 75): past the last line below
2^48, where R27 gives no next line, it is 2^48 + 2, and the fetch there faults PAGE. -/
def Thread.nextPc (th : Thread) : Word :=
  if headOf th.pc.toNat < lineN th.lineCopy then th.pc + 2
  else BitVec.ofNat 64 (lineOf th.pc.toNat + 66)

/-- Instruction-cache key: the line address, and the TIER and ROOT under which it was translated. -/
def fetchKey (ptbase : Word) (pc : Nat) : Nat := bits ptbase.toNat 62 11 * 2 ^ 48 + lineOf pc

/-- The key of an entry of the engine's translation cache: TIER and ROOT (R246). -/
def tablesKey (ptbase : Word) : Word := BitVec.ofNat 64 (bits ptbase.toNat 62 11)

/-- The router of the walkers that serve a cluster (R421): the central router of its quadrant. -/
def walkerCluster (cl : Nat) : Nat :=
  let n := (if 4 ≤ cl % 8 then 1 else 0) + (if 4 ≤ cl / 8 % 8 then 2 else 0)
  64 * stackOf cl + nth [27, 28, 35, 36] n

/-- The endpoint from which a unit of a core asks for a translation, and where it is answered (R421). -/
def walkEp (g : Agent) (c : Nat) : Nat := match g with
  | .thread .. | .fetch _ => epOf c
  | _ => 8

/-- Send a translation miss of a core to its walkers (R201). -/
def State.askWalk (s : State) (g : Agent) (c : Nat) (ptbase : Word) (va : Nat) : State :=
  s.ship (clusterOf c) (walkEp g c) (walkerCluster (clusterOf c)) 11 0 1 (.walk g c ptbase va)

/-- Ask for a line of a core's column: merged with a fill under way (R159). The fill begins with the translation. -/
def State.askLine (s : State) (c sl : Nat) (pc : Nat) : State :=
  let k := columnOf c
  let key := fetchKey (s.core c).ptbase pc
  let col := s.column k
  match find col.filling key with
  | some w => if w.contains (c * 16 + sl) then s
    else s.onColumn k fun x => { x with filling := assign x.filling key (w ++ [c * 16 + sl]) }
  | none =>
    let s := s.onColumn k fun x => { x with filling := assign x.filling key [c * 16 + sl] }
    s.askWalk (.fetch k) c (s.core c).ptbase (lineOf pc)

/-- The fault a fetch from a cached line raises for a thread (R160): no execute permission, or another world. -/
def fetchFault (entry : Word) (world : Bool) : Option Cause :=
  if !(entry.getLsbD 2) || (entry.getLsbD 61 != world) then some .perm else none

/-- Take a new line copy for the slot's PC (R158): from the column's cache, or held while it is filled (R159). A core
whose PTBASE has EN = 0 faults every fetch (R198), and so does a PC that has run past 2^48. -/
def State.takeLine (s : State) (c sl : Nat) : State :=
  let th := s.thread c sl
  let pc := th.pc.toNat
  if !((s.core c).ptbase.getLsbD 63) || decide (2 ^ 48 ≤ pc) then
    s.setThread c sl { th with line := none, lineFault := some .page, hold := .ready }
  else
    match find (s.column (columnOf c)).icache (fetchKey (s.core c).ptbase pc) with
    | some (entry, bs) =>
      s.setThread c sl { th with line := some (lineOf pc, bs), lineFault := fetchFault entry th.world, hold := .ready }
    | none => (s.setThread c sl { th with line := none, lineFault := none, hold := .fetch }).askLine c sl pc

/-- Move to a PC by a branch, jump, JR, ERET, admission or trap entry: always a new copy. -/
def State.jumpTo (s : State) (c sl : Nat) (pc : Word) : State :=
  (s.onThread c sl fun th => { th with pc := pc }).takeLine c sl

/-- Sequential flow to the next PC: the copy is kept within a line (R158). -/
def State.advance (s : State) (c sl : Nat) : State :=
  let th := s.thread c sl
  let pc := th.nextPc
  if lineOf pc.toNat = lineOf th.pc.toNat then s.setThread c sl { th with pc := pc }
  else s.jumpTo c sl pc

/-- The first cycle of slot sl at or after cycle n (R130). -/
def slotTurn (sl n : Nat) : Nat := n + (sl + 16 - n % 16) % 16

/-- An instruction of k turns (R162): the thread issues again on its k-th turn after this one. -/
def State.turns (s : State) (c sl k : Nat) : State :=
  s.onThread c sl fun th => { th with issueAt := s.cyc c + 16 * k }

/-- The thread issues again after this cycle at the earliest: on its first turn after an answer. -/
def State.after (s : State) (c sl : Nat) : State :=
  s.onThread c sl fun th => { th with issueAt := max th.issueAt (s.cyc c + 1) }

/-- The instruction is done: the hold ends, and the thread moves to the next PC. -/
def State.finish (s : State) (c sl : Nat) : State :=
  (s.onThread c sl fun th =>
    { th with hold := .ready, holding := none, pend := none, xl := [], acks := 0, result := 0, mark := 0,
              entering := false }).advance c sl

/-- Write a result and be done. -/
def State.finishPut (s : State) (c sl d : Nat) (w : Word) : State := (s.put c sl d w).finish c sl

/-- Hold the thread at its instruction, to be executed again on its next turn; a class counts it for the watchdog
(R361). -/
def State.stay (s : State) (c sl : Nat) (k : Option HoldClass) : State :=
  s.onThread c sl fun th =>
    { th with hold := .again, issueAt := s.cyc c + 16, mark := if th.mark = 0 then s.nextId else th.mark,
              holding := match k with
                | none => none
                | some cls => match th.holding with
                  | some h => some h
                  | none => some (cls, s.cyc c, false) }

/-- Hold the thread until an answer arrives. -/
def State.await (s : State) (c sl : Nat) (i : Instr) (k : Option HoldClass) : State :=
  s.onThread c sl fun th =>
    { th with hold := .answer, pend := some { instr := i, left := 1 },
              holding := match k with
                | none => none
                | some cls => match th.holding with
                  | some h => some h
                  | none => some (cls, s.cyc c, false) }

/-! ### Physical memory of the tiers -/

/-- Read bytes of a tier. -/
def State.tierRead (s : State) (lp : Bool) (pa n : Nat) : List Byte :=
  if lp then s.lp.readN pa n else s.hbm.readN pa n

/-- Write bytes of a tier. R200 refuses a leaf beyond a tier's end (512 GiB of HBM, 2 TiB of LP, 01_device R13), but a PTBASE's
root, a pointer's FRAME, a SAVEBASE, a SPILLBASE or an ERRLOG BASE can name bytes past it, and no rule says what an access does
there: the model keeps and reads such bytes as if there were memory. DESIGN CHOICE (log 95). -/
def State.tierWrite (s : State) (lp : Bool) (pa : Nat) (bs : List Byte) : State :=
  if lp then { s with lp := s.lp.writeN pa bs } else { s with hbm := s.hbm.writeN pa bs }

/-! ### Error records and reports (R409, R411) -/

/-- The code of a cause (R402). -/
def Cause.code (k : Cause) : Nat := match k with
  | .illegal => 1
  | .illine => 2
  | .reglimit => 3
  | .misalign => 4
  | .page => 5
  | .perm => 6
  | .tagmismatch => 7
  | .poison => 8
  | .copyfault => 9
  | .shadowfull => 10
  | .nomigrate => 11
  | .badscale => 12
  | .usertrap => 13
  | .svc => 14
  | .freezedepth => 15
  | .priv => 16
  | .ringerr => 17
  | .misdirect => 18
  | .twinmismatch => 19
  | .range => 20

/-- An error record: kind, cause code, slot, PC, address, TID, words 4 to 7 (R409). -/
structure ErrRec where
  kind : Nat
  cause : Nat := 0
  slot : Nat := 15
  pc : Word := 0
  addr : Word := 0
  tid : Nat := 0
  w4 : Nat := 0
  w5 : Nat := 0
  w6 : Nat := 0
  w7 : Nat := 0
deriving DecidableEq, Repr

/-- Word 0 of a record. -/
def ErrRec.word0 (r : ErrRec) (core seq : Nat) : Word :=
  BitVec.ofNat 64 (r.kind * 2 ^ 56 + r.cause * 2 ^ 48 + core * 2 ^ 36 + r.slot * 2 ^ 32 + seq % 2 ^ 32)

/-- The supervisor's fields of ERRLOG (R403). -/
def errSen (e : Word) : Bool := e.getLsbD 63
/-- SCH. -/
def errSch (e : Word) : Nat := bits e.toNat 62 57
/-- RCORE. -/
def errRcore (e : Word) : Nat := bits e.toNat 56 45
/-- RCH. -/
def errRch (e : Word) : Nat := bits e.toNat 44 39
/-- LV. -/
def errLv (e : Word) : Bool := e.getLsbD 2

/-- Send the core's oldest unsent report as a REMOP (R411). It carries the count of reports dropped. -/
def State.sendReport (s : State) (c : Nat) : State :=
  let k := s.core c
  match k.reports with
  | r :: rest =>
    if r.sent then s else
    let dst := errRcore k.errlog
    let m : Msg := { remop := true, srcDev := s.devNo, srcCore := c, srcSlot := 15, world := true, tenant := s.tenantOf (clusterOf c),
                     dstDev := s.devNo, dstCore := dst, channel := errRch k.errlog,
                     words := [r.addr, r.w0, BitVec.ofNat 64 k.dropped], report := true }
    (s.setCore c { k with reports := { r with sent := true, told := k.dropped } :: rest }).coreToCore c dst 2 2 (.msg m)
  | [] => s

/-- Queue a report: up to 16 wait, a seventeenth is dropped and counted (R411). -/
def State.report (s : State) (c : Nat) (addr w0 : Word) : State :=
  let k := s.core c
  if k.reports.length < 16 then
    (s.setCore c { k with reports := k.reports ++ [{ addr := addr, w0 := w0 }] }).sendReport c
  else s.setCore c { k with dropped := k.dropped + 1 }

/-- Write an error record, and report it unless its kind is 3, 4 or 5 (R403, R409, R411). -/
def State.record (s : State) (c : Nat) (r : ErrRec) : State :=
  let k := s.core c
  if errLv k.errlog then
    let pa := bits k.errlog.toNat 37 13 * 65536 + 64 * k.errNext
    let w0 := r.word0 c k.errSeq
    let bs := toBytes 8 w0.toNat ++ toBytes 8 r.pc.toNat ++ toBytes 8 r.addr.toNat ++ toBytes 8 (r.tid % 65536) ++
      toBytes 8 r.w4 ++ toBytes 8 r.w5 ++ toBytes 8 r.w6 ++ toBytes 8 r.w7
    let s := (s.setCore c { k with errNext := (k.errNext + 1) % 1024, errSeq := (k.errSeq + 1) % 2 ^ 32 }).tierWrite
      (k.errlog.getLsbD 38) pa bs
    if r.kind = 3 || r.kind = 4 || r.kind = 5 then s else s.report c (BitVec.ofNat 64 pa) w0
  else s

/-! ### Parking, traps and the end of a thread -/

/-- Write entries of the register file zero; an error in one is gone with it. -/
def State.clearEntries (s : State) (c : Nat) (of_ : Nat → Bool) : State :=
  s.onCore c fun k => { k with rf := k.rf.filter fun p => !(of_ p.1), rfErr := k.rfErr.filter fun p => !(of_ p.1) }

/-- Zero every register entry of a thread: a plain thread's range, or a tiller's private entries, after which it
reads zero in the registers it has not written (R410). -/
def State.zeroRegs (s : State) (c sl : Nat) : State :=
  let th := s.thread c sl
  match th.tiller with
  | none => s.clearEntries c fun e => decide (th.base ≤ e) && decide (e < th.base + th.limit)
  | some t =>
    let s := s.clearEntries c fun e => t.priv.any fun q => q.2 == e
    s.setThread c sl { th with tiller := some { t with zeroed := true } }

/-- Stop a thread for good (R410): it stops issuing, its registers are zeroed, its monitor is disarmed. -/
def State.halt (s : State) (c sl cause : Nat) : State :=
  let s := s.zeroRegs c sl
  let sv := s.slot c sl
  s.setSlot c sl { st := .parked, th := { sv.th with monitor := .disarmed, hold := .ready, pend := none,
                                                     holding := none, xl := [], parkCause := cause } }

/-- Park a thread (R410): it is halted, and a record is written. -/
def State.park (s : State) (c sl : Nat) (r : ErrRec) : State :=
  let s := s.halt c sl r.cause
  s.record c { r with slot := sl, tid := (s.thread c sl).tid }

/-- The instruction words at the PC (R48): tail ≪ 16 | head. -/
def Thread.instrWord (th : Thread) : Word :=
  let l := th.lineCopy
  let k := headOf th.pc.toNat
  BitVec.ofNat 64 (tailOf l k * 65536 + hwAt l k)

/-- TWORD for ILLINE (R48): the halfword at index k, then the header. -/
def Thread.illineWord (th : Thread) : Word :=
  let l := th.lineCopy
  BitVec.ofNat 64 (hwAt l (headOf th.pc.toNat) * 65536 + hwAt l 0)

/-- A cause goes to the supervisor (R406): SVC or PRIV of a thread that is neither privileged nor in the service
slot. -/
def routed (k : Cause) (th : Thread) (sl : Nat) : Bool :=
  (k = .svc || k = .priv) && !th.sup && sl != 15

/-- The five words of a service request (R406). -/
def serviceWords (th : Thread) (sl : Nat) : List Word :=
  [BitVec.ofNat 64 sl, th.tcause, th.tepc, th.taddr, th.tword]

/-- A REMOP of the core to its own supervisor channel. -/
def State.serviceMsg (s : State) (c sl : Nat) (th : Thread) : Msg :=
  { remop := true, srcDev := s.devNo, srcCore := c, srcSlot := sl, world := true, tenant := s.tenantOf (clusterOf c),
    dstDev := s.devNo, dstCore := c, channel := errSch (s.core c).errlog, words := serviceWords th sl, report := true }

/-- A thread that waits for an answer to the instruction it holds. -/
def Thread.waits (th : Thread) : Option Instr :=
  if th.hold = .answer then th.pend.map fun p => p.instr else none

/-- Threads idle in SYS.IDLE go on when their core accepts a message (R185). -/
def State.wakeIdle (s : State) (c : Nat) : State :=
  (List.range 16).foldl (fun s sl => if (s.thread c sl).waits = some .sysIdle then (s.finish c sl).after c sl else s) s

/-- Accept a message into a core's own arrival queue, or keep it waiting while the queue is full (R406). -/
def State.acceptOwn (s : State) (c : Nat) (m : Msg) : State :=
  let k := s.core c
  if k.arrivals.length < 64 then
    (s.setCore c { k with arrivals := k.arrivals ++ [{ msg := m, entered := s.cyc c }] }).wakeIdle c
  else s.setCore c { k with svcWait := k.svcWait ++ [m] }

/-- The traps of the fetch of an instruction (R49): PAGE or PERM of its line, whose TWORD is zero, and the traps of R43 to R46. -/
def fetchCause (k : Cause) (tword : Word) : Bool :=
  ((k = .page || k = .perm) && tword = 0) || k = .illine || k = .illegal || k = .priv || k = .reglimit

/-- The thread with the trap registers written for a trap (R401), and no hold. -/
def Thread.trapped (th : Thread) (k : Cause) (tword addr : Word) (run : Bool) : Thread :=
  { th with
    tepc := if k = .usertrap || k = .svc then th.nextPc else th.pc
    tcause := BitVec.ofNat 64 k.code
    tword := tword
    taddr := addr
    tprog := if run then th.tprog else 0
    hold := .ready, holding := none, pend := none, xl := [], acks := 0, result := 0, mark := 0, entering := false
    heldWait := none, wo := false }

/-- Taking a trap (R401): the trap registers are written, and the thread goes to THANDLER, to the supervisor, or is
parked. tword is the instruction's words, zero for a fault of the fetch; run tells a fault of R208. A fetch fault at THANDLER
parks the thread (R49); where that fetch is part of the entry to the handler, the trap registers keep the values of the trap that
entered it, since R401 writes them once. -/
def State.enterTrap (s : State) (c sl : Nat) (k : Cause) (tword addr : Word) (run : Bool) : State :=
  let th := s.thread c sl
  let th1 := th.trapped k tword addr run
  if fetchCause k tword && decide (th.pc = th.thandler) then
    let th2 := if th.entering then th else th1
    (s.setThread c sl th2).park c sl { kind := 10, cause := k.code, pc := th.thandler, addr := th2.taddr }
  else
  let s := s.setThread c sl th1
  if routed k th sl then
    if errSen (s.core c).errlog then
      (s.setSlot c sl { st := .service, th := { th1 with pc := th1.tepc, line := none, lineFault := none } }).acceptOwn c (s.serviceMsg c sl th1)
    else s.park c sl { kind := 11, cause := k.code, pc := th1.tepc, addr := addr }
  else if headAddress th.thandler then
    (s.setThread c sl { th1 with entering := true }).jumpTo c sl th.thandler
  else s.park c sl { kind := 10, cause := Cause.page.code, pc := th.thandler, addr := addr }

/-- A trap of an instruction, with its words in TWORD. -/
def State.trap (s : State) (c sl : Nat) (k : Cause) (addr : Word) : State :=
  s.enterTrap c sl k (s.thread c sl).instrWord addr false

/-- Return from a handler (R190): control moves to TEPC after the checks of R30; nothing else changes. -/
def State.eret (s : State) (c sl : Nat) : State :=
  let pc := (s.thread c sl).tepc
  if pc.toNat % 2 = 1 || headOf pc.toNat = 0 then s.trap c sl .misalign pc
  else if 2 ^ 48 ≤ pc.toNat then s.trap c sl .page pc
  else (s.onThread c sl fun th => { th with entering := false }).jumpTo c sl pc

/-- The home core of a crown handle (R104). -/
def homeOf (h : Nat) : Nat := h / 2 ^ 20 % 4096

/-- A decrement to a crown's home core, on the SYS class (R118). -/
def State.sendDec (s : State) (c h : Nat) (fail : Bool) : State :=
  if homeOf h = c then s.notify (clusterOf c) 1 (.joinDec h fail c)
  else s.coreToCore c (homeOf h) 4 1 (.joinDec h fail c)

/-- End a thread (R189): its monitor is disarmed and its entries and slot return to the free pools; a tiller returns
its entries and shadow blocks and sends its decrement (R118); a crown tells its home (R123). The slot and the entries may be
given away from the next turn on (R164), so until then the slot keeps what they are. The trail of a twin pair sends nothing
(20_traps R413). -/
def State.endThread (s : State) (c sl : Nat) (fail : Bool) : State :=
  let th := s.thread c sl
  let trail := (s.column (columnOf c)).twinctl.getLsbD sl && decide (c % 2 = 1)
  let s := s.setSlot c sl { th := { base := th.base, limit := th.limit, tiller := th.tiller }, freeAt := s.cyc c + 16 }
  if trail then s else
  let s := match th.tiller with
    | none => s
    | some t =>
      (s.onColumn (columnOf c) fun x => { x with shadowUsed := x.shadowUsed - t.shadowMax }).sendDec c t.handle fail
  if th.heads then s.coreToCore c (homeOf th.lastcrown.toNat) 4 1 (.crownEnd th.lastcrown.toNat) else s

/-- A stack-copy invalidation on its way, to a stack or to any. -/
def Content.invalidates (c : Content) (st : Option Nat) : Bool := match c with
  | .copyInv k .. => match st with
    | none => true
    | some x => k == x
  | _ => false

/-- A stack-copy invalidation is on its way to a stack. -/
def State.invsTo (s : State) (st : Nat) : Bool := s.items.any fun p => p.2.invalidates (some st)

/-- Invalidations sent before a release or a fence of the thread was first executed are still on their way. -/
def State.invsBefore (s : State) (th : Thread) (st : Option Nat) : Bool :=
  s.items.any fun p => p.2.invalidates st && (th.mark == 0 || decide (p.1 < th.mark))

/-- The scope of a release is not yet reached (R196, R233, R371): earlier stores of the thread are outstanding, or, at device
scope, invalidations of writes that the thread made or may have read. -/
def State.relWaits (s : State) (th : Thread) (dev : Bool) : Bool :=
  decide (0 < th.posted) || (dev && (decide (0 < th.invals) || s.invsBefore th none))

/-- The end of a tiller is a release at the scope of its edge to the JOIN (R122): what it still waits for;
the crown may have moved to any stack. -/
def State.endWaits (s : State) (th : Thread) : Bool :=
  decide (0 < th.posted) || decide (0 < th.invals) || s.invsBefore th none

/-- A tiller ends as failed (R113, R116, R118): a record of kind 3 names handle, index and cause. Its end is a release:
it waits at the instruction for the tiller's posted stores (R122). It retires no crown that the tiller heads: R123 names EXIT
and SCRUB. -/
def State.failTiller (s : State) (c sl : Nat) (k : Cause) (pc : Word) : State :=
  let th := s.thread c sl
  match th.tiller with
  | none => s
  | some t =>
    if s.endWaits th then s.stay c sl none
    else ((s.onThread c sl fun x => { x with heads := false }).endThread c sl true).record c
      { kind := 3, cause := k.code, slot := sl, pc := pc, tid := th.tid, w4 := t.handle, w5 := t.index }

/-! ### The frame of an instruction's meaning -/

/-- The current thread's core and slot, for the meaning of an instruction row. -/
def current (s : State) (f : Nat → Nat → State) : Host.Outcome State Fault Refusal :=
  if s.curr then .next (f s.curCore s.curSlot) else .fault .noThread

/-- The lowest register of a list at or above the limit (R46, R48). -/
def overLimit (th : Thread) (rs : List Nat) : Option Nat :=
  (rs.filter fun r => decide (th.limit ≤ r)).foldl (fun a r => match a with
    | none => some r
    | some x => some (min x r)) none

/-- The entry of the register file that a read of register r finds. -/
def Thread.entryOf (th : Thread) (r : Nat) : Option Nat :=
  if r = 0 then none else match th.tiller with
  | none => some (th.base + r)
  | some t => find t.priv r

/-- The entries in which an error has arisen, of those that the reads of a list of registers find; true an uncorrectable one. -/
def Thread.errorsIn (th : Thread) (errs : List (Nat × Bool)) (rs : List Nat) : List (Nat × Bool) :=
  (rs.filterMap th.entryOf).eraseDups.filterMap fun e => (find errs e).map fun u => (e, u)

/-- Reading the source registers (R162, R195): an uncorrectable error in one parks the thread before its instruction has any
effect; what the ECC corrects is recorded, kind 7, and the instruction has its effect (R402, R409). -/
def State.reading (s : State) (c sl : Nat) (rs : List Nat) (after : State) : State :=
  let th := s.thread c sl
  let found := th.errorsIn (s.core c).rfErr rs
  match found.find? fun p => p.2 with
  | some (e, _) => s.park c sl { kind := 1, cause := Cause.poison.code, pc := th.pc, w4 := 3, w5 := e, w6 := 2 }
  | none => found.foldl (fun x p => (x.onCore c fun k => { k with rfErr := unset k.rfErr p.1 }).record c
      { kind := 7, slot := sl, pc := th.pc, tid := th.tid, w4 := 3, w5 := p.1, w6 := 1 }) after

/-- The checks every instruction makes (R47): PRIV when it needs supervisor privilege, REGLIMIT over the registers it
names, then a tiller's COPYFAULT over those it writes (R113); after them its own effect. The registers it reads are those it names
but for one naming of each that it writes. -/
def guarded (s : State) (priv : Bool) (names writes : List Nat) (f : Nat → Nat → State) :
    Host.Outcome State Fault Refusal :=
  current s fun c sl =>
    let th := s.thread c sl
    if priv && !th.sup then s.trap c sl .priv 0
    else match overLimit th names with
      | some r => s.trap c sl .reglimit (BitVec.ofNat 64 r)
      | none => if th.overBudget writes then s.failTiller c sl .copyfault th.pc
        else s.reading c sl (writes.foldl List.erase names) (f c sl)

/-- A result of the scalar instructions: written under R165, in k turns. -/
def scalar (s : State) (names : List Nat) (d k : Nat) (f : Nat → Nat → Word) : Host.Outcome State Fault Refusal :=
  guarded s false (d :: names) [d] fun c sl => ((s.put c sl d (f c sl)).finish c sl).turns c sl k

end Sys2Proof.Machine
end

