-- ==== Sys2Proof/Machine/Float.lean ====
section
/-!
DEFINITION. Floating values and rounding (11_formats R268 to R282): every finite value is an exact dyadic number, each
operation is exact and rounds once, and its flags follow R275.
-/
namespace Sys2Proof.Machine

open Sys2Proof

/-! ### Formats (R269, R270) -/

/-- A binary floating format: exponent and fraction widths and bias; e4m3 has no infinity and saturates. -/
structure FSpec where
  ebits : Nat
  fbits : Nat
  bias : Nat
  sat : Bool := false
  /-- NaNs are quiet or signaling by the top fraction bit (R270) -/
  quietBit : Bool := true
deriving DecidableEq, Repr

/-- binary64. -/
def specF64 : FSpec := { ebits := 11, fbits := 52, bias := 1023 }
/-- binary32. -/
def specF32 : FSpec := { ebits := 8, fbits := 23, bias := 127 }
/-- bf16. -/
def specBf16 : FSpec := { ebits := 8, fbits := 7, bias := 127 }
/-- binary16. -/
def specF16 : FSpec := { ebits := 5, fbits := 10, bias := 15 }
/-- e4m3. -/
def specE4m3 : FSpec := { ebits := 4, fbits := 3, bias := 7, sat := true, quietBit := false }
/-- e5m2. -/
def specE5m2 : FSpec := { ebits := 5, fbits := 2, bias := 15, quietBit := false }

/-- The format of a lane type. -/
def ftSpec (t : FType) : FSpec := match t with
  | .f64 => specF64
  | .f32 => specF32
  | .bf16 => specBf16
  | .f16 => specF16

/-- Width of a lane type in bits. -/
def ftWidth (t : FType) : Nat := match t with
  | .f64 => 64
  | .f32 => 32
  | .bf16 => 16
  | .f16 => 16

/-- The width of a format in bits. -/
def FSpec.width (f : FSpec) : Nat := 1 + f.ebits + f.fbits
/-- The exponent of the smallest normal. -/
def FSpec.emin (f : FSpec) : Int := 1 - (f.bias : Int)
/-- The sign bit of an encoding. -/
def FSpec.sign (f : FSpec) (b : Nat) : Bool := bit b (f.ebits + f.fbits)
/-- The sign bit's weight. -/
def FSpec.signBit (f : FSpec) (neg : Bool) : Nat := if neg then 2 ^ (f.ebits + f.fbits) else 0
/-- All ones in the exponent field. -/
def FSpec.emax (f : FSpec) : Nat := 2 ^ f.ebits - 1
/-- The encoding of an infinity, or the largest magnitude for e4m3. -/
def FSpec.inf (f : FSpec) (neg : Bool) : Nat :=
  f.signBit neg + (if f.sat then f.emax * 2 ^ f.fbits + 6 else f.emax * 2 ^ f.fbits)
/-- The encoding of the largest finite magnitude. -/
def FSpec.maxFinite (f : FSpec) (neg : Bool) : Nat :=
  f.signBit neg + (if f.sat then f.emax * 2 ^ f.fbits + 6 else f.emax * 2 ^ f.fbits - 1)
/-- The canonical NaN (R271, R276). -/
def FSpec.nan (f : FSpec) : Nat :=
  if f.sat then 127 else if f.quietBit then f.emax * 2 ^ f.fbits + 2 ^ (f.fbits - 1) else f.emax * 2 ^ f.fbits + 3
/-- The encoding of a zero. -/
def FSpec.zero (f : FSpec) (neg : Bool) : Nat := f.signBit neg

/-- A floating value: NaN, an infinity, or (-1)^neg * m * 2^e, with m = 0 a signed zero. -/
inductive FVal where
  | nan (signaling : Bool)
  | inf (neg : Bool)
  | fin (neg : Bool) (m : Nat) (e : Int)
deriving DecidableEq, Repr

/-- The value of an encoding (R269, R270). -/
def FSpec.val (f : FSpec) (b : Nat) : FVal :=
  let neg := f.sign b
  let e := b / 2 ^ f.fbits % 2 ^ f.ebits
  let fr := b % 2 ^ f.fbits
  if f.sat && e = f.emax && fr = 7 then .nan false
  else if !f.sat && e = f.emax then
    (if fr = 0 then .inf neg else .nan (f.quietBit && decide (fr < 2 ^ (f.fbits - 1))))
  else if e = 0 then .fin neg fr (f.emin - (f.fbits : Int))
  else .fin neg (2 ^ f.fbits + fr) ((e : Int) - (f.bias : Int) - (f.fbits : Int))

/-! ### Flags (R275): NV 16, DZ 8, OF 4, UF 2, NX 1 -/

/-- NV. -/
def fNV : Nat := 16
/-- DZ. -/
def fDZ : Nat := 8
/-- OF. -/
def fOF : Nat := 4
/-- UF. -/
def fUF : Nat := 2
/-- NX. -/
def fNX : Nat := 1

/-- A result encoding with its flags. -/
abbrev FRes := Nat × Nat

/-! ### Rounding (R274) -/

/-- Whether a magnitude is rounded up: hi the kept part, lo of 2^d below it, sticky something nonzero below lo. -/
def roundsUp (r : Round) (neg : Bool) (hi lo d : Nat) (sticky : Bool) : Bool :=
  let half := if d = 0 then 0 else 2 ^ (d - 1)
  let inexact := lo != 0 || sticky
  match r with
  | .rne => (d != 0) && (decide (half < lo) || (lo = half && (sticky || hi % 2 = 1)))
  | .rtz => false
  | .rup => inexact && !neg
  | .rdn => inexact && neg
  | .rmm => (d != 0) && decide (half ≤ lo)

/-- A magnitude m * 2^e (and something below when sticky) in units of 2^q, rounded, and whether it is inexact. -/
def roundAt (r : Round) (neg : Bool) (m : Nat) (e q : Int) (sticky : Bool) : Nat × Bool :=
  if q ≤ e then (m * 2 ^ (e - q).toNat, sticky)
  else
    let d := (q - e).toNat
    let hi := m / 2 ^ d
    let lo := m % 2 ^ d
    (hi + (roundsUp r neg hi lo d sticky).toNat, lo != 0 || sticky)

/-- Round a nonzero magnitude to a format (R274), with OF, UF and NX (R275). A sticky magnitude must carry more bits
than the format keeps. -/
def FSpec.round (f : FSpec) (r : Round) (neg : Bool) (m : Nat) (e : Int) (sticky : Bool) : FRes :=
  let top := e + (Nat.log2 m : Int)
  let q := max (top - (f.fbits : Int)) (f.emin - (f.fbits : Int))
  let (v, inexact) := roundAt r neg m e q sticky
  let (v, q) := if v = 2 ^ (f.fbits + 1) then (2 ^ f.fbits, q + 1) else (v, q)
  let be := (q + (f.fbits : Int) + (f.bias : Int)).toNat
  let exceeds := decide (2 ^ f.fbits ≤ v) &&
    (if f.sat then decide (f.emax < be) || (be = f.emax && v = 2 ^ f.fbits + 7) else decide (f.emax ≤ be))
  if exceeds then
    let away := match r with
      | .rne | .rmm => true
      | .rtz => false
      | .rup => !neg
      | .rdn => neg
    ((if away then f.inf neg else f.maxFinite neg), fOF + fNX)
  else
    let (u, _) := roundAt r neg m e (top - (f.fbits : Int)) sticky
    let tiny := decide (top < f.emin) && !(decide (u = 2 ^ (f.fbits + 1)) && decide (top + 1 = f.emin))
    let flags := if inexact then (if tiny then fUF + fNX else fNX) else 0
    let enc := if v < 2 ^ f.fbits then v else be * 2 ^ f.fbits + (v - 2 ^ f.fbits)
    (f.signBit neg + enc, flags)

/-- Deliver a value: the canonical NaN, an infinity, a zero, or the rounded number. -/
def FSpec.deliver (f : FSpec) (r : Round) (v : FVal) : FRes := match v with
  | .nan s => (f.nan, if s then fNV else 0)
  | .inf neg => (f.inf neg, 0)
  | .fin neg m e => if m = 0 then (f.zero neg, 0) else f.round r neg m e false

/-! ### Arithmetic -/

/-- A signed dyadic number. -/
def signed (neg : Bool) (m : Nat) : Int := if neg then -(m : Int) else (m : Int)

/-- The exact sum of two finite values; an exact zero of opposite signs is +0, or -0 under RDN (R280). -/
def addFin (r : Round) (na : Bool) (ma : Nat) (ea : Int) (nb : Bool) (mb : Nat) (eb : Int) : FVal :=
  let e := min ea eb
  let s := signed na (ma * 2 ^ (ea - e).toNat) + signed nb (mb * 2 ^ (eb - e).toNat)
  if s = 0 then
    (if ma = 0 && mb = 0 && na = nb then .fin na 0 0 else .fin (r = .rdn) 0 0)
  else .fin (decide (s < 0)) s.natAbs e

/-- A NaN among two operands gives NaN, with NV when one is signaling. -/
def nanOf (a b : FVal) : Option FVal := match a, b with
  | .nan s, .nan t => some (.nan (s || t))
  | .nan s, _ => some (.nan s)
  | _, .nan t => some (.nan t)
  | _, _ => none

/-- The sum as a value; opposite infinities are an invalid operation. -/
def addVal (r : Round) (a b : FVal) : FVal × Nat := match nanOf a b with
  | some n => (n, 0)
  | none => match a, b with
    | .inf s, .inf t => if s = t then (.inf s, 0) else (.nan false, fNV)
    | .inf s, _ => (.inf s, 0)
    | _, .inf t => (.inf t, 0)
    | .fin na ma ea, .fin nb mb eb => (addFin r na ma ea nb mb eb, 0)
    | x, _ => (x, 0)

/-- Negate a value; a NaN keeps itself. -/
def FVal.negate (v : FVal) : FVal := match v with
  | .nan s => .nan s
  | .inf n => .inf (!n)
  | .fin n m e => .fin (!n) m e

/-- The product as an exact value; 0 times an infinity is an invalid operation. -/
def mulVal (a b : FVal) : FVal × Nat := match nanOf a b with
  | some n => (n, 0)
  | none => match a, b with
    | .inf s, .inf t => (.inf (s != t), 0)
    | .inf s, .fin t m _ => if m = 0 then (.nan false, fNV) else (.inf (s != t), 0)
    | .fin t m _, .inf s => if m = 0 then (.nan false, fNV) else (.inf (s != t), 0)
    | .fin na ma ea, .fin nb mb eb => (.fin (na != nb) (ma * mb) (ea + eb), 0)
    | x, _ => (x, 0)

/-- Round a value and join the flags already raised. -/
def FSpec.finish (f : FSpec) (r : Round) (v : FVal × Nat) : FRes :=
  let (b, fl) := f.deliver r v.1
  (b, fl ||| v.2)

/-- Addition. -/
def FSpec.add (f : FSpec) (r : Round) (a b : Nat) : FRes := f.finish r (addVal r (f.val a) (f.val b))
/-- Subtraction. -/
def FSpec.sub (f : FSpec) (r : Round) (a b : Nat) : FRes := f.finish r (addVal r (f.val a) (f.val b).negate)
/-- Multiplication. -/
def FSpec.mul (f : FSpec) (r : Round) (a b : Nat) : FRes := f.finish r (mulVal (f.val a) (f.val b))

/-- Division: x / 0 is an infinity with DZ; 0 / 0 and infinity / infinity are invalid. -/
def FSpec.div (f : FSpec) (r : Round) (a b : Nat) : FRes :=
  let x := f.val a
  let y := f.val b
  match nanOf x y with
  | some n => f.deliver r n
  | none => match x, y with
    | .inf _, .inf _ => (f.nan, fNV)
    | .inf s, .fin t _ _ => (f.inf (s != t), 0)
    | .fin s _ _, .inf t => (f.zero (s != t), 0)
    | .fin s ma ea, .fin t mb eb =>
      if mb = 0 then (if ma = 0 then (f.nan, fNV) else (f.inf (s != t), fDZ))
      else if ma = 0 then (f.zero (s != t), 0)
      else
        let k := Nat.log2 mb + f.fbits + 4
        f.round r (s != t) (ma * 2 ^ k / mb) (ea - eb - (k : Int)) (ma * 2 ^ k % mb != 0)
    | _, _ => (f.nan, 0)

/-- The integer square root of n, found bit by bit from bit k - 1 down. -/
def isqrtFrom (n : Nat) (k acc : Nat) : Nat := match k with
  | 0 => acc
  | k + 1 => isqrtFrom n k (if (acc + 2 ^ k) * (acc + 2 ^ k) ≤ n then acc + 2 ^ k else acc)
/-- The integer square root. -/
def isqrt (n : Nat) : Nat := isqrtFrom n (Nat.log2 n / 2 + 1) 0

/-- The square root of m * 2^e as (root, exponent, sticky), with more than p bits. -/
def sqrtParts (m : Nat) (e : Int) (p : Nat) : Nat × Int × Bool :=
  let k := 2 * p + (if e % 2 = 0 then 0 else 1)
  let n := m * 2 ^ k
  let x := isqrt n
  (x, (e - (k : Int)) / 2, x * x != n)

/-- Square root: sqrt(-0) is -0, sqrt of a negative number is invalid. -/
def FSpec.sqrt (f : FSpec) (r : Round) (a : Nat) : FRes := match f.val a with
  | .nan s => f.deliver r (.nan s)
  | .inf neg => if neg then (f.nan, fNV) else (f.inf false, 0)
  | .fin neg m e =>
    if m = 0 then (f.zero neg, 0)
    else if neg then (f.nan, fNV)
    else
      let (x, q, st) := sqrtParts m e (f.fbits + 4)
      f.round r false x q st

/-- Fused multiply-add of three encodings, the product negated or the addend negated as told (R298, R299). -/
def FSpec.fma (f : FSpec) (r : Round) (negP negC : Bool) (a b c : Nat) : FRes :=
  let p := mulVal (f.val a) (f.val b)
  let z := if negC then (f.val c).negate else f.val c
  let pv := if negP then p.1.negate else p.1
  match nanOf (f.val a) (f.val b), f.val c with
  | some n, .nan s => match n with
    | .nan t => (f.nan, if s || t then fNV else 0)
    | _ => (f.nan, 0)
  | _, _ =>
    let q := addVal r pv z
    f.finish r (q.1, q.2 ||| p.2)

/-! ### Conversions (R277, R278) -/

/-- Width of a format in bits (R268). -/
def fmtWidth (t : Fmt) : Nat := match t with
  | .f64 | .i64 => 64
  | .f32 | .i32 | .n32 => 32
  | .bf16 | .f16 | .i16 | .n16 => 16
  | .e4m3 | .e5m2 | .log6 | .i8 | .n8 => 8
  | .i4 => 4

/-- The binary floating format of a code, when it is one. -/
def fmtSpec (t : Fmt) : Option FSpec := match t with
  | .f64 => some specF64
  | .f32 => some specF32
  | .bf16 => some specBf16
  | .f16 => some specF16
  | .e4m3 => some specE4m3
  | .e5m2 => some specE5m2
  | _ => none

/-- An integer format is signed. -/
def fmtSigned (t : Fmt) : Bool := match t with
  | .n32 | .n16 | .n8 => false
  | _ => true

/-- The significands of T[0] to T[3] as f32 encodings (R273). -/
def log6Table (m : Nat) : Nat := nth [0x3F800000, 0x3F9837F0, 0x3FB504F3, 0x3FD744FD] m

/-- The value of a LOG6 code (R272, R273). -/
def log6Val (b : Nat) : FVal :=
  let c := b % 64
  if c = 0 then .fin false 0 0
  else if c = 32 then .nan false
  else match specF32.val (log6Table (c % 4)) with
    | .fin _ m e => .fin (bit c 5) m (e + ((c % 32 / 4 : Nat) : Int) - 4)
    | v => v

/-- |x| > 2^((2j-31)/8) for x = m * 2^e, by the eighth power of both sides (R278). -/
def aboveTheta (m : Nat) (e : Int) (j : Nat) : Bool :=
  let k := 8 * e - (2 * (j : Int) - 31)
  if k < 0 then decide (2 ^ (-k).toNat < m ^ 8) else decide (1 < m ^ 8 * 2 ^ k.toNat)

/-- The LOG6 code of a finite nonzero value, with flags (R278). -/
def toLog6Fin (neg : Bool) (m : Nat) (e : Int) : FRes :=
  let l := ((List.range 31).filter fun j => aboveTheta m e j).length
  let code := if l = 0 then 0 else (if neg then 32 else 0) + l
  if l = 0 then (0, fUF + fNX)
  else if l = 31 && aboveTheta m e 31 then (code, fOF + fNX)
  else match log6Val code with
    | .fin _ m' e' =>
      let q := min e e'
      (code, if m * 2 ^ (e - q).toNat = m' * 2 ^ (e' - q).toNat then 0 else fNX)
    | _ => (code, 0)

/-- A value to LOG6 (R278). -/
def toLog6 (v : FVal) : FRes := match v with
  | .nan _ => (0x20, 0)
  | .inf neg => ((if neg then 32 else 0) + 31, fNV)
  | .fin neg m e => if m = 0 then (0, 0) else toLog6Fin neg m e

/-- Saturate an integer to a format: its encoding and whether it was out of range. -/
def saturate (t : Fmt) (v : Int) : Nat × Bool :=
  let w := fmtWidth t
  let lo : Int := if fmtSigned t then -(2 : Int) ^ (w - 1) else 0
  let hi : Int := if fmtSigned t then (2 : Int) ^ (w - 1) - 1 else (2 : Int) ^ w - 1
  let x := max lo (min hi v)
  (wrapN w x, decide (x ≠ v))

/-- A value to an integer format (R277). -/
def toIntFmt (t : Fmt) (r : Round) (v : FVal) : FRes := match v with
  | .nan _ => (0, fNV)
  | .inf neg => ((saturate t (if neg then -(2 : Int) ^ 80 else (2 : Int) ^ 80)).1, fNV)
  | .fin neg m e =>
    let (x, inexact) := roundAt r neg m e 0 false
    let (b, sat) := saturate t (signed neg x)
    (b, if sat then fNV else if inexact then fNX else 0)

/-- An integer encoding as an exact value. -/
def ofIntFmt (t : Fmt) (b : Nat) : FVal :=
  let v : Int := if fmtSigned t then sext b (fmtWidth t) else (b % 2 ^ fmtWidth t : Nat)
  .fin (decide (v < 0)) v.natAbs 0

/-- A NaN carried to another floating format: sign and top fraction bits kept (R277). -/
def carryNan (src dst : FSpec) (b : Nat) : Nat :=
  let neg := src.sign b
  if dst.sat then dst.signBit neg + 127
  else
    let fr := b % 2 ^ src.fbits
    let g := if src.fbits ≤ dst.fbits then fr * 2 ^ (dst.fbits - src.fbits) else fr / 2 ^ (src.fbits - dst.fbits)
    dst.signBit neg + (if g = 0 then dst.nan else dst.emax * 2 ^ dst.fbits + g)

/-- convert (R277): one element from one format to another. -/
def convert (src dst : Fmt) (r : Round) (b : Nat) : FRes :=
  if src = dst then (if src = .log6 then (b % 64, 0) else (b, 0))
  else match fmtSpec src, fmtSpec dst with
    | some f, some g => match f.val b with
      | .nan _ => (carryNan f g b, 0)
      | .inf neg => (g.inf neg, if g.sat then fNV else 0)
      | v => g.deliver r v
    | some f, none => if dst = .log6 then toLog6 (f.val b) else toIntFmt dst r (f.val b)
    | none, some g => if src = .log6 then g.deliver r (log6Val b) else g.deliver r (ofIntFmt src b)
    | none, none =>
      if src = .log6 then toIntFmt dst r (log6Val b)
      else if dst = .log6 then toLog6 (ofIntFmt src b)
      else
        let v : Int := if fmtSigned src then sext b (fmtWidth src) else (b % 2 ^ fmtWidth src : Nat)
        ((saturate dst v).1, 0)

end Sys2Proof.Machine
end

