-- ==== Sys2Proof/Machine/Operands.lean ====
section
/-!
DEFINITION. Operand addresses: the six spaces and their layouts (08_access R192), the checks of one access in the order
of R195, the interleave of the banked spaces (06_wheels R137), translation of a GLOBAL address (R197 to R200), homes
(09_homing R227, R228), and the wheels' meetings (06_wheels R138 to R141).
-/
namespace Sys2Proof.Machine

open Sys2Proof

/-! ### Widths and spaces -/

/-- The bytes of a width (R205). -/
def widthBytes (w : Width) : Nat := match w with
  | .b8s | .b8z => 1
  | .b16s | .b16z => 2
  | .b32s | .b32z => 4
  | .b64 => 8
  | .b512 => 64

/-- A width whose loads sign-extend (R205). -/
def widthSigned (w : Width) : Bool := match w with
  | .b8s | .b16s | .b32s => true
  | _ => false

/-- The mode of a space code of SLD and SST (R207). -/
def spaceMode (k : Space) : Mode := match k with
  | .spread => .spread
  | .tob => .tob
  | .bank => .bank

/-- The mode of a two- to three-bit space code: 0 GLOBAL, 1 LOCAL, 2 BANK, 3 SPREAD, 4 TOB (R211, R247). -/
def modeOf (n : Nat) : Mode := match n with
  | 0 => .global
  | 1 => .loc
  | 2 => .bank
  | 3 => .spread
  | _ => .tob

/-! ### Bank roles and the interleave (R136, R137) -/

/-- The role of bank b: 0 SCRATCH, 1 CACHE, 2 TOB, 3 RETIRED. -/
def roleIn (bankrole : Word) (b : Nat) : Nat := bits bankrole.toNat (2 * b + 1) (2 * b)

/-- The role of a bank of a cluster. -/
def State.role (s : State) (cl b : Nat) : Nat := roleIn (s.cluster cl).bankrole b

/-- The cluster a banked or LOCAL address names. -/
def addrCluster (space : Mode) (a : Nat) : Nat := match space with
  | .loc => bits a 28 18 / 8
  | _ => bits a 31 24

/-- The offset of a banked address. -/
def addrOffset (space : Mode) (a : Nat) : Nat := match space with
  | .bank => bits a 19 0
  | _ => bits a 23 0

/-- The banks a banked address is spread over, ascending, under given roles (R137). -/
def banksUnder (bankrole : Word) (space : Mode) (a : Nat) : List Nat := match space with
  | .spread => (List.range 32).filter fun b => roleIn bankrole b = 0
  | .tob => (List.range 32).filter fun b => roleIn bankrole b = 2
  | .bank => [2 * bits a 23 20, 2 * bits a 23 20 + 1].filter fun b => roleIn bankrole b = 0
  | _ => []

/-- Bank and row of a banked address under given roles; none traps RANGE (R137). -/
def mapUnder (bankrole : Word) (space : Mode) (a : Nat) : Option (Nat × Nat) :=
  let l := banksUnder bankrole space a
  let n := l.length
  if n = 0 then none else
  let blk := addrOffset space a / 64
  if 1536 ≤ blk / n then none else some (nth l (blk % n), blk / n)

/-- Bank and row of a banked address under the roles in force. -/
def State.mapBank (s : State) (space : Mode) (a : Nat) : Option (Nat × Nat) :=
  mapUnder (s.cluster (addrCluster space a)).bankrole space a

/-- The address of a bank block in State.bankMem. -/
def bankAddr (cl bank row : Nat) : Nat := ((cl * 32 + bank) * 1536 + row) * 64

/-! ### Translation (R197 to R200) -/

/-- The size of a page at a level. -/
def pageSize (level : Nat) : Nat := if level = 0 then 3221225472 else if level = 1 then 12582912 else 49152

/-- A leaf maps a virtual address. -/
def Leaf.covers (l : Leaf) (va : Nat) : Bool := va / pageSize l.level = l.vpn

/-- The physical address a leaf gives. -/
def Leaf.pa (l : Leaf) (va : Nat) : Nat := bits l.entry.toNat 43 12 * pageSize l.level + va % pageSize l.level

/-- The leaf's tier: true the LP tier. -/
def Leaf.lp (l : Leaf) : Bool := l.entry.getLsbD 59

/-- The rules a page-table entry breaks at a level (R200): V = 0, a reserved bit, a pointer at level 2, a frame
beyond its tier. -/
def entryBad (level : Nat) (e : Nat) : Bool :=
  let leaf := bit e 62
  !(bit e 63) || (bits e 57 56 != 0) || (bits e 11 3 != 0) ||
  (!leaf && (decide (level = 2) || (bits e 61 44 != 0) || (bits e 2 0 != 0))) ||
  (leaf && bit e 58 && bit e 47) ||
  (leaf && decide ((if bit e 59 then 2199023255552 else 549755813888) < (bits e 43 12 + 1) * pageSize level))

/-- One level of the walk: the entry at an address of the tables' tier. -/
def State.entryAt (s : State) (lp : Bool) (a : Nat) : Nat := ofBytes (s.tierRead lp a 8)

/-- The walk (R197): relaxed reads at the tier that PTBASE names. none is PAGE. -/
def State.walk (s : State) (ptbase : Word) (va : Nat) : Option Leaf :=
  let lp := ptbase.getLsbD 62
  let e0 := s.entryAt lp (bits ptbase.toNat 42 11 * 2048 + 8 * (va / 3221225472))
  if entryBad 0 e0 then none
  else if bit e0 62 then some { level := 0, vpn := va / pageSize 0, entry := BitVec.ofNat 64 e0 }
  else
    let e1 := s.entryAt lp (bits e0 43 12 * 2048 + 8 * (va % 3221225472 / 12582912))
    if entryBad 1 e1 then none
    else if bit e1 62 then some { level := 1, vpn := va / pageSize 1, entry := BitVec.ofNat 64 e1 }
    else
      let e2 := s.entryAt lp (bits e1 43 12 * 2048 + 8 * (va % 12582912 / 49152))
      if entryBad 2 e2 then none
      else some { level := 2, vpn := va / pageSize 2, entry := BitVec.ofNat 64 e2 }

/-- Entries the walk reads, the one that faults among them, for its time (R201). -/
def State.walkReads (s : State) (ptbase : Word) (va : Nat) : Nat :=
  let lp := ptbase.getLsbD 62
  let e0 := s.entryAt lp (bits ptbase.toNat 42 11 * 2048 + 8 * (va / 3221225472))
  if entryBad 0 e0 || bit e0 62 then 1
  else
    let e1 := s.entryAt lp (bits e0 43 12 * 2048 + 8 * (va % 3221225472 / 12582912))
    if entryBad 1 e1 || bit e1 62 then 2 else 3

/-! ### Homes (R227, R228) -/

/-- Position of the s-th set bit of a mask, counting from bit 0. -/
def nthSet (mask s : Nat) : Nat := nth (setBits mask 16) s

/-- home_core(L, mask) (R228). -/
def homeLocal (l mask : Nat) : Nat :=
  let n := (setBits mask 16).length
  nthSet mask (((l ^^^ (l / 2 ^ 11)) ^^^ (l / 2 ^ 23)) % n)

/-- home_bank_set(L, c) (R228): bank and set, or none when the core has no CACHE bank. -/
def homeBankSet (bankrole : Word) (l c : Nat) : Option (Nat × Nat) :=
  let a := roleIn bankrole (2 * c) = 1
  let b := roleIn bankrole (2 * c + 1) = 1
  if a && b then some (2 * c + l % 2, l / 2 % 64)
  else if a then some (2 * c, l % 64)
  else if b then some (2 * c + 1, l % 64)
  else none

/-- MASK and GEN of a domain of a cluster (R229). -/
def Cluster.domain (k : Cluster) (d : Nat) : Nat × Nat := look k.idom d (0xFFFF, 0)

/-- The (MASK, GEN) a core uses for a domain: its cached pair, else the home cluster's (R230). A pair with MASK 0 is asked for
anew each time, since the slice that would answer REHOME does not exist. -/
def State.domainSeen (s : State) (core cl d : Nat) : Nat × Nat :=
  match find (s.core core).domCache (cl * 8 + d) with
  | some (m, g) => if m = 0 then (s.cluster cl).domain d else (m, g)
  | none => (s.cluster cl).domain d

/-- Keep the pair that an access of a core was made with (R230: filled from the home cluster on a miss). -/
def State.keepDomain (s : State) (core cl d : Nat) : State :=
  let p := s.domainSeen core cl d
  if find (s.core core).domCache (cl * 8 + d) = some p then s
  else s.onCore core fun k => { k with domCache := assign k.domCache (cl * 8 + d) p }

/-! ### Who makes an access -/

/-- The attributes an access is checked with (R193, R200, R246). -/
structure Who where
  agent : Agent
  uid : Nat := 0
  world : Bool
  tenant : Option Nat
  ptbase : Word
  leaves : List Leaf
  xl : List Xlat
  core : Nat
  col : Nat
  pc : Word := 0
deriving DecidableEq, Repr

/-- A thread as the maker of an access. -/
def State.who (s : State) (c sl : Nat) : Who :=
  let th := s.thread c sl
  { agent := .thread c sl, uid := th.uid, world := th.world, tenant := s.tenantOf (clusterOf c),
    ptbase := (s.core c).ptbase, leaves := (s.core c).tcache, xl := th.xl, core := c, col := columnOf c, pc := th.pc }

/-- What is known of the translation of an address: nothing yet, a PAGE fault, or a leaf. -/
def Who.translate (w : Who) (va : Nat) : Option (Option Leaf) :=
  match w.leaves.find? fun l => l.covers va with
  | some l => some (some l)
  | none => match w.xl.find? fun x => match x.leaf with
      | some l => l.covers va
      | none => x.va / 49152 = va / 49152 with
    | some x => some x.leaf
    | none => none

/-- The outcome of an access's checks. -/
inductive Checked where
  | good (a : Access)
  | bad (k : Cause) (addr : Word)
  /-- the translation of this address is still to be walked -/
  | walk (va : Nat)
deriving DecidableEq, Repr

/-- A LOCAL block that lies in a frozen window of its column (R115). -/
def State.frozenAt (s : State) (va : Nat) : Bool :=
  (s.column (bits va 28 18)).frozen.any fun p =>
    decide (p.2.1 / 64 ≤ bits va 17 0 / 64) && decide (bits va 17 0 / 64 < p.2.1 / 64 + p.2.2)

/-- The access PERM check of R193: the cluster belongs to the agent's tenant, and its world is reachable. -/
def State.reachable (s : State) (w : Who) (cl : Nat) : Bool :=
  (s.tenantOf cl).isSome && (s.tenantOf cl == w.tenant) && (w.world || !(s.cluster cl).world)

/-- The GLOBAL layout: [63:60] and [55:48] zero (R192). -/
def globalLayout (ea : Nat) : Bool := (bits ea 63 60 = 0) && (bits ea 55 48 = 0)

/-- Permissions needed: load, store (R200). -/
structure Need where
  r : Bool
  w : Bool
deriving DecidableEq, Repr

/-- A leaf's access check: R, W and the world of the page (R200). -/
def leafFault (l : Leaf) (w : Who) (n : Need) : Bool :=
  (n.r && !(l.entry.getLsbD 0)) || (n.w && !(l.entry.getLsbD 1)) || (l.entry.getLsbD 61 && !w.world)

/-- The access for a translated GLOBAL address: its physical address, tier, home and tag check (R199, R227). -/
def State.globalAccess (s : State) (w : Who) (ea va : Nat) (l : Leaf) : Checked :=
  let e := l.entry.toNat
  let hashed := bit e 58
  let pa := l.pa va
  let a : Access := { agent := w.agent, uid := w.uid, idx := 0, space := .global, va := ea, op := .load 0 false,
                      world := w.world, pc := w.pc, pa := pa, tier := l.lp, hashed := hashed, home := bits e 55 44,
                      tagchk := bit e 60, tag := bits ea 59 56, off := pa % 192 }
  if hashed then
    let cl := bits e 55 48
    let (mask, gen) := s.domainSeen w.core cl (bits e 46 44)
    if mask = 0 then .bad .page (BitVec.ofNat 64 ea)
    else .good { a with gen := gen, cl := cl, homeCore := cl * 16 + homeLocal (pa / 192) mask }
  else .good { a with homeCore := bits e 55 44, cl := bits e 55 44 / 16 }

/-- The checks of one access from MISALIGN on (R195), for every space but RING; NOMIGRATE is left to the caller, who
knows whether a thread can move. -/
def State.check (s : State) (w : Who) (space : Mode) (ea : Word) (width : Nat) (n : Need) : Checked :=
  let a := ea.toNat
  if a % width ≠ 0 then .bad .misalign ea else
  match space with
  | .global =>
    if !(globalLayout a) then .bad .page ea
    else if !(w.ptbase.getLsbD 63) then .bad .page ea
    else match w.translate (a % 2 ^ 48) with
      | none => .walk (a % 2 ^ 48)
      | some none => .bad .page ea
      | some (some l) => match s.globalAccess w a (a % 2 ^ 48) l with
        | .good x => if leafFault l w n then .bad .perm ea else .good x
        | r => r
  | .loc =>
    if !(s.reachable w (addrCluster .loc a)) then .bad .perm ea
    else if n.w && s.frozenAt a then .bad .perm ea
    else if 2 ^ 29 ≤ a then .bad .range ea
    else .good { agent := w.agent, uid := w.uid, idx := 0, space := .loc, va := a, op := .load 0 false, world := w.world,
                 pc := w.pc, cl := addrCluster .loc a, off := a % 64 }
  | .ring => .bad .ringerr ea
  | sp =>
    if !(s.reachable w (addrCluster sp a)) then .bad .perm ea
    else if 2 ^ 32 ≤ a then .bad .range ea
    else match s.mapBank sp a with
      | none => .bad .range ea
      | some (bank, row) =>
        .good { agent := w.agent, uid := w.uid, idx := 0, space := sp, va := a, op := .load 0 false, world := w.world,
                pc := w.pc, cl := addrCluster sp a, bank := bank, row := row, off := a % 64 }

/-! ### The wheels (R138 to R141) -/

/-- The bank rider i meets on cycle t (R138). -/
def innerBank (tbl : InnerTable) (t i : Nat) : Nat := nth (tbl.getD (t % tbl.length) []) i

/-- The outer row in force on cycle t (R139). -/
def outerRow (outer : List Nat) (lin t : Nat) : Nat := nth outer (t / lin % outer.length)

/-- The group, a cluster number, that cluster cl faces on cycle t (R139). -/
def State.faces (s : State) (cl t : Nat) : Nat :=
  let q := s.quad (cl / 4)
  cl / 4 * 4 + bits (outerRow q.outer (s.cluster cl).inner.length t) (2 * (cl % 4) + 1) (2 * (cl % 4))

/-- A group lies in the cluster's column of an outer table (R141). -/
def inColumn (outer : List Nat) (cl group : Nat) : Bool :=
  decide (cl / 4 = group / 4) && outer.any fun f => bits f (2 * (cl % 4) + 1) (2 * (cl % 4)) = group % 4

/-- meet(i, b, g, t) (R140), by search over at most the period of both wheels. -/
def State.meet (s : State) (cl i b g t : Nat) : Nat :=
  let k := s.cluster cl
  let n := k.inner.length * (s.quad (cl / 4)).outer.length
  match (List.range (n + 1)).find? fun d => innerBank k.inner (t + 2 + d) i = b && s.faces cl (t + 2 + d) = g with
  | some d => t + 2 + d
  | none => t + 2 + n

/-- Of two riders, the one whose next meeting with the bank comes first, the lower on a tie (R134). -/
def State.firstRider (s : State) (cl i j b g t : Nat) : Nat :=
  if s.meet cl j b g t < s.meet cl i b g t then j else i

end Sys2Proof.Machine
end

