-- ==== Sys2Proof/Machine/Access.lean ====
section
/-!
DEFINITION. An access on its way: what it does to the block where it is performed, the path it takes (06_wheels R141,
09_homing R227, 08_access R202), and the answer that returns to its agent.
-/
namespace Sys2Proof.Machine

open Sys2Proof

/-! ### What an access does to its bytes -/

/-- The new value of an atomic operation, none when it writes nothing (14_sync R351). -/
def amoResult (op w x y z : Nat) : Option Nat :=
  let n := 8 * w
  match op with
  | 0 => some ((x + y) % 2 ^ n)
  | 1 => some (x &&& y)
  | 2 => some (x ||| y)
  | 3 => some (x ^^^ y)
  | 4 => some (if sext x n ≤ sext y n then x else y)
  | 5 => some (if sext x n ≤ sext y n then y else x)
  | 6 => some (min x y)
  | 7 => some (max x y)
  | 8 => some y
  | 9 => if x = z then some y else none
  | 10 => some (specF32.add .rne x y).1
  | _ => some (specF64.add .rne x y).1

/-- Bytes off to off + n of a block. -/
def slice (bs : List Byte) (off n : Nat) : List Byte := (bs.drop off).take n

/-- Replace the bytes of a block from off on. -/
def splice (bs : List Byte) (off : Nat) (new : List Byte) : List Byte :=
  bs.take off ++ new ++ bs.drop (off + new.length)

/-- What an operation makes of a block: the new bytes when it writes, and what it returns. -/
def applyOp (op : AccOp) (off : Nat) (old : List Byte) : Option (List Byte) × List Byte := match op with
  | .load n _ => (none, slice old off n)
  | .store bs => (some (splice old off bs), [])
  | .storeSome parts => (some (parts.foldl (fun b p => splice b (off + p.1) p.2) old), [])
  | .amo k w y z =>
    let x := ofBytes (slice old off w)
    ((amoResult k w x y z).map fun v => splice old off (toBytes w v), toBytes w x)
  | _ => (none, [])

/-- The bytes of a block an operation writes: all 64 of them. -/
def coversBlock (op : AccOp) : Bool := match op with
  | .store bs => bs.length = 64
  | _ => false

/-- An operation that only loads. -/
def AccOp.loads (op : AccOp) : Bool := match op with
  | .load .. => true
  | _ => false

/-- An operation that may write. -/
def AccOp.writes (op : AccOp) : Bool := match op with
  | .store _ | .storeSome _ | .amo .. | .stag _ | .inv => true
  | _ => false

/-- Perform an operation on a block of a memory whose poisoned blocks are listed: an atomic on a poisoned block writes
nothing, a load consumes the poison, a store that covers the block clears it (09_homing R238, 14_sync R351). -/
def performBlock (m : Memory) (bad : List Nat) (base : Nat) (a : Access) : Memory × List Nat × AccResult :=
  let blk := base / 64
  let poisoned := bad.contains blk
  let old := m.readN base 64
  let (new, out) := applyOp a.op a.off old
  match a.op with
  | .amo .. =>
    if poisoned then (m, bad, { poison := true })
    else match new with
      | some bs => (m.writeN base bs, bad, { bytes := out })
      | none => (m, bad, { bytes := out })
  | _ => match new with
    | some bs =>
      let bad := if a.poison then blk :: bad.filter (· != blk) else if coversBlock a.op then bad.filter (· != blk) else bad
      (m.writeN base bs, bad, {})
    | none => (m, bad, { bytes := out, poison := poisoned })

/-- A thread's access that consumes what it reads (R195). -/
def consumes (a : Access) : Bool := match a.agent, a.op with
  | .thread _ _, .load _ _ => true
  | .thread _ _, .amo _ _ _ _ => true
  | _, _ => false

/-- The ECC of a block finds an error (R155, 20_traps R409): a corrected one is recorded, and an uncorrectable one that no thread
consumes; storage code, unit index and recording core as given. -/
def State.foundError (s : State) (a : Access) (core store unit : Nat) (hard : Bool) : State :=
  if hard && consumes a then s
  else s.record core { kind := if hard then 8 else 7, pc := a.pc, addr := BitVec.ofNat 64 a.va, w4 := store, w5 := unit,
                       w6 := if hard then 2 else 1 }

/-- The blocks known to be bad once the error of a block, if any, has been found by an access. -/
def withFound (bad : List Nat) (blk : Nat) (e : Option Bool) : List Nat := match e with
  | some true => blk :: bad.filter (· != blk)
  | _ => bad

/-- The error of a block that an access finds: one that it overwrites whole it does not read. -/
def errorFound (errs : List (Nat × Bool)) (blk : Nat) (a : Access) : Option Bool :=
  if coversBlock a.op then none else find errs blk

/-- Perform a banked access at its bank (R144: one whole block, indivisibly). The bank's events are recorded by the core that
has it (R155). -/
def State.performBank (s : State) (a : Access) : State × AccResult :=
  let base := bankAddr a.cl a.bank a.row
  let e := errorFound s.bankErr (base / 64) a
  let (m, bad, r) := performBlock s.bankMem (withFound s.bankBad (base / 64) e) base a
  let s := { s with bankMem := m, bankBad := bad, bankErr := unset s.bankErr (base / 64) }
  (match e with
    | some hard => s.foundError a (a.cl * 16 + a.bank / 2) 1 a.bank hard
    | none => s, { r with store := 1, unit := a.bank, pa := a.va })

/-- The address of a LOCAL block in State.colMem. -/
def colAddr (va : Nat) : Nat := bits va 28 0 / 64 * 64

/-- Perform a LOCAL access at its column store (R202). Its events are recorded by the column's upper core. -/
def State.performColumn (s : State) (a : Access) : State × AccResult :=
  let base := colAddr a.va
  let e := errorFound s.colErr (base / 64) a
  let (m, bad, r) := performBlock s.colMem (withFound s.colBad (base / 64) e) base a
  let s := { s with colMem := m, colBad := bad, colErr := unset s.colErr (base / 64) }
  (match e with
    | some hard => s.foundError a (2 * (a.va / 2 ^ 18)) 2 (a.va / 2 ^ 18) hard
    | none => s, { r with store := 2, unit := a.va / 2 ^ 18, pa := a.va })

/-! ### Where an agent is -/

/-- The router of a port's MAC (21_fabric R421). -/
def portCluster (port : Nat) : Nat := 64 * (port / 2) + (if port % 2 = 0 then 24 else 31)

/-- The cluster an agent works in; another device's is that of its port. -/
def agentCluster (g : Agent) : Nat := match g with
  | .thread c _ => clusterOf c
  | .engine c => clusterOf c
  | .matrix cl => cl
  | .fetch col => col / 8
  | .mcast cl _ => cl
  | .device _ _ port _ _ => portCluster port

/-- The endpoint at which an agent is answered (21_fabric R421). -/
def agentEp (g : Agent) : Nat := match g with
  | .thread c _ => epOf c
  | .engine _ => 8
  | .matrix _ => 8
  | .fetch col => col % 8
  | .mcast _ _ => 8
  | .device .. => 15

/-- The core that an access works for. -/
def agentCore (g : Agent) : Nat := match g with
  | .thread c _ => c
  | .engine c => c
  | .matrix cl => cl * 16
  | .fetch col => 2 * col
  | .mcast cl _ => cl * 16
  | .device .. => 0

/-! ### Banked accesses (R141) -/

/-- A role change under way holds new requests to a bank that changes role (R153). -/
def State.roleHolds (s : State) (cl bank : Nat) : Bool := match (s.cluster cl).roleChange with
  | none => false
  | some rc => roleIn (s.cluster cl).bankrole bank != roleIn rc.new bank

/-- A pending outer swap holds a new request that would wait on the outer wheel for a group its cluster faces in no
row of the shadow table (R149). -/
def State.swapHolds (s : State) (src group : Nat) : Bool :=
  let q := s.quad (src / 4)
  (s.cluster (src / 4 * 4)).swap && decide (src ≠ group) &&
    !(inColumn (q.outerShadow.take (if q.sout = 0 then 16 else q.sout)) src group)

/-- Queue an access at a rider of a cluster, requested a number of cycles from now. -/
def State.atRiderFrom (s : State) (cl rider d : Nat) (a : Access) : State :=
  let t := (s.cluster cl).t + d
  let a := { a with reqT := t, since := t, held := s.roleHolds a.cl a.bank || s.swapHolds cl a.cl }
  s.onCluster cl fun k => { k with riders := assign k.riders rider (look k.riders rider [] ++ [a]) }

/-- Queue an access at a rider of a cluster, requested on this cycle. -/
def State.atRider (s : State) (cl rider : Nat) (a : Access) : State := s.atRiderFrom cl rider 0 a

/-- An access at an engine's or a network rider has an earlier one of the same agent waiting for the same bank at another of them. -/
def State.overtakes (s : State) (cl rider : Nat) (a : Access) : Bool :=
  decide (28 ≤ rider) && (s.cluster cl).riders.any fun p => decide (28 ≤ p.1) && decide (p.1 ≠ rider) && p.2.any fun x =>
    x.agent = a.agent && x.uid = a.uid && x.bank = a.bank && x.cl = a.cl &&
      (decide (x.reqT < a.reqT) || (decide (x.reqT = a.reqT) && decide (x.idx < a.idx)))

/-- Of two riders of a cluster, the one an access goes to that is requested now: the one whose next meeting with its bank comes first
(R134). -/
def State.pickRider (s : State) (cl i j : Nat) (a : Access) : Nat := s.firstRider cl i j a.bank a.cl (s.cluster cl).t

/-- An access that arrives from the mesh goes to a network rider (R134), mapped under the roles in force when it arrives
(15_ordering R364, R381). -/
def State.atNetwork (s : State) (a : Access) : State := match s.mapBank a.space a.va with
  | some (b, row) =>
    let a := { a with bank := b, row := row }
    s.atRider a.cl (s.pickRider a.cl 30 31 a) a
  | none => s.convey a.cl 8 (agentCluster a.agent) (agentEp a.agent) 1 1 1 (.accAns a { fault := some .range })

/-- The outer wheel is a path for cores: the engine's blocks of other clusters go by the mesh port (10_engines R244). -/
def ridesOuter (g : Agent) : Bool := match g with
  | .engine _ => false
  | _ => true

/-- Request a banked access from a rider of cluster src by the path of R141. -/
def State.requestBank (s : State) (src rider : Nat) (a : Access) : State :=
  if a.cl = src || (ridesOuter a.agent && inColumn (s.quad (src / 4)).outer src a.cl) then s.atRider src rider a
  else s.ship src 8 a.cl 8 0 (if a.op.writes then 2 else 1) (.acc a)

/-- The rider of an agent for a bank (R134). -/
def State.riderOf (s : State) (g : Agent) (a : Access) : Nat := match g with
  | .thread c _ => c % 16
  | .engine c => s.pickRider (clusterOf c) 28 29 { a with agent := g }
  | _ => 16

/-! ### GLOBAL and network-port accesses -/

/-- The home bank of a GLOBAL access, when its home core has a CACHE bank (R228). -/
def State.homeBank (s : State) (a : Access) : Option Nat :=
  (homeBankSet (s.cluster (clusterOf a.homeCore)).bankrole (a.pa / 192) (a.homeCore % 16)).map fun p => p.1

/-- A place in a stack's directory: the central router of a line (21_fabric R421). -/
def directoryCluster (stack l : Nat) : Nat := 64 * stack + nth [27, 28, 35, 36] (l % 4)

/-- The stack copy that may serve a load, when the directory holds its sectors (R233, R373); a load whose tag is checked and does
not match goes to the home, which traps (R243: a copy changes timing only). -/
def State.copyAt (s : State) (src : Nat) (a : Access) : Option CopyLine :=
  let n := match a.op with
    | .load n _ => n
    | _ => 1
  (s.stack (stackOf src)).copies.find? fun x => x.l = a.pa / 192 && x.tier = a.tier &&
    (List.range n).all fun i => x.has.contains ((a.pa % 192 + i) / 48) &&
      (!a.tagchk || nth x.tags ((a.pa % 192 + i) / 48) == a.tag)

/-- An agent with a store that is not acknowledged yet: it is not served from a copy (R373). -/
def State.unacked (s : State) (g : Agent) : Bool := match g with
  | .thread c sl => decide (0 < (s.thread c sl).posted)
  | _ => false

/-- Nanoseconds that each way between a core and a home in another stack takes beyond the transit of R423, so that a load takes
R235's 90 + 6 per hop. -/
def crossTime : Nat := 25

/-- The access that a content carries, to its home or back. -/
def Content.access (c : Content) : Option Access := match c with
  | .acc a => some a
  | .accAns a _ => some a
  | .rehome a _ _ => some a
  | .copyFill _ a _ _ => some a
  | _ => none

/-- Another stack's home. -/
def farHome (src : Nat) (a : Access) : Bool := decide (stackOf (clusterOf a.homeCore) ≠ stackOf src)

/-- Two accesses of one agent to one line. -/
def sameLine (x a : Access) : Bool :=
  x.agent = a.agent && x.uid = a.uid && x.pa / 192 = a.pa / 192 && x.tier = a.tier

/-- An earlier access of an agent to a line is on its way: a stack copy serves no later one before it (15_ordering R368). -/
def State.lineOut (s : State) (a : Access) : Bool := s.items.any fun p => match p.2.access with
  | some x => sameLine x a
  | none => false

/-- Send a GLOBAL access to its home (R227, R235): in the issuing cluster by the meeting of the core's rider with the home bank
(R134, 17_crosspath_at_work R393), an engine's by way of the cluster's mesh port (R394), elsewhere as a packet. A relaxed load of a
line homed in another stack goes to its stack's directory first (R233). -/
def State.sendHome (s : State) (core : Nat) (a : Access) : State :=
  let src := clusterOf core
  let ep := agentEp a.agent
  let lag := if farHome src a then crossTime else 0
  if clusterOf a.homeCore = src then
    match a.agent, s.homeBank a with
    | .engine _, _ => s.notify src 2 (.atPort { a with cl := src })
    | _, some b => s.atRider src (core % 16) { a with cl := src, bank := b }
    | _, none =>
      let due := max ((s.cluster src).t + 2) (s.core core).homeAt
      (s.onCore core fun k => { k with homeAt := due }).notify src (due - (s.cluster src).t) (.acc a)
  else if a.copyOk && farHome src a && !(s.unacked a.agent) && !(s.lineOut a) then
    match s.copyAt src a with
    | some x =>
      let (n, s) := s.draw
      let r : AccResult := { bytes := match a.op with
        | .load k _ => slice x.data (a.pa % 192) k
        | _ => [] }
      s.notify src (s.islandCycles src 30 + Config.jitter n) (.accAns a r)
    | none =>
      let (n, s) := s.draw
      let s := s.onStack (stackOf src) fun k =>
        { k with filling := k.filling ++ [{ stamp := n, l := a.pa / 192, tier := a.tier }] }
      s.shipAfter lag src ep (clusterOf a.homeCore) 9 0 1 (.acc { a with stamp := n + 1 })
  else s.shipAfter lag src ep (clusterOf a.homeCore) 9 0 (if a.op.writes then 2 else 1) (.acc a)

/-- The core whose HASHED accesses are kept in order across changes of home: a thread's or an engine request's (15_ordering
R363). -/
def orderedAt (g : Agent) : Option Nat := match g with
  | .thread c _ => some c
  | .engine c => some c
  | _ => none

/-- Two accesses to one line on their way to one home under one generation. -/
def sameTrip (x a : Access) : Bool := sameLine x a && x.homeCore = a.homeCore && x.gen = a.gen

/-- Request a GLOBAL access. A HASHED one waits behind an earlier access of its agent to the same line that is on its way to
another home or under another generation: a replayed access keeps its place in program order (R230, 15_ordering R368). -/
def State.requestHome (s : State) (core : Nat) (a : Access) : State :=
  match a.hashed, orderedAt a.agent with
  | true, some c =>
    let k := s.core c
    if (k.sent.any fun x => sameLine x a && !(sameTrip x a)) || k.behind.any fun x => sameLine x a then
      s.setCore c { k with behind := k.behind ++ [a] }
    else ((s.setCore c { k with sent := k.sent ++ [a] }).keepDomain c (a.home / 16) (a.home % 8)).sendHome core a
  | _, _ => s.sendHome core a

/-- A HASHED access under the pair that its core now has for its domain; with an empty MASK it faults (R230). -/
def State.requestAnew (s : State) (core : Nat) (a : Access) : State :=
  let cl := a.home / 16
  let (mask, gen) := s.domainSeen core cl (a.home % 8)
  if mask = 0 then s.notify (clusterOf core) 1 (.accAns a { fault := some .page })
  else s.requestHome core { a with gen := gen, cl := cl, homeCore := cl * 16 + homeLocal (a.pa / 192) mask }

/-- The accesses of an agent to a line that wait behind one of it are requested in their order. -/
def State.releaseBehind (s : State) (c : Nat) (a : Access) : State :=
  let k := s.core c
  (k.behind.filter fun x => sameLine x a).foldl (fun s x => s.requestAnew c x)
    (s.setCore c { k with behind := k.behind.filter fun x => !(sameLine x a) })

/-- An access of a core is answered: it is on its way no more, and those behind it go on. -/
def State.landed (s : State) (a : Access) : State := match a.hashed, orderedAt a.agent with
  | true, some c =>
    (s.onCore c fun k => { k with sent := match k.sent.find? fun x => sameTrip x a with
      | some x => k.sent.erase x
      | none => k.sent }).releaseBehind c a
  | _, _ => s

/-- Send a LOCAL access to a column's network port (R202). -/
def State.requestPort (s : State) (g : Agent) (a : Access) : State :=
  let (d, s) := s.within 14
  s.convey (agentCluster g) (agentEp g) (a.va / 2 ^ 18 / 8) (a.va / 2 ^ 18 % 8) 0 (if a.op.writes then 2 else 1) d (.acc a)

/-- Request any access for an agent: its own path by space. -/
def State.request (s : State) (g : Agent) (core : Nat) (a : Access) : State := match a.space with
  | .global => s.requestHome core a
  | .loc => s.requestPort g a
  | _ => s.requestBank (agentCluster g) (s.riderOf g a) a

/-- The flits of an answer: one for at most a sector of data, two for a block (21_fabric R422). -/
def AccResult.flits (r : AccResult) : Nat := if r.bytes.length ≤ 48 then 1 else 2

/-- Answer an access from cluster cl to its agent: inside the cluster after d cycles, else as a packet. -/
def State.answer (s : State) (cl ep d : Nat) (a : Access) (r : AccResult) : State :=
  s.convey cl ep (agentCluster a.agent) (agentEp a.agent) 1 r.flits d (.accAns a r)

end Sys2Proof.Machine
end

