-- ==== Sys2Proof/Machine/Launch.lean ====
section
/-!
DEFINITION. Launch by message (04_channels): sending and its answers, the arrival queue, channels, task records and
the deque, selection and admission, the service slot, stealing, dependence counters, and the reports and spilled items
that travel as messages.
-/
namespace Sys2Proof.Machine

open Sys2Proof

/-! ### Task-table entries (R70, R71) -/

/-- V of an entry. -/
def ttValid (e : Word) : Bool := e.getLsbD 63
/-- B of an entry. -/
def ttBlocked (e : Word) : Bool := e.getLsbD 61
/-- W of an entry. -/
def ttWorld (e : Word) : Bool := e.getLsbD 62
/-- PRI of an entry. -/
def ttPri (e : Word) : Nat := bits e.toNat 60 59
/-- The register limit an entry gives. -/
def ttLimit (e : Word) : Nat := 8 * (bits e.toNat 58 55 + 1)
/-- The entry PC. -/
def ttPc (e : Word) : Word := BitVec.ofNat 64 (bits e.toNat 47 0)
/-- An arrival to the channel may be admitted. -/
def ttOpen (e : Word) : Bool := ttValid e && !ttBlocked e

/-- What a write of an entry stores (R71, R6): reserved bits zero, V cleared for a PC that is no head address. -/
def ttStore (v : Word) : Word :=
  let v := v &&& ~~~(BitVec.ofNat 64 (0x7F * 2 ^ 48))
  if v.getLsbD 0 || decide (bits v.toNat 5 1 = 0) then withoutBit v 63 else v

/-- A core's entry for a channel. -/
def Core.tt (k : Core) (ch : Nat) : Word := look k.ttab ch 0

/-! ### Groups and memberships (R127, R128) -/

/-- The index of the membership register valid for a group. -/
def Core.membOf (k : Core) (g : Nat) : Option Nat :=
  (List.range 4).find? fun j => (look k.memb j 0).getLsbD 32 && decide (bits (look k.memb j 0).toNat 7 0 = g)

/-- A group's members in rank order; none when the entry is not valid. -/
def State.members (s : State) (g : Nat) : Option (List Nat) := (find s.groups g).map fun e => e.members

/-- The group is valid and belongs to the tenant of a core. -/
def State.ownGroup (s : State) (c g : Nat) : Bool := match find s.groups g with
  | some e => s.tenantOf (clusterOf c) == some e.tenant
  | none => false

/-! ### Contents to other devices (R435, R436) -/

/-- A port of the system chart that reaches a device and is up. -/
def State.portFor (s : State) (dev : Nat) : Option Nat :=
  (look s.sysChart dev []).find? fun p => !(s.portsDown.contains p) && !(s.pathsDown.contains (dev, p))

/-- The MAC address that the device map gives a device, this module among them. -/
def State.macOf (s : State) (dev : Nat) : Nat := look (s.devMap.map fun e => (e.1, e.2.mac)) dev 0

/-- Put one packet out of a port in a frame of its own to a device (R434). -/
def State.putFrame (s : State) (dev port : Nat) (q : Packet × Content) : State :=
  { s with ethOut := s.ethOut ++ [{ etherType := 0x8A7E, version := 1, flags := 0, edition := s.sysEdition, src := s.devNo, dst := dev
                                    srcMac := s.macOf s.devNo, dstMac := s.macOf dev, port := port, packets := [q] }] }

/-- Put a system-scope packet out of a port in a frame of its own (R434). While no system chart reaches its device it stays
in its retry buffer (R436). -/
def State.frameOut (s : State) (p : Packet) : State := match s.portFor p.ddev, find s.items p.content with
  | some port, some c => s.putFrame p.ddev port (p, c)
  | _, _ => s

/-- Send a content to another device between two endpoints: numbered in a stream of its own and kept until that device
acknowledges it (R426, R435). -/
def State.toDevice (s : State) (dev scl sep dcl dep cls len : Nat) (c : Content) : State :=
  let (id, s) := s.addItem c
  let key : Stream := { scl := scl, sep := sep, dcl := dcl, dep := dep, cls := cls, far := some dev }
  let st := s.stream key
  let p : Packet := { edition := s.sysEdition, seq := st.next % 65536, len := len, cls := cls, scl := scl, sep := sep, dcl := dcl
                      dep := dep, sdev := s.devNo, ddev := dev, op := c.ctorIdx, fields := (rowOf c).2 % 2 ^ 24, content := id }
  if st.retry.length < 256 then (s.setStream { st with next := st.next + 1, retry := st.retry ++ [p] }).frameOut p
  else s.setStream { st with next := st.next + 1, waiting := st.waiting ++ [p] }

/-- The device map allows traffic of a tenant to a device (R435). -/
def State.mapped (s : State) (dev : Nat) (tenant : Option Nat) : Bool := match find s.devMap dev with
  | some e => tenant == some e.tenant
  | none => false

/-! ### Sending (R72 to R76) -/

/-- The answer to a message's source: a thread, a core for its own reports, the firmware (device 0xFFFE), which tries again
when the queue was full, or another device. -/
def State.answerMsg (s : State) (m : Msg) (from_ : Nat) (a : Ans) : State :=
  let c : Content := if m.report then .reportAns m.srcCore a else .sendAns m.srcCore m.srcSlot a
  if m.srcDev = 0xFFFE then
    if a = .full then
      let (id, s) := s.addItem (.msg m)
      s.inNs 64 .arrival { unit := m.dstCore, item := id }
    else s
  else if m.srcDev = s.devNo then s.coreToCore from_ m.srcCore 1 1 c
  else s.toDevice m.srcDev (clusterOf from_) (epOf from_) (clusterOf m.srcCore) (epOf m.srcCore) 1 1 c

/-- The router of the management cores of a cluster's stack (R421). -/
def mgmtCluster (cl : Nat) : Nat := 64 * stackOf cl + 27

/-- Transmit a message of a thread (R73, R74, R435, R450). -/
def State.transmit (s : State) (c : Nat) (m : Msg) (sup : Bool) : State :=
  let refuse := s.notify (clusterOf c) 1 (.sendAns m.srcCore m.srcSlot .refused)
  if m.dstDev = 0xFFFE then
    if m.remop && sup then s.ship (clusterOf c) (epOf c) (mgmtCluster (clusterOf c)) 12 2 2 (.msg m) else refuse
  else if m.dstDev = s.devNo then s.coreToCore c m.dstCore 2 2 (.msg m)
  else if s.mapped m.dstDev m.tenant then
    s.toDevice m.dstDev (clusterOf c) (epOf c) (clusterOf m.dstCore) (epOf m.dstCore) 2 2 (.msg m)
  else refuse

/-- The message of a SEND. -/
def State.sendMsg (s : State) (c sl : Nat) (remop : Bool) (a b count : Nat) : Msg :=
  let w := (s.reg64 c sl a).toNat
  let dev := bits w 63 48
  { remop := remop, srcDev := s.devNo, srcCore := c, srcSlot := sl, world := (s.thread c sl).world,
    tenant := s.tenantOf (clusterOf c), dstDev := if dev = 0xFFFF then s.devNo else dev, dstCore := bits w 47 36,
    channel := bits w 35 30, words := (List.range count).map fun i => s.reg64 c sl (b + i) }

/-- A cluster, or another device, lies in another stack than a core: the edge between them has device scope or wider
(15_ordering R364). -/
def farFrom (c : Nat) (cl : Option Nat) : Bool := match cl with
  | some k => decide (stackOf k ≠ stackOf (clusterOf c))
  | none => true

/-- A request answered in the thread's own cluster lets it issue again on the second or third turn (R75, 13_matrix
R325). -/
def State.answerTurns (s : State) (c sl : Nat) : State :=
  let (n, s) := s.within 2
  s.turns c sl (1 + n)

/-- SEND: a release at the scope of its edge (R76, 15_ordering R368); then transmit, and hold until the answer (R74,
R75). -/
def send (remop : Bool) (busy : Option Nat) (a b count : Nat) (i : Instr) (s : State) : Host.Outcome State Fault Refusal :=
  guarded s false (a :: busy.toList ++ (List.range count).map (b + ·)) busy.toList fun c sl =>
    let m := s.sendMsg c sl remop a b count
    let far := farFrom c (if m.dstDev = s.devNo then some (clusterOf m.dstCore) else none)
    if s.relWaits (s.thread c sl) far then s.stay c sl none
    else
      let s := (s.transmit c m (s.thread c sl).sup).await c sl i none
      if decide (m.dstDev = s.devNo) && decide (m.dstCore ≠ c) && decide (clusterOf m.dstCore = clusterOf c) then
        s.answerTurns c sl else s

/-- SEND.TASK. -/
def execSendTask (busy : Option Nat) (a b count : Nat) (s : State) : Host.Outcome State Fault Refusal :=
  send false busy a b count (.sendTask busy a b count) s
/-- SEND.REMOP. -/
def execSendRemop (busy : Option Nat) (a b count : Nat) (s : State) : Host.Outcome State Fault Refusal :=
  send true busy a b count (.sendRemop busy a b count) s

/-- A SEND that a thread holds: kind, busy register, and operands. -/
def sendOf (i : Instr) : Option (Bool × Option Nat × Nat × Nat × Nat) := match i with
  | .sendTask q a b n => some (false, q, a, b, n)
  | .sendRemop q a b n => some (true, q, a, b, n)
  | _ => none

/-- A request of the thread was answered FULL, and it is held on it from here on: the hold counts in the SEND class of the
watchdog (R361). -/
def State.heldFull (s : State) (c sl : Nat) : State :=
  s.onThread c sl fun th => { th with hold := .retry, holding := some (th.holding.getD (.send, s.cyc c, false)) }

/-- The answer to a SEND at its thread (R74), which issues again on its first turn after it (R75). -/
def State.sendAnswered (s : State) (c sl : Nat) (a : Ans) : State :=
  match (s.thread c sl).waits with
  | some i => match sendOf i with
    | some (_, q, ra, _, _) => match a, q with
      | .full, some d => (s.finishPut c sl d 1).after c sl
      | .full, none => (s.heldFull c sl).inCycles (clusterOf c) 64 .sendRetransmit { unit := c * 16 + sl }
      | .refused, some d => (s.finishPut c sl d 2).after c sl
      | .refused, none => (s.trap c sl .perm (s.reg64 c sl ra)).after c sl
      | _, some d => (s.finishPut c sl d 0).after c sl
      | _, none => (s.finish c sl).after c sl
    | none => s
  | none => s

/-- SEND_ANSWER. -/
def execSendAnswer (s : State) : Host.Outcome State Fault Refusal :=
  match s.takeItem s.subj.item with
  | (some (.sendAns c sl a), s) => .next (s.sendAnswered c sl a)
  | (_, s) => .next s

/-- SEND_RETRANSMIT: a held SEND is sent again (R74). On a core that does not run it is between retries: it is saved at the
instruction and executed again (20_traps R416). -/
def execSendRetransmit (s : State) : Host.Outcome State Fault Refusal :=
  let c := s.subj.unit / 16
  let sl := s.subj.unit % 16
  let th := s.thread c sl
  if th.hold = .retry && decide ((s.slot c sl).st = .run) && decide ((s.core c).pre = .running) then
    match th.pend with
    | some p => match sendOf p.instr with
      | some (remop, _, a, b, n) =>
        .next ((s.transmit c (s.sendMsg c sl remop a b n) th.sup).onThread c sl fun th => { th with hold := .answer })
      | none => .next s
    | none => .next s
  else .next s

/-! ### Spilled items (R417) -/

/-- An entry of the spill queue is a message. -/
def isMsg (c : Content) : Bool := match c with
  | .msg _ => true
  | _ => false

/-- An entry of 128 bytes (R417): KIND, CHANNEL, SOURCE, DEVICE and payload. The payloads of kinds 3 to 9 are the model's
layout (log 41). -/
def entryBytes (kind channel source device : Nat) (ws : List Nat) : List Byte :=
  toBytes 8 (kind * 2 ^ 56 + ws.length % 16 * 2 ^ 52 + channel % 64 * 2 ^ 46 + source % 4096 * 2 ^ 34 + device % 65536 * 2 ^ 18) ++
  ((ws ++ List.replicate (15 - ws.length) 0).take 15).flatMap (toBytes 8)

/-- A message as an entry, on the module of a device number: its own management cores send under that number
(22_crowns_at_work R439). -/
def Msg.entry (m : Msg) (own : Nat) : List Byte :=
  entryBytes (if m.report then 10 else if m.remop then 2 else 1) m.channel m.srcCore (if m.srcDev = 0xFFFE then own else m.srcDev)
    (m.words.map (·.toNat))

/-- An item as an entry of the spill area. A phase notice comes from the home of its group, the rank-0 member (14_sync R344). -/
def State.spillEntry (s : State) (c : Content) : List Byte :=
  let dev := s.devNo
  match c with
  | .msg m => m.entry dev
  | .chanOp op _ ch w rc rs sec => entryBytes 3 ch rc dev [op, w.toNat, rs, if sec then 1 else 0]
  | .barArrive g b _ rc rs => entryBytes 4 b rc dev [g, b, 0, rs]
  | .barInit g b _ e rc rs => entryBytes 4 b rc dev [g, b, e, rs]
  | .phase _ g b ph => entryBytes 5 b (((s.members g).getD []).headD 0) dev [g, b, ph]
  | .joinDec h f src => entryBytes 6 0 src dev [h, if f then 1 else 0]
  | .imgFetch t h => entryBytes 7 0 t dev [h]
  | .imgInstall _ h _ => entryBytes 8 0 (homeOf h) dev [h]
  | .linkVal _ g v kc ks => entryBytes 9 0 kc dev [g, v.toNat, ks]
  | _ => entryBytes 0 0 0 dev []

/-- The address in its tier of an area that SAVEBASE or SPILLBASE names (R414). -/
def areaBase (w : Word) : Nat := bits w.toNat 47 16 * 65536

/-- The first of n places of the spill area from p on, cyclically, that is not used. -/
def placeFrom (used : List Nat) (n p : Nat) : Nat := match n with
  | 0 => p % 4096
  | n + 1 => if used.contains (p % 4096) then placeFrom used n (p + 1) else p % 4096

/-- The place of the spill area that the next entry takes (log 41): the one after the last entry's that no waiting entry has. -/
def Core.spillPlace (k : Core) : Nat := match k.spillAt.getLast? with
  | none => 0
  | some p => placeFrom k.spillAt 4095 (p + 1)

/-- Entry i leaves the spill queue; the others stay where they are in the spill area (R417). -/
def Core.dropSpill (k : Core) (i : Nat) : Core := { k with spill := k.spill.eraseIdx i, spillAt := k.spillAt.eraseIdx i }

/-- Put an item into a core's spill queue, and its entry into the spill area. -/
def State.pushSpill (s : State) (core : Nat) (c : Content) : State :=
  let k := s.core core
  (s.setCore core { k with spill := k.spill ++ [c], spillAt := k.spillAt ++ [k.spillPlace],
                           spillMax := if k.pre = .running then k.spillMax else max k.spillMax (k.spill.length + 1) }).tierWrite
    (k.spillbase.getLsbD 62) (areaBase k.spillbase + 128 * k.spillPlace) (s.spillEntry c)

/-- The sender of a spilled item as R417 orders them: KIND and SOURCE of its entry. -/
def State.spillSender (s : State) (c : Content) : Nat × Nat :=
  let w := ofBytes ((s.spillEntry c).take 8)
  (bits w 63 56, bits w 45 34)

/-- A core that does not run takes an item into its spill queue; when that is full, the unit that sent it tries again
64 cycles later, and so it does behind an earlier item that it still has to send (R417). none: the core runs, and the item is
applied at once. val 1 marks an item whose turn has come. -/
def State.spilled (s : State) (core : Nat) (c : Content) : Option State :=
  let k := s.core core
  let behind := s.subj.val ≠ 1 && k.refused.any fun p => p.1 = s.spillSender c
  if k.applying || (k.pre = .running && !behind) then none
  else if k.pre ≠ .running && k.spill.length < 4096 && !behind then some (s.pushSpill core c)
  else
    let (id, s) := s.addItem c
    some ((s.onCore core fun k => { k with refused := k.refused ++ [(s.spillSender c, id)] }).inCycles (clusterOf core) 64 .spillRetry
      { unit := core, item := id })

/-- SPILL_RETRY: an item refused by a full spill queue is sent again: its row runs next, or it waits once more, for room or behind
an earlier item of its sender. -/
def execSpillRetry (s : State) : Host.Outcome State Fault Refusal :=
  let id := s.subj.item
  match find s.items id with
  | some c =>
    let core := s.subj.unit
    let k := s.core core
    if (k.pre = .running || decide (k.spill.length < 4096)) &&
        (k.refused.find? fun p => p.1 = s.spillSender c).map (fun p => p.2) = some id then
      let s := s.onCore core fun k => { k with refused := k.refused.filter fun p => p.2 != id }
      .next { s with agenda := .dev (rowOf c).1 { subjOf c id with val := 1 } :: s.agenda }
    else .next (s.inCycles (clusterOf core) 64 .spillRetry s.subj)
  | none => .next s

/-! ### Arrival (R77, R20, R74, R449) -/

/-- Put a message at the end of the arrival queue; its wait counts from its acceptance (R92). -/
def State.queueArrival (s : State) (c : Nat) (m : Msg) : State :=
  s.onCore c fun k =>
    { k with arrivals := k.arrivals ++ [{ msg := { m with taken := none }, entered := m.taken.getD (s.cyc c) }] }

/-- Messages that waited for room in the arrival queue enter it in order: spilled ones (R417), then the core's own
service requests (R406). -/
def State.refill (s : State) (c : Nat) : State :=
  let k := s.core c
  if k.pre = .running && decide (k.arrivals.length < 64) then
    match k.spill.find? isMsg with
    | some (.msg m) => (s.setCore c (k.dropSpill (k.spill.findIdx isMsg))).queueArrival c m
    | _ => match k.svcWait with
      | m :: r => ((s.setCore c { k with svcWait := r }).queueArrival c m).wakeIdle c
      | [] => s
  else s

/-- The answer a core gives to a message, and the state with the message taken in (R74, R77, R417). -/
def State.acceptMsg (s : State) (m : Msg) : State × Ans :=
  let c := m.dstCore
  let k := s.core c
  if k.pre ≠ .running || k.spill.any isMsg then
    if k.spill.length < 4096 then
      let s := s.pushSpill c (.msg { m with taken := some (s.cyc c) })
      (if k.pre = .running then s.wakeIdle c else s, .done)
    else (s, .full)
  else if k.arrivals.length < 64 then ((s.queueArrival c m).wakeIdle c, .done)
  else (s, .full)

/-- The message's tenant may send to a core: the core's own tenant (R74), and the cluster is assigned (R449). -/
def State.admits (s : State) (m : Msg) : Bool := match s.tenantOf (clusterOf m.dstCore) with
  | none => false
  | some t => match m.tenant with
    | none => true
    | some u => t == u

/-- ARRIVAL: a message reaches its core and is answered. While the island is down it is held and counted (R20). -/
def execArrival (s : State) : Host.Outcome State Fault Refusal :=
  match find s.items s.subj.item with
  | some (.msg m) =>
    if !(s.cluster (clusterOf m.dstCore)).up then
      .next { s with undeliverable := s.undeliverable ++ [s.subj.item],
                     fwCounts := assign s.fwCounts 3 (look s.fwCounts 3 0 + 1) }
    else
      let s := (s.takeItem s.subj.item).2
      if s.admits m then
        let (s, a) := s.acceptMsg m
        .next (s.answerMsg m m.dstCore a)
      else .next (s.answerMsg m m.dstCore .refused)
  | _ => .next s

/-- Messages held for a cluster whose island came up are delivered, each once its channel's entry has been written
(R20). -/
def State.deliverHeld (s : State) (core ch : Nat) : State :=
  let mine := s.undeliverable.filter fun id => match find s.items id with
    | some (.msg m) => decide (m.dstCore = core) && decide (m.channel = ch)
    | _ => false
  { s with undeliverable := s.undeliverable.filter fun id => !(mine.contains id),
           agenda := (mine.map fun id => Move.dev .arrival { unit := core, item := id }) ++ s.agenda }

/-! ### Reports (R411) -/

/-- The answer to a report: delivered, tried again after 64 cycles, or dropped and counted. -/
def State.reportAnswered (s : State) (c : Nat) (a : Ans) : State :=
  let k := s.core c
  match k.reports with
  | r :: rest => match a with
    | .full => s.inCycles (clusterOf c) 64 .reportRetry { unit := c }
    | .refused => (s.setCore c { k with reports := rest, dropped := k.dropped + 1 }).sendReport c
    | _ => (s.setCore c { k with reports := rest, dropped := k.dropped - r.told }).sendReport c
  | [] => s

/-- REPORT_RETRY: a report that met a full queue is sent again. -/
def execReportRetry (s : State) : Host.Outcome State Fault Refusal :=
  let c := s.subj.unit
  .next ((s.onCore c fun k => { k with reports := k.reports.map fun r => { r with sent := false } }).sendReport c)

/-! ### Free slots and registers (R78, R131) -/

/-- A slot holds a thread. -/
def Slot.busy (x : Slot) : Bool := x.st ≠ .free

/-- A slot may be given away on cycle t: it is free, and the next turn has come since its last thread ended (R164, R189). -/
def Slot.freeOn (x : Slot) (t : Nat) : Bool := decide (x.st = .free) && decide (x.freeAt ≤ t)

/-- The register entries that a core's program threads occupy on cycle t, as base and length. -/
def usedEntries (k : Core) (t : Nat) : List (Nat × Nat) :=
  (k.slots.filter fun p => decide (p.1 < 15) && !(p.2.freeOn t) && decide (p.2.st ≠ .reserved)).flatMap fun p =>
    match p.2.th.tiller with
    | none => [(p.2.th.base, p.2.th.limit)]
    | some t => (t.priv.map fun q => (q.2, 1)) ++ t.spare.map fun e => (e, 1)

/-- The lowest base at which a number of contiguous entries of 0 to 1919 is free. -/
def freeBase (k : Core) (t n : Nat) : Option Nat :=
  let used := usedEntries k t
  let ok := fun b => decide (b + n ≤ 1920) && used.all fun u => decide (b + n ≤ u.1) || decide (u.1 + u.2 ≤ b)
  ((0 :: used.map fun u => u.1 + u.2).filter ok).foldl (fun a b => match a with
    | none => some b
    | some x => some (min x b)) none

/-- The lowest free entries of 0 to 1919, as many as asked for, when there are that many. -/
def freeEntries (k : Core) (t n : Nat) : Option (List Nat) :=
  let used := usedEntries k t
  let l := (List.range 1920).filter fun e => used.all fun u => decide (e < u.1) || decide (u.1 + u.2 ≤ e)
  if n ≤ l.length then some (l.take n) else none

/-- The program slots of a core that are free on cycle t. -/
def freeSlots (k : Core) (t : Nat) : List Nat := (List.range 15).filter fun sl => (look k.slots sl {}).freeOn t

/-- Slot s of a core is one half of a twin pair (R412). -/
def State.paired (s : State) (c sl : Nat) : Bool := (s.column (columnOf c)).twinctl.getLsbD sl && decide (sl < 15)

/-- The slot into which a core would admit: the lowest free one; only an upper core admits into a paired slot, and the
trail's slot must be free as well (R412). -/
def State.admitSlot (s : State) (c : Nat) : Option Nat :=
  (freeSlots (s.core c) (s.cyc c)).find? fun sl =>
    !(s.paired c sl) || (decide (c % 2 = 0) && (freeSlots (s.core (c + 1)) (s.cyc c)).contains sl)

/-- Place a thread in a slot (R78): its range is zeroed, the payload stands in g1 upward, and its first instruction
issues on a turn at least 2 turns later. -/
def State.place (s : State) (c sl : Nat) (th : Thread) (words : List Word) : State :=
  let s := s.clearEntries c fun e => decide (th.base ≤ e) && decide (e < th.base + th.limit)
  let s := { s with nextId := s.nextId + 1 }
  let s := s.setSlot c sl { st := .run, th := { th with uid := s.nextId, issueAt := s.cyc c + 32 } }
  let s := (words.zipIdx).foldl (fun s p => s.put c sl (p.2 + 1) p.1) s
  s.jumpTo c sl th.pc

/-! ### The deque (R86, R87, R91) -/

/-- Entries in use, a steal's reserved entry among them (R95). -/
def Core.dequeUsed (k : Core) : Nat := k.deque.length + (if k.stealOut then 1 else 0)

/-- Push a record at the bottom; its age begins. -/
def State.pushRec (s : State) (c : Nat) (r : Rec) : State :=
  let s := { s with nextId := s.nextId + 1 }
  s.onCore c fun k => { k with deque := k.deque ++ [{ r with entered := s.cyc c, uid := s.nextId }] }

/-- A counter stands at zero: the records parked on it move to the bottom in parking order, held local (R91). -/
def State.releaseParked (s : State) (c k : Nat) : State :=
  s.onCore c fun x =>
    let (go, stay) := x.deque.partition fun r => r.parked == some k
    { x with deque := stay ++ go.map fun r => { r with parked := none, hl := true, entered := s.cyc c } }

/-- Set a counter (R90, R91). -/
def State.setCnt (s : State) (c k v : Nat) : State :=
  let s := s.onCore c fun x => { x with cnt := assign x.cnt k (v % 65536) }
  if v % 65536 = 0 then s.releaseParked c k else s

/-- Decrement a counter; at zero it stays zero (R90). -/
def State.decCnt (s : State) (c k : Nat) : State := s.setCnt c k (look (s.core c).cnt k 0 - 1)

/-- CNT_WRITE: a CSR write to a counter sets its value. -/
def execCntWrite (s : State) : Host.Outcome State Fault Refusal :=
  .next (s.setCnt s.subj.unit s.subj.sub s.subj.val.toNat)

/-- SPAWN (R89). -/
def execSpawn (busy : Option Nat) (a b c pri : Nat) (park : Option Nat) (lim : Nat) (s : State) :
    Host.Outcome State Fault Refusal :=
  guarded s false (a :: b :: c :: busy.toList) busy.toList fun k sl =>
    let pc := s.reg64 k sl a
    if pc.toNat % 2 = 1 || bits pc.toNat 5 1 = 0 then s.trap k sl .misalign pc
    else if 2 ^ 48 ≤ pc.toNat then s.trap k sl .page pc
    else if 64 ≤ (s.core k).dequeUsed then
      match busy with
      | some d => s.finishPut k sl d 1
      | none => s.stay k sl (some .send)
    else
      let r : Rec := { k := false, w := (s.thread k sl).world, pri := pri, lim := lim, w0 := pc, arg0 := s.reg64 k sl b,
                       arg1 := s.reg64 k sl c }
      let r := match park with
        | some n => if look (s.core k).cnt n 0 = 0 then r else { r with parked := some n }
        | none => r
      let s := s.pushRec k r
      match busy with
      | some d => s.finishPut k sl d 0
      | none => s.finish k sl

/-! ### Channels (R82 to R85) -/

/-- The word that QUERY returns (R84). -/
def State.queryWord (s : State) (c ch : Nat) : Word :=
  let k := s.core c
  let free := 1920 - ((usedEntries k (s.cyc c)).map fun u => u.2).foldl (· + ·) 0
  BitVec.ofNat 64 (bits (k.tt ch).toNat 63 55 * 2 ^ 55 + (k.arrivals.filter fun a => a.msg.channel = ch).length * 2 ^ 40 +
    k.arrivals.length * 2 ^ 32 + (freeSlots k (s.cyc c)).length * 2 ^ 24 + free * 2 ^ 12 + k.deque.length)

/-- A task-table entry takes a value. A selected arrival that it makes no candidate goes back to waiting, and selection runs again
at once (R93). -/
def State.putTt (s : State) (c ch : Nat) (e : Word) : State :=
  s.onCore c fun k => { k with ttab := assign k.ttab ch e,
                               chosen := if !(ttOpen e) && k.chosen = some (.arrival ch) then none else k.chosen }

/-- Write a task-table entry; messages held for it are delivered (R71, R20). -/
def State.setTt (s : State) (c ch : Nat) (v : Word) : State := (s.putTt c ch (ttStore v)).deliverHeld c ch

/-- A CHAN operation at its target core: 0 BLOCK, 1 UNBLOCK, 2 QUERY, 3 TTSET (R83). For the PERM of a secure entry R83 names no
value, so TADDR is 0 (20_traps R401). -/
def State.chanAt (s : State) (op c ch : Nat) (w : Word) (secure : Bool) : State × Ans :=
  let e := (s.core c).tt ch
  match op with
  | 0 => if ttWorld e && !secure then (s, .trap .perm 0) else (s.putTt c ch (withBit e 61), .done)
  | 1 => if ttWorld e && !secure then (s, .trap .perm 0) else (s.putTt c ch (withoutBit e 61), .done)
  | 2 => (s, .value (s.queryWord c ch))
  | _ => (s.setTt c ch w, .done)

/-- CHAN after its own checks (R83): on its own core at once, elsewhere held for the acknowledgement. -/
def State.chan (s : State) (c sl op : Nat) (d : Option Nat) (word w : Word) (i : Instr) : State :=
  let dev := bits word.toNat 63 48
  let dst := bits word.toNat 47 36
  let ch := bits word.toNat 35 30
  let sec := (s.thread c sl).world
  if dev ≠ 0xFFFF && dev ≠ s.devNo then s.trap c sl .perm word
  else if s.tenantOf (clusterOf dst) != s.tenantOf (clusterOf c) then s.trap c sl .perm word
  else if op = 3 && w.getLsbD 62 && !sec then s.trap c sl .perm word
  else if dst = c then
    let (s, a) := s.chanAt op c ch w sec
    match a, d with
    | .trap k x, _ => s.trap c sl k x
    | .value v, some d => s.finishPut c sl d v
    | _, _ => s.finish c sl
  else (s.coreToCore c dst 4 1 (.chanOp op dst ch w c sl sec)).await c sl i none

/-- CHAN.BLOCK. -/
def execChanBlock (a : Nat) (s : State) : Host.Outcome State Fault Refusal :=
  guarded s false [a] [] fun c sl => s.chan c sl 0 none (s.reg64 c sl a) 0 (.chanBlock a)
/-- CHAN.UNBLOCK. -/
def execChanUnblock (a : Nat) (s : State) : Host.Outcome State Fault Refusal :=
  guarded s false [a] [] fun c sl => s.chan c sl 1 none (s.reg64 c sl a) 0 (.chanUnblock a)
/-- CHAN.QUERY. -/
def execChanQuery (d a : Nat) (s : State) : Host.Outcome State Fault Refusal :=
  guarded s false [d, a] [d] fun c sl => s.chan c sl 2 (some d) (s.reg64 c sl a) 0 (.chanQuery d a)
/-- CHAN.TTSET, which needs supervisor privilege (R45). -/
def execChanTtset (a b : Nat) (s : State) : Host.Outcome State Fault Refusal :=
  guarded s true [a, b] [] fun c sl => s.chan c sl 3 none (s.reg64 c sl a) (s.reg64 c sl b) (.chanTtset a b)

/-- CHAN_REMOTE: a CHAN operation reaches its target core and is acknowledged. A core that does not run takes it into
its spill queue (R417). -/
def execChanRemote (s : State) : Host.Outcome State Fault Refusal :=
  match s.takeItem s.subj.item with
  | (some (.chanOp op c ch w rc rs sec), s) =>
    match s.spilled c (.chanOp op c ch w rc rs sec) with
    | some s => .next s
    | none =>
      let (s, a) := s.chanAt op c ch w sec
      .next (s.coreToCore c rc 1 1 (.thrAns rc rs a))
  | (_, s) => .next s

/-! ### Selection and admission (R92, R93, R78 to R80) -/

/-- The effective priority of a candidate (R92). -/
def effective (base now entered : Nat) : Nat := min 3 (base + (now - entered) / 4096)

/-- The oldest waiting TASK arrival of a channel. -/
def Core.oldest (k : Core) (ch : Nat) : Option Arrival :=
  k.arrivals.find? fun a => !a.msg.remop && decide (a.msg.channel = ch)

/-- The arrivals that are candidates, in acceptance order: each channel's oldest, where the entry is open. -/
def Core.arrivalCandidates (k : Core) : List Arrival :=
  (k.arrivals.foldl (fun (seen : List Nat × List Arrival) a =>
    if a.msg.remop || seen.1.contains a.msg.channel then seen
    else (a.msg.channel :: seen.1, if ttOpen (k.tt a.msg.channel) then seen.2 ++ [a] else seen.2)) ([], [])).2

/-- The poppable records, top first. -/
def Core.poppable (k : Core) : List Rec := k.deque.filter fun r => r.parked.isNone

/-- The candidate that selection picks (R92): the highest effective priority; arrivals before records; the earliest
arrival; the record nearest the bottom. -/
def Core.pick (k : Core) (now : Nat) : Option Chosen :=
  let effA := fun (a : Arrival) => effective (ttPri (k.tt a.msg.channel)) now a.entered
  let effR := fun (r : Rec) => effective r.pri now r.entered
  let arr := k.arrivalCandidates.foldl (fun (b : Option Arrival) a => match b with
    | none => some a
    | some x => if effA x < effA a then some a else b) none
  let rec_ := k.poppable.foldl (fun (b : Option Rec) r => match b with
    | none => some r
    | some x => if effR x ≤ effR r then some r else b) none
  match arr, rec_ with
  | some a, some r => if effR r ≤ effA a then some (.arrival a.msg.channel) else some (.record r.uid)
  | some a, none => some (.arrival a.msg.channel)
  | none, some r => some (.record r.uid)
  | none, none => none

/-- SELECTION: a core with a free program slot picks one candidate (R92). -/
def execSelection (s : State) : Host.Outcome State Fault Refusal :=
  let c := s.subj.unit
  let k := s.core c
  if k.pre = .running && k.chosen.isNone && (s.admitSlot c).isSome then
    .next (s.setCore c { k with chosen := k.pick (s.cyc c) })
  else .next s

/-- The check of an arrival against its entry (R79): 1 for the count, 2 for the world. -/
def arrivalFault (e : Word) (m : Msg) : Option Nat :=
  if ttLimit e - 1 < m.words.length then some 1
  else if ttWorld e && !m.world then some 2
  else none

/-- Discard an arrival: a record of kind 2 and its report (R79, R409). -/
def State.discard (s : State) (c : Nat) (e : Word) (m : Msg) (code : Nat) : State :=
  s.record c { kind := 2, pc := ttPc e, w4 := m.channel, w5 := m.srcDev * 2 ^ 48 + m.srcCore * 2 ^ 36, w6 := code,
               w7 := if m.remop then 2 else 1 }

/-- Take an arrival out of the queue, and let waiting messages in. -/
def State.removeArrival (s : State) (c : Nat) (a : Arrival) : State :=
  (s.onCore c fun k => { k with arrivals := k.arrivals.erase a }).refill c

/-- A thread started from an entry (R78, R404). -/
def entryThread (k : Core) (c sl ch : Nat) (e : Word) (base : Nat) : Thread :=
  { pc := ttPc e, limit := ttLimit e, base := base, world := ttWorld e, pri := ttPri e, tid := c * 16 + sl,
    sup := errSen k.errlog && decide (errSch k.errlog = ch) }

/-- The queues of a pair are empty (R412). -/
def State.clearPair (s : State) (c sl : Nat) : State :=
  s.onColumn (columnOf c) fun x => { x with twins := unset x.twins sl }

/-- Place a thread, and in a paired slot its trail beside it, with empty queues between them (R412). -/
def State.admitThread (s : State) (c sl : Nat) (th : Thread) (words : List Word) : State :=
  if s.paired c sl then
    let s := s.clearPair c sl
    match freeBase (s.core (c + 1)) (s.cyc c) th.limit with
    | some b => (s.place c sl th words).place (c + 1) sl { th with base := b } words
    | none => s
  else s.place c sl th words

/-- The base at which a thread's registers are placed in a slot: the lowest of R78, or the service slot's entries (R80); in a paired
slot both cores must have room. -/
def State.room (s : State) (c sl limit : Nat) : Option Nat :=
  if sl = 15 then some 1920
  else if s.paired c sl && (freeBase (s.core (c + 1)) (s.cyc c) limit).isNone then none else freeBase (s.core c) (s.cyc c) limit

/-- ADMISSION: the selected arrival or plain record is admitted once its registers can be placed (R78, R79, R93). A
selected arrival that is no candidate any more goes back to waiting. DESIGN CHOICE (log 76): an arrival that fails its checks is
discarded as soon as it is chosen and a slot is free, not only once its registers could be placed. -/
def execAdmission (s : State) : Host.Outcome State Fault Refusal :=
  let c := s.subj.unit
  let k := s.core c
  if k.pre ≠ .running then .next s else
  match s.admitSlot c with
  | none => .next s
  | some sl => match k.chosen with
    | some (.arrival ch) => match k.oldest ch with
      | none => .next (s.setCore c { k with chosen := none })
      | some a =>
        let e := k.tt ch
        if !(ttOpen e) then .next (s.setCore c { k with chosen := none })
        else match arrivalFault e a.msg with
          | some code => .next (((s.setCore c { k with chosen := none }).removeArrival c a).discard c e a.msg code)
          | none => match s.room c sl (ttLimit e) with
            | none => .next s
            | some b => .next (((s.setCore c { k with chosen := none }).removeArrival c a).admitThread c sl
                (entryThread k c sl ch e b) a.msg.words)
    | some (.record id) => match k.poppable.find? fun r => r.uid = id with
      | none => .next (s.setCore c { k with chosen := none })
      | some r =>
        if r.k then .next s else
        match s.room c sl (8 * (r.lim + 1)) with
        | none => .next s
        | some b =>
          let th : Thread := { pc := r.w0, limit := 8 * (r.lim + 1), base := b, world := r.w, pri := r.pri,
                               tid := c * 16 + sl }
          .next ((s.setCore c { k with chosen := none, deque := k.deque.filter fun x => x.uid != id }).admitThread c sl th
            [r.arg0, r.arg1])
    | none => .next s

/-- REMOP_ADMISSION: the free service slot takes the earliest REMOP whose entry is open (R80). -/
def execRemopAdmission (s : State) : Host.Outcome State Fault Refusal :=
  let c := s.subj.unit
  let k := s.core c
  if k.pre ≠ .running || !((look k.slots 15 {}).freeOn (s.cyc c)) then .next s else
  match k.arrivals.find? fun a => a.msg.remop && ttOpen (k.tt a.msg.channel) with
  | none => .next s
  | some a =>
    let e := k.tt a.msg.channel
    match arrivalFault e a.msg with
    | some code => .next ((s.removeArrival c a).discard c e a.msg code)
    | none => .next ((s.removeArrival c a).place c 15 (entryThread k c 15 a.msg.channel e 1920) a.msg.words)

/-! ### Stealing (R94 to R97, R109) -/

/-- EN of STEALGRP. -/
def stealEn (w : Word) : Bool := w.getLsbD 8
/-- GROUP of STEALGRP. -/
def stealGroup (w : Word) : Nat := bits w.toNat 7 0

/-- The member after a rank, wrapping and skipping the core itself (R95). -/
def nextMember (members : List Nat) (self rank : Nat) : Option (Nat × Nat) :=
  let n := members.length
  if n < 2 then none
  else
    let r := (rank + 1) % n
    if nth members r = self then some (nth members ((r + 1) % n), (r + 1) % n) else some (nth members r, r)

/-- STEAL_REQUEST: a core with nothing to run asks the next member of its steal group (R95). DESIGN CHOICE (log 77): a write of
STEALGRP leaves the rank last asked as it is; requests travel as SYS packets of one flit and answers as RSP packets. -/
def execStealRequest (s : State) : Host.Outcome State Fault Refusal :=
  let c := s.subj.unit
  let k := s.core c
  let g := stealGroup k.stealgrp
  if k.pre = .running && stealEn k.stealgrp && (k.membOf g).isSome && (s.admitSlot c).isSome && k.poppable.isEmpty &&
      k.arrivalCandidates.isEmpty && !k.stealOut && decide (k.dequeUsed < 64) && decide (k.stealWait ≤ s.cyc c) then
    match s.members g with
    | none => .next s
    | some ms =>
      let own := (ms.findIdx? (· = c)).getD 0
      let last := if k.stealAsked = 0 then own else k.stealAsked - 1
      match nextMember ms c last with
      | none => .next s
      | some (v, r) =>
        let s := s.setCore c { k with stealOut := true, stealAsked := r + 1 }
        let room := decide (k.crowns.length < 4)
        .next (s.coreToCore c v 4 1 (.stealReq c v g (k.crowns.map fun p => p.2.handle) room))
  else .next s

/-- The record a victim offers (R96): the poppable one nearest the top that is not held local. -/
def Core.offered (k : Core) : Option Rec := k.poppable.find? fun r => !r.hl

/-- STEAL_ANSWER: a victim answers empty, with its offered record, or with the upper half of a sheaf (R96, R109). DESIGN CHOICE
(log 77): it compares its own group with the one the thief's STEALGRP named when it sent the request (R94). -/
def execStealAnswer (s : State) : Host.Outcome State Fault Refusal :=
  match s.takeItem s.subj.item with
  | (some (.stealReq thief v tg handles room), s) =>
    let k := s.core v
    let empty := s.coreToCore v thief 1 1 (.stealAns thief none)
    if k.pre ≠ .running || !(stealEn k.stealgrp) || decide (stealGroup k.stealgrp ≠ tg) ||
        (s.cluster (clusterOf v)).world != (s.cluster (clusterOf thief)).world then .next empty
    else match k.offered with
      | none => .next empty
      | some r =>
        if r.k && !(handles.contains r.crown) && !room then .next empty
        else if r.k && 1 ≤ r.cnt then
          let n := r.cnt + 1
          let keep := n - n / 2
          let up : Rec := { r with w0 := r.w0 + BitVec.ofNat 64 keep, cnt := n / 2 - 1 }
          let s := s.setCore v { k with deque := k.deque.map fun x => if x.uid = r.uid then { x with cnt := keep - 1 } else x }
          .next (s.coreToCore v thief 1 1 (.stealAns thief (some up)))
        else
          let s := s.setCore v { k with deque := k.deque.filter fun x => x.uid != r.uid }
          .next (s.coreToCore v thief 1 1 (.stealAns thief (some r)))
  | (_, s) => .next s

/-- The lowest free crown slot of a core. -/
def Core.freeCrown (k : Core) : Option Nat := (List.range 4).find? fun i => (find k.crowns i).isNone

/-- A core holds a crown's image or has reserved a slot for it. -/
def Core.holds (k : Core) (h : Nat) : Bool := k.crowns.any fun p => p.2.handle = h

/-- Reserve a crown slot and fetch the image from its home (R109). -/
def State.fetchImage (s : State) (c h : Nat) : State :=
  if (s.core c).holds h then s else
  match (s.core c).freeCrown with
  | none => s
  | some i =>
    (s.onCore c fun k => { k with crowns := assign k.crowns i { handle := h } }).coreToCore c (homeOf h) 4 1 (.imgFetch c h)

/-- STEAL_RECEIVE: the answer takes the reserved entry, or frees it and starts the 64-cycle wait (R95, R96). -/
def execStealReceive (s : State) : Host.Outcome State Fault Refusal :=
  match s.takeItem s.subj.item with
  | (some (.stealAns c r), s) =>
    let s := s.onCore c fun k => { k with stealOut := false }
    match r with
    | none => .next (s.onCore c fun k => { k with stealWait := s.cyc c + 64 })
    | some r =>
      let s := s.pushRec c { r with hl := false }
      .next (if r.k then s.fetchImage c r.crown else s)
  | (_, s) => .next s

end Sys2Proof.Machine
end

