-- ==== Sys2Proof/Machine/Crown.lean ====
section
/-!
DEFINITION. Crowns and tillers (05_crowns): FREEZE and the installing of the image, the dealer, the admission of
tillers, decrements, JOIN and the retirement of a crown.
-/
namespace Sys2Proof.Machine

open Sys2Proof

/-! ### The parameter word (R100) -/

/-- BUDGET, clamped to the registers a tiller can write. -/
def paramBudget (w limit d : Nat) : Nat := min (bits w 7 0) (limit - 1 - (if d = 0 then 0 else 1))
/-- The sheaf size. -/
def paramSheaf (w : Nat) : Nat := if 1 ≤ bits w 23 16 ∧ bits w 23 16 ≤ 64 then bits w 23 16 else 64
/-- GROUP. -/
def paramGroup (w : Nat) : Nat := bits w 15 8
/-- SHADOW. -/
def paramShadow (w : Nat) : Nat := bits w 31 24

/-- The crown slot of a core that holds a handle. -/
def Core.crownAt (k : Core) (h : Nat) : Option (Nat × CrownSlot) := k.crowns.find? fun p => p.2.handle = h

/-- A live crown at its home (R120): the slot that the handle names holds it. -/
def State.liveCrown (s : State) (h : Nat) : Option CrownSlot :=
  match find (s.core (homeOf h)).crowns (bits h 19 18) with
  | some k => if k.home && decide (k.handle = h) then some k else none
  | none => none

/-- Change a crown slot of a core by handle. -/
def State.onCrown (s : State) (c h : Nat) (f : CrownSlot → CrownSlot) : State :=
  s.onCore c fun k => { k with crowns := k.crowns.map fun p => if p.2.handle = h then (p.1, f p.2) else p }

/-! ### FREEZE (R99 to R105) -/

/-- A window overlaps one that is frozen in the column now (R102). -/
def windowTaken (col : Column) (off blocks : Nat) : Bool :=
  col.frozen.any fun p => decide (p.2.1 < off + 64 * blocks) && decide (off < p.2.1 + 64 * p.2.2)

/-- The trap that FREEZE's checks give (R102). -/
def State.freezeFault (s : State) (c sl : Nat) (w : Word) : Option (Cause × Word) :=
  let th := s.thread c sl
  let g := paramGroup w.toNat
  let size := th.tplsize.toNat
  let base := th.tplbase.toNat
  let level := match th.tiller with
    | some _ => th.level + 1
    | none => 1
  if sl = 15 || !(s.ownGroup c g) then some (.perm, BitVec.ofNat 64 g)
  else if 256 < size then some (.perm, th.tplbase)
  else if 0 < size && (decide (bits base 28 18 ≠ columnOf c) || decide (2 ^ 18 < bits base 17 0 + 64 * size) ||
      windowTaken (s.column (columnOf c)) (bits base 17 0) size) then some (.perm, th.tplbase)
  else if 0 < size && decide (base % 64 ≠ 0) then some (.misalign, th.tplbase)
  else if level = 5 then some (.freezedepth, 5)
  else if th.heads then some (.freezedepth, 0)
  else none

/-- The crown image (R101). -/
def State.capture (s : State) (c sl d : Nat) (n : Nat) (w : Word) : Image :=
  let th := s.thread c sl
  let v := w.toNat
  { regs := (List.range (th.limit - 1)).map fun i => (i + 1, s.reg c sl (i + 1))
    masks := th.masks, pc := th.nextPc, thandler := th.thandler, tplbase := th.tplbase, tplsize := th.tplsize,
    world := th.world, sup := th.sup, limit := th.limit, pri := th.pri
    level := (match th.tiller with
      | some _ => th.level + 1
      | none => 1)
    budget := paramBudget v th.limit d, shadow := paramShadow v, sheaf := paramSheaf v, group := paramGroup v
    members := (s.members (paramGroup v)).getD [], dreg := d, n := n }

/-- FREEZE is done in its crown (R103): the window is frozen, the dealer starts, LASTCROWN and d are written. -/
def State.freezeDone (s : State) (c sl h d : Nat) : State :=
  let th := s.thread c sl
  let s := match s.liveCrown h with
    | none => s
    | some k => match k.image with
      | none => s
      | some img =>
        if img.n = 0 then s
        else
          let s := s.onCrown c h fun k => { k with dealer := some 0, dealAt := max th.issueAt (s.cyc c) + 1 }
          let blocks := img.tplsize.toNat
          if blocks = 0 then s
          else s.onColumn (columnOf c) fun x =>
            { x with frozen := x.frozen ++ [(h, (bits img.tplbase.toNat 17 0, blocks))] }
  let s := s.setThread c sl { th with lastcrown := BitVec.ofNat 64 h, heads := true
                                      level := if th.tiller.isSome then th.level else 1 }
  s.finishPut c sl d (BitVec.allOnes 64)

/-- FREEZE. It waits for the thread's earlier accesses (R122) and for a free crown slot, then until every member of the
group holds the image; n = 0 needs no member. Members in other clusters add the mesh round trip to its turns (R105). -/
def execFreeze (d a b : Nat) (s : State) : Host.Outcome State Fault Refusal :=
  guarded s false [d, a, b] [d] fun c sl =>
    let w := s.reg64 c sl b
    let n := bits (s.reg64 c sl a).toNat 31 0
    match s.freezeFault c sl w with
    | some (k, addr) => s.trap c sl k addr
    | none =>
      let th := s.thread c sl
      let k := s.core c
      let far := ((s.members (paramGroup w.toNat)).getD []).any fun m => stackOf (clusterOf m) != stackOf (clusterOf c)
      if 0 < th.posted || 0 < th.invals || (far && s.invsBefore th none) then s.stay c sl (some .send)
      else match k.freeCrown with
        | none => s.stay c sl (some .send)
        | some cs =>
          let h := c * 2 ^ 20 + cs * 2 ^ 18 + k.serial
          let img := s.capture c sl d n w
          let others := if n = 0 then [] else img.members.filter (· != c)
          let slot : CrownSlot := { handle := h, home := true, image := some img, join := n, installing := others,
                                    holders := others }
          let s := s.setCore c { k with crowns := assign k.crowns cs slot, serial := (k.serial + 1) % 2 ^ 18 }
          let away := others.filter fun m => clusterOf m != clusterOf c
          let s := s.onThread c sl fun x =>
            { x with issueAt := s.cyc c + 16 * (2 + (th.limit - 1 + 15) / 16) + (if away.isEmpty then 0 else s.roundTrip c away) }
          let s := others.foldl (fun s m => s.coreToCore c m 4 (th.limit + 2) (.imgInstall m h img)) s
          if others.isEmpty then s.freezeDone c sl h d
          else (s.await c sl (.freeze d a b) (some .send)).onThread c sl fun th => { th with result := BitVec.ofNat 64 h }

/-- The slot of a home core whose thread is held in the FREEZE of a handle. -/
def State.freezer (s : State) (c h : Nat) : Option (Nat × Nat) :=
  (List.range 16).findSome? fun sl =>
    let th := s.thread c sl
    match th.waits with
    | some (.freeze d _ _) => if th.result = BitVec.ofNat 64 h then some (sl, d) else none
    | _ => none

/-- A member has the image, or has its install in its spill queue (R417): when it was the last to get it, FREEZE is done. -/
def State.imageConfirmed (s : State) (c h member : Nat) (spilled : Bool) : State :=
  let s := s.onCrown c h fun k =>
    if spilled then { k with spilledIn := k.spilledIn ++ [member] }
    else { k with installing := k.installing.filter (· != member) }
  match s.liveCrown h with
  | some k => if k.installing.isEmpty then
      match s.freezer c h with
      | some (sl, d) => s.freezeDone c sl h d
      | none => s
    else s
  | none => s

/-- IMAGE_INSTALL: a member takes its lowest free crown slot, or keeps the image waiting for one (R103); a core that does
not run spills it (R417). -/
def execImageInstall (s : State) : Host.Outcome State Fault Refusal :=
  match find s.items s.subj.item with
  | some (.imgInstall m h img) =>
    let id := s.subj.item
    match s.spilled m (.imgInstall m h img) with
    | some s => .next ((s.takeItem id).2.coreToCore m (homeOf h) 4 1 (.imgDone (homeOf h) h m true))
    | none => match (s.core m).freeCrown with
      | none => .next (s.inCycles (clusterOf m) 1 .imageInstall { unit := m, item := id })
      | some i =>
        let s := (s.takeItem id).2.onCore m fun k => { k with crowns := assign k.crowns i { handle := h, image := some img } }
        .next (s.coreToCore m (homeOf h) 4 1 (.imgDone (homeOf h) h m false))
  | _ => .next s

/-- IMAGE_FETCH: the home sends the image to a thief, which gets the release in its turn (R109, R123). -/
def execImageFetch (s : State) : Host.Outcome State Fault Refusal :=
  match s.takeItem s.subj.item with
  | (some (.imgFetch thief h), s) =>
    let c := homeOf h
    match s.spilled c (.imgFetch thief h) with
    | some s => .next s
    | none =>
      let img := match s.liveCrown h with
        | some k => k.image
        | none => none
      let s := s.onCrown c h fun k => { k with holders := if k.holders.contains thief then k.holders else k.holders ++ [thief] }
      .next (s.coreToCore c thief 4 (match img with
        | some i => i.limit + 2
        | none => 1) (.imgData thief h img))
  | (_, s) => .next s

/-- The image arrives in the slot a thief reserved (R109); its home learns that a member has it. -/
def State.imageArrived (s : State) (c h : Nat) (img : Option Image) : State :=
  (s.onCrown c h fun k => { k with image := if k.home then k.image else img }).coreToCore c (homeOf h) 4 1
    (.imgDone (homeOf h) h c false)

/-! ### Dealing (R106, R107) -/

/-- Number of a sheaf's member, and its record. -/
def sheafRec (img : Image) (h i : Nat) : Rec :=
  { k := true, w := img.world, pri := img.pri, lim := img.limit / 8 - 1, crown := h,
    cnt := min img.sheaf (img.n - i * img.sheaf) - 1, w0 := BitVec.ofNat 64 (i * img.sheaf) }

/-- DEALER_SEND_SHEAF: the dealer of a crown slot sends the next sheaf, unless its member's deque is full. -/
def execDealerSendSheaf (s : State) : Host.Outcome State Fault Refusal :=
  let c := s.subj.unit
  match find (s.core c).crowns s.subj.sub with
  | some k => match k.dealer, k.image with
    | some i, some img =>
      if (s.core c).pre ≠ .running || s.cyc c < k.dealAt then .next s
      else if img.n ≤ i * img.sheaf then .next (s.onCrown c k.handle fun k => { k with dealer := none })
      else
        let m := nth img.members (i % img.members.length)
        if 64 ≤ (s.core m).dequeUsed + look k.onWay m 0 then .next s
        else
          let s := s.onCrown c k.handle fun k =>
            { k with dealer := some (i + 1), onWay := assign k.onWay m (look k.onWay m 0 + 1) }
          .next (s.coreToCore c m 4 2 (.sheaf m (sheafRec img k.handle i) c))
    | _, _ => .next s
  | none => .next s

/-- An earlier sheaf of the crown for the member is still on its way: sheaves reach each member in increasing index order
(R107). -/
def State.sheafBefore (s : State) (m : Nat) (r : Rec) : Bool := s.items.any fun p => match p.2 with
  | .sheaf c x _ => c == m && x.crown == r.crown && decide (x.w0.toNat < r.w0.toNat)
  | _ => false

/-- A sheaf reaches its member's deque. A core that is being saved or is saved takes it 64 cycles later, and later sheaves of the
crown after it. -/
def State.sheafArrived (s : State) (m : Nat) (r : Rec) (home : Nat) : State :=
  let k := s.core m
  if k.pre = .saving || k.pre = .preempted || k.pre = .restoring || decide (64 ≤ k.dequeUsed) || s.sheafBefore m r then
    s.notify (clusterOf m) 64 (.sheaf m r home)
  else
    (s.pushRec m r).onCrown home r.crown fun x => { x with onWay := assign x.onWay m (look x.onWay m 0 - 1) }

/-! ### Tillers (R108, R111, R112) -/

/-- A tiller's thread on a core, from the image and its index, with its reserved entries. -/
def tillerThread (img : Image) (h c sl pri shadow : Nat) (idx : Word) (entries : List Nat) : Thread :=
  let own := if img.dreg = 0 then [] else [(img.dreg, entries.headD 0)]
  { pc := img.pc, limit := img.limit, masks := img.masks, thandler := img.thandler, tplbase := img.tplbase,
    tplsize := img.tplsize, lastcrown := BitVec.ofNat 64 h, level := img.level, world := img.world, sup := img.sup,
    pri := pri, tid := c * 16 + sl
    tiller := some { handle := h, index := idx.toNat, dreg := img.dreg, priv := own
                     spare := if img.dreg = 0 then entries else entries.drop 1
                     budget := img.budget, shadowMax := shadow } }

/-- Put a tiller into a slot: the index stands in the index register (R112). -/
def State.placeTiller (s : State) (c sl : Nat) (th : Thread) (d : Nat) (idx : Word) : State :=
  let s := { s with nextId := s.nextId + 1 }
  let s := s.setSlot c sl { st := .run, th := { th with uid := s.nextId, issueAt := s.cyc c + 32 } }
  ((if d = 0 then s else s.put c sl d idx)).jumpTo c sl th.pc

/-- The image of a handle that a core holds. -/
def Core.image (k : Core) (h : Nat) : Option Image := match k.crownAt h with
  | some (_, x) => x.image
  | none => none

/-- The record of a sheaf after its first index has been admitted (R108). -/
def State.dropFirst (s : State) (c uid : Nat) : State :=
  s.onCore c fun k => { k with chosen := none, deque := k.deque.filterMap fun r =>
    if r.uid = uid then (if r.cnt = 0 then none else some { r with w0 := r.w0 + 1, cnt := r.cnt - 1 }) else some r }

/-- TILLER_ADMISSION: the selected sheaf's first index becomes a tiller once the image, the entries and the shadow
blocks are there (R111). -/
def execTillerAdmission (s : State) : Host.Outcome State Fault Refusal :=
  let c := s.subj.unit
  let k := s.core c
  if k.pre ≠ .running then .next s else
  match k.chosen, s.admitSlot c with
  | some (.record id), some sl => match k.poppable.find? fun r => r.uid = id with
    | none => .next s
    | some r =>
      if !r.k then .next s else
      let pair := s.paired c sl
      match k.image r.crown with
      | none => .next (s.fetchImage c r.crown)
      | some img =>
        if pair && ((s.core (c + 1)).image r.crown).isNone then .next (s.fetchImage (c + 1) r.crown) else
        let need := img.budget + (if img.dreg = 0 then 0 else 1)
        let col := s.column (columnOf c)
        match freeEntries k (s.cyc c) need, (if pair then freeEntries (s.core (c + 1)) (s.cyc c) need else some []) with
        | some es, some es2 =>
          if 1024 < col.shadowUsed + img.shadow then .next s
          else
            let s := s.onColumn (columnOf c) fun x => { x with shadowUsed := x.shadowUsed + img.shadow }
            let s := s.dropFirst c id
            let s := s.placeTiller c sl (tillerThread img r.crown c sl r.pri img.shadow r.w0 es) img.dreg r.w0
            .next (if pair then
                s.placeTiller (c + 1) sl (tillerThread img r.crown c sl r.pri 0 r.w0 es2) img.dreg r.w0
              else s)
        | _, _ => .next s
  | _, _ => .next s

/-! ### Ending and joining (R118 to R123) -/

/-- Retire a crown (R123): the window thaws, the home slot is free, and every holder of the image gets a release. -/
def State.retire (s : State) (h : Nat) : State :=
  let c := homeOf h
  match s.liveCrown h with
  | none => s
  | some k =>
    let s := s.onColumn (columnOf c) fun x => { x with frozen := x.frozen.filter fun p => p.1 != h }
    let s := s.onCore c fun x => { x with crowns := unset x.crowns (bits h 19 18) }
    k.holders.foldl (fun s m => s.coreToCore c m 4 1 (.crownRel m h)) s

/-- JOIN_DECREMENT: the home counts the end of a tiller, and retires a crown whose thread has ended (R118, R123). -/
def execJoinDecrement (s : State) : Host.Outcome State Fault Refusal :=
  match s.takeItem s.subj.item with
  | (some (.joinDec h fail src), s) =>
    let c := homeOf h
    match s.spilled c (.joinDec h fail src) with
    | some s => .next s
    | none =>
      let s := s.onCrown c h fun k => { k with join := k.join - 1, failed := k.failed + (if fail then 1 else 0) }
      match s.liveCrown h with
      | some k => .next (if k.join = 0 && k.crownEnded then s.retire h else s)
      | none => .next s
  | (_, s) => .next s

/-- The crown's thread has ended (R123). -/
def State.crownThreadEnded (s : State) (h : Nat) : State :=
  match s.liveCrown h with
  | some k => if k.join = 0 then s.retire h else s.onCrown (homeOf h) h fun k => { k with crownEnded := true }
  | none => s

/-- CROWN_RELEASE: a holder frees its crown slot (R123). -/
def execCrownRelease (s : State) : Host.Outcome State Fault Refusal :=
  match s.takeItem s.subj.item with
  | (some (.crownRel c h), s) =>
    let p := (s.core c).pre
    if p = .saving || p = .preempted || p = .restoring then .next (s.notify (clusterOf c) 64 (.crownRel c h))
    else .next (s.onCore c fun k => { k with crowns := k.crowns.filter fun p => p.2.home || decide (p.2.handle ≠ h) })
  | (_, s) => .next s

/-- What the home answers to a JOIN (R120): the count, or the failures with the crown retired. none: not live. -/
def State.joinAt (s : State) (h : Nat) (test : Bool) : State × Ans := match s.liveCrown h with
  | none => (s, .trap .perm (BitVec.ofNat 64 h))
  | some k =>
    if k.join = 0 then (s.retire h, .value (BitVec.ofNat 64 (k.failed + if test then 2 ^ 63 else 0)))
    else if test then (s, .value (BitVec.ofNat 64 k.join))
    else (s, .full)

/-- A JOIN's answer at its thread: a WAIT that found the count not zero tries again; when the crown is retired the
thread heads none (R120). -/
def State.joinAnswered (s : State) (c sl d : Nat) (test : Bool) (a : Ans) : State := match a with
  | .trap k addr => s.trap c sl k addr
  | .value v =>
    let s := if !test || v.getLsbD 63 then
        s.onThread c sl fun th => { th with heads := false, level := if th.tiller.isSome then th.level else 0 }
      else s
    s.finishPut c sl d v
  | _ => s.stay c sl none

/-- JOIN (R120, R121): on the home core at once, elsewhere by the round trip. -/
def State.join (s : State) (c sl d a : Nat) (test : Bool) (i : Instr) : State :=
  let h := s.reg64 c sl a
  let th := s.thread c sl
  if 2 ^ 32 ≤ h.toNat || !th.heads || th.lastcrown != h then s.trap c sl .perm h
  else if homeOf h.toNat = c then
    let (s, r) := s.joinAt h.toNat test
    s.joinAnswered c sl d test r
  else (s.coreToCore c (homeOf h.toNat) 4 1 (.joinOp h.toNat test c sl)).await c sl i none

/-- JOIN.WAIT. -/
def execJoinWait (d a : Nat) (s : State) : Host.Outcome State Fault Refusal :=
  guarded s false [d, a] [d] fun c sl => s.join c sl d a false (.joinWait d a)
/-- JOIN.TEST. -/
def execJoinTest (d a : Nat) (s : State) : Host.Outcome State Fault Refusal :=
  guarded s false [d, a] [d] fun c sl => s.join c sl d a true (.joinTest d a)

end Sys2Proof.Machine
end

