-- ==== Sys2Proof/Machine/Flags.lean ====
section
/-!
DEFINITION. Floating-point flags: FFLAGS is sticky and collects the flags of the active lanes of one instruction, once,
at its completion (07_issue R179, 11_formats R275, 12_vector R293).
-/
namespace Sys2Proof.Machine

open Sys2Proof

/-- OR five flag bits into the thread's FFLAGS. -/
def State.orFlags (s : State) (c sl fl : Nat) : State :=
  s.onThread c sl fun th => { th with fflags := th.fflags ||| BitVec.ofNat 64 (fl % 32) }

/-- The flags of a list of lane results, joined. -/
def joinFlags (rs : List FRes) : Nat := rs.foldl (fun a r => a ||| r.2) 0

end Sys2Proof.Machine
end

