-- ==== Sys2Proof/Machine/Vector.lean ====
section
/-!
DEFINITION. The vector instructions of 12_vector that touch no memory: VF, VFMA, VI, VCMP, VRED, VPERM, VPL, and VCVT of
11_formats.
-/
namespace Sys2Proof.Machine

open Sys2Proof

/-! ### Lanes and masks (R290 to R292) -/

/-- Lane i of width w. -/
def lane (v : VWord) (i w : Nat) : Nat := v.toNat / 2 ^ (w * i) % 2 ^ w

/-- The number whose w-bit digits are a list. -/
def joinLanes (w : Nat) (l : List Nat) : Nat := match l with
  | [] => 0
  | x :: r => x % 2 ^ w + 2 ^ w * joinLanes w r

/-- The register whose lanes are a list; bits above them are zero. -/
def ofLanes (w : Nat) (l : List Nat) : VWord := BitVec.ofNat 512 (joinLanes w l)

/-- The width of a lane code. -/
def laneBits (w : LaneW) : Nat := match w with
  | .w64 => 64
  | .w32 => 32
  | .w16 => 16
  | .w8 => 8

/-- The results of n lanes: active ones computed, inactive ones kept without a flag (R292). -/
def mergeLanes (mask : Word) (old : VWord) (w n : Nat) (f : Nat → FRes) : List FRes :=
  (List.range n).map fun i => if mask.getLsbD i then f i else (lane old i w, 0)

/-- A lanewise operation with a mask on n lanes of width w: the results of the active lanes, the others merged, the
flags joined into FFLAGS, in k turns (R292 to R294). -/
def lanewise (s : State) (names : List Nat) (d m w k : Nat) (f : Nat → Nat → Nat → FRes) :
    Host.Outcome State Fault Refusal :=
  guarded s false (d :: names) [d] fun c sl =>
    let rs := mergeLanes ((s.thread c sl).mask m) (s.reg c sl d) w (512 / w) (f c sl)
    (((s.setReg c sl d (ofLanes w (rs.map Prod.fst))).orFlags c sl (joinFlags rs)).finish c sl).turns c sl k

/-- A result written whole, in one turn. -/
def whole (s : State) (names : List Nat) (d : Nat) (f : Nat → Nat → VWord) : Host.Outcome State Fault Refusal :=
  guarded s false (d :: names) [d] fun c sl => (s.setReg c sl d (f c sl)).finish c sl

/-! ### VF (R295 to R297) -/

/-- Turns of DIV, SQRT and RSQRT (R294). -/
def slowTurns (ty : FType) : Nat := match ty with
  | .f64 => 5
  | .f32 => 3
  | .bf16 | .f16 => 2

/-- A two-operand floating operation on every active lane. -/
def vf2 (s : State) (d a b m k : Nat) (ty : FType) (op : Nat → Nat → FRes) : Host.Outcome State Fault Refusal :=
  lanewise s [a, b] d m (ftWidth ty) k fun c sl i =>
    op (lane (s.reg c sl a) i (ftWidth ty)) (lane (s.reg c sl b) i (ftWidth ty))

/-- A one-operand floating operation on every active lane. -/
def vf1 (s : State) (d a m k : Nat) (ty : FType) (op : Nat → FRes) : Host.Outcome State Fault Refusal :=
  lanewise s [a] d m (ftWidth ty) k fun c sl i => op (lane (s.reg c sl a) i (ftWidth ty))

/-- The reciprocal square root, exact value rounded once (R296, R297). -/
def FSpec.rsqrt (f : FSpec) (r : Round) (a : Nat) : FRes := match f.val a with
  | .nan s => f.deliver r (.nan s)
  | .inf neg => if neg then (f.nan, fNV) else (f.zero false, 0)
  | .fin neg m e =>
    if m = 0 then (f.inf neg, fDZ)
    else if neg then (f.nan, fNV)
    else
      let (m, e) := if e % 2 = 0 then (m, e) else (2 * m, e - 1)
      let k := Nat.log2 m / 2 + f.fbits + 6
      let n := 2 ^ (2 * k)
      let x := isqrt (n / m)
      f.round r false x (-(k : Int) - e / 2) (n % m != 0 || x * x != n / m)

/-- Whether a value comes before another: numbers by size, -0 before +0 (R297). -/
def before (a b : FVal) : Bool := match a, b with
  | .inf n, .inf n' => n && !n'
  | .inf n, _ => n
  | _, .inf n => !n
  | .fin n m e, .fin n' m' e' =>
    let q := min e e'
    let x := signed n (m * 2 ^ (e - q).toNat)
    let y := signed n' (m' * 2 ^ (e' - q).toNat)
    if x = y then n && !n' else decide (x < y)
  | _, _ => false

/-- minmax (R297): any NaN gives the canonical NaN; with number, one NaN gives the other operand. -/
def FSpec.minmax (f : FSpec) (wantMax number : Bool) (a b : Nat) : FRes :=
  match f.val a, f.val b with
  | .nan s, .nan t => (f.nan, if s || t then fNV else 0)
  | .nan s, _ => (if number then b else f.nan, if s then fNV else 0)
  | _, .nan t => (if number then a else f.nan, if t then fNV else 0)
  | x, y => (if wantMax then (if before x y then b else a) else (if before y x then b else a), 0)

/-- The magnitude bits of an encoding. -/
def FSpec.abs (f : FSpec) (a : Nat) : Nat := a % 2 ^ (f.ebits + f.fbits)

/-- VF.ADD (R296). -/
def execVfAdd (d a b : Nat) (ty : FType) (rnd : Round) (m : Nat) (s : State) : Host.Outcome State Fault Refusal :=
  vf2 s d a b m 1 ty ((ftSpec ty).add rnd)

/-- VF.SUB (R296). -/
def execVfSub (d a b : Nat) (ty : FType) (rnd : Round) (m : Nat) (s : State) : Host.Outcome State Fault Refusal :=
  vf2 s d a b m 1 ty ((ftSpec ty).sub rnd)

/-- VF.MUL (R296). -/
def execVfMul (d a b : Nat) (ty : FType) (rnd : Round) (m : Nat) (s : State) : Host.Outcome State Fault Refusal :=
  vf2 s d a b m 1 ty ((ftSpec ty).mul rnd)

/-- VF.DIV (R296). -/
def execVfDiv (d a b : Nat) (ty : FType) (rnd : Round) (m : Nat) (s : State) : Host.Outcome State Fault Refusal :=
  vf2 s d a b m (slowTurns ty) ty ((ftSpec ty).div rnd)

/-- VF.SQRT (R296). -/
def execVfSqrt (d a : Nat) (ty : FType) (rnd : Round) (m : Nat) (s : State) : Host.Outcome State Fault Refusal :=
  vf1 s d a m (slowTurns ty) ty ((ftSpec ty).sqrt rnd)

/-- VF.RSQRT (R296). -/
def execVfRsqrt (d a : Nat) (ty : FType) (rnd : Round) (m : Nat) (s : State) : Host.Outcome State Fault Refusal :=
  vf1 s d a m (slowTurns ty) ty ((ftSpec ty).rsqrt rnd)

/-- VF.ABS (R296): only the sign bit changes. -/
def execVfAbs (d a : Nat) (ty : FType) (m : Nat) (s : State) : Host.Outcome State Fault Refusal :=
  vf1 s d a m 1 ty fun x => ((ftSpec ty).abs x, 0)

/-- VF.NEG (R296): the sign bit inverted. -/
def execVfNeg (d a : Nat) (ty : FType) (m : Nat) (s : State) : Host.Outcome State Fault Refusal :=
  vf1 s d a m 1 ty fun x => ((ftSpec ty).abs x + (ftSpec ty).signBit (!(ftSpec ty).sign x), 0)

/-- VF.COPYSIGN (R296): x with the sign bit of y. -/
def execVfCopysign (d a b : Nat) (ty : FType) (m : Nat) (s : State) : Host.Outcome State Fault Refusal :=
  vf2 s d a b m 1 ty fun x y => ((ftSpec ty).abs x + (ftSpec ty).signBit ((ftSpec ty).sign y), 0)

/-- VF.MIN (R297). -/
def execVfMin (d a b : Nat) (ty : FType) (m : Nat) (s : State) : Host.Outcome State Fault Refusal :=
  vf2 s d a b m 1 ty ((ftSpec ty).minmax false false)

/-- VF.MAX (R297). -/
def execVfMax (d a b : Nat) (ty : FType) (m : Nat) (s : State) : Host.Outcome State Fault Refusal :=
  vf2 s d a b m 1 ty ((ftSpec ty).minmax true false)

/-- VF.MINNUM (R297). -/
def execVfMinnum (d a b : Nat) (ty : FType) (m : Nat) (s : State) : Host.Outcome State Fault Refusal :=
  vf2 s d a b m 1 ty ((ftSpec ty).minmax false true)

/-- VF.MAXNUM (R297). -/
def execVfMaxnum (d a b : Nat) (ty : FType) (m : Nat) (s : State) : Host.Outcome State Fault Refusal :=
  vf2 s d a b m 1 ty ((ftSpec ty).minmax true true)

/-! ### VFMA (R298, R299) -/

/-- A fused product and sum on every active lane, the product and the addend negated as told. -/
def vfma (s : State) (d a b c m : Nat) (ty : FType) (rnd : Round) (negP negC : Bool) :
    Host.Outcome State Fault Refusal :=
  lanewise s [a, b, c] d m (ftWidth ty) 1 fun k sl i =>
    (ftSpec ty).fma rnd negP negC (lane (s.reg k sl a) i (ftWidth ty)) (lane (s.reg k sl b) i (ftWidth ty))
      (lane (s.reg k sl c) i (ftWidth ty))

/-- VFMA.FMA (R299). -/
def execVfmaFma (d a b c : Nat) (ty : FType) (rnd : Round) (m : Nat) (s : State) :
    Host.Outcome State Fault Refusal := vfma s d a b c m ty rnd false false

/-- VFMA.FMS (R299). -/
def execVfmaFms (d a b c : Nat) (ty : FType) (rnd : Round) (m : Nat) (s : State) :
    Host.Outcome State Fault Refusal := vfma s d a b c m ty rnd false true

/-- VFMA.FNMA (R299). -/
def execVfmaFnma (d a b c : Nat) (ty : FType) (rnd : Round) (m : Nat) (s : State) :
    Host.Outcome State Fault Refusal := vfma s d a b c m ty rnd true true

/-- VFMA.FNMS (R299). -/
def execVfmaFnms (d a b c : Nat) (ty : FType) (rnd : Round) (m : Nat) (s : State) :
    Host.Outcome State Fault Refusal := vfma s d a b c m ty rnd true false

/-! ### VI (R300, R301) -/

/-- A two-operand integer operation on every active lane; the result is taken modulo 2^w. -/
def vi2 (s : State) (d a b m : Nat) (w : LaneW) (op : Nat → Nat → Int) : Host.Outcome State Fault Refusal :=
  lanewise s [a, b] d m (laneBits w) 1 fun c sl i =>
    (wrapN (laneBits w) (op (lane (s.reg c sl a) i (laneBits w)) (lane (s.reg c sl b) i (laneBits w))), 0)

/-- Clamp to the signed range of w bits. -/
def clampS (w : Nat) (v : Int) : Int := max (-(2 : Int) ^ (w - 1)) (min ((2 : Int) ^ (w - 1) - 1) v)

/-- VI.ADD (R301). -/
def execViAdd (d a b : Nat) (w : LaneW) (m : Nat) (s : State) : Host.Outcome State Fault Refusal :=
  vi2 s d a b m w fun x y => (x : Int) + y

/-- VI.SUB (R301). -/
def execViSub (d a b : Nat) (w : LaneW) (m : Nat) (s : State) : Host.Outcome State Fault Refusal :=
  vi2 s d a b m w fun x y => (x : Int) - y

/-- VI.MUL (R301). -/
def execViMul (d a b : Nat) (w : LaneW) (m : Nat) (s : State) : Host.Outcome State Fault Refusal :=
  vi2 s d a b m w fun x y => sext x (laneBits w) * sext y (laneBits w)

/-- VI.MULH (R301). -/
def execViMulh (d a b : Nat) (w : LaneW) (m : Nat) (s : State) : Host.Outcome State Fault Refusal :=
  vi2 s d a b m w fun x y => sext x (laneBits w) * sext y (laneBits w) / (2 : Int) ^ laneBits w

/-- VI.MULHN (R301). -/
def execViMulhn (d a b : Nat) (w : LaneW) (m : Nat) (s : State) : Host.Outcome State Fault Refusal :=
  vi2 s d a b m w fun x y => ((x * y / 2 ^ laneBits w : Nat) : Int)

/-- VI.AND (R301). -/
def execViAnd (d a b : Nat) (w : LaneW) (m : Nat) (s : State) : Host.Outcome State Fault Refusal :=
  vi2 s d a b m w fun x y => ((x &&& y : Nat) : Int)

/-- VI.OR (R301). -/
def execViOr (d a b : Nat) (w : LaneW) (m : Nat) (s : State) : Host.Outcome State Fault Refusal :=
  vi2 s d a b m w fun x y => ((x ||| y : Nat) : Int)

/-- VI.XOR (R301). -/
def execViXor (d a b : Nat) (w : LaneW) (m : Nat) (s : State) : Host.Outcome State Fault Refusal :=
  vi2 s d a b m w fun x y => ((x ^^^ y : Nat) : Int)

/-- VI.ANDN (R301). -/
def execViAndn (d a b : Nat) (w : LaneW) (m : Nat) (s : State) : Host.Outcome State Fault Refusal :=
  vi2 s d a b m w fun x y => ((x &&& (2 ^ laneBits w - 1 - y) : Nat) : Int)

/-- VI.SHL (R301). -/
def execViShl (d a b : Nat) (w : LaneW) (m : Nat) (s : State) : Host.Outcome State Fault Refusal :=
  vi2 s d a b m w fun x y => ((x * 2 ^ (y % laneBits w) : Nat) : Int)

/-- VI.SHR (R301). -/
def execViShr (d a b : Nat) (w : LaneW) (m : Nat) (s : State) : Host.Outcome State Fault Refusal :=
  vi2 s d a b m w fun x y => ((x / 2 ^ (y % laneBits w) : Nat) : Int)

/-- VI.SAR (R301). -/
def execViSar (d a b : Nat) (w : LaneW) (m : Nat) (s : State) : Host.Outcome State Fault Refusal :=
  vi2 s d a b m w fun x y => sext x (laneBits w) / (2 : Int) ^ (y % laneBits w)

/-- VI.MIN (R301). -/
def execViMin (d a b : Nat) (w : LaneW) (m : Nat) (s : State) : Host.Outcome State Fault Refusal :=
  vi2 s d a b m w fun x y => min (sext x (laneBits w)) (sext y (laneBits w))

/-- VI.MAX (R301). -/
def execViMax (d a b : Nat) (w : LaneW) (m : Nat) (s : State) : Host.Outcome State Fault Refusal :=
  vi2 s d a b m w fun x y => max (sext x (laneBits w)) (sext y (laneBits w))

/-- VI.MINN (R301). -/
def execViMinn (d a b : Nat) (w : LaneW) (m : Nat) (s : State) : Host.Outcome State Fault Refusal :=
  vi2 s d a b m w fun x y => ((min x y : Nat) : Int)

/-- VI.MAXN (R301). -/
def execViMaxn (d a b : Nat) (w : LaneW) (m : Nat) (s : State) : Host.Outcome State Fault Refusal :=
  vi2 s d a b m w fun x y => ((max x y : Nat) : Int)

/-- VI.ADDSAT (R301). -/
def execViAddsat (d a b : Nat) (w : LaneW) (m : Nat) (s : State) : Host.Outcome State Fault Refusal :=
  vi2 s d a b m w fun x y => clampS (laneBits w) (sext x (laneBits w) + sext y (laneBits w))

/-- VI.SUBSAT (R301). -/
def execViSubsat (d a b : Nat) (w : LaneW) (m : Nat) (s : State) : Host.Outcome State Fault Refusal :=
  vi2 s d a b m w fun x y => clampS (laneBits w) (sext x (laneBits w) - sext y (laneBits w))

/-- VI.ADDSATN (R301). -/
def execViAddsatn (d a b : Nat) (w : LaneW) (m : Nat) (s : State) : Host.Outcome State Fault Refusal :=
  vi2 s d a b m w fun x y => ((min (x + y) (2 ^ laneBits w - 1) : Nat) : Int)

/-- VI.SUBSATN (R301). -/
def execViSubsatn (d a b : Nat) (w : LaneW) (m : Nat) (s : State) : Host.Outcome State Fault Refusal :=
  vi2 s d a b m w fun x y => ((x - y : Nat) : Int)

/-- VI.ABS (R301): the most negative number stays itself. -/
def execViAbs (d a : Nat) (w : LaneW) (m : Nat) (s : State) : Host.Outcome State Fault Refusal :=
  lanewise s [a] d m (laneBits w) 1 fun c sl i =>
    (wrapN (laneBits w) ((sext (lane (s.reg c sl a) i (laneBits w)) (laneBits w)).natAbs : Int), 0)

/-! ### VCMP (R302, R303) -/

/-- A comparison of lanes into mask md: inactive lanes keep their bit, bits of n and above are cleared. -/
def vcmp (s : State) (md a b m w : Nat) (rel : Nat → Nat → Bool × Nat) : Host.Outcome State Fault Refusal :=
  guarded s false [a, b] [] fun c sl =>
    let th := s.thread c sl
    let n := 512 / w
    let act := th.mask m
    let old := th.mask md
    let rs : List (Bool × Nat) := (List.range n).map fun i =>
      if act.getLsbD i then rel (lane (s.reg c sl a) i w) (lane (s.reg c sl b) i w) else (old.getLsbD i, 0)
    let v := joinLanes 1 (rs.map fun r => r.1.toNat)
    (((s.onThread c sl fun th => { th with masks := assign th.masks md (BitVec.ofNat 64 v) }).orFlags c sl
      (rs.foldl (fun x r => x ||| r.2) 0)).finish c sl)

/-- The order of two values: none when one is a NaN; zeros are equal. -/
def orderOf (a b : FVal) : Option Ordering := match a, b with
  | .nan _, _ => none
  | _, .nan _ => none
  | .fin n m e, .fin n' m' e' =>
    let q := min e e'
    some (compare (signed n (m * 2 ^ (e - q).toNat)) (signed n' (m' * 2 ^ (e' - q).toNat)))
  | x, y => some (if x = y then .eq else if before x y then .lt else .gt)

/-- A floating relation with its NV rule: any NaN for the ordering relations, a signaling one for the others. -/
def floatRel (f : FSpec) (ordering : Bool) (rel : Option Ordering → Bool) (a b : Nat) : Bool × Nat :=
  let x := f.val a
  let y := f.val b
  let nv := match nanOf x y with
    | some (.nan s) => ordering || s
    | _ => false
  (rel (orderOf x y), if nv then fNV else 0)

/-- A comparison of a lane type: floating or signed integer. -/
def vcmpTy (s : State) (md a b m : Nat) (ty : CmpT) (ordering : Bool) (rel : Option Ordering → Bool) :
    Host.Outcome State Fault Refusal := match ty with
  | .flt t => vcmp s md a b m (ftWidth t) (floatRel (ftSpec t) ordering rel)
  | .int w => vcmp s md a b m (laneBits w) fun x y =>
      (rel (some (compare (sext x (laneBits w)) (sext y (laneBits w)))), 0)

/-- VCMP.EQ (R303). -/
def execVcmpEq (md a b : Nat) (ty : CmpT) (m : Nat) (s : State) : Host.Outcome State Fault Refusal :=
  vcmpTy s md a b m ty false fun o => decide (o = some .eq)

/-- VCMP.NE (R303). -/
def execVcmpNe (md a b : Nat) (ty : CmpT) (m : Nat) (s : State) : Host.Outcome State Fault Refusal :=
  vcmpTy s md a b m ty false fun o => decide (o ≠ some .eq)

/-- VCMP.LT (R303). -/
def execVcmpLt (md a b : Nat) (ty : CmpT) (m : Nat) (s : State) : Host.Outcome State Fault Refusal :=
  vcmpTy s md a b m ty true fun o => decide (o = some .lt)

/-- VCMP.LE (R303). -/
def execVcmpLe (md a b : Nat) (ty : CmpT) (m : Nat) (s : State) : Host.Outcome State Fault Refusal :=
  vcmpTy s md a b m ty true fun o => decide (o = some .lt ∨ o = some .eq)

/-- VCMP.GT (R303). -/
def execVcmpGt (md a b : Nat) (ty : CmpT) (m : Nat) (s : State) : Host.Outcome State Fault Refusal :=
  vcmpTy s md a b m ty true fun o => decide (o = some .gt)

/-- VCMP.GE (R303). -/
def execVcmpGe (md a b : Nat) (ty : CmpT) (m : Nat) (s : State) : Host.Outcome State Fault Refusal :=
  vcmpTy s md a b m ty true fun o => decide (o = some .gt ∨ o = some .eq)

/-- VCMP.UNORD (R303): holds exactly when an operand is NaN. -/
def execVcmpUnord (md a b : Nat) (ty : FType) (m : Nat) (s : State) : Host.Outcome State Fault Refusal :=
  vcmp s md a b m (ftWidth ty) (floatRel (ftSpec ty) false fun o => decide (o = none))

/-- VCMP.LTN (R303): unsigned. -/
def execVcmpLtn (md a b : Nat) (w : LaneW) (m : Nat) (s : State) : Host.Outcome State Fault Refusal :=
  vcmp s md a b m (laneBits w) fun x y => (decide (x < y), 0)

/-- VCMP.GEN (R303): unsigned. -/
def execVcmpGen (md a b : Nat) (w : LaneW) (m : Nat) (s : State) : Host.Outcome State Fault Refusal :=
  vcmp s md a b m (laneBits w) fun x y => (decide (y ≤ x), 0)

/-! ### VCVT (R283, R284) -/

/-- VCVT: element i of the source to element i of the result, the narrower side packed in the low bits; for i4 to i4
one mask bit governs two elements. -/
def execVcvt (d a : Nat) (src dst : Fmt) (rnd : Round) (m : Nat) (s : State) : Host.Outcome State Fault Refusal :=
  guarded s false [d, a] [d] fun c sl =>
    let wf := fmtWidth src
    let wt := fmtWidth dst
    let n := 512 / max wf wt
    let mask := (s.thread c sl).mask m
    let rs : List FRes := (List.range n).map fun i =>
      if mask.getLsbD (if n = 128 then i / 2 else i) then convert src dst rnd (lane (s.reg c sl a) i wf)
      else (lane (s.reg c sl d) i wt, 0)
    ((s.setReg c sl d (ofLanes wt (rs.map Prod.fst))).orFlags c sl (joinFlags rs)).finish c sl

/-! ### VRED (R304, R305) -/

/-- The active lanes of a register. -/
def activeLanes (s : State) (c sl a m w : Nat) : List (Option Nat) :=
  (List.range (512 / w)).map fun i =>
    if ((s.thread c sl).mask m).getLsbD i then some (lane (s.reg c sl a) i w) else none

/-- A reduction: the whole of d is written, and the flags joined. -/
def reduce (s : State) (d a : Nat) (f : Nat → Nat → FRes) : Host.Outcome State Fault Refusal :=
  guarded s false [d, a] [d] fun c sl =>
    let r := f c sl
    ((s.setReg c sl d (BitVec.ofNat 512 r.1)).orFlags c sl r.2).finish c sl

/-- One level of the pairwise tree (R280): absent lanes pass the other by. -/
def pairUp (f : FSpec) (r : Round) (l : List (Option Nat)) : List (Option Nat) × Nat := match l with
  | some x :: some y :: t =>
    let p := f.add r x y
    let q := pairUp f r t
    (some p.1 :: q.1, p.2 ||| q.2)
  | x :: y :: t =>
    let q := pairUp f r t
    ((match x with | some v => some v | none => y) :: q.1, q.2)
  | l => (l, 0)

/-- The pairwise tree of up to 2^k lanes. -/
def sumTree (f : FSpec) (r : Round) (k : Nat) (l : List (Option Nat)) : FRes := match k with
  | 0 => ((l.headD none).getD 0, 0)
  | k + 1 =>
    let p := pairUp f r l
    let q := sumTree f r k p.1
    (q.1, p.2 ||| q.2)

/-- The exact sum of finite values over a common exponent. -/
def exactSum (l : List FVal) : Int × Int :=
  let e := l.foldl (fun a v => match v with
    | .fin _ _ e => min a e
    | _ => a) 0
  (l.foldl (fun a v => match v with
    | .fin n m x => a + signed n (m * 2 ^ (x - e).toNat)
    | _ => a) 0, e)

/-- The exact sum rounded once, with the special cases of R281. -/
def sumExact (f : FSpec) (r : Round) (l : List FVal) : FRes :=
  if l.any fun v => match v with
    | .nan _ => true
    | _ => false then
    (f.nan, if l.any fun v => v = .nan true then fNV else 0)
  else if l.any (· = .inf false) && l.any (· = .inf true) then (f.nan, fNV)
  else if l.any (· = .inf false) then (f.inf false, 0)
  else if l.any (· = .inf true) then (f.inf true, 0)
  else
    let (v, e) := exactSum l
    let isNeg := fun v : FVal => match v with
      | .fin n _ _ => n
      | _ => false
    if v = 0 then
      (if l.isEmpty then (f.zero false, 0)
       else if l.all isNeg then (f.zero true, 0)
       else (f.zero (r = .rdn && l.any isNeg), 0))
    else f.round r (decide (v < 0)) v.natAbs e false

/-- VRED.SUM (R280). -/
def execVredSum (d a : Nat) (ty : FType) (rnd : Round) (m : Nat) (s : State) : Host.Outcome State Fault Refusal :=
  reduce s d a fun c sl =>
    sumTree (ftSpec ty) rnd (Nat.log2 (512 / ftWidth ty)) (activeLanes s c sl a m (ftWidth ty))

/-- VRED.SUMX (R281). -/
def execVredSumx (d a : Nat) (ty : FType) (rnd : Round) (m : Nat) (s : State) : Host.Outcome State Fault Refusal :=
  reduce s d a fun c sl =>
    sumExact (ftSpec ty) rnd (((activeLanes s c sl a m (ftWidth ty)).filterMap id).map (ftSpec ty).val)

/-- The smallest or largest active lane, from the neutral infinity (R305). -/
def redMinmax (f : FSpec) (wantMax : Bool) (l : List Nat) : FRes :=
  l.foldl (fun acc x =>
    let p := f.minmax wantMax false acc.1 x
    (p.1, acc.2 ||| p.2)) (f.inf wantMax, 0)

/-- VRED.MIN (R305). -/
def execVredMin (d a : Nat) (ty : FType) (m : Nat) (s : State) : Host.Outcome State Fault Refusal :=
  reduce s d a fun c sl => redMinmax (ftSpec ty) false ((activeLanes s c sl a m (ftWidth ty)).filterMap id)

/-- VRED.MAX (R305). -/
def execVredMax (d a : Nat) (ty : FType) (m : Nat) (s : State) : Host.Outcome State Fault Refusal :=
  reduce s d a fun c sl => redMinmax (ftSpec ty) true ((activeLanes s c sl a m (ftWidth ty)).filterMap id)

/-- VRED.ISUM (R305): signed lanes, modulo 2^64. -/
def execVredIsum (d a : Nat) (w : LaneW) (m : Nat) (s : State) : Host.Outcome State Fault Refusal :=
  reduce s d a fun c sl =>
    (wrapN 64 (((activeLanes s c sl a m (laneBits w)).filterMap id).foldl (fun x y => x + sext y (laneBits w)) 0), 0)

/-- VRED.AND (R305): all ones with no active lane. -/
def execVredAnd (d a : Nat) (w : LaneW) (m : Nat) (s : State) : Host.Outcome State Fault Refusal :=
  reduce s d a fun c sl =>
    (((activeLanes s c sl a m (laneBits w)).filterMap id).foldl (fun x y => x &&& y) (2 ^ laneBits w - 1), 0)

/-- VRED.OR (R305). -/
def execVredOr (d a : Nat) (w : LaneW) (m : Nat) (s : State) : Host.Outcome State Fault Refusal :=
  reduce s d a fun c sl => (((activeLanes s c sl a m (laneBits w)).filterMap id).foldl (fun x y => x ||| y) 0, 0)

/-- VRED.XOR (R305). -/
def execVredXor (d a : Nat) (w : LaneW) (m : Nat) (s : State) : Host.Outcome State Fault Refusal :=
  reduce s d a fun c sl => (((activeLanes s c sl a m (laneBits w)).filterMap id).foldl (fun x y => x ^^^ y) 0, 0)

/-! ### VPERM (R306, R307) -/

/-- A permutation: every lane of the result from the lanes of a, b and d as they stood. -/
def permute (s : State) (names : List Nat) (d : Nat) (w : LaneW) (f : Nat → Nat → Nat → Nat) :
    Host.Outcome State Fault Refusal :=
  whole s names d fun c sl => ofLanes (laneBits w) ((List.range (512 / laneBits w)).map (f c sl))

/-- Lane i of register r of a slot. -/
def laneOf (s : State) (c sl r : Nat) (w : LaneW) (i : Nat) : Nat := lane (s.reg c sl r) i (laneBits w)

/-- VPERM.BCAST (R307). -/
def execVpermBcast (d a : Nat) (w : LaneW) (c : Nat) (s : State) : Host.Outcome State Fault Refusal :=
  permute s [a] d w fun k sl _ => laneOf s k sl a w c

/-- VPERM.ROT (R307). -/
def execVpermRot (d a : Nat) (w : LaneW) (c : Nat) (s : State) : Host.Outcome State Fault Refusal :=
  permute s [a] d w fun k sl i => laneOf s k sl a w ((i + (512 / laneBits w) - c) % (512 / laneBits w))

/-- VPERM.SLIDEUP (R307). -/
def execVpermSlideup (d a : Nat) (w : LaneW) (c : Nat) (s : State) : Host.Outcome State Fault Refusal :=
  permute s [a] d w fun k sl i => if c ≤ i then laneOf s k sl a w (i - c) else laneOf s k sl d w i

/-- VPERM.SLIDEDN (R307). -/
def execVpermSlidedn (d a : Nat) (w : LaneW) (c : Nat) (s : State) : Host.Outcome State Fault Refusal :=
  permute s [a] d w fun k sl i => if i + c < (512 / laneBits w) then laneOf s k sl a w (i + c) else laneOf s k sl d w i

/-- VPERM.EXT (R307). -/
def execVpermExt (d a : Nat) (w : LaneW) (c : Nat) (s : State) : Host.Outcome State Fault Refusal :=
  permute s [a] d w fun k sl i => if i = 0 then laneOf s k sl a w c else 0

/-- VPERM.SHUF (R307). -/
def execVpermShuf (d a b : Nat) (w : LaneW) (s : State) : Host.Outcome State Fault Refusal :=
  permute s [a, b] d w fun k sl i => laneOf s k sl a w (laneOf s k sl b w i % (512 / laneBits w))

/-- VPERM.ZIPLO (R307). -/
def execVpermZiplo (d a b : Nat) (w : LaneW) (s : State) : Host.Outcome State Fault Refusal :=
  permute s [a, b] d w fun k sl i => if i % 2 = 0 then laneOf s k sl a w (i / 2) else laneOf s k sl b w (i / 2)

/-- VPERM.ZIPHI (R307). -/
def execVpermZiphi (d a b : Nat) (w : LaneW) (s : State) : Host.Outcome State Fault Refusal :=
  permute s [a, b] d w fun k sl i => if i % 2 = 0 then laneOf s k sl a w ((512 / laneBits w) / 2 + i / 2) else laneOf s k sl b w ((512 / laneBits w) / 2 + i / 2)

/-- VPERM.UNZIPE (R307). -/
def execVpermUnzipe (d a b : Nat) (w : LaneW) (s : State) : Host.Outcome State Fault Refusal :=
  permute s [a, b] d w fun k sl i => if i < (512 / laneBits w) / 2 then laneOf s k sl a w (2 * i) else laneOf s k sl b w (2 * (i - (512 / laneBits w) / 2))

/-- VPERM.UNZIPO (R307). -/
def execVpermUnzipo (d a b : Nat) (w : LaneW) (s : State) : Host.Outcome State Fault Refusal :=
  permute s [a, b] d w fun k sl i => if i < (512 / laneBits w) / 2 then laneOf s k sl a w (2 * i + 1) else laneOf s k sl b w (2 * (i - (512 / laneBits w) / 2) + 1)

/-- VPERM.INS (R307). -/
def execVpermIns (d a b : Nat) (w : LaneW) (c : Nat) (s : State) : Host.Outcome State Fault Refusal :=
  permute s [a, b] d w fun k sl i => if i = c then laneOf s k sl b w 0 else laneOf s k sl a w i

/-- VPERM.SEL (R307): by the bits of a mask. -/
def execVpermSel (d a b : Nat) (w : LaneW) (m : Nat) (s : State) : Host.Outcome State Fault Refusal :=
  permute s [a, b] d w fun k sl i =>
    if ((s.thread k sl).mask m).getLsbD i then laneOf s k sl a w i else laneOf s k sl b w i

/-! ### VPL (R314, R315) -/

/-- Planes of a plane width. -/
def planes (pw : PlaneW) : Nat := match pw with
  | .w4 => 4
  | .w8 => 8
  | .w16 => 16
  | .w6 => 6

/-- Bits that an element occupies on the element side. -/
def elemStep (pw : PlaneW) : Nat := match pw with
  | .w4 => 4
  | .w8 | .w6 => 8
  | .w16 => 16

/-- The registers a VPL operand names: one, or a pair for W16. -/
def plRegs (pw : PlaneW) (r : Nat) : List Nat := match pw with
  | .w16 => [r, r + 1]
  | _ => [r]

/-- The number a VPL source holds, over one register or a pair. -/
def plSource (s : State) (c sl r : Nat) (pw : PlaneW) : Nat := match pw with
  | .w16 => (s.reg c sl r).toNat + 2 ^ 512 * (s.reg c sl (r + 1)).toNat
  | _ => (s.reg c sl r).toNat

/-- Element side to plane side: word p holds bit p of every element. -/
def toPlanes (pw : PlaneW) (v : Nat) : Nat :=
  joinLanes 64 ((List.range (planes pw)).map fun p =>
    joinLanes 1 ((List.range 64).map fun i => (bit v (elemStep pw * i + p)).toNat))

/-- Plane side to element side. -/
def fromPlanes (pw : PlaneW) (v : Nat) : Nat :=
  joinLanes (elemStep pw) ((List.range 64).map fun i =>
    joinLanes 1 ((List.range (planes pw)).map fun p => (bit v (64 * p + i)).toNat))

/-- VPL: the register or pair d is written whole. -/
def vpl (s : State) (d a : Nat) (pw : PlaneW) (f : Nat → Nat) : Host.Outcome State Fault Refusal :=
  guarded s false (plRegs pw d ++ plRegs pw a) (plRegs pw d) fun c sl =>
    let v := f (plSource s c sl a pw)
    let s1 := s.setReg c sl d (BitVec.ofNat 512 v)
    (match pw with
      | .w16 => s1.setReg c sl (d + 1) (BitVec.ofNat 512 (v / 2 ^ 512))
      | _ => s1).finish c sl

/-- VPL.PLANE (R315). -/
def execVplPlane (d a : Nat) (pw : PlaneW) (s : State) : Host.Outcome State Fault Refusal := vpl s d a pw (toPlanes pw)

/-- VPL.UNPLANE (R315). -/
def execVplUnplane (d a : Nat) (pw : PlaneW) (s : State) : Host.Outcome State Fault Refusal :=
  vpl s d a pw (fromPlanes pw)

end Sys2Proof.Machine
end

