-- ==== Sys2Proof/Machine/Load.lean ====
section
/-!
DEFINITION. The thread's accesses (08_access R192 to R222, 12_vector R308 to R313, 14_sync R350 to R353): the elements an
instruction names, their checks in order, the grouping of elements into blocks, the request of every access, and what
the instruction writes when the last one is answered; template windows and shadows (05_crowns R115, R116); and the
move of a thread to another column (08_access R218 to R222).
-/
namespace Sys2Proof.Machine

open Sys2Proof

/-! ### Elements and plans -/

/-- One element of an instruction: its number, address, width in bytes and what is done there. -/
structure Elem where
  idx : Nat
  ea : Word
  width : Nat
  op : AccOp
deriving DecidableEq, Repr

/-- What a memory instruction is going to access. -/
structure Plan where
  space : Mode
  need : Need
  els : List Elem
  /-- a run of blocks with a restart count (R208) -/
  run : Bool := false
  /-- elements of one block are one access (R310) -/
  merge : Bool := false
  /-- through a ring handle: the thread never moves (R215) -/
  ring : Bool := false
  /-- a release, and whether its scope holds the stack-copy invalidations (R233) -/
  rel : Bool := false
  dev : Bool := false
  /-- a stack copy may serve its loads (R233) -/
  copyOk : Bool := false
  /-- column of element 0, for LOCAL (R208, R218, R310) -/
  col0 : Nat := 0
deriving DecidableEq, Repr

/-- A plan, or the trap that precedes every storage address. -/
inductive Planned where
  | ok (p : Plan)
  | bad (k : Cause) (addr : Word)
deriving DecidableEq, Repr

/-- The scope of an access holds the whole module (R196): GLOBAL, and banks of another stack. -/
def scopeDev (c : Nat) (space : Mode) (ea : Word) : Bool := match space with
  | .global => true
  | .loc => false
  | _ => decide (stackOf (addrCluster space ea.toNat) ≠ stackOf (clusterOf c))

/-- The bytes of a register's low w bytes. -/
def regBytes (v : VWord) (w : Nat) : List Byte := toBytes w v.toNat

/-! ### Rings (R211, R212, R215) -/

/-- MODE of a geometry word. -/
def geoMode (g : Word) : Mode := modeOf (bits g.toNat 42 40)
/-- SBYTES. -/
def geoBytes (g : Word) : Nat := 64 * (bits g.toNat 39 32 + 1)
/-- SLOTS. -/
def geoSlots (g : Word) : Nat := bits g.toNat 31 16
/-- The fill window. -/
def Handle.avc (h : Handle) : Int := (h.seenp.toNat : Int) - h.ccur.toNat
/-- The free window. -/
def Handle.avp (h : Handle) : Int := (geoSlots h.geo : Int) - ((h.pcur.toNat : Int) - h.seenc.toNat)

/-- The storage address of an access in mode RING; none is RINGERR (R215). -/
def ringAddr (o : Option Handle) (load last : Bool) (ea : Word) : Option (Mode × Word) := match o with
  | none => none
  | some h =>
    let j := ea.toNat / geoBytes h.geo
    let win := if load then h.avc else h.avp
    if 2 ^ 63 ≤ ea.toNat || decide (win ≤ (j : Int)) || (last && j ≠ 0) then none
    else
      let cur := if load then h.ccur else h.pcur
      some (geoMode h.geo, h.desc + BitVec.ofNat 64 (64 + (cur.toNat + j) % geoSlots h.geo * geoBytes h.geo +
        ea.toNat % geoBytes h.geo))

/-! ### The plan of each instruction -/

/-- LD and ST: base, index scaled by the width, offset (R205). -/
def State.ldAddr (s : State) (c sl a b : Nat) (w : Width) (mode : Mode) (off : Int) : Word :=
  (if mode = .ring then 0 else s.reg64 c sl a) + s.reg64 c sl b * BitVec.ofNat 64 (widthBytes w) + wordOf off

/-- The plan of a single load or store at a storage address. -/
def single (c : Nat) (space : Mode) (ea : Word) (w : Nat) (op : AccOp) (need : Need) (ring rel copyOk : Bool) : Plan :=
  { space := space, need := need, els := [{ idx := 0, ea := ea, width := w, op := op }], ring := ring, rel := rel,
    dev := scopeDev c space ea, copyOk := copyOk, col0 := bits ea.toNat 28 18 }

/-- The plan of LD (R205, R215, R216). The release of LD.LAST checks the descriptor with the load. -/
def State.planLd (s : State) (c sl a b : Nat) (acq : Bool) (w : Width) (mode : Mode) (off : Int) (last : Bool) : Planned :=
  let ea := s.ldAddr c sl a b w mode off
  let op : AccOp := .load (widthBytes w) acq
  if mode = .ring then
    let h := find (s.thread c sl).handles (a % 16)
    match ringAddr h true last ea with
    | none => .bad .ringerr (BitVec.ofNat 64 (a % 16))
    | some (sp, addr) => .ok (single c sp addr (widthBytes w) op { r := true, w := false } true false (!acq))
  else .ok (single c mode ea (widthBytes w) op { r := true, w := false } false false (!acq))

/-- The plan of ST (R205, R215). -/
def State.planSt (s : State) (c sl d a b : Nat) (rel : Bool) (w : Width) (mode : Mode) (off : Int) : Planned :=
  let ea := s.ldAddr c sl a b w mode off
  let op : AccOp := .store (regBytes (s.reg c sl d) (widthBytes w))
  if mode = .ring then
    match ringAddr (find (s.thread c sl).handles (a % 16)) false false ea with
    | none => .bad .ringerr (BitVec.ofNat 64 (a % 16))
    | some (sp, addr) => .ok (single c sp addr (widthBytes w) op { r := false, w := true } true rel false)
  else .ok (single c mode ea (widthBytes w) op { r := false, w := true } false rel false)

/-- The plan of a run of blocks (R208). -/
def State.planRun (s : State) (c sl d : Nat) (start : Word) (space : Mode) (count : Nat) (load acq rel : Bool) : Plan :=
  { space := space, need := { r := load, w := !load }
    els := (List.range count).map fun j =>
      { idx := j, ea := start + BitVec.ofNat 64 (64 * j), width := 64,
        op := if load then .load 64 acq else .store (regBytes (s.reg c sl (d + j)) 64) }
    run := true, rel := rel, dev := scopeDev c space start, copyOk := load && !acq, col0 := bits start.toNat 28 18 }

/-- The bytes of a block that a mask selects, as parts of one byte each (R309). -/
def maskedParts (mask : Word) (bs : List Byte) : List (Nat × List Byte) :=
  (bs.zipIdx.filter fun p => mask.getLsbD p.2).map fun p => (p.2, [p.1])

/-- The plan of lanes at their own addresses (R309, R313). R311 does not say what the scope of a strided release is where
its elements lie in several clusters or stacks: the first lane's address gives it. DESIGN CHOICE (log 98). -/
def lanesPlan (c : Nat) (space : Mode) (load acq rel : Bool) (wb : Nat) (lanes : List (Nat × Word × List Byte)) : Plan :=
  { space := space, need := { r := load, w := !load }
    els := lanes.map fun l =>
      { idx := l.1, ea := l.2.1, width := wb, op := if load then .load wb acq else .store l.2.2 }
    merge := true, rel := rel, dev := match lanes with
      | l :: _ => scopeDev c space l.2.1
      | [] => false
    copyOk := load && !acq
    col0 := match lanes with
      | l :: _ => bits l.2.1.toNat 28 18
      | [] => 0 }

/-- The lanes of a strided access: address and the bytes to store (R309). -/
def State.stridedLanes (s : State) (c sl d b : Nat) (ea : Word) (w : LaneW) : List (Nat × Word × List Byte) :=
  let n := laneBits w
  (List.range (512 / n)).map fun i =>
    (i, ea + s.reg64 c sl b * BitVec.ofNat 64 i, toBytes (n / 8) (lane (s.reg c sl d) i n))

/-- The active lanes of a gather or scatter (R313). -/
def State.indexedLanes (s : State) (c sl d a b : Nat) (w : LaneW) (m : Nat) : List (Nat × Word × List Byte) :=
  let n := laneBits w
  let mask := (s.thread c sl).mask m
  ((List.range (512 / n)).filter fun i => mask.getLsbD i).map fun i =>
    (i, s.reg64 c sl a + wordOf (sext (lane (s.reg c sl b) i n) n * (n / 8 : Nat)),
     toBytes (n / 8) (lane (s.reg c sl d) i n))

/-- The plan of VLD (R309). -/
def State.planVld (s : State) (c sl d a : Nat) (acq : Bool) (off : Int) (mode : Mode) (stride : Option (Nat × LaneW)) :
    Planned :=
  let ea := s.reg64 c sl a + wordOf off
  if mode = .ring then .bad .ringerr 0 else
  match stride with
  | none => .ok (single c mode ea 64 (.load 64 acq) { r := true, w := false } false false (!acq))
  | some (b, w) => .ok (lanesPlan c mode true acq false (laneBits w / 8) (s.stridedLanes c sl d b ea w))

/-- The plan of VST (R309). -/
def State.planVst (s : State) (c sl d a : Nat) (rel : Bool) (off : Int) (mode : Mode) (form : VstForm) : Planned :=
  let ea := s.reg64 c sl a + wordOf off
  if mode = .ring then .bad .ringerr 0 else
  match form with
  | .block m =>
    let bs := regBytes (s.reg c sl d) 64
    let op : AccOp := if m = 0 then .store bs else .storeSome (maskedParts ((s.thread c sl).mask m) bs)
    .ok (single c mode ea 64 op { r := false, w := true } false rel false)
  | .strided b w => .ok (lanesPlan c mode false false rel (laneBits w / 8) (s.stridedLanes c sl d b ea w))

/-- The plan of an AMO (R351). -/
def State.planAmo (s : State) (c sl op a b z w : Nat) (order : Order) (scope : Scope) (spread : Bool) : Plan :=
  let ea := s.reg64 c sl a
  let y := (s.reg64 c sl b).toNat % 2 ^ (8 * w)
  let p := single c (if spread then .spread else .global) ea w (.amo op w y ((s.reg64 c sl z).toNat % 2 ^ (8 * w)))
    { r := true, w := true } false (order = .rel || order = .acqrel) false
  { p with dev := 4 ≤ scope.code }

/-- The access of a RING operation to its descriptor (R214). -/
def ringPlan (c : Nat) (h : Handle) (off w : Nat) : Plan :=
  single c (geoMode h.geo) (h.desc + BitVec.ofNat 64 off) w (.load w true) { r := true, w := false } true false false

/-- The plan of add_release on a descriptor word (R214). -/
def ringAddPlan (c : Nat) (h : Handle) (off n : Nat) : Plan :=
  single c (geoMode h.geo) (h.desc + BitVec.ofNat 64 off) 8 (.amo 0 8 n 0) { r := true, w := true } true true false

/-- A geometry word that is refused: a reserved bit, a mode above 4, no slots (R211, R214). -/
def geoBad (g : Word) : Bool :=
  bits g.toNat 63 43 != 0 || bits g.toNat 15 0 != 0 || decide (4 < bits g.toNat 42 40) || geoSlots g == 0

/-- The plan of a RING operation that makes an access (R214). RING.INIT checks the descriptor block and the last byte of
the last slot, and reads 16 bytes. -/
def State.planRing (s : State) (c sl : Nat) (i : Instr) : Option Planned :=
  let on := fun (h : Nat) (f : Handle → Planned) => match find (s.thread c sl).handles h with
    | some x => some (f x)
    | none => some (.bad .ringerr (BitVec.ofNat 64 h))
  let err := fun (h : Nat) => Planned.bad .ringerr (BitVec.ofNat 64 h)
  match i with
  | .ringInit a b h =>
    let geo := s.reg64 c sl b
    let desc := s.reg64 c sl a
    if geoBad geo then some (err h)
    else
      let p := ringPlan c { desc := desc, geo := geo } 0 64
      let last := desc + BitVec.ofNat 64 (64 + geoSlots geo * geoBytes geo - 1)
      some (.ok { p with els := [{ idx := 0, ea := desc, width := 64, op := .load 16 true },
                                 { idx := 1, ea := last, width := 1, op := .load 0 false }] })
  | .ringWfill h n => on h fun x => if geoSlots x.geo < n then err h else .ok (ringPlan c x 0 8)
  | .ringWfree h n => on h fun x => if geoSlots x.geo < n then err h else .ok (ringPlan c x 8 8)
  | .ringAcons h n => on h fun x => if x.avc < (n : Int) then err h else .ok (ringAddPlan c x 8 n)
  | .ringAprod h n => on h fun x => if x.avp < (n : Int) then err h else .ok (ringAddPlan c x 0 n)
  | .ringStat _ h => on h fun x => .ok (ringPlan c x 0 16)
  | .ldLast _ h _ _ _ _ => on h fun x => .ok (ringAddPlan c x 8 1)
  | _ => none

/-- The plan of a memory instruction, from the registers as they stand. -/
def State.planOf (s : State) (c sl : Nat) (i : Instr) : Option Planned :=
  let w := fun (b : Bool) => if b then 8 else 4
  match i with
  | .ld _ a b acq wd mode off => some (s.planLd c sl a b acq wd mode off false)
  | .ldLast d h b acq wd off =>
    if (s.thread c sl).result = 1 then s.planRing c sl (.ldLast d h b acq wd off)
    else some (s.planLd c sl h b acq wd .ring off true)
  | .st d a b rel wd mode off => some (s.planSt c sl d a b rel wd mode off)
  | .ldm d a n mode off => some (.ok (s.planRun c sl d (s.reg64 c sl a + wordOf (64 * off)) mode n true false false))
  | .stm d a n mode off => some (.ok (s.planRun c sl d (s.reg64 c sl a + wordOf (64 * off)) mode n false false false))
  | .sld d a sp acq off n => some (.ok (s.planRun c sl d (s.reg64 c sl a + wordOf off) (spaceMode sp) n true acq false))
  | .sst d a sp rel off n => some (.ok (s.planRun c sl d (s.reg64 c sl a + wordOf off) (spaceMode sp) n false false rel))
  | .vld d a acq off mode st => some (s.planVld c sl d a acq off mode st)
  | .vst d a rel off mode form => some (s.planVst c sl d a rel off mode form)
  | .vgsGather d a b lw mode m =>
    some (.ok (lanesPlan c mode true false false (laneBits lw / 8) (s.indexedLanes c sl d a b lw m)))
  | .vgsScatter d a b lw mode m =>
    some (.ok (lanesPlan c mode false false false (laneBits lw / 8) (s.indexedLanes c sl d a b lw m)))
  | .amoAdd _ a b w64 o sc sp => some (.ok (s.planAmo c sl 0 a b 0 (w w64) o sc sp))
  | .amoAnd _ a b w64 o sc sp => some (.ok (s.planAmo c sl 1 a b 0 (w w64) o sc sp))
  | .amoOr _ a b w64 o sc sp => some (.ok (s.planAmo c sl 2 a b 0 (w w64) o sc sp))
  | .amoXor _ a b w64 o sc sp => some (.ok (s.planAmo c sl 3 a b 0 (w w64) o sc sp))
  | .amoMin _ a b w64 o sc sp => some (.ok (s.planAmo c sl 4 a b 0 (w w64) o sc sp))
  | .amoMax _ a b w64 o sc sp => some (.ok (s.planAmo c sl 5 a b 0 (w w64) o sc sp))
  | .amoMinn _ a b w64 o sc sp => some (.ok (s.planAmo c sl 6 a b 0 (w w64) o sc sp))
  | .amoMaxn _ a b w64 o sc sp => some (.ok (s.planAmo c sl 7 a b 0 (w w64) o sc sp))
  | .amoSwap _ a b w64 o sc sp => some (.ok (s.planAmo c sl 8 a b 0 (w w64) o sc sp))
  | .amoCas _ a b z w64 o sc sp => some (.ok (s.planAmo c sl 9 a b z (w w64) o sc sp))
  | .amoFadd32 _ a b o sc sp => some (.ok (s.planAmo c sl 10 a b 0 4 o sc sp))
  | .amoFadd64 _ a b o sc sp => some (.ok (s.planAmo c sl 11 a b 0 8 o sc sp))
  | i => s.planRing c sl i

/-! ### Template windows (R115, R116) -/

/-- The window of the crown a tiller comes from: column, first offset, blocks. -/
def State.window (s : State) (c : Nat) (th : Thread) : Option (Nat × Nat × Nat) := match th.tiller with
  | none => none
  | some t => match (s.core c).crowns.find? fun p => p.2.handle = t.handle with
    | some (_, k) => match k.image with
      | some img =>
        if img.tplsize = 0 then none
        else some (bits img.tplbase.toNat 28 18, bits img.tplbase.toNat 17 0, img.tplsize.toNat)
      | none => none
    | none => none

/-- A LOCAL address lies in a tiller's window. -/
def State.inWindow (s : State) (c : Nat) (th : Thread) (ea : Nat) : Bool := match s.window c th with
  | some (col, off, n) => decide (bits ea 28 18 = col) && decide (off ≤ bits ea 17 0) && decide (bits ea 17 0 < off + 64 * n) &&
      decide (ea < 2 ^ 29)
  | none => false

/-- The shadow of a block of the window, if the tiller has one. -/
def shadowOf (th : Thread) (ea : Nat) : Option (List Byte) := match th.tiller with
  | some t => find t.shadows (bits ea 17 0 / 64 * 64)
  | none => none

/-- Read the frozen block of a window whole (R116): its bytes, and whether they are bad. -/
def State.readFrozen (s : State) (a : Access) : State × List Byte × Bool :=
  let (s, r) := s.performColumn { a with va := a.va / 64 * 64, off := 0, op := .load 64 false
                                         agent := if a.op.writes then .fetch (a.va / 2 ^ 18) else a.agent }
  (s, r.bytes, r.poison)

/-- Perform a LOCAL access of a thread: a tiller's store to its window goes to its shadow, which begins as a copy of the
frozen block; its load reads the shadow where there is one (R116). -/
def State.localNow (s : State) (c sl : Nat) (a : Access) : State × AccResult :=
  let th := s.thread c sl
  if s.inWindow c th a.va then
    match th.tiller with
    | none => s.performColumn a
    | some t =>
      let off := bits a.va 17 0 / 64 * 64
      let (s, old, bad) := match shadowOf th a.va with
        | some bs => (s, bs, t.shadowBad.contains off)
        | none => s.readFrozen a
      let (new, out) := applyOp a.op (a.va % 64) old
      match new with
      | some bs =>
        let bad := bad && !(coversBlock a.op)
        let t := { t with shadows := assign t.shadows off bs
                          shadowBad := if bad then off :: t.shadowBad.filter (· != off) else t.shadowBad.filter (· != off) }
        (s.setThread c sl { th with tiller := some t }, {})
      | none => (s, { bytes := out, poison := bad, store := 4, unit := columnOf c, pa := a.va })
  else s.performColumn a

/-- The shadow blocks that stores would add. -/
def State.newShadows (s : State) (c : Nat) (th : Thread) (l : List Access) : Nat :=
  (((l.filter fun a => a.space = .loc && a.op.writes && s.inWindow c th a.va && (shadowOf th a.va).isNone).map fun a =>
    a.va / 64).eraseDups).length

/-! ### Checks (R195, R208, R218) -/

/-- A thread that may not move to another column (R218). -/
def State.bound (s : State) (c sl : Nat) : Bool :=
  let th := s.thread c sl
  decide (16 < th.limit) || th.tiller.isSome || decide (sl = 15) || s.paired c sl

/-- The checks of one element: those of R195, in LOCAL mode the column rule and then NOMIGRATE. -/
def State.checkElem (s : State) (c sl : Nat) (p : Plan) (e : Elem) : Checked :=
  let th := s.thread c sl
  let win := p.space = .loc && s.inWindow c th e.ea.toNat
  match s.check (s.who c sl) p.space e.ea e.width (if win then { r := p.need.r, w := false } else p.need) with
  | .good a =>
    let a := { a with op := e.op, idx := e.idx, copyOk := p.copyOk
                      whole := match e.op with
                        | .storeSome _ => true
                        | _ => false }
    if p.space = .loc && !p.ring && decide (bits e.ea.toNat 28 18 ≠ p.col0) then .bad .range e.ea
    else if p.space = .loc && !p.ring && decide (p.col0 ≠ columnOf c) && !win && s.bound c sl then .bad .nomigrate e.ea
    else .good a
  | r => r

/-- What the check loop gives: the accesses that passed, the element at which it stopped, or an address whose
translation is still to be walked. -/
structure Scan where
  goods : List Access := []
  stop : Option (Nat × Cause × Word) := none
  walk : Option Nat := none
deriving DecidableEq, Repr

/-- The check loop, in ascending order (R208, R309). -/
def State.scan (s : State) (c sl : Nat) (p : Plan) (els : List Elem) : Scan := match els with
  | [] => {}
  | e :: r => match s.checkElem c sl p e with
    | .good a =>
      let x := s.scan c sl p r
      { x with goods := a :: x.goods }
    | .bad k addr => { stop := some (e.idx, k, addr) }
    | .walk va => { walk := some va }

/-- The bytes a load returns. -/
def loadWidth (op : AccOp) : Nat := match op with
  | .load n _ => n
  | _ => 0

/-- The elements an access carries. -/
def Access.carried (a : Access) : List (Nat × Nat × Nat) :=
  if a.members.isEmpty then [(a.idx, a.va % 64, loadWidth a.op)] else a.members

/-- What came back for an access, given to each element that it carries: the element's own bytes (R310). -/
def shared (got : List (Nat × AccResult)) (a : Access) (r : AccResult) : List (Nat × AccResult) :=
  if a.members.isEmpty then assign got a.idx r
  else a.members.foldl (fun g m => assign g m.1 { r with bytes := slice r.bytes (m.2.1 - a.va % 64) m.2.2 }) got

/-- Put an element's access to a block into the access that already goes there (R310). -/
def joinAccess (g a : Access) : Access :=
  let rg := g.va % 64
  let ra := a.va % 64
  let g := { g with members := g.carried ++ a.carried }
  match g.op, a.op with
  | .load n o, .load m _ =>
    let lo := min rg ra
    { g with va := g.va - rg + lo, pa := g.pa - rg + lo, off := g.off - rg + lo, op := .load (max (rg + n) (ra + m) - lo) o }
  | .store bs, .store cs =>
    { g with va := g.va - rg, pa := g.pa - rg, off := g.off - rg, op := .storeSome [(rg, bs), (ra, cs)] }
  | .storeSome ps, .store cs => { g with op := .storeSome (ps ++ [(ra, cs)]) }
  | _, _ => g

/-- The block that an access goes to. Address bits [59:56] are ignored where the page does not check tags (R200). -/
def Access.block (a : Access) : Nat := (if a.space = .global && !a.tagchk then a.va % 2 ^ 48 else a.va) / 64

/-- The accesses of a plan, one for each distinct block where elements are merged. DESIGN CHOICE (log 90): on a page that checks
tags, elements with different tags in one block go as different accesses, each checked with its own. -/
def blocksOf (merge : Bool) (l : List Access) : List Access :=
  if merge then
    l.foldl (fun gs a =>
      if gs.any fun g => g.block = a.block then gs.map fun g => if g.block = a.block then joinAccess g a else g
      else gs ++ [a]) []
  else l

/-! ### Moving to another column (R218 to R221) -/

/-- Take a thread's registration out of every watch table (R355: DISARMED). -/
def State.unwatch (s : State) (c sl : Nat) : State :=
  { s with cores := s.cores.map fun p =>
      (p.1, { p.2 with watch := p.2.watch.filter fun w => !(w.core == c && w.slot == sl) }) }

/-- Cancel every registration of a thread but one (R355). -/
def State.unwatchBut (s : State) (c sl reg : Nat) : State :=
  { s with cores := s.cores.map fun p =>
      (p.1, { p.2 with watch := p.2.watch.filter fun w => !(w.core == c && w.slot == sl) || w.reg == reg }) }

/-- A packed thread (R219). -/
def State.pack (s : State) (c sl col : Nat) : Migrant :=
  let th := s.thread c sl
  { th := { th with monitor := .disarmed, monBefore := none, records := [], heldWait := none, wo := false, seen := [], hold := .ready, pend := none
                    holding := none, xl := [], result := 0, engine := [], line := none, lineFault := none
                    issueAt := s.cyc c + 48 }
    regs := (List.range (th.limit - 1)).map fun i => (i + 1, s.reg c sl (i + 1))
    col := col, fromCore := c, fromSlot := sl }

/-- Send the thread to a column, once every earlier access and request of it is done. To another stack it goes only when the
invalidations on their way there have been applied that were sent before it came to the instruction: its reads there return no write
older than one it has read (15_ordering R371, R372, R382). -/
def State.move (s : State) (c sl col : Nat) (i : Instr) : State :=
  let th := s.thread c sl
  let st := stackOf (col / 8)
  if 0 < th.posted || 0 < th.invals || !th.engine.isEmpty ||
      (decide (st ≠ stackOf (clusterOf c)) && s.invsBefore th (some st)) then s.stay c sl none
  else
    let m := s.pack c sl col
    let s := (s.unwatch c sl).onThread c sl fun th =>
      { th with hold := .migrating col, monitor := .disarmed, pend := some { instr := i, left := 1 }, xl := [] }
    s.coreToCore c (2 * col) 3 (th.limit + 2) (.migrant m)

/-! ### What a completed instruction writes -/

/-- A value of a width as LD writes it (R205). -/
def loadValue (w : Width) (bs : List Byte) : Word :=
  if widthSigned w then wordOf (sext (ofBytes bs) (8 * widthBytes w)) else BitVec.ofNat 64 (ofBytes bs)

/-- Write a loaded value. -/
def State.putLoad (s : State) (c sl d : Nat) (w : Width) (bs : List Byte) : State := match w with
  | .b512 => s.setReg c sl d (BitVec.ofNat 512 (ofBytes bs))
  | _ => s.put c sl d (loadValue w bs)

/-- Write lanes into a register, the others kept (R292). -/
def State.putLanes (s : State) (c sl d n : Nat) (p : Plan) (got : List (Nat × AccResult)) : State :=
  let old := s.reg c sl d
  s.setReg c sl d (ofLanes n ((List.range (512 / n)).map fun i => match p.els.find? fun e => e.idx = i with
    | some e => ofBytes (look got e.idx {}).bytes
    | none => lane old i n))

/-- The register writes of an instruction, for the elements below a number (R205, R208, R309, R313, R351). -/
def State.writeBack (s : State) (c sl : Nat) (i : Instr) (p : Plan) (got : List (Nat × AccResult)) (below : Nat) : State :=
  let first := (look got 0 {}).bytes
  let run := fun d => (got.filter fun x => decide (x.1 < below)).foldl
    (fun s x => State.setReg s c sl (d + x.1) (BitVec.ofNat 512 (ofBytes x.2.bytes))) s
  match i with
  | .ld d _ _ _ w _ _ => s.putLoad c sl d w first
  | .ldLast d _ _ _ w _ => if (s.thread c sl).result = 1 then s else s.putLoad c sl d w first
  | .ldm d .. => run d
  | .sld d .. => run d
  | .vld d _ _ _ _ none => s.setReg c sl d (BitVec.ofNat 512 (ofBytes first))
  | .vld d _ _ _ _ (some (_, w)) => s.putLanes c sl d (laneBits w) p got
  | .vgsGather d _ _ w _ _ => s.putLanes c sl d (laneBits w) p got
  | .amoAdd d .. | .amoAnd d .. | .amoOr d .. | .amoXor d .. | .amoMin d .. | .amoMax d .. | .amoMinn d ..
  | .amoMaxn d .. | .amoSwap d .. | .amoCas d .. | .amoFadd32 d .. | .amoFadd64 d .. =>
    s.put c sl d (BitVec.ofNat 64 (ofBytes first))
  | _ => s

/-- The element touches bytes of its block that failed. -/
def Elem.touches (e : Elem) (lo hi : Nat) : Bool :=
  decide (e.ea.toNat % 64 < hi) && decide (lo < e.ea.toNat % 64 + e.width)

/-- What an element found wrong at its storage: a fault, or poison that it consumes (R195). -/
inductive Found where
  | fault (k : Cause)
  | bad (r : AccResult)

/-- What an element's access found in the bytes of the element: a fault of a sector, then poison. -/
def Elem.found (e : Elem) (r : AccResult) : Option Found :=
  let other := match r.also with
    | some (k, lo, hi) => if e.touches lo hi then some (Found.fault k) else none
    | none => none
  match r.fault with
  | some k => if e.touches r.badLo r.badHi then some (.fault k) else other
  | none => match other with
    | some x => some x
    | none => if r.poison && e.touches r.badLo r.badHi then some (.bad r) else none

/-- The lowest element at whose storage something was wrong (R195, R209, R310). -/
def firstFound (p : Plan) (got : List (Nat × AccResult)) : Option (Elem × Found) :=
  p.els.findSome? fun e => (e.found (look got e.idx {})).map fun x => (e, x)

/-- The trap of a run at block f: TPROG counts the blocks done (R208, R209). -/
def State.runTrap (s : State) (c sl f : Nat) (k : Cause) (addr : Word) : State :=
  let s := s.onThread c sl fun th => { th with tprog := BitVec.ofNat 64 f }
  s.enterTrap c sl k (s.thread c sl).instrWord addr true

/-- Park a thread that consumed a bad value: a record of kind 1 (R195, R409, R410). -/
def State.parkPoison (s : State) (c sl : Nat) (ea : Word) (r : AccResult) : State :=
  s.park c sl { kind := 1, cause := Cause.poison.code, pc := (s.thread c sl).pc
                addr := if r.store = 0 then BitVec.ofNat 64 r.pa else ea
                w4 := r.store, w5 := r.unit, w6 := if r.store = 0 then 4 else 2 }

/-- Change a handle of a thread. -/
def State.onHandle (s : State) (c sl h : Nat) (f : Handle → Handle) : State :=
  s.onThread c sl fun th => match find th.handles h with
    | some x => { th with handles := assign th.handles h (f x) }
    | none => th

/-- The waits of WFILL and WFREE are satisfied (R214). -/
def ringReady (th : Thread) (i : Instr) : Bool := match i with
  | .ringWfill h n => match find th.handles h with
    | some x => decide ((n : Int) ≤ x.avc)
    | none => false
  | .ringWfree h n => match find th.handles h with
    | some x => decide ((n : Int) ≤ x.avp)
    | none => false
  | _ => true

/-- What comes last in a cycle (09_homing R230, 19_domains_at_work R400, 14_sync R349): requests at home slices and at barrier
cells. -/
def lateRow (i : Instr) : Bool := match i with
  | .homeSliceAccess | .monitorRegistration | .mcreadLineRequest | .barrierArrival | .barrierInit => true
  | _ => false

/-- A move of the cycle comes after the place of a core's resumed turns: cores take their turns in ascending order (06_wheels R152),
an instruction held since an earlier cycle before the one that issues now (own is the slot whose turn it is); loads of LOCAL runs,
accesses from the network and what comes at homes follow. -/
def Move.after (c own : Nat) (m : Move) : Bool := match m with
  | .turn k sl => decide (clusterOf k = clusterOf c) && (decide (c < k) || decide (k = c) && decide (sl = own))
  | .port col src loads => decide (col / 8 = clusterOf c) && (loads || decide (c ≤ 2 * col + src))
  | .issue _ _ => true
  | .dev i x => lateRow i || decide (i = .multicastSectorSend) ||
      (decide (i = .networkPortAccess) && decide (x.sub = 1) && decide (x.unit / 8 = clusterOf c))

/-- A slot's resumed turn in its core's place in the cycle. -/
def State.takeTurn (s : State) (c sl : Nat) : State :=
  let own := (s.cluster (clusterOf c)).t % 16
  let (a, b) := s.agenda.span fun m => !(m.after c own)
  { s with agenda := a ++ .turn c sl :: b }

/-- Run the held instruction of a thread again within this cycle. -/
def State.resumeNow (s : State) (c sl : Nat) : State :=
  (s.onThread c sl fun th => { th with hold := .walked }).takeTurn c sl

/-- The instruction of a thread goes on by RING_WAIT_REREAD after a number of cycles. -/
def State.rereadIn (s : State) (c sl d : Nat) : State :=
  (s.onThread c sl fun th => { th with hold := .retry }).inCycles (clusterOf c) d .ringWaitReread { unit := c * 16 + sl }

/-- A held WFILL or WFREE reads its descriptor again once every 4 turns, counted from the turn on which it was first held
(R217). -/
def State.ringAgain (s : State) (c sl : Nat) : State :=
  let now := s.cyc c
  let start := match (s.thread c sl).holding with
    | some (_, t, _) => t
    | none => now
  s.rereadIn c sl (64 - (now - start) % 64)

/-- What a RING operation does with the answer of its access (R214), and the second half of LD.LAST (R216): a second access, which
begins on the next cycle. -/
def State.ringDone (s : State) (c sl : Nat) (i : Instr) (bs : List Byte) : State :=
  let v := fun (k : Nat) => BitVec.ofNat 64 (ofBytes (slice bs (8 * k) 8))
  match i with
  | .ringInit a b h =>
    let x : Handle := { desc := s.reg64 c sl a, geo := s.reg64 c sl b, ccur := v 0, pcur := v 0, seenp := v 0, seenc := v 1 }
    (s.onThread c sl fun th => { th with handles := assign th.handles h x }).finish c sl
  | .ringWfill h _ =>
    let s := s.onHandle c sl h fun x => { x with seenp := v 0 }
    if ringReady (s.thread c sl) i then s.finish c sl else s.ringAgain c sl
  | .ringWfree h _ =>
    let s := s.onHandle c sl h fun x => { x with seenc := v 0 }
    if ringReady (s.thread c sl) i then s.finish c sl else s.ringAgain c sl
  | .ringAcons h n => (s.onHandle c sl h fun x => { x with ccur := x.ccur + BitVec.ofNat 64 n }).finish c sl
  | .ringAprod h n => (s.onHandle c sl h fun x => { x with pcur := x.pcur + BitVec.ofNat 64 n }).finish c sl
  | .ringStat d h =>
    let s := s.onHandle c sl h fun x => { x with seenp := v 0, seenc := v 1 }
    match find (s.thread c sl).handles h with
    | some x => s.finishPut c sl d ((wordOf (min x.avc (2 ^ 32 - 1)) <<< 32) ||| wordOf (min x.avp (2 ^ 32 - 1)))
    | none => s.finish c sl
  | .ldLast _ h _ _ _ _ =>
    if (s.thread c sl).result = 1 then (s.onHandle c sl h fun x => { x with ccur := x.ccur + 1 }).finish c sl
    else (s.onThread c sl fun th => { th with result := 1, pend := none, xl := [] }).rereadIn c sl 1
  | _ => s.finish c sl

/-- Every access of a memory instruction is answered: what the lowest element found wrong at the storage decides; else the
results are written. -/
def State.completeMem (s : State) (c sl : Nat) (i : Instr) (p : Plan) (q : Pending) : State :=
  match firstFound p q.got with
  | some (e, .fault k) =>
    if p.run then (s.writeBack c sl i p q.got e.idx).runTrap c sl e.idx k e.ea else s.trap c sl k e.ea
  | some (e, .bad r) => s.parkPoison c sl e.ea r
  | none =>
    let s := s.writeBack c sl i p q.got p.els.length
    match q.stop with
    | some (f, k, addr) => s.runTrap c sl f k addr
    | none =>
      (if p.run then s.onThread c sl fun th => { th with tprog := 0 } else s).ringDone c sl i (look q.got 0 {}).bytes

/-! ### Requesting -/

/-- Hold a thread for the answers to a number of accesses; of a run, with the address of its block 0. -/
def State.outstanding (s : State) (c sl : Nat) (i : Instr) (n : Nat) (stop : Option (Nat × Cause × Word))
    (start : Option Word := none) : State :=
  s.onThread c sl fun th => { th with hold := .answer, pend := some { instr := i, left := n, stop := stop, start := start } }

/-- Hold a thread until a translation is answered (R201). -/
def State.walkFor (s : State) (c sl : Nat) (i : Instr) (va : Nat) : State :=
  (s.onThread c sl fun th => { th with hold := .answer, pend := some { instr := i, left := 0 } }).askWalk
    (.thread c sl) c (s.core c).ptbase va

/-- A LOCAL access is served in the thread's own column: by its store or by the tiller's shadow. -/
def State.near (s : State) (c : Nat) (th : Thread) (a : Access) : Bool :=
  decide (bits a.va 28 18 = columnOf c) || (s.inWindow c th a.va && ((shadowOf th a.va).isSome || a.op.writes))

/-- The first register of a run that loads. -/
def runDest (i : Instr) : Option Nat := match i with
  | .ldm d .. => some d
  | .sld d .. => some d
  | _ => none

/-- A block of a run is in its register as soon as it is answered (06_wheels R143). -/
def State.runBlock (s : State) (c sl : Nat) (i : Instr) (a : Access) (r : AccResult) : State :=
  match runDest i, r.fault, r.poison with
  | some d, none, false => s.setReg c sl (d + a.idx) (BitVec.ofNat 512 (ofBytes r.bytes))
  | _, _, _ => s

/-- Count an answer of the thread's instruction. -/
def State.gotAnswer (s : State) (c sl : Nat) (a : Access) (r : AccResult) (ready : Nat) : State :=
  match (s.thread c sl).pend with
  | some p => (s.runBlock c sl p.instr a r).onThread c sl fun th =>
      { th with pend := some { p with left := p.left - 1, got := shared p.got a r }, issueAt := max th.issueAt ready }
  | none => s

/-- The first cycle from one on that a core's port is free on (R202: one block a cycle). -/
def Column.portFree (x : Column) (src from_ : Nat) : Nat :=
  let taken := fun n => decide (find x.portUsed src = some n) || x.port.any fun p => p.src = src && p.at_ = n
  match (List.range (x.port.length + 2)).find? fun d => !(taken (from_ + d)) with
  | some d => from_ + d
  | none => from_ + x.port.length + 2

/-- The core's port performs a block on this cycle. -/
def State.usePort (s : State) (c : Nat) : State :=
  s.onColumn (columnOf c) fun x => { x with portUsed := assign x.portUsed (c % 2) (s.cyc c) }

/-- Put an access on the core's port for a later cycle (R202, R210). -/
def State.onPort (s : State) (c at_ : Nat) (a : Access) : State :=
  s.onColumn (columnOf c) fun x => { x with port := x.port ++ [{ at_ := at_, src := c % 2, acc := a }] }

/-- A relaxed single GLOBAL store to a page without tag checks is performed later (R206). -/
def isPosted (p : Plan) (a : Access) : Bool :=
  p.space = .global && !p.merge && !p.run && !p.rel && !p.need.r && !a.tagchk

/-- A LOCAL access served in the thread's own column goes through its core's port on the first free cycle from the given one on:
the state, and the cycle after it. -/
def State.throughPort (s : State) (c sl from_ : Nat) (a : Access) : State × Nat :=
  let at_ := (s.column (columnOf c)).portFree (c % 2) from_
  if at_ = s.cyc c then
    let (s, r) := (s.usePort c).localNow c sl a
    (s.gotAnswer c sl a r 0, at_ + 1)
  else (s.onPort c at_ a, at_ + 1)

/-- The core's port is free on this cycle. -/
def State.portFreeNow (s : State) (c : Nat) : Bool := (s.column (columnOf c)).portFree (c % 2) (s.cyc c) == s.cyc c

/-- Request the accesses of a plan that has passed its checks. The core's port performs LOCAL blocks one a cycle, the first on the
cycle of a single access and one more on each cycle after it (R202, R210). DESIGN CHOICE (log 91): where other blocks of the core
have the port on a cycle, a block takes the next free one, and the thread issues again as R210 counts from its last block. -/
def State.issueAccesses (s : State) (c sl : Nat) (i : Instr) (p : Plan) (accs : List Access)
    (stop : Option (Nat × Cause × Word)) : State :=
  let th := s.thread c sl
  let n := accs.length
  let start := if p.run then p.els.head?.map fun e => e.ea else none
  let far := fun (s : State) => (accs.foldl (fun (x : State × Nat) a =>
      if s.near c th a then x.1.throughPort c sl x.2 a else (x.1.requestPort (.thread c sl) a, x.2))
    (s.outstanding c sl i n stop start, s.cyc c))
  match p.space, accs with
  | .loc, [a] =>
    if !(s.near c th a) then (s.outstanding c sl i 1 stop).requestPort (.thread c sl) a
    else if s.portFreeNow c then
      let (s, r) := (s.usePort c).localNow c sl a
      let q : Pending := { instr := i, left := 0, stop := stop, start := start, got := shared [] a r }
      s.completeMem c sl i p q
    else
      let (s, next) := far s
      s.onThread c sl fun th => { th with issueAt := max th.issueAt (next + (if p.need.w then 1 else 2)) }
  | .loc, _ =>
    let (s, next) := far s
    s.onThread c sl fun th => { th with issueAt := max th.issueAt (next + (if p.need.w then 1 else 2)) }
  | .global, [a] =>
    if isPosted p a then
      ((s.onThread c sl fun th => { th with posted := th.posted + 1 }).requestHome c { a with posted := true }).finish c sl
    else (s.outstanding c sl i 1 stop).requestHome c a
  | .global, _ => accs.foldl (fun s a => s.requestHome c a) (s.outstanding c sl i n stop start)
  | _, _ => accs.foldl (fun s a => s.requestBank (clusterOf c) (c % 16) a) (s.outstanding c sl i n stop start)

/-- A memory instruction: the check loop, the move of the thread, the waits of a release, and the accesses. -/
def State.access (s : State) (c sl : Nat) (i : Instr) (p : Plan) : State :=
  let th := s.thread c sl
  let start := if p.run then bits th.tprog.toNat 5 0 else 0
  if p.run && decide (p.els.length ≤ start) then (s.onThread c sl fun th => { th with tprog := 0 }).finish c sl
  else
    let x := s.scan c sl p (p.els.drop start)
    match x.walk with
    | some va => s.walkFor c sl i va
    | none => match x.stop, p.run with
      | some (_, k, addr), false => s.trap c sl k addr
      | _, _ => match x.goods with
        | [] => match x.stop with
          | some (f, k, addr) => s.runTrap c sl f k addr
          | none => if p.rel && s.relWaits th p.dev then s.stay c sl none
            else (s.writeBack c sl i p [] p.els.length).finish c sl
        | g :: _ =>
          if p.space = .loc && !p.ring && decide (p.col0 ≠ columnOf c) && !(s.inWindow c th g.va) then
            s.move c sl p.col0 i
          else if p.rel && s.relWaits th p.dev then s.stay c sl none
          else
            let accs := blocksOf p.merge (x.goods.filter fun a => a.op != .load 0 false)
            match th.tiller with
            | some t =>
              if t.shadowMax < t.shadows.length + s.newShadows c th accs then s.failTiller c sl .shadowfull th.pc
              else s.issueAccesses c sl i p accs x.stop
            | none => s.issueAccesses c sl i p accs x.stop

/-- The meaning of every memory instruction after the checks of R47. -/
def memory (names writes : List Nat) (i : Instr) (s : State) : Host.Outcome State Fault Refusal :=
  guarded s false names writes fun c sl => match s.planOf c sl i with
    | some (.ok p) => s.access c sl i p
    | some (.bad k addr) => s.trap c sl k addr
    | none => s.finish c sl

/-! ### LD, ST, runs, vectors and atomics -/

/-- The base register of LD and ST: in mode RING the field is a handle (R204). -/
def baseReg (m : Mode) (a : Nat) : List Nat := if m = .ring then [] else [a]
/-- Registers d to d + n - 1. -/
def regRun (d n : Nat) : List Nat := (List.range n).map (d + ·)

/-- LD (R205). -/
def execLd (d a b : Nat) (acq : Bool) (w : Width) (mode : Mode) (off : Int) (s : State) : Host.Outcome State Fault Refusal :=
  memory (d :: b :: baseReg mode a) [d] (.ld d a b acq w mode off) s
/-- LD.LAST (R216). -/
def execLdLast (d h b : Nat) (acq : Bool) (w : Width) (off : Int) (s : State) : Host.Outcome State Fault Refusal :=
  memory [d, b] [d] (.ldLast d h b acq w off) s
/-- ST (R205). -/
def execSt (d a b : Nat) (rel : Bool) (w : Width) (mode : Mode) (off : Int) (s : State) : Host.Outcome State Fault Refusal :=
  memory (d :: b :: baseReg mode a) [] (.st d a b rel w mode off) s
/-- LDM (R208). -/
def execLdm (d a count : Nat) (mode : Mode) (off : Int) (s : State) : Host.Outcome State Fault Refusal :=
  memory (a :: regRun d count) (regRun d count) (.ldm d a count mode off) s
/-- STM (R208). -/
def execStm (d a count : Nat) (mode : Mode) (off : Int) (s : State) : Host.Outcome State Fault Refusal :=
  memory (a :: regRun d count) [] (.stm d a count mode off) s
/-- SLD (R208). -/
def execSld (d a : Nat) (space : Space) (acq : Bool) (off : Int) (count : Nat) (s : State) :
    Host.Outcome State Fault Refusal :=
  memory (a :: regRun d count) (regRun d count) (.sld d a space acq off count) s
/-- SST (R208). -/
def execSst (d a : Nat) (space : Space) (rel : Bool) (off : Int) (count : Nat) (s : State) :
    Host.Outcome State Fault Refusal :=
  memory (a :: regRun d count) [] (.sst d a space rel off count) s
/-- VLD (R309). -/
def execVld (d a : Nat) (acq : Bool) (off : Int) (mode : Mode) (stride : Option (Nat × LaneW)) (s : State) :
    Host.Outcome State Fault Refusal :=
  memory (d :: a :: (stride.map fun x => x.1).toList) [d] (.vld d a acq off mode stride) s
/-- VST (R309). -/
def execVst (d a : Nat) (rel : Bool) (off : Int) (mode : Mode) (form : VstForm) (s : State) :
    Host.Outcome State Fault Refusal :=
  memory (d :: a :: (match form with
    | .block _ => []
    | .strided b _ => [b])) [] (.vst d a rel off mode form) s
/-- VGS.GATHER (R313). -/
def execVgsGather (d a b : Nat) (w : LaneW) (mode : Mode) (m : Nat) (s : State) : Host.Outcome State Fault Refusal :=
  memory [d, a, b] [d] (.vgsGather d a b w mode m) s
/-- VGS.SCATTER (R313). -/
def execVgsScatter (d a b : Nat) (w : LaneW) (mode : Mode) (m : Nat) (s : State) : Host.Outcome State Fault Refusal :=
  memory [d, a, b] [] (.vgsScatter d a b w mode m) s
/-- AMO.ADD (R351). -/
def execAmoAdd (d a b : Nat) (w64 : Bool) (order : Order) (scope : Scope) (spread : Bool) (s : State) :
    Host.Outcome State Fault Refusal :=
  memory [d, a, b] [d] (.amoAdd d a b w64 order scope spread) s
/-- AMO.AND (R351). -/
def execAmoAnd (d a b : Nat) (w64 : Bool) (order : Order) (scope : Scope) (spread : Bool) (s : State) :
    Host.Outcome State Fault Refusal :=
  memory [d, a, b] [d] (.amoAnd d a b w64 order scope spread) s
/-- AMO.OR (R351). -/
def execAmoOr (d a b : Nat) (w64 : Bool) (order : Order) (scope : Scope) (spread : Bool) (s : State) :
    Host.Outcome State Fault Refusal :=
  memory [d, a, b] [d] (.amoOr d a b w64 order scope spread) s
/-- AMO.XOR (R351). -/
def execAmoXor (d a b : Nat) (w64 : Bool) (order : Order) (scope : Scope) (spread : Bool) (s : State) :
    Host.Outcome State Fault Refusal :=
  memory [d, a, b] [d] (.amoXor d a b w64 order scope spread) s
/-- AMO.MIN (R351). -/
def execAmoMin (d a b : Nat) (w64 : Bool) (order : Order) (scope : Scope) (spread : Bool) (s : State) :
    Host.Outcome State Fault Refusal :=
  memory [d, a, b] [d] (.amoMin d a b w64 order scope spread) s
/-- AMO.MAX (R351). -/
def execAmoMax (d a b : Nat) (w64 : Bool) (order : Order) (scope : Scope) (spread : Bool) (s : State) :
    Host.Outcome State Fault Refusal :=
  memory [d, a, b] [d] (.amoMax d a b w64 order scope spread) s
/-- AMO.MINN (R351). -/
def execAmoMinn (d a b : Nat) (w64 : Bool) (order : Order) (scope : Scope) (spread : Bool) (s : State) :
    Host.Outcome State Fault Refusal :=
  memory [d, a, b] [d] (.amoMinn d a b w64 order scope spread) s
/-- AMO.MAXN (R351). -/
def execAmoMaxn (d a b : Nat) (w64 : Bool) (order : Order) (scope : Scope) (spread : Bool) (s : State) :
    Host.Outcome State Fault Refusal :=
  memory [d, a, b] [d] (.amoMaxn d a b w64 order scope spread) s
/-- AMO.SWAP (R351). -/
def execAmoSwap (d a b : Nat) (w64 : Bool) (order : Order) (scope : Scope) (spread : Bool) (s : State) :
    Host.Outcome State Fault Refusal :=
  memory [d, a, b] [d] (.amoSwap d a b w64 order scope spread) s
/-- AMO.CAS (R351). -/
def execAmoCas (d a b c : Nat) (w64 : Bool) (order : Order) (scope : Scope) (spread : Bool) (s : State) :
    Host.Outcome State Fault Refusal :=
  memory [d, a, b, c] [d] (.amoCas d a b c w64 order scope spread) s
/-- AMO.FADD32 (R351). -/
def execAmoFadd32 (d a b : Nat) (order : Order) (scope : Scope) (spread : Bool) (s : State) :
    Host.Outcome State Fault Refusal :=
  memory [d, a, b] [d] (.amoFadd32 d a b order scope spread) s
/-- AMO.FADD64 (R351). -/
def execAmoFadd64 (d a b : Nat) (order : Order) (scope : Scope) (spread : Bool) (s : State) :
    Host.Outcome State Fault Refusal :=
  memory [d, a, b] [d] (.amoFadd64 d a b order scope spread) s

/-! ### RING (R213, R214) -/

/-- RING.INIT. -/
def execRingInit (a b h : Nat) (s : State) : Host.Outcome State Fault Refusal :=
  memory [a, b] [] (.ringInit a b h) s
/-- A held WFILL or WFREE counts in the class of MON waits (R361). -/
def ringWait (i : Instr) (s : State) : Host.Outcome State Fault Refusal :=
  guarded s false [] [] fun c sl => match s.planOf c sl i with
    | some (.ok p) =>
      if ringReady (s.thread c sl) i then s.finish c sl
      else (s.onThread c sl fun th => { th with holding := match th.holding with
        | some h => some h
        | none => some (.mon, s.cyc c, false) }).access c sl i p
    | some (.bad k addr) => s.trap c sl k addr
    | none => s.finish c sl
/-- RING.WFILL. -/
def execRingWfill (h n : Nat) (s : State) : Host.Outcome State Fault Refusal := ringWait (.ringWfill h n) s
/-- RING.WFREE. -/
def execRingWfree (h n : Nat) (s : State) : Host.Outcome State Fault Refusal := ringWait (.ringWfree h n) s
/-- RING.ACONS. -/
def execRingAcons (h n : Nat) (s : State) : Host.Outcome State Fault Refusal := memory [] [] (.ringAcons h n) s
/-- RING.APROD. -/
def execRingAprod (h n : Nat) (s : State) : Host.Outcome State Fault Refusal := memory [] [] (.ringAprod h n) s
/-- RING.STAT. -/
def execRingStat (d h : Nat) (s : State) : Host.Outcome State Fault Refusal := memory [d] [d] (.ringStat d h) s

/-- RING_WAIT_REREAD: a held WFILL or WFREE reads its descriptor again (R217), unless its core is being pre-empted: it is then
saved at the instruction (20_traps R416). The second half of LD.LAST begins. -/
def execRingWaitReread (s : State) : Host.Outcome State Fault Refusal :=
  let c := s.subj.unit / 16
  let sl := s.subj.unit % 16
  let th := s.thread c sl
  if th.hold = .retry && decide ((s.slot c sl).st = .run) && (decide ((s.core c).pre = .running) || decide (th.result = 1)) then
    .next (s.resumeNow c sl)
  else .next s

/-! ### MIGR (R222) -/

/-- MIGR.GOTO. -/
def execMigrGoto (a : Nat) (s : State) : Host.Outcome State Fault Refusal :=
  guarded s false [a] [] fun c sl =>
    let col := s.reg64 c sl a
    if 2047 < col.toNat then s.trap c sl .range col
    else if col.toNat = columnOf c then s.finish c sl
    else if !(s.reachable (s.who c sl) (col.toNat / 8)) then s.trap c sl .perm col
    else if s.bound c sl then s.trap c sl .nomigrate col
    else s.move c sl col.toNat (.migrGoto a)

/-- MIGR.HOME. -/
def execMigrHome (d : Nat) (s : State) : Host.Outcome State Fault Refusal :=
  guarded s false [d] [d] fun c sl => s.finishPut c sl d (BitVec.ofNat 64 (columnOf c))

end Sys2Proof.Machine
end

