-- ==== Sys2Proof/Machine/Sync.lean ====
section
/-!
DEFINITION. Barriers, monitors and fences (14_sync), link values (13_matrix R336 to R341), and MEMOP (09_homing R240 to
R242).
-/
namespace Sys2Proof.Machine

open Sys2Proof

/-! ### Barriers (R343 to R349) -/

/-- The barrier number an operand gives. -/
def State.barNum (s : State) (c sl : Nat) (b : BarSel) : Word := match b with
  | .imm n => BitVec.ofNat 64 n
  | .reg r => s.reg64 c sl r

/-- The register an operand names. -/
def barRegs (b : BarSel) : List Nat := match b with
  | .imm _ => []
  | .reg r => [r]

/-- The scope code of a group (R343): the smallest that holds every member. -/
def groupScope (ms : List Nat) : Nat :=
  let same := fun (f : Nat → Nat) => ms.all fun m => f m == f (ms.headD 0)
  if same id then 0 else if same columnOf then 1 else if same clusterOf then 2
  else if same fun m => stackOf (clusterOf m) then 3 else 4

/-- The common checks of BAR: the number, then the membership; the continuation gets number, members and membership. -/
def State.bar (s : State) (c sl : Nat) (b : BarSel) (g : Nat) (f : Nat → List Nat → Nat → State) : State :=
  let bn := s.barNum c sl b
  if 127 < bn.toNat then s.trap c sl .range bn
  else match (s.core c).membOf g, s.members g with
    | some j, some ms => f bn.toNat ms j
    | _, _ => s.trap c sl .perm (BitVec.ofNat 64 g)

/-- A record of the thread for a barrier. -/
def Thread.recordOf (th : Thread) (g bn : Nat) : Option BarRec := th.records.find? fun r => r.group = g && r.bar = bn

/-- With the home in the thread's cluster its answer lets it issue on the second or third turn after the request (R348). -/
def State.homeTurns (s : State) (c sl home : Nat) : State := if clusterOf home = clusterOf c then s.answerTurns c sl else s

/-- Send an arrival to the home, after the release (R346, R347). -/
def State.arriveAt (s : State) (c sl g bn : Nat) (ms : List Nat) (i : Instr) : State :=
  let th := s.thread c sl
  if 4 ≤ th.records.length && (th.recordOf g bn).isNone then s.trap c sl .perm (BitVec.ofNat 64 bn)
  else if s.relWaits th (groupScope ms = 4) then s.stay c sl none
  else ((s.coreToCore c (ms.headD 0) 4 1 (.barArrive g bn (ms.headD 0) c sl)).await c sl i (some .bar)).homeTurns c sl (ms.headD 0)

/-- The mirror of a barrier for a membership. -/
def Core.mirror (k : Core) (j bn : Nat) : Nat := look k.mirrors (128 * j + bn) 0

/-- The mirror as a WAIT held since an earlier cycle sees it on cycle t: a notice counts from the next cycle on (R348). -/
def Core.mirrorHeld (k : Core) (t j bn : Nat) : Nat :=
  if k.mirrorAt = t then look k.mirrorWas (128 * j + bn) (k.mirror j bn) else k.mirror j bn

/-- A notice writes a mirror on cycle t. -/
def Core.setMirror (k : Core) (t j bn ph : Nat) : Core :=
  { k with mirrors := assign k.mirrors (128 * j + bn) ph, mirrorAt := t
           mirrorWas := assign (if k.mirrorAt = t then k.mirrorWas else []) (128 * j + bn) (k.mirrorHeld t j bn) }

/-- The phase that the thread awaits at a barrier: that of its held-wait word for it, of its record for it, or none yet. -/
def Thread.awaited (th : Thread) (g bn : Nat) : Option Nat := match th.heldWait with
  | some r => if r.group = g && r.bar = bn then some r.phase else (th.recordOf g bn).map fun r => r.phase
  | none => (th.recordOf g bn).map fun r => r.phase

/-- The wait part (R346): the awaited phase is that of the held-wait word, the record, or the mirror. -/
def State.waitAt (s : State) (c sl g bn j : Nat) : State :=
  let th := s.thread c sl
  let m := if th.hold = .again then (s.core c).mirrorHeld (s.cyc c) j bn else (s.core c).mirror j bn
  let ph := (th.awaited g bn).getD m
  let s := s.setThread c sl { th with records := th.records.filter fun r => !(r.group == g && r.bar == bn) }
  if m ≠ ph then (s.onThread c sl fun th => { th with heldWait := none, wo := false }).finish c sl
  else (s.onThread c sl fun th => { th with heldWait := some { group := g, bar := bn, phase := ph } }).stay c sl (some .bar)

/-- BAR.INIT. -/
def execBarInit (a : Nat) (bar : BarSel) (group : Nat) (s : State) : Host.Outcome State Fault Refusal :=
  guarded s false (a :: barRegs bar) [] fun c sl => s.bar c sl bar group fun bn ms _ =>
    let e := s.reg64 c sl a
    if e = 0 || 65535 < e.toNat then s.trap c sl .range e
    else ((s.coreToCore c (ms.headD 0) 4 1 (.barInit group bn (ms.headD 0) e.toNat c sl)).await c sl (.barInit a bar group)
      (some .bar)).homeTurns c sl (ms.headD 0)
/-- BAR.ARRIVE. -/
def execBarArrive (bar : BarSel) (group : Nat) (s : State) : Host.Outcome State Fault Refusal :=
  guarded s false (barRegs bar) [] fun c sl => s.bar c sl bar group fun bn ms _ =>
    s.arriveAt c sl group bn ms (.barArrive bar group)
/-- BAR.WAIT. -/
def execBarWait (bar : BarSel) (group : Nat) (s : State) : Host.Outcome State Fault Refusal :=
  guarded s false (barRegs bar) [] fun c sl => s.bar c sl bar group fun bn _ j => s.waitAt c sl group bn j
/-- BAR.SYNC: the wait part alone once its arrival has been answered (R414). -/
def execBarSync (bar : BarSel) (group : Nat) (s : State) : Host.Outcome State Fault Refusal :=
  guarded s false (barRegs bar) [] fun c sl => s.bar c sl bar group fun bn ms j =>
    if (s.thread c sl).wo then s.waitAt c sl group bn j else s.arriveAt c sl group bn ms (.barSync bar group)

/-- The home's answer at the thread of an ARRIVE, INIT or SYNC (R346), which issues on its first turn after it. SYNC goes on to its
wait part on that turn, with the phase of its arrival in the held-wait word (20_traps R416). -/
def State.barAnswered (s : State) (c sl : Nat) (a : Ans) : State :=
  let th := s.thread c sl
  let others : Nat → Nat → List BarRec := fun g bn => th.records.filter fun r => !(r.group == g && r.bar == bn)
  (match th.waits, a with
    | some _, .trap k addr => s.trap c sl k addr
    | some (.barArrive b g), .value ph =>
      let bn := (s.barNum c sl b).toNat
      (s.onThread c sl fun th => { th with records := others g bn ++ [BarRec.mk g bn ph.toNat] }).finish c sl
    | some (.barSync b g), .value ph =>
      let bn := (s.barNum c sl b).toNat
      s.onThread c sl fun th =>
        { th with records := others g bn, heldWait := some { group := g, bar := bn, phase := ph.toNat }, wo := true
                  pend := none, holding := none, hold := .again }
    | some _, _ => s.finish c sl
    | none, _ => s).after c sl

/-- Send the phase of a cell to every member's mirror (R343). -/
def State.sendPhase (s : State) (home g bn ph : Nat) : State :=
  ((s.members g).getD []).foldl (fun s m => s.coreToCore home m 4 1 (.phase m g bn ph)) s

/-- A barrier cell of a core. -/
def Core.cell (k : Core) (b : Nat) : Cell := look k.cells b {}

/-- The cell, source core and slot of an arrival or INIT. -/
def Content.toCell (c : Content) : Option (Nat × Nat × Nat × Nat) := match c with
  | .barArrive _ bn home rc rs => some (home, bn, rc, rs)
  | .barInit _ bn home _ rc rs => some (home, bn, rc, rs)
  | _ => none

/-- Another arrival or INIT of this cycle is applied to the cell first: one that came earlier, or from a lower source core, or a
lower slot of it (R349). A move that waited since an earlier cycle has that cycle in val. -/
def State.rival (s : State) (home bn at_ rc rs : Nat) : Bool := s.agenda.any fun m => match m with
  | .dev i x => match (find s.items x.item).bind Content.toCell with
    | some (h, b, c, sl) =>
      let t := if x.val = 0 then s.cyc home else x.val.toNat - 1
      (i = .barrierArrival || i = .barrierInit) && decide (h = home) && decide (b = bn) &&
        (decide (t < at_) || (decide (t = at_) && (decide (c < rc) || (decide (c = rc) && decide (sl < rs)))))
    | none => false
  | _ => false

/-- Apply an arrival or an INIT to its cell, one per cycle; one whose turn has not come is applied later (R349). A core that does
not run spills it (R417). -/
def State.cellTurn (s : State) (row : Instr) (f : State → Content → State) : State := match find s.items s.subj.item with
  | some x => match x.toCell with
    | none => s
    | some (home, bn, rc, rs) =>
      let t := s.cyc home
      let at_ := if s.subj.val = 0 then t else s.subj.val.toNat - 1
      let y := (s.core home).cell bn
      if t < y.nextAt || s.rival home bn at_ rc rs then
        s.inCycles (clusterOf home) 1 row { s.subj with val := BitVec.ofNat 64 (at_ + 1) }
      else
        let s := (s.takeItem s.subj.item).2
        match s.spilled home x with
        | some s => s
        | none => f (s.onCore home fun k => { k with cells := assign k.cells bn { y with nextAt := t + 1 } }) x
  | none => s

/-- An arrival is counted at its home (R346). -/
def State.applyArrive (s : State) (x : Content) : State := match x with
  | .barArrive g bn home rc rs =>
    let x := (s.core home).cell bn
    if x.group ≠ some g then s.coreToCore home rc 1 1 (.barAns rc rs (.trap .perm (BitVec.ofNat 64 bn)))
    else
      let full := x.count + 1 = x.expected
      let y := if full then { x with count := 0, phase := (x.phase + 1) % 65536 } else { x with count := x.count + 1 }
      let s := s.onCore home fun k => { k with cells := assign k.cells bn y }
      (if full then s.sendPhase home g bn y.phase else s).coreToCore home rc 1 1 (.barAns rc rs (.value (BitVec.ofNat 64 x.phase)))
  | _ => s

/-- A cell is bound to a group at its home, its phase kept (R346). -/
def State.applyInit (s : State) (x : Content) : State := match x with
  | .barInit g bn home e rc rs =>
    let x := (s.core home).cell bn
    if x.count ≠ 0 then s.coreToCore home rc 1 1 (.barAns rc rs (.trap .perm (BitVec.ofNat 64 bn)))
    else
      let s := s.onCore home fun k => { k with cells := assign k.cells bn { x with group := some g, expected := e } }
      (s.sendPhase home g bn x.phase).coreToCore home rc 1 1 (.barAns rc rs .done)
  | _ => s

/-- BARRIER_ARRIVAL: an arrival reaches its home. -/
def execBarrierArrival (s : State) : Host.Outcome State Fault Refusal := .next (s.cellTurn .barrierArrival State.applyArrive)

/-- BARRIER_INIT: an INIT reaches its home. -/
def execBarrierInit (s : State) : Host.Outcome State Fault Refusal := .next (s.cellTurn .barrierInit State.applyInit)

/-- PHASE_NOTICE: a phase reaches a member's mirror (R343). -/
def execPhaseNotice (s : State) : Host.Outcome State Fault Refusal :=
  match s.takeItem s.subj.item with
  | (some (.phase c g bn ph), s) =>
    match s.spilled c (.phase c g bn ph) with
    | some s => .next s
    | none => match (s.core c).membOf g with
      | some j => .next (s.onCore c fun k => k.setMirror (s.cyc c) j bn ph)
      | none => .next s
  | (_, s) => .next s

/-! ### Monitors (R354 to R356) -/

/-- An access of MON or MEMOP to the home of a GLOBAL address, after the layout and the translation (R241, R354). -/
def State.homeOp (s : State) (c sl : Nat) (ea : Word) (need : Need) (op : AccOp) (i : Instr) (bad : Cause → State) : State :=
  match s.check (s.who c sl) .global ea 1 need with
  | .bad k _ => bad k
  | .walk va => s.walkFor c sl i va
  | .good a => (s.outstanding c sl i 1 none).requestHome c { a with op := op, tagchk := false }

/-- A monitor is ARMED by a registration. -/
def Monitor.registered (m : Monitor) (reg : Nat) : Bool := match m with
  | .armed _ r => r == reg
  | _ => false

/-- MON.ARM: the line is registered at its home. An earlier registration is cancelled when the home has acknowledged: until then
the ARM can still fault, and has no effect if it does. -/
def execMonArm (a : Nat) (s : State) : Host.Outcome State Fault Refusal :=
  guarded s false [a] [] fun c sl =>
    let ea := s.reg64 c sl a
    match s.check (s.who c sl) .global ea 1 { r := true, w := false } with
    | .bad k addr => s.trap c sl k addr
    | .walk va => s.walkFor c sl (.monArm a) va
    | .good x =>
      let reg := s.nextId
      let x := { x with op := .watch, tagchk := false, row := reg }
      let s := ({ s with nextId := reg + 1 }).onThread c sl fun th =>
        { th with monitor := .armed (x.pa / 192) reg, monBefore := some th.monitor
                  monAt := (reg, x) :: th.monAt.filter fun p => th.monitor.registered p.1 }
      (s.outstanding c sl (.monArm a) 1 none).requestHome c x

/-- MON.WAIT: the cause of a fired monitor, LOST when disarmed, held while armed (R355). -/
def execMonWait (d : Nat) (s : State) : Host.Outcome State Fault Refusal :=
  guarded s false [d] [d] fun c sl => match (s.thread c sl).monitor with
    | .armed .. => s.stay c sl (some .mon)
    | .fired x _ => (s.onThread c sl fun th => { th with monitor := .disarmed }).finishPut c sl d (BitVec.ofNat 64 x)
    | .disarmed => s.finishPut c sl d 2

/-- MON.DISARM. -/
def execMonDisarm (s : State) : Host.Outcome State Fault Refusal :=
  guarded s false [] [] fun c sl =>
    ((s.unwatch c sl).onThread c sl fun th => { th with monitor := .disarmed }).finish c sl

/-- What an event of a registration makes of a monitor: an ARMED one of that registration fires (R355, R356). -/
def Monitor.event (m : Monitor) (reg cause : Nat) : Monitor := match m with
  | .armed l r => if r = reg then .fired cause l else .armed l r
  | m => m

/-- A thread is held at an instruction that it executes again on each turn. -/
def Thread.heldAt (th : Thread) (p : Instr → Bool) : Bool := th.hold = .again && match decodeAt th.lineCopy (headOf th.pc.toNat) with
  | .op i => p i
  | _ => false

/-- MON.WAIT. -/
def isMonWait (i : Instr) : Bool := match i with
  | .monWait _ => true
  | _ => false

/-- A monitor event reaches a thread, which goes on from a MON.WAIT on its first turn after it (R356); a core that does not run drops
it (R355, R417). -/
def State.fireMonitor (s : State) (c sl reg cause : Nat) : State :=
  if (s.core c).pre ≠ .running then s
  else
    let s := s.onThread c sl fun th =>
      { th with monitor := th.monitor.event reg cause, monBefore := th.monBefore.map fun m => m.event reg cause }
    if (s.thread c sl).heldAt isMonWait then s.after c sl else s

/-! ### Fences (R357 to R360) -/

/-- FENCE other than ACQUIRE: held until every earlier access is performed at the scope. -/
def fence (scope : Scope) (s : State) : Host.Outcome State Fault Refusal :=
  guarded s false [] [] fun c sl =>
    if s.relWaits (s.thread c sl) (4 ≤ scope.code) then s.stay c sl none else s.finish c sl

/-- FENCE.FULL: it takes its place when no invalidation is on its way to the thread's own stack, and at device and system scope when
those sent before it have been applied in every stack (15_ordering R383). -/
def execFenceFull (scope : Scope) (s : State) : Host.Outcome State Fault Refusal :=
  guarded s false [] [] fun c sl =>
    let th := s.thread c sl
    if s.relWaits th (4 ≤ scope.code) || s.invsTo (stackOf (clusterOf c)) then s.stay c sl none
    else s.finish c sl
/-- FENCE.RELEASE. -/
def execFenceRelease (scope : Scope) (s : State) : Host.Outcome State Fault Refusal := fence scope s
/-- FENCE.ACQUIRE: 1 turn; loads hold their thread, so every earlier one is done (R358). -/
def execFenceAcquire (_scope : Scope) (s : State) : Host.Outcome State Fault Refusal :=
  guarded s false [] [] fun c sl => s.finish c sl
/-- FENCE.XPATH. -/
def execFenceXpath (scope : Scope) (s : State) : Host.Outcome State Fault Refusal := fence scope s

/-! ### Link values (R336 to R341) -/

/-- A scale that SK.MUL refuses (R339). -/
def badScale (z : Nat) : Bool := bit z 31 || bits z 30 23 == 0 || bits z 30 23 == 0xFF

/-- The product of two scales, or nothing when it is infinite or below 2^-126 (R339). -/
def scaleProduct (x y : Nat) : Option Nat :=
  let p := (specF32.mul .rne x y).1
  if badScale x || badScale y || bits p 30 23 == 0 || bits p 30 23 == 0xFF then none else some p

/-- SK.MUL: the product goes to the keeping copy of the group table, which numbers it and sends it to every member. -/
def execSkMul (d a b group : Nat) (s : State) : Host.Outcome State Fault Refusal :=
  guarded s false [d, a, b] [d] fun c sl =>
    let keeper := (s.cluster (clusterOf c)).keeper
    let x := (s.reg64 c sl a).toNat % 2 ^ 32
    let y := (s.reg64 c sl b).toNat % 2 ^ 32
    if c ≠ keeper then s.trap c sl .perm (BitVec.ofNat 64 keeper)
    else match find s.groups group with
      | none => s.trap c sl .perm (BitVec.ofNat 64 group)
      | some e =>
        if !(s.ownGroup c group) || e.seq = 2 ^ 32 - 1 then s.trap c sl .perm (BitVec.ofNat 64 group)
        else match scaleProduct x y with
          | none => s.trap c sl .badscale (BitVec.ofNat 64 (y * 2 ^ 32 + x))
          | some p =>
            if s.relWaits (s.thread c sl) true then s.stay c sl none
            else
              let at_ := 64 * stackOf (clusterOf (e.members.headD 0)) + 28
              (s.ship (clusterOf c) 8 at_ 13 4 1 (.skReq c sl group (BitVec.ofNat 64 p))).await c sl
                (.skMul d a b group) none

/-- A product reaches the keeping copy (R339): it is numbered, and sent to every member. -/
def State.numberLink (s : State) (kc ks g : Nat) (p : Word) : State := match find s.groups g with
  | some e =>
    if e.seq = 2 ^ 32 - 1 then s.coreToCore kc kc 1 1 (.thrAns kc ks (.trap .perm (BitVec.ofNat 64 g)))
    else
      let v := BitVec.ofNat 64 ((e.seq + 1) * 2 ^ 32 + p.toNat)
      let at_ := 64 * stackOf (clusterOf (e.members.headD 0)) + 28
      let s := { s with groups := assign s.groups g { e with seq := e.seq + 1 } }
      let s := s.onThread kc ks fun th => { th with acks := e.members.length }
      e.members.foldl (fun s m => s.ship at_ 13 (clusterOf m) 8 4 1 (.linkVal m g v kc ks)) s
  | none => s.coreToCore kc kc 1 1 (.thrAns kc ks (.trap .perm (BitVec.ofNat 64 g)))

/-- SK.LINK of a group. -/
def isSkLink (g : Nat) (i : Instr) : Bool := match i with
  | .skLink _ h => decide (h = g)
  | _ => false

/-- Threads held in LINK for a group go on on their first turn after a value arrives (R340). -/
def State.wakeLink (s : State) (c g : Nat) : State :=
  (List.range 16).foldl (fun s sl => if (s.thread c sl).heldAt (isSkLink g) then s.after c sl else s) s

/-- LINK_VALUE_DELIVERY: a value enters a member's link queue; the oldest of a full queue is discarded (R337). -/
def execLinkValueDelivery (s : State) : Host.Outcome State Fault Refusal :=
  match s.takeItem s.subj.item with
  | (some (.linkVal c g v kc ks), s) =>
    match s.spilled c (.linkVal c g v kc ks) with
    | some s => .next s
    | none =>
      let s := match (s.core c).membOf g with
        | some j => (s.onCore c fun k =>
            let q := look k.links j [] ++ [v]
            { k with links := assign k.links j (if 16 < q.length then q.drop 1 else q) }).wakeLink c g
        | none => s
      .next (s.coreToCore c kc 1 1 (.linkAck kc ks v))
  | (_, s) => .next s

/-- A member's acknowledgement at the keeper's thread; the last one completes SK.MUL (R339). -/
def State.linkAcked (s : State) (c sl : Nat) (v : Word) : State :=
  let th := s.thread c sl
  match th.waits with
  | some (.skMul d _ _ _) =>
    if th.acks ≤ 1 then (s.finishPut c sl d v).after c sl else s.onThread c sl fun th => { th with acks := th.acks - 1 }
  | _ => s

/-- SK.LINK: the oldest value the thread has not seen (R340). -/
def execSkLink (d group : Nat) (s : State) : Host.Outcome State Fault Refusal :=
  guarded s false [d] [d] fun c sl => match (s.core c).membOf group with
    | none => s.trap c sl .perm (BitVec.ofNat 64 group)
    | some j => match (look (s.core c).links j []).find? fun v => look (s.thread c sl).seen j 0 < bits v.toNat 63 32 with
      | some v => (s.onThread c sl fun th => { th with seen := assign th.seen j (bits v.toNat 63 32) }).finishPut c sl d v
      | none => s.stay c sl (some .mon)

/-! ### MEMOP (R240 to R242) -/

/-- The virtual address of a MEMOP: bits [47:0], the tag not used (R241). -/
def vaOf (w : Word) : Nat := w.toNat % 2 ^ 48

/-- MEMOP.STAG. -/
def execMemopStag (a b : Nat) (s : State) : Host.Outcome State Fault Refusal :=
  guarded s false [a, b] [] fun c sl =>
    let ea := s.reg64 c sl a
    if !(globalLayout ea.toNat) then s.trap c sl .page ea
    else if vaOf ea % 48 ≠ 0 then s.trap c sl .misalign ea
    else s.homeOp c sl ea { r := false, w := true } (.stag ((s.reg64 c sl b).toNat % 16)) (.memopStag a b)
      fun k => s.trap c sl k ea

/-- MEMOP.LTAG. -/
def execMemopLtag (d a : Nat) (s : State) : Host.Outcome State Fault Refusal :=
  guarded s false [d, a] [d] fun c sl =>
    s.homeOp c sl (s.reg64 c sl a) { r := true, w := false } .ltag (.memopLtag d a) fun k => s.trap c sl k (s.reg64 c sl a)

/-- PIN and UNPIN: the lines from va to va + len - 1, one after the other; th.result counts those done (R241). -/
def State.pinLines (s : State) (c sl a b : Nat) (op : AccOp) (i : Instr) : State :=
  let ea := s.reg64 c sl a
  let len := (s.reg64 c sl b).toNat
  if !(globalLayout ea.toNat) then s.trap c sl .page ea
  else if 2 ^ 24 < len then s.trap c sl .range ea
  else
    let va := vaOf ea
    let line := va / 192 + (s.thread c sl).result.toNat
    if len = 0 || (va + len - 1) / 192 < line then s.finish c sl
    else
      let addr := BitVec.ofNat 64 (192 * line)
      s.homeOp c sl addr { r := true, w := false } op i fun k => s.trap c sl k addr

/-- MEMOP.PIN. -/
def execMemopPin (a b : Nat) (s : State) : Host.Outcome State Fault Refusal :=
  guarded s false [a, b] [] fun c sl => s.pinLines c sl a b .pin (.memopPin a b)
/-- MEMOP.UNPIN. -/
def execMemopUnpin (a b : Nat) (s : State) : Host.Outcome State Fault Refusal :=
  guarded s false [a, b] [] fun c sl => s.pinLines c sl a b .unpin (.memopUnpin a b)
/-- MEMOP.WBL: held until the tier acknowledges the write (R242). -/
def execMemopWbl (a : Nat) (s : State) : Host.Outcome State Fault Refusal :=
  guarded s false [a] [] fun c sl =>
    s.homeOp c sl (s.reg64 c sl a) { r := true, w := false } .wbl (.memopWbl a) fun k => s.trap c sl k (s.reg64 c sl a)
/-- MEMOP.PF: never traps after the address layout; the fill goes on after its turn (R241, R242). -/
def execMemopPf (a : Nat) (s : State) : Host.Outcome State Fault Refusal :=
  guarded s false [a] [] fun c sl =>
    let ea := s.reg64 c sl a
    if !(globalLayout ea.toNat) then s.trap c sl .page ea
    else match s.check (s.who c sl) .global ea 1 { r := true, w := false } with
      | .bad _ _ => s.finish c sl
      | .walk va => s.walkFor c sl (.memopPf a) va
      | .good x => (s.requestHome c { x with op := .pf, tagchk := false, uid := 0 }).finish c sl

/-- Take one registration of a thread away. -/
def State.unregister (s : State) (c sl reg : Nat) : State :=
  { s with cores := s.cores.map fun p =>
      (p.1, { p.2 with watch := p.2.watch.filter fun w => !(w.core == c && w.slot == sl && w.reg == reg) }) }

/-- Cancel the registrations of a thread that its monitor is not armed on (R355). -/
def State.cancelOlder (s : State) (c sl : Nat) : State := match (s.thread c sl).monitor with
  | .armed _ reg => s.unwatchBut c sl reg
  | _ => s.unwatch c sl

/-- The home's answer to a MON.ARM or a MEMOP at its thread. -/
def State.completeHomeOp (s : State) (c sl : Nat) (i : Instr) (r : AccResult) : State :=
  let next := fun (a : Nat) =>
    let line := vaOf (s.reg64 c sl a) / 192 + (s.thread c sl).result.toNat
    match r.fault with
    | some k => s.trap c sl k (BitVec.ofNat 64 (192 * line))
    | none => (s.onThread c sl fun th => { th with result := th.result + 1, pend := none, xl := [] }).resumeNow c sl
  match i with
  | .memopLtag d _ => match r.fault with
    | some k => s.trap c sl k (s.reg64 c sl (match i with
      | .memopLtag _ a => a
      | _ => 0))
    | none => s.finishPut c sl d (BitVec.ofNat 64 (ofBytes r.bytes))
  | .monArm a => match r.fault, (s.thread c sl).monitor with
    | some k, .armed _ reg => (((s.unregister c sl reg).onThread c sl fun th =>
        { th with monitor := th.monBefore.getD .disarmed, monBefore := none })).trap c sl k (s.reg64 c sl a)
    | some k, _ => s.trap c sl k (s.reg64 c sl a)
    | none, _ => ((s.cancelOlder c sl).onThread c sl fun th => { th with monBefore := none }).finish c sl
  | .memopPin a _ => next a
  | .memopUnpin a _ => next a
  | .memopStag a _ | .memopWbl a => match r.fault with
    | some k => s.trap c sl k (s.reg64 c sl a)
    | none => s.finish c sl
  | _ => s.finish c sl

end Sys2Proof.Machine
end

