-- ==== Sys2Proof/Machine/Home.lean ====
section
/-!
DEFINITION. Slices, homing and the tiers (09_homing): a GLOBAL access at its home slice, fills from the tiers with their
tags and check classes, write-back and eviction, stack copies, interleave domains, the registration of monitors, page
walks, line fills of the instruction caches (07_issue R159), and accesses at a column store's network port.
-/
namespace Sys2Proof.Machine

open Sys2Proof

/-! ### Sectors of an access (R224, R225) -/

/-- The byte ranges of a line that an operation at an offset touches: first byte and length. -/
def touchedBytes (op : AccOp) (off : Nat) : List (Nat × Nat) := match op with
  | .load n _ => [(off, n)]
  | .store bs => [(off, bs.length)]
  | .storeSome parts => parts.map fun p => (off + p.1, p.2.length)
  | .amo _ w _ _ => [(off, w)]
  | .stag _ | .ltag => [(off, 1)]
  | .pin | .pf => [(0, 192)]
  | _ => []

/-- A range of bytes meets a sector. -/
def meetsSector (j : Nat) (r : Nat × Nat) : Bool := decide (r.1 < 48 * j + 48) && decide (48 * j < r.1 + r.2)

/-- The sectors that ranges touch. -/
def sectorsOf (rs : List (Nat × Nat)) : List Nat := (List.range 4).filter fun j => rs.any fun r => meetsSector j r

/-- A store covers a whole sector (R225, R238). -/
def coversSector (rs : List (Nat × Nat)) (j : Nat) : Bool :=
  (List.range 48).all fun i => rs.any fun r => decide (r.1 ≤ 48 * j + i) && decide (48 * j + i < r.1 + r.2)

/-- An operation that stores bytes. -/
def isStore (op : AccOp) : Bool := match op with
  | .store _ | .storeSome _ => true
  | _ => false

/-- The sectors an operation needs valid in the slice: those a load or AMO touches, those a store covers in part (R225). -/
def neededSectors (op : AccOp) (off : Nat) : List Nat :=
  let rs := touchedBytes op off
  if isStore op then (sectorsOf rs).filter fun j => !(coversSector rs j) else sectorsOf rs

/-! ### DRAM sectors (R236 to R238) -/

/-- The classes of R237, but for the tag's, which needs an expected tag. -/
inductive SecErr where
  | good | corrected | misdirect | uncorrectable
deriving DecidableEq, Repr

/-- The symbols that a decoding under tag t finds wrong: stored symbols 0 to 25 (24 and 25 are the check symbols), 26 the tag,
27 the sector address (R236). -/
def SectorMeta.syndrome (m : SectorMeta) (t : Nat) : List Nat :=
  (m.flips ++ (if m.inverted then [24, 25] else []) ++ (if m.tag = t then [] else [26]) ++
    (if m.addr.isSome then [27] else [])).eraseDups

/-- The tags under which the syndrome is zero or names a single stored symbol (R236). -/
def SectorMeta.tags (m : SectorMeta) : List Nat :=
  (List.range 16).filter fun t => match m.syndrome t with
    | [] => true
    | [x] => decide (x < 26)
    | _ => false

/-- What decoding a sector gives (R236, R237): the tag must be the only one that qualifies. -/
def SectorMeta.err (m : SectorMeta) : SecErr := match m.tags with
  | [t] => if (m.syndrome t).isEmpty then .good else .corrected
  | _ => if (List.range 16).any fun t => m.syndrome t == [27] then .misdirect else .uncorrectable

/-- The number of a DRAM sector in State.sectors. -/
def sectorKey (tier : Bool) (l j : Nat) : Nat := 2 * (4 * l + j) + (if tier then 1 else 0)

/-- A DRAM sector's tag and check class. -/
def State.sectorAt (s : State) (tier : Bool) (l j : Nat) : SectorMeta := look s.sectors (sectorKey tier l j) {}

/-- The bytes of a DRAM sector. -/
def State.sectorBytes (s : State) (tier : Bool) (l j : Nat) : List Byte := s.tierRead tier (192 * l + 48 * j) 48

/-- Write a sector to its tier: a poisoned one is encoded with both check symbols inverted (R238). -/
def State.writeSector (s : State) (tier : Bool) (l j : Nat) (bs : List Byte) (x : LineSector) : State :=
  let s := s.tierWrite tier (192 * l + 48 * j) bs
  let v : SectorMeta := { tag := x.tag, inverted := x.poison }
  { s with sectors := if v = {} then unset s.sectors (sectorKey tier l j) else assign s.sectors (sectorKey tier l j) v }

/-- Write the dirty sectors of a line to its tier (R225). -/
def State.writeLine (s : State) (x : Line) : State :=
  (x.sectors.zipIdx).foldl (fun s p =>
    if p.1.valid && p.1.dirty then s.writeSector x.tier x.l p.2 (slice x.data (48 * p.2) 48) p.1 else s) s

/-- A line with no dirty sector. -/
def Line.clean (x : Line) : Line := { x with sectors := x.sectors.map fun y => { y with dirty := false } }

/-- A line that holds no sector. -/
def Line.fresh (l : Nat) (tier : Bool) (dom : Option Nat) : Line :=
  { l := l, tier := tier, dom := dom, sectors := List.replicate 4 {}, data := List.replicate 192 0 }

/-! ### The ways of a set (R224, R226) -/

/-- The way keys of a set of a bank. -/
def waysOf (bank set : Nat) : List Nat := (List.range 8).map fun w => bank * 512 + set * 8 + w

/-- The way of a bank's set that holds a line: an orphan is never hit (R231). -/
def Cluster.hitWay (k : Cluster) (bank set l : Nat) (tier : Bool) : Option Nat :=
  (waysOf bank set).find? fun w => match find k.lines w with
    | some x => decide (x.l = l) && (x.tier == tier) && !x.orphan
    | none => false

/-- Of some ways, the one used least recently. -/
def Cluster.oldestWay (k : Cluster) (ws : List Nat) : Option Nat :=
  ws.foldl (fun a w => match a with
    | none => some w
    | some v => match find k.lines v, find k.lines w with
      | some x, some y => if y.used < x.used then some w else some v
      | _, _ => some v) none

/-- The victim of a demand miss (R226): an invalid way, the least recently used that is neither pinned nor an orphan, or
the least recently used orphan; none when every way is pinned. -/
def Cluster.victim (k : Cluster) (bank set : Nat) : Option Nat :=
  let ws := waysOf bank set
  match ws.find? fun w => (find k.lines w).isNone with
  | some w => some w
  | none =>
    let plain := ws.filter fun w => match find k.lines w with
      | some x => !x.pinned && !x.orphan
      | none => false
    match k.oldestWay plain with
    | some w => some w
    | none => k.oldestWay (ws.filter fun w => match find k.lines w with
      | some x => x.orphan
      | none => false)

/-- Bank and set of an access at its home core (R228). -/
def State.homePlace (s : State) (a : Access) : Option (Nat × Nat) :=
  homeBankSet (s.cluster (clusterOf a.homeCore)).bankrole (a.pa / 192) (a.homeCore % 16)

/-- The domain mark of an access's line: none is NAMED. -/
def domainMark (a : Access) : Option Nat := if a.hashed then some (a.home % 8) else none

/-- Count in PINBYPASS or ORPHANS, which hold at 2^32 − 1 (R239). -/
def counted (n : Nat) : Nat := min (n + 1) (2 ^ 32 - 1)

/-- A way's bytes in its bank's array: way w of set t lies in rows 3 * (8 * t + w) on (log 74). -/
def wayAddr (cl w : Nat) : Nat := bankAddr cl (w / 512) 0 + w % 512 * 192

/-- A line leaves its way: the bank's array keeps the bits of its valid sectors (R154). -/
def State.leaveWay (s : State) (cl w : Nat) (x : Line) : State :=
  { s with bankMem := (x.sectors.zipIdx).foldl (fun m p =>
      if p.1.valid then m.writeN (wayAddr cl w + 48 * p.2) (slice x.data (48 * p.2) 48) else m) s.bankMem }

/-- The block of a bank in which block b of a way's line stands. -/
def wayBlock (cl w b : Nat) : Nat := wayAddr cl w / 64 + b

/-- The sectors of a line that a block of it meets. -/
def blockSectors (b : Nat) : List Nat := sectorsOf [(64 * b, 64)]

/-- The errors that have arisen in some blocks of a way. -/
def State.wayErrors (s : State) (cl w : Nat) (bs : List Nat) : List (Nat × Bool) :=
  bs.filterMap fun b => (find s.bankErr (wayBlock cl w b)).map fun e => (b, e)

/-- The ECC of a CACHE bank finds the errors of some blocks of a way as they are read, and the core that has the bank records them
(R155, 20_traps R409): a corrected one of kind 7, an uncorrectable one, where no thread consumes it, of kind 8. The valid sectors that an
uncorrectable one meets are poisoned (R224, R238). DESIGN CHOICE (log 92). -/
def State.readWay (s : State) (cl w : Nat) (x : Line) (bs : List Nat) (pc : Word) (eaten : Bool) : State × Line :=
  (s.wayErrors cl w bs).foldl (fun p e =>
    let s := { p.1 with bankErr := unset p.1.bankErr (wayBlock cl w e.1) }
    let r : ErrRec := { kind := if e.2 then 8 else 7, pc := pc, addr := BitVec.ofNat 64 (192 * x.l + 64 * e.1), w4 := 1
                        w5 := w / 512, w6 := if e.2 then 2 else 1 }
    (if e.2 && eaten then s else s.record (16 * cl + w / 1024) r,
     if e.2 then { p.2 with sectors := (p.2.sectors.zipIdx).map fun y =>
         if (blockSectors e.1).contains y.2 && y.1.valid then { y.1 with poison := true } else y.1 }
       else p.2)) (s, x)

/-- The blocks of a way's line that an access reads: the one that its bytes lie in, unless it writes it whole, and all of them for the
fill of a stack copy. -/
def blocksRead (a : Access) : List Nat :=
  if a.stamp ≠ 0 then [0, 1, 2]
  else match a.op with
    | .load .. | .amo .. | .storeSome _ => [a.pa % 192 / 64]
    | .store bs => if bs.length = 64 then [] else [a.pa % 192 / 64]
    | _ => []

/-- A way is written anew: no error that had arisen in its blocks is left. -/
def State.newWay (s : State) (cl w : Nat) : State :=
  let mine := [0, 1, 2].map (wayBlock cl w)
  { s with bankErr := s.bankErr.filter fun p => !(mine.contains p.1), bankBad := s.bankBad.filter fun b => !(mine.contains b) }

/-- Write a line's dirty sectors back from its way: its blocks are read for it. -/
def State.writeWay (s : State) (cl w : Nat) (x : Line) : State × Line :=
  if x.sectors.any fun y => y.valid && y.dirty then
    let (s, x) := s.readWay cl w x [0, 1, 2] 0 false
    (s.writeLine x, x)
  else (s, x)

/-- Take a way for a line: the victim's dirty sectors are written back (R226). -/
def State.allocate (s : State) (cl w : Nat) (x : Line) : State :=
  let s := match find (s.cluster cl).lines w with
    | some v =>
      let (s, v) := s.writeWay cl w v
      s.leaveWay cl w v
    | none => s
  (s.newWay cl w).onCluster cl fun k => { k with lines := assign k.lines w x }

/-! ### Who learns of a write (R233, R355) -/

/-- Send a monitor event to the thread of a registration. -/
def State.tellMonitor (s : State) (home cause : Nat) (w : Watch) : State :=
  s.coreToCore home w.core 4 1 (.monFire w.core w.slot w.reg cause)

/-- Fire and drop the registrations of a line at its home. -/
def State.fireLine (s : State) (home l : Nat) (tier : Bool) (cause : Nat) : State :=
  let mine := (s.core home).watch.filter fun w => w.line = l && w.tier = tier
  let s := s.onCore home fun k => { k with watch := k.watch.filter fun w => !(w.line == l && w.tier == tier) }
  mine.foldl (fun s w => s.tellMonitor home cause w) s

/-- A stack holds a copy of a line, or has a fill of it under way. -/
def Stack.mayHold (k : Stack) (l : Nat) (tier : Bool) : Bool :=
  (k.copies.any fun x => x.l = l && x.tier = tier) || (k.filling.any fun x => x.l = l && x.tier = tier)

/-- Drop a line's copy in a stack; fills under way have been crossed (R382). -/
def State.dropCopy (s : State) (st l : Nat) (tier : Bool) : State :=
  s.onStack st fun k =>
    { k with copies := k.copies.filter fun x => !(x.l == l && x.tier == tier)
             filling := k.filling.map fun x => if x.l = l && x.tier = tier then { x with crossed := true } else x }

/-- Cycles from the performing to the answer inside a cluster (R142, R235, 17_crosspath_at_work R393): 3 for data and 1 for an
acknowledgement at the home core itself and at the engine, four more on another core. -/
def homeDelay (a : Access) : Nat :=
  (if isStore a.op then 1 else 3) + (match a.agent with
    | .thread c _ => if c = a.homeCore then 0 else 4
    | _ => 0)

/-- Count an invalidation for the agent whose release must wait for it (R233): a thread, an engine request by its number, or
another device's access, whose answer is held for it (15_ordering R384). -/
def State.owes (s : State) (g : Agent) (uid n : Nat) : State := match g with
  | .thread c sl => s.onThread c sl fun th => if th.uid = uid then { th with invals := th.invals + n } else th
  | .engine c => s.onCore c fun k =>
      { k with running := k.running.map fun r => if r.no = uid then { r with invals := r.invals + n } else r }
  | .device .. => match s.devAcks.find? fun x => x.agent = g with
    | some x => { s with devAcks := s.devAcks.map fun y => if y = x then { y with left := y.left + n } else y }
    | none => { s with devAcks := s.devAcks ++ [{ agent := g, left := n }] }
  | _ => s

/-- A content from a home to the agent of an access: inside its cluster after R235's cycles, else as a packet, which another
stack gets R235's extra time later; another device is answered in the stream from the home to the endpoint that asked (R435). -/
def State.homeReply (s : State) (a : Access) (len : Nat) (c : Content) : State :=
  let cl := clusterOf a.homeCore
  let dst := agentCluster a.agent
  match a.agent with
  | .device dev _ _ scl sep => s.toDevice dev cl 9 scl sep 1 len c
  | _ =>
  if cl = dst then s.notify cl (homeDelay a) c
  else s.shipAfter (if farHome dst a then crossTime else 0) cl 9 dst (agentEp a.agent) 1 len c

/-- The answer to an access. -/
def State.tellDone (s : State) (a : Access) (r : AccResult) : State := s.homeReply a r.flits (.accAns a r)

/-- Answer an access at once, or, another device's write, when its invalidations are applied. -/
def State.sayDone (s : State) (a : Access) (r : AccResult) : State :=
  if s.devAcks.any fun x => x.agent = a.agent then
    { s with devAcks := s.devAcks.map fun x => if x.agent = a.agent then { x with ans := some (a, r) } else x }
  else s.tellDone a r

/-- An invalidation has been applied. -/
def State.paid (s : State) (g : Agent) (uid : Nat) : State := match g with
  | .thread c sl => s.onThread c sl fun th => if th.uid = uid then { th with invals := th.invals - 1 } else th
  | .engine c => s.onCore c fun k =>
      { k with running := k.running.map fun r => if r.no = uid then { r with invals := r.invals - 1 } else r }
  | .device .. => match s.devAcks.find? fun x => x.agent = g with
    | some x =>
      if 1 < x.left then { s with devAcks := s.devAcks.map fun y => if y = x then { y with left := y.left - 1 } else y }
      else
        let s := { s with devAcks := s.devAcks.filter (· != x) }
        match x.ans with
        | some (a, r) => s.tellDone a r
        | none => s
    | none => s
  | _ => s

/-- The home sends invalidations to the stacks that hold copies of a line: at once in the writer's own stack (15_ordering
R373), as a packet to the others. -/
def State.invalidateCopies (s : State) (home l : Nat) (tier : Bool) (g : Agent) (uid : Nat) : State :=
  let here := clusterOf home
  (List.range 4).foldl (fun s st =>
    if !((s.stack st).mayHold l tier) then s
    else if st = stackOf (agentCluster g) then s.dropCopy st l tier
    else (s.owes g uid 1).ship here 9 (directoryCluster st l) 10 4 1 (.copyInv st l tier g uid)) s

/-- COPY_INVALIDATION: a directory drops the copy and acknowledges. -/
def execCopyInvalidation (s : State) : Host.Outcome State Fault Refusal :=
  match s.takeItem s.subj.item with
  | (some (.copyInv st l tier g uid), s) =>
    .next ((s.dropCopy st l tier).ship (directoryCluster st l) 10 (agentCluster g) (agentEp g) 1 1 (.copyInvAck g uid))
  | (_, s) => .next s

/-- Multicasts of a line that have read it no longer take joiners (10_engines R260). -/
def State.touchSends (s : State) (home l : Nat) (tier : Bool) : State :=
  s.onCluster (clusterOf home) fun k =>
    { k with mcast := k.mcast.map fun x =>
        if x.home = home && x.reqs.any fun r => r.access.pa / 192 = l && r.access.tier = tier then { x with dirty := true } else x }

/-- The number of an access's line in its home's queues. -/
def lineKey (a : Access) : Nat := 2 * (a.pa / 192) + (if a.tier then 1 else 0)

/-- Everything that follows a write performed at the home. -/
def State.wrote (s : State) (a : Access) : State :=
  let l := a.pa / 192
  let t := (s.cluster (clusterOf a.homeCore)).t
  let s := s.onCore a.homeCore fun k =>
    { k with wroteAt := t, wroteNow := lineKey a :: (if k.wroteAt = t then k.wroteNow else []) }
  ((s.fireLine a.homeCore l a.tier 1).invalidateCopies a.homeCore l a.tier a.agent a.uid).touchSends a.homeCore l a.tier

/-! ### Performing on sectors -/

/-- The part of a 64-byte block that some sectors of its line cover. -/
def badRange (off : Nat) (js : List Nat) : Nat × Nat :=
  let base := off / 64 * 64
  (js.foldl (fun m j => min m (48 * j - base)) 64, js.foldl (fun m j => max m (min 64 (48 * j + 48 - base))) 0)

/-- The bytes of a line that an access's checks cover: those it touches, and for a masked block store the whole block (12_vector
R309). -/
def checkedBytes (a : Access) : List (Nat × Nat) :=
  if a.whole then [(a.pa % 192, 64)] else touchedBytes a.op (a.pa % 192)

/-- The sectors among those checked whose tag is not the expected one (R237). -/
def wrongTags (a : Access) (x : Line) : List Nat :=
  if a.tagchk then (sectorsOf (checkedBytes a)).filter fun j =>
    match x.sectors[j]? with
    | some y => decide (y.tag ≠ a.tag)
    | none => false
  else []

/-- The poisoned sectors among those touched. -/
def poisonedIn (a : Access) (x : Line) : List Nat :=
  (sectorsOf (touchedBytes a.op (a.pa % 192))).filter fun j => match x.sectors[j]? with
    | some y => y.valid && y.poison
    | none => false

/-- A fault of an access in one sector of its line, and, for the block's other sector, a second. -/
def faultIn (a : Access) (j : Nat) (k : Cause) (rest : List (Nat × Cause)) : AccResult :=
  let (lo, hi) := badRange (a.pa % 192) [j]
  { fault := some k, badLo := lo, badHi := hi, unit := if a.tier then 1 else 0, pa := a.pa
    also := rest.head?.map fun p =>
      let (lo, hi) := badRange (a.pa % 192) [p.1]
      (p.2, lo, hi) }

/-- What the sectors of an access give it, once their tags are known: those whose fill fails, and those with another tag, lowest
first (R237, 12_vector R310). -/
def sectorFaults (a : Access) (x : Line) (fs : List (Nat × Cause)) : Option AccResult :=
  let wrong := wrongTags a x
  match (List.range 4).filterMap fun j => match fs.find? fun f => f.1 = j with
    | some f => some (j, f.2)
    | none => if wrong.contains j then some (j, Cause.tagmismatch) else none with
  | [] => none
  | (j, k) :: rest => some (faultIn a j k rest)

/-- Store bytes into a line: the sectors touched become valid and dirty; a sector covered whole loses its poison, and
poisoned data poisons what it touches (R225, R238). -/
def storeLine (a : Access) (x : Line) (data : List Byte) : Line :=
  let rs := touchedBytes a.op (a.pa % 192)
  { x with data := data
           sectors := (x.sectors.zipIdx).map fun p =>
             if (sectorsOf rs).contains p.2 then
               { p.1 with valid := true, dirty := true, poison := a.poison || (p.1.poison && !(coversSector rs p.2)) }
             else p.1 }

/-- What an access does to a line whose needed sectors are valid: the line, the result, and whether it wrote (R225, R237,
R238, R241). -/
def performLine (a : Access) (x : Line) : Line × AccResult × Bool :=
  let off := a.pa % 192
  let bad := poisonedIn a x
  let (lo, hi) := badRange off bad
  let tier := if a.tier then 1 else 0
  match sectorFaults a x [] with
  | some r => (x, r, false)
  | none => match a.op with
    | .load n _ =>
      (x, { bytes := slice x.data off n, poison := !bad.isEmpty, badLo := lo, badHi := hi, unit := tier, pa := a.pa }, false)
    | .amo .. =>
      if !bad.isEmpty then (x, { poison := true, badLo := lo, badHi := hi, unit := tier, pa := a.pa }, false)
      else match applyOp a.op off x.data with
        | (some d, out) => (storeLine a x d, { bytes := out }, true)
        | (none, out) => (x, { bytes := out }, false)
    | .storeSome [] => (x, {}, false)
    | .store _ | .storeSome _ => match applyOp a.op off x.data with
      | (some d, _) => (storeLine a x d, {}, true)
      | (none, _) => (x, {}, false)
    | .stag t =>
      ({ x with sectors := (x.sectors.zipIdx).map fun p =>
          if p.2 = off / 48 then { p.1 with tag := t, dirty := true } else p.1 }, {}, true)
    | .ltag =>
      let v := match x.sectors[off / 48]? with
        | some y => if y.poison then 2 ^ 63 else y.tag
        | none => 0
      (x, { bytes := toBytes 8 v }, false)
    | .pin => ({ x with pinned := true }, {}, false)
    | .unpin => ({ x with pinned := false }, {}, false)
    | _ => (x, {}, false)

/-! ### Answers of the home (R235) -/

/-- What a home sends a directory of a line: its valid sectors that hold no poison (R233). -/
def Line.copy (y : Line) : Option CopyLine :=
  let has := (List.range 4).filter fun j => match y.sectors[j]? with
    | some z => z.valid && !z.poison
    | none => false
  if has.isEmpty then none else some { l := y.l, tier := y.tier, data := y.data, has := has, tags := y.sectors.map fun z => z.tag }

/-- Answer an access from its home. An agent of another stack that was not served for its directory has seen the line as it now is:
the directory's copy goes, so that no later read of the stack returns an older one (15_ordering R372, R382). A load that a
directory waits for carries a copy of the line (R233). -/
def State.homeAnswer (s : State) (a : Access) (r : AccResult) (x : Option Line) : State :=
  let cl := clusterOf a.homeCore
  let st := stackOf (agentCluster a.agent)
  if a.stamp = 0 then
    let s := if farHome (agentCluster a.agent) a then s.dropCopy st (a.pa / 192) a.tier else s
    s.sayDone a r
  else s.shipAfter crossTime cl 9 (directoryCluster st (a.pa / 192)) 10 1 4 (.copyFill st a r (x.bind Line.copy))

/-- STACK_COPY_FILL: a directory takes a line in and hands the load's data on; a fill that an invalidation crossed is
discarded and its load sent to the home again (R382). -/
def execStackCopyFill (s : State) : Host.Outcome State Fault Refusal :=
  match s.takeItem s.subj.item with
  | (some (.copyFill st a r copy), s) =>
    let l := a.pa / 192
    let crossed := (s.stack st).filling.any fun x => x.stamp + 1 = a.stamp && x.crossed
    let s := s.onStack st fun k => { k with filling := k.filling.filter fun x => x.stamp + 1 != a.stamp }
    if crossed && r.fault.isNone then
      let (n, s) := s.draw
      let s := s.onStack st fun k => { k with filling := k.filling ++ [{ stamp := n, l := l, tier := a.tier }] }
      .next (s.ship (directoryCluster st l) 10 (clusterOf a.homeCore) 9 0 1 (.acc { a with stamp := n + 1, filled := false }))
    else
      let s := match copy with
        | none => s
        | some y => s.onStack st fun k => { k with copies := y :: k.copies.filter fun x => !(x.l == l && x.tier == a.tier) }
      .next (s.ship (directoryCluster st l) 10 (agentCluster a.agent) (agentEp a.agent) 1 r.flits (.accAns a r))
  | (_, s) => .next s

/-! ### The tier (R235 to R237) -/

/-- The least time of a miss at the home (R235). -/
def missTime (tier : Bool) : Nat := if tier then 320 else 180
/-- The least time of a write's acknowledgement by the tier (R235). -/
def ackTime (tier : Bool) : Nat := if tier then 270 else 150

/-- What the tier's decoding gives for a sector that a fill needs: its bytes and state, or a fault (R237). tag is the
expected tag of a checked access; an access that may not trap discards its fill on MISDIRECT, except a posted store,
whose sector is filled poisoned. -/
inductive Decoded where
  | good (bs : List Byte) (x : LineSector)
  | fault (k : Cause)

/-- Decode a DRAM sector for an access. Where R236 finds no unique tag, R237 does not say which tag the slice records for a sector
that it fills poisoned: it is the one the sector was last written with. DESIGN CHOICE (log 97). -/
def State.decodeSector (s : State) (a : Access) (j : Nat) : Decoded :=
  let m := s.sectorAt a.tier (a.pa / 192) j
  let bs := s.sectorBytes a.tier (a.pa / 192) j
  let x : LineSector := { valid := true, tag := m.tag }
  match m.err with
  | .uncorrectable => .good bs { x with poison := true, tag := m.tag }
  | .misdirect => if a.posted then .good bs { x with poison := true } else .fault .misdirect
  | .good | .corrected => if a.tagchk && (sectorsOf (touchedBytes a.op (a.pa % 192))).contains j && decide (m.tag ≠ a.tag)
    then .fault .tagmismatch else .good bs x

/-- The records that a tier read leaves at the home core: a corrected or an uncorrectable sector, and a misdirected one
(R237, 20_traps R409). -/
def State.logSector (s : State) (a : Access) (j : Nat) : State :=
  let m := s.sectorAt a.tier (a.pa / 192) j
  let pc := a.pc
  let addr := BitVec.ofNat 64 (192 * (a.pa / 192) + 48 * j)
  let tier := if a.tier then 1 else 0
  match m.err with
  | .good => s
  | .corrected => s.record a.homeCore { kind := 7, pc := pc, addr := addr, w5 := tier, w6 := 1 }
  | .uncorrectable => s.record a.homeCore { kind := 8, pc := pc, addr := addr, w5 := tier, w6 := 2 }
  | .misdirect => s.record a.homeCore
      { kind := 8, cause := Cause.misdirect.code, pc := pc, addr := addr, w5 := tier, w6 := 3,
        w7 := if a.posted then agentCore a.agent else 0 }

/-- Fill sectors of a line from its tier: those already valid stay. The sectors that fault, with the first fault. -/
def State.fillLine (s : State) (a : Access) (x : Line) (js : List Nat) : Line × List (Nat × Cause) :=
  js.foldl (fun p j => match p.1.sectors[j]? with
    | some y => if y.valid then p else match s.decodeSector a j with
      | .good bs z => ({ p.1 with data := splice p.1.data (48 * j) bs, sectors := p.1.sectors.set j z }, p.2)
      | .fault k => (p.1, p.2 ++ [(j, k)])
    | none => p) (x, [])

/-- The sectors that an access touches and that a store writes without a fill keep the allocation tags of their tier: a
store changes no tag (R225, R237). -/
def State.knowTags (s : State) (a : Access) (x : Line) : Line :=
  let js := sectorsOf (checkedBytes a)
  { x with sectors := (x.sectors.zipIdx).map fun p =>
      if js.contains p.2 && !p.1.valid then { p.1 with tag := (s.sectorAt a.tier (a.pa / 192) p.2).tag } else p.1 }

/-- An access served uncached at the tier (R226, R228): it works on the sectors it touches and writes them back at once. -/
def State.performTier (s : State) (a : Access) : State × AccResult :=
  let l := a.pa / 192
  let js := neededSectors a.op (a.pa % 192)
  let s := js.foldl (fun s j => s.logSector a j) s
  let (x, fs) := s.fillLine a (Line.fresh l a.tier (domainMark a)) js
  match a.op with
  | .pin | .unpin | .wbl | .pf => (s, {})
  | _ => match sectorFaults a (s.knowTags a x) fs with
    | some r => (s, r)
    | none =>
      let (y, r, wrote) := performLine a (s.knowTags a x)
      if wrote then ((s.writeLine y).wrote a, r) else (s, r)

/-! ### The home slice (R225, R230, R231) -/

/-- A request waits until the cycle after a running pass that a test selects. -/
def Cluster.passEnd (k : Cluster) (sel : Pass → Bool) : Option Nat :=
  (k.passes.find? fun p => decide (k.t ≤ p.until_) && decide (p.until_ < k.t + 512) && sel p).map fun p => p.until_ + 1 - k.t

/-- A request of a domain whose pass runs waits until the cycle after it (R231). -/
def State.passWait (s : State) (a : Access) : Option Nat :=
  (s.cluster (clusterOf a.homeCore)).passEnd fun p => match p.dom with
    | some d => a.hashed && decide (d = a.home % 8)
    | none => false

/-- Every request to a core's slice under a pass waits until the cycle after it (R232). -/
def State.slicePassWait (s : State) (a : Access) : Option Nat :=
  (s.cluster (clusterOf a.homeCore)).passEnd fun p => p.dom.isNone && decide (p.core = a.homeCore % 16)

/-- Hold a request at its home for a number of cycles. -/
def State.holdHome (s : State) (a : Access) (id d : Nat) : State :=
  s.inCycles (clusterOf a.homeCore) d .homeSliceAccess { unit := a.homeCore, item := id }

/-- The line of an accepted HASHED access is no longer homed here, and the pass that moved it is over (R231): the access is
served uncached. -/
def State.moved (s : State) (a : Access) : Bool :=
  let k := s.cluster (clusterOf a.homeCore)
  let m := (k.domain (a.home % 8)).1
  a.hashed && !(k.passes.any fun p => p.dom = some (a.home % 8) && decide (k.t ≤ p.until_)) &&
    (decide (m = 0) || decide (homeLocal (a.pa / 192) m ≠ a.homeCore % 16))

/-- An access is done at its home: it leaves the queue of its line, and the next one is served in this cycle. -/
def State.leaveHome (s : State) (a : Access) (id : Nat) : State :=
  let s := (s.takeItem id).2
  let q := (look (s.core a.homeCore).homeQ (lineKey a) []).filter (· != id)
  let s := s.onCore a.homeCore fun k =>
    { k with homeQ := if q.isEmpty then unset k.homeQ (lineKey a) else assign k.homeQ (lineKey a) q }
  match q with
  | [] => s
  | n :: _ => { s with agenda := s.agenda ++ [.dev .homeSliceAccess { unit := a.homeCore, item := n }] }

/-- Ask for the fill of an access: it takes the tier's time (R235, 18_multicast_at_work R396, 19_domains_at_work R398), on an
island's clock as R8 counts it, from the cycle on which the home accepted the access: the fills of the accesses that wait in the
queue of a line go on together. -/
def State.askTier (s : State) (a : Access) (id : Nat) : State :=
  let cl := clusterOf a.homeCore
  let due := a.reqT + s.islandCycles cl (missTime a.tier)
  if due ≤ (s.cluster cl).t then { s with agenda := s.agenda ++ [.dev .tierFill { unit := a.homeCore, item := id }] }
  else s.atCycle cl due .tierFill { unit := a.homeCore, item := id }

/-- Write back the dirty sectors of a line at its home and wait for the tier's acknowledgement (R241, R258); the line's queue goes
on meanwhile. -/
def State.writeBackLine (s : State) (a : Access) (id w : Nat) (x : Line) : State :=
  let s := s.leaveHome a id
  if x.sectors.any fun y => y.valid && y.dirty then
    let cl := clusterOf a.homeCore
    let (s, x) := s.writeWay cl w x
    let (n, s) := s.addItem (.acc { a with filled := false })
    (s.onCluster cl fun k => { k with lines := assign k.lines w x.clean }).inCycles cl (s.islandCycles cl (ackTime a.tier))
      .tierWriteAck { unit := a.homeCore, item := n }
  else s.homeAnswer a {} none

/-- INVR at the home (R258, R355): the line and its copies go, and its monitors are lost. -/
def State.invalidateLine (s : State) (a : Access) (w : Option Nat) : State :=
  let l := a.pa / 192
  let cl := clusterOf a.homeCore
  let s := match w with
    | some w =>
      let s := match find (s.cluster cl).lines w with
        | some x => s.leaveWay cl w x
        | none => s
      s.onCluster cl fun k => { k with lines := unset k.lines w }
    | none => s
  (s.fireLine a.homeCore l a.tier 2).invalidateCopies a.homeCore l a.tier a.agent a.uid

/-- A result for a thread that consumes an error which the ECC of its line's bank has just found (R195, 20_traps R409). -/
def AccResult.inBank (r : AccResult) (found : Bool) (bank : Nat) (a : Access) : AccResult :=
  if found && r.poison then { r with store := 1, unit := bank, pa := a.va } else r

/-- Perform an access on a line that its way holds, and answer. -/
def State.performHome (s : State) (a : Access) (id w : Nat) (x : Line) : State :=
  let cl := clusterOf a.homeCore
  let found := (s.wayErrors cl w (blocksRead a)).any fun e => e.2
  let (s, x) := s.readWay cl w x (blocksRead a) a.pc (consumes a)
  let s := { s with bankErr := s.bankErr.filter fun p => !(coversBlock a.op && p.1 == wayBlock cl w (a.pa % 192 / 64)) }
  let (y, r, wrote) := performLine a (s.knowTags a x)
  let r := r.inBank found (w / 512) a
  let s := { s with nextId := s.nextId + 1 }
  let s := s.onCluster cl fun k => { k with lines := assign k.lines w { y with used := s.nextId } }
  let s := if wrote then s.wrote a else s
  (s.leaveHome a id).homeAnswer a r (some y)

/-- The access at the head of its line's queue: hit, miss, or the operations on a line that need no sector. -/
def State.atHome (s : State) (a : Access) (id : Nat) : State :=
  let cl := clusterOf a.homeCore
  let l := a.pa / 192
  let place := s.homePlace a
  let moved := s.moved a
  let way := if moved then none else match place with
    | some (b, st) => (s.cluster cl).hitWay b st l a.tier
    | none => none
  let line := match way with
    | some w => find (s.cluster cl).lines w
    | none => none
  match a.op with
  | .inv => ((s.leaveHome a id).invalidateLine a way).homeAnswer a {} none
  | .wbl => match way, line with
    | some w, some x => s.writeBackLine a id w x
    | _, _ => (s.leaveHome a id).homeAnswer a {} none
  | .unpin => match way, line with
    | some w, some x => s.performHome a id w x
    | _, _ => (s.leaveHome a id).homeAnswer a {} none
  | _ => match way, line with
    | some w, some x =>
      if (neededSectors a.op (a.pa % 192)).all fun j => match x.sectors[j]? with
        | some y => y.valid
        | none => false
      then s.performHome a id w x
      else s.askTier a id
    | _, _ =>
      if place.isNone && (a.op = .pin || a.op = .pf) then (s.leaveHome a id).homeAnswer a {} none
      else match (if moved then none else place), neededSectors a.op (a.pa % 192) with
        | some (b, st), [] => match (s.cluster cl).victim b st with
          | some w =>
            match sectorFaults a (s.knowTags a (Line.fresh l a.tier (domainMark a))) [] with
            | some r => (s.leaveHome a id).homeAnswer a r none
            | none =>
              let s := s.allocate cl w (Line.fresh l a.tier (domainMark a))
              s.performHome a id w (Line.fresh l a.tier (domainMark a))
          | none => s.askTier a id
        | _, _ => s.askTier a id

/-- Serve the access at the head of its line's queue; a second write of one line waits for the next cycle (15_ordering R367). -/
def State.serveHome (s : State) (a : Access) (id : Nat) : State :=
  let k := s.core a.homeCore
  if a.op.writes && decide (k.wroteAt = (s.cluster (clusterOf a.homeCore)).t) && k.wroteNow.contains (lineKey a) then
    s.holdHome a id 1
  else s.atHome a id

/-- Accept an access at its home: it joins the queue of its line, so that accesses of one line are performed in the order in
which they arrive (15_ordering R368, R380). -/
def State.acceptHome (s : State) (a : Access) (id : Nat) : State :=
  let a := { a with filled := true, reqT := (s.cluster (clusterOf a.homeCore)).t }
  let q := look (s.core a.homeCore).homeQ (lineKey a) []
  let s := ({ s with items := assign s.items id (.acc a) }).onCore a.homeCore fun k =>
    { k with homeQ := assign k.homeQ (lineKey a) (q ++ [id]) }
  if q.isEmpty then s.serveHome a id else s

/-- A request at its home before it is accepted: a pass over its domain or a role change under way makes it wait (R231, R153). -/
def State.homeWait (s : State) (a : Access) : Option Nat :=
  if match s.homeBank a with
    | some b => s.roleHolds (clusterOf a.homeCore) b
    | none => false then some 1 else s.passWait a

/-- What a home does with a request that reaches it and is not accepted yet. -/
inductive Gate where
  /-- it waits a number of cycles -/
  | wait (d : Nat)
  /-- it is answered REHOME with the current MASK and GEN -/
  | rehome (mask gen : Nat)
  /-- it may not reach the home's cluster (21_fabric R435) -/
  | perm
  | ok

/-- Another device's access to a home in a cluster that its mapped tenant and world do not reach. DESIGN CHOICE (log 93): R435 has it
performed as that of an agent of both, and the check is that of 08_access R193. -/
def State.foreign (s : State) (a : Access) : Bool := match a.agent with
  | .device .. => !(s.reachable { pc := 0, agent := a.agent, world := a.world, tenant := a.tenant, ptbase := 0, leaves := [], xl := []
                                  core := 0, col := 0 } (clusterOf a.homeCore))
  | _ => false

/-- A request reaches its home: during the pass over its core's slice it waits, whatever its generation (R232); then its generation is
compared (R230), and a pass over its domain or a role change under way makes it wait (R231, 06_wheels R153). -/
def State.gate (s : State) (a : Access) : Gate :=
  let k := s.cluster (clusterOf a.homeCore)
  let (mask, gen) := k.domain (a.home % 8)
  match s.slicePassWait a with
  | some d => .wait d
  | none =>
    if a.hashed && decide (gen ≠ a.gen) then .rehome mask gen
    else match s.homeWait a with
      | some d => .wait d
      | none => if s.foreign a then .perm else .ok

/-- HOME_SLICE_ACCESS: a request reaches its home slice, where its generation is compared on this cycle (R230); an accepted one is
served. -/
def execHomeSliceAccess (s : State) : Host.Outcome State Fault Refusal :=
  let id := s.subj.item
  match find s.items id with
  | some (.acc a) =>
    let cl := clusterOf a.homeCore
    if a.filled then .next (s.serveHome a id)
    else if !(s.cluster cl).up then .next (s.inNs 16 .homeSliceAccess s.subj)
    else match s.gate a with
      | .wait d => .next (s.holdHome a id d)
      | .rehome mask gen => .next ((s.takeItem id).2.homeReply a 1 (.rehome a mask gen))
      | .perm => .next ((s.takeItem id).2.homeReply a 1 (.accAns a { fault := some .perm }))
      | .ok => .next (s.acceptHome a id)
  | _ => .next s

/-- TIER_FILL: the sectors that an access misses arrive from the tier and a way is taken for them; the access is performed
in the same cycle. A line that is no longer homed here, or a set with every way pinned, is served uncached (R225, R226,
R231). -/
def execTierFill (s : State) : Host.Outcome State Fault Refusal :=
  let id := s.subj.item
  match find s.items id with
  | some (.acc a) =>
    let cl := clusterOf a.homeCore
    let k := s.cluster cl
    let l := a.pa / 192
    let moved := s.moved a
    let uncached := fun (s : State) =>
      let (s, r) := s.performTier a
      .next ((s.leaveHome a id).homeAnswer a r none)
    match s.homePlace a with
    | none => uncached s
    | some (b, st) =>
      let way := k.hitWay b st l a.tier
      match (if moved then none else match way with
        | some w => some w
        | none => k.victim b st) with
      | none =>
        if moved then uncached s
        else if a.op = .pin then .next ((s.leaveHome a id).homeAnswer a { fault := some .range } none)
        else uncached (s.onCluster cl fun k => { k with pinbypass := counted k.pinbypass })
      | some w =>
        let old := match way, find k.lines w with
          | some _, some x => x
          | _, _ => Line.fresh l a.tier (domainMark a)
        let js := (neededSectors a.op (a.pa % 192)).filter fun j => match old.sectors[j]? with
          | some y => !y.valid
          | none => true
        let s := js.foldl (fun s j => s.logSector a j) s
        let (x, fs) := s.fillLine a old js
        let stop := match a.op with
          | .pin | .pf => if fs.isEmpty then none else some ({} : AccResult)
          | _ => sectorFaults a (s.knowTags a x) fs
        match stop with
        | some r => .next ((s.leaveHome a id).homeAnswer a r none)
        | none =>
          let s := match way with
            | some _ => s.onCluster cl fun k => { k with lines := assign k.lines w x }
            | none => s.allocate cl w x
          .next { s with agenda := s.agenda ++ [.dev .homeSliceAccess { unit := a.homeCore, item := id }] }
  | _ => .next s

/-- TIER_WRITE_ACK: the tier acknowledges a write-back, and the operation that waited for it is answered (R235, R242). -/
def execTierWriteAck (s : State) : Host.Outcome State Fault Refusal :=
  match s.takeItem s.subj.item with
  | (some (.acc a), s) => .next (s.homeAnswer a {} none)
  | (_, s) => .next s

/-- The line request of MCREAD that an access stands for, from the words of its core's request (10_engines R259): the
access carries the byte offset of its first byte, and in row the number of bytes. -/
def mcReqOf (q : Req) (a : Access) : McReq :=
  let dsp := bits q.w0.toNat 39 37
  let off := match a.op with
    | .mcast o => o
    | _ => 0
  { core := q.core, tenant := q.tenant, lo := a.pa % 192, len := a.row, dsp := dsp
    cl := if dsp = 1 then bits q.w2.toNat 28 21 else bits q.w2.toNat 31 24
    off := (if dsp = 1 then bits q.w2.toNat 17 0 else bits q.w2.toNat 19 0) + off
    mask := bits q.w0.toNat 31 16, access := a }

/-- Send a line request of MCREAD to its home slice. -/
def State.sendLineRequest (s : State) (core : Nat) (a : Access) : State := match (s.core core).running with
  | some r => s.ship (clusterOf core) 8 (clusterOf a.homeCore) 9 0 1 (.mcLine (mcReqOf r.req a))
  | none => s

/-- Send a replayed access to its new home, ahead of those that wait behind it (R230). -/
def State.replayHome (s : State) (core : Nat) (old a : Access) : State := match a.hashed, orderedAt a.agent with
  | true, some c =>
    let s := s.onCore c fun k => { k with sent := (match k.sent.find? fun x => sameTrip x old with
      | some x => k.sent.erase x
      | none => k.sent) ++ [a] }
    (s.sendHome core a).releaseBehind c a
  | _, _ => s.sendHome core a

/-- REHOME_REPLAY: the requester takes the current MASK and GEN and sends the access to the new home (R230). -/
def execRehomeReplay (s : State) : Host.Outcome State Fault Refusal :=
  match s.takeItem s.subj.item with
  | (some (.rehome a mask gen), s) =>
    let core := agentCore a.agent
    let cl := a.home / 16
    let s := s.onCore core fun k => { k with domCache := assign k.domCache (cl * 8 + a.home % 8) (mask, gen) }
    if mask = 0 then .next (s.notify (agentCluster a.agent) 1 (.accAns a { fault := some .page }))
    else
      let b := { a with gen := gen, cl := cl, homeCore := cl * 16 + homeLocal (a.pa / 192) mask }
      match a.op with
      | .mcast _ => .next (s.sendLineRequest core b)
      | _ => .next (s.replayHome core a b)
  | (_, s) => .next s

/-! ### Domains and passes (R229 to R232, 19_domains R399) -/

/-- A pass over a domain of a cluster is running. -/
def Cluster.passing (k : Cluster) (d : Nat) : Bool :=
  k.passes.any fun p => p.dom = some d && decide (p.until_ < k.t + 512) && decide (k.t ≤ p.until_)

/-- Write an IDOM: a new MASK takes effect at once, GEN advances, and a pass of 512 cycles follows. -/
def State.writeIdom (s : State) (cl d mask : Nat) : State :=
  let k := s.cluster cl
  let (m, g) := k.domain d
  if m = mask % 65536 then s
  else
    let s := s.onCluster cl fun k => { k with idom := assign k.idom d (mask % 65536, (g + 1) % 256) }
    if k.passes.any fun p => p.dom = some d && decide (p.until_ = k.t + 512) then s
    else (s.onCluster cl fun k => { k with passes := k.passes ++ [{ dom := some d, core := 0, until_ := k.t + 512 }] }).inCycles
      cl 513 .domainPassComplete { unit := cl, sub := d }

/-- IDOM_WRITE: of a cluster's domain, with a MASK; or the turn of a thread that waited for a pass to end (R399): item is
1 + 16 * core + slot. -/
def execIdomWrite (s : State) : Host.Outcome State Fault Refusal :=
  if 0 < s.subj.item then .next (s.resumeNow ((s.subj.item - 1) / 16) ((s.subj.item - 1) % 16))
  else if (s.cluster s.subj.unit).passing (s.subj.sub % 8) then
    .next { s with events := s.events ++ [{ cl := some s.subj.unit, due := (s.cluster s.subj.unit).t + 1, row := .idomWrite, subj := s.subj }] }
  else .next (s.writeIdom s.subj.unit (s.subj.sub % 8) (s.subj.val.toNat % 65536))

/-- What a pass makes of a line (R231): kept at its home; elsewhere a clean line goes and a dirty one becomes an
orphan. -/
def passLine (k : Cluster) (w : Nat) (x : Line) : Option Line :=
  let c := w / 512 / 2
  let home := match x.dom with
    | some d => let (m, _) := k.domain d
                decide (m ≠ 0) && decide (homeLocal x.l m = c)
    | none => true
  let here := home && (homeBankSet k.bankrole x.l c == some (w / 512, w % 512 / 8))
  if here || x.orphan then some x
  else if x.sectors.any fun y => y.valid && y.dirty then some { x with orphan := true, pinned := false }
  else none

/-- Run a pass over the lines that a test selects. -/
def State.runPass (s : State) (cl : Nat) (sel : Nat → Line → Bool) : State :=
  let k := s.cluster cl
  let gone := k.lines.filter fun p => sel p.1 p.2 && (passLine k p.1 p.2).isNone
  (gone.foldl (fun s p => s.leaveWay cl p.1 p.2) s).onCluster cl fun k =>
    let new := k.lines.filterMap fun p => if sel p.1 p.2 then (passLine k p.1 p.2).map fun x => (p.1, x) else some p
    let made := ((new.filter fun p => p.2.orphan).length) - ((k.lines.filter fun p => p.2.orphan).length)
    { k with lines := new, orphans := min (k.orphans + made) (2 ^ 32 - 1) }

/-- Watchers whose line is homed elsewhere now have lost it (R355). -/
def State.loseWatches (s : State) (core : Nat) (gone : Watch → Bool) : State :=
  let mine := (s.core core).watch.filter gone
  let s := s.onCore core fun k => { k with watch := k.watch.filter fun w => !(gone w) }
  mine.foldl (fun s w => s.tellMonitor core 2 w) s

/-- A thread of the cluster waits to write a domain. -/
def idomWaiter (i : Instr) (d : Nat) : Bool := match i with
  | .csrWrite _ _ k => decide (k = 0x108 + d)
  | .csrSet _ _ k => decide (k = 0x108 + d)
  | .csrClear _ _ k => decide (k = 0x108 + d)
  | _ => false

/-- The threads of a cluster that wait to write a domain, in core order. -/
def State.idomWaiters (s : State) (cl d : Nat) : List (Nat × Nat) :=
  (List.range 16).flatMap fun c => (((List.range 16).filter fun sl => match (s.thread (16 * cl + c) sl).waits with
    | some i => idomWaiter i d
    | none => false)).map fun sl => (16 * cl + c, sl)

/-- DOMAIN_PASS_COMPLETE: the cycle after a pass: the lines of its domain have been dealt with, and waiting writers go on, in
core order (19_domains_at_work R399). -/
def execDomainPassComplete (s : State) : Host.Outcome State Fault Refusal :=
  let cl := s.subj.unit
  let d := s.subj.sub
  let t := (s.cluster cl).t
  let s := s.runPass cl fun _ x => x.dom = some d
  let s := s.onCluster cl fun k => { k with passes := k.passes.filter fun p => !(p.dom == some d && p.until_ + 1 == t) }
  let m := ((s.cluster cl).domain d).1
  let s := (List.range 16).foldl (fun s c => s.loseWatches (16 * cl + c) fun w =>
    w.dom == some d && (decide (m = 0) || decide (homeLocal w.line m ≠ c))) s
  .next ((s.idomWaiters cl d).foldl (fun s p => s.resumeNow p.1 p.2) s)

/-- SLICE_PASS_COMPLETE: the cycle after the pass: the lines of a core's remaining CACHE bank have been dealt with (R232). -/
def execSlicePassComplete (s : State) : Host.Outcome State Fault Refusal :=
  let cl := s.subj.unit
  let c := s.subj.sub
  let t := (s.cluster cl).t
  let s := s.runPass cl fun w _ => w / 1024 = c
  .next (s.onCluster cl fun k => { k with passes := k.passes.filter fun p => !(p.dom.isNone && p.core == c && p.until_ + 1 == t) })

/-! ### Monitors (R354, R355) -/

/-- Put a registration into a home core's watch table: a full table drops its oldest entry, whose thread learns that its line is
lost (R355). -/
def State.enterWatch (s : State) (h : Nat) (w : Watch) : State :=
  let k := s.core h
  let s := match k.watch with
    | x :: rest => if 64 ≤ k.watch.length then (s.setCore h { k with watch := rest }).tellMonitor h 2 x else s
    | [] => s
  s.onCore h fun k => { k with watch := k.watch ++ [w] }

/-- A line has been written at its home on this cycle. -/
def State.writtenNow (s : State) (a : Access) : Bool :=
  decide ((s.core a.homeCore).wroteAt = (s.cluster (clusterOf a.homeCore)).t) && (s.core a.homeCore).wroteNow.contains (lineKey a)

/-- The home of an access under the MASK now in force; none where it is empty. -/
def State.homeNow (s : State) (a : Access) : Option Nat :=
  if a.hashed then
    let cl := a.home / 16
    let m := ((s.cluster cl).domain (a.home % 8)).1
    if m = 0 then none else some (cl * 16 + homeLocal (a.pa / 192) m)
  else some a.homeCore

/-- The registration of a thread for an access of its MON.ARM. -/
def watchOf (c sl : Nat) (a : Access) : Watch :=
  { core := c, slot := sl, line := a.pa / 192, tier := a.tier, dom := domainMark a, reg := a.row }

/-- The monitor of a thread whose core resumes (R355): an ARMED one is registered again at its home, as the newest, also where the
entry has gone meanwhile, and fires SPURIOUS. -/
def State.spurious (s : State) (c sl : Nat) : State := match (s.thread c sl).monitor with
  | .armed l reg =>
    let s := match (find (s.thread c sl).monAt reg).bind fun a => (s.homeNow a).map fun h => (h, a) with
      | some (h, a) => (s.unwatch c sl).enterWatch h (watchOf c sl a)
      | none => s
    s.onThread c sl fun th => { th with monitor := .fired 3 l }
  | _ => s

/-- MONITOR_REGISTRATION: a line is registered at its home; a write performed there on this cycle fires the monitor at once
(R355). -/
def execMonitorRegistration (s : State) : Host.Outcome State Fault Refusal :=
  let id := s.subj.item
  match find s.items id with
  | some (.acc a) =>
    match s.gate a with
    | .wait d => .next (s.inCycles (clusterOf a.homeCore) d .monitorRegistration { unit := a.homeCore, item := id })
    | .rehome mask gen => .next ((s.takeItem id).2.homeReply a 1 (.rehome a mask gen))
    | _ =>
      let s := (s.takeItem id).2
      match a.agent with
      | .thread c sl =>
        let w := watchOf c sl a
        let s := if s.writtenNow a then s.tellMonitor a.homeCore 1 w else s.enterWatch a.homeCore w
        .next (s.homeAnswer a {} none)
      | _ => .next s
  | _ => .next s

/-! ### Walks and line fills (R159, R201) -/

/-- A walk of a stack. -/
def State.onWalks (s : State) (st : Nat) (f : List Walk → List Walk) : State :=
  s.onStack st fun k => { k with walks := f k.walks }

/-- A walker begins a walk: it reads each entry at the tier's miss time (R201). -/
def State.beginWalk (s : State) (ptbase : Word) (va id : Nat) : State :=
  s.inNs (s.walkReads ptbase va * missTime (ptbase.getLsbD 62)) .pageWalk { item := id, sub := 1 }

/-- The walks of a stack that a free walker of their quadrant takes up: sixteen run in a quadrant. -/
def State.startWalks (s : State) (st quadrant : Nat) : State :=
  let ws := (s.stack st).walks
  if 16 ≤ (ws.filter fun w => w.running && w.quadrant = quadrant).length then s
  else match ws.find? fun w => !w.running && w.quadrant = quadrant with
    | none => s
    | some w =>
      let s := s.onWalks st fun l => l.map fun x => if x = w then { x with running := true } else x
      match w.ids with
      | id :: _ => match find s.items id with
        | some (.walk _ _ ptbase va) => s.beginWalk ptbase va id
        | _ => s
      | [] => s

/-- The page of a walk's leaf: the size is not known before the walk, so 48 KiB stand for one that faults. -/
def State.walkSpan (s : State) (ptbase : Word) (va : Nat) : Nat := match s.walk ptbase va with
  | some l => pageSize l.level
  | none => pageSize 2

/-- A miss reaches its walkers: it joins a walk of the stack for the same page, or waits for a walker of its quadrant (R201). -/
def State.joinWalk (s : State) (c : Nat) (ptbase : Word) (va id : Nat) : State :=
  let st := stackOf (clusterOf c)
  let n := walkerCluster (clusterOf c)
  let span := s.walkSpan ptbase va
  let same := fun (w : Walk) => w.tables = tablesKey ptbase && w.page * 49152 / span = va / span
  if (s.stack st).walks.any same then
    s.onWalks st fun l => l.map fun w => if same w then { w with ids := w.ids ++ [id] } else w
  else (s.onWalks st fun l => l ++ [{ tables := tablesKey ptbase, page := va / 49152, quadrant := n, ids := [id] }]).startWalks st n

/-- Answer a miss with its leaf. -/
def State.tellWalk (s : State) (id : Nat) : State := match find s.items id with
  | some (.walk g c ptbase va) =>
    (s.takeItem id).2.ship (walkerCluster (clusterOf c)) 11 (clusterOf c) (walkEp g c) 1 1 (.walkAns g c ptbase va (s.walk ptbase va))
  | _ => s

/-- PAGE_WALK: a miss reaches its walkers; with sub 1 its walk is over, every miss merged into it is answered, and the walker takes
up another. -/
def execPageWalk (s : State) : Host.Outcome State Fault Refusal :=
  let id := s.subj.item
  match find s.items id with
  | some (.walk _ c ptbase va) =>
    if s.subj.sub ≠ 1 then .next (s.joinWalk c ptbase va id)
    else
      let st := stackOf (clusterOf c)
      match (s.stack st).walks.find? fun w => w.ids.contains id with
      | none => .next (s.tellWalk id)
      | some w =>
        let s := w.ids.foldl (fun s i => s.tellWalk i) (s.onWalks st fun l => l.filter (· != w))
        .next (s.startWalks st w.quadrant)
  | _ => .next s

/-- The access of a line fill: 64 bytes of a GLOBAL line by a column's fetch. -/
def State.fetchAccess (s : State) (col c : Nat) (ptbase : Word) (va : Nat) (l : Leaf) : Checked :=
  let w : Who := { pc := 0, agent := .fetch col, uid := fetchKey ptbase va, world := true, tenant := none, ptbase := ptbase,
                   leaves := [], xl := [], core := c, col := col }
  match s.globalAccess w va va l with
  | .good a => .good { a with op := .load 64 false, copyOk := true, tagchk := false, idx := c, row := l.entry.toNat }
  | r => r

/-- Every slot that waits for a line takes it, or takes its fault; one whose core has other tables now asks again under them. -/
def State.lineReady (s : State) (col key : Nat) (f : Nat → Nat → State → State) : State :=
  let ws := look (s.column col).filling key []
  let s := s.onColumn col fun x => { x with filling := unset x.filling key, refill := x.refill.filter (· != key) }
  ws.foldl (fun s w =>
    let th := s.thread (w / 16) (w % 16)
    if th.hold ≠ .fetch then s
    else if fetchKey (s.core (w / 16)).ptbase th.pc.toNat = key then f (w / 16) (w % 16) s
    else s.takeLine (w / 16) (w % 16)) s

/-- The fetch of a line ends in a fault, which each waiting thread raises when it would issue from the line (R160). -/
def State.lineFaulted (s : State) (col key : Nat) (k : Cause) : State :=
  s.lineReady col key fun c sl s => s.onThread c sl fun th => { th with lineFault := some k, line := none, hold := .ready }

/-- A fetch's translation is answered: the line is read at its home, or the fetch faults (R159, R160). -/
def State.fetchWalked (s : State) (col c : Nat) (ptbase : Word) (va : Nat) (leaf : Option Leaf) : State :=
  let key := fetchKey ptbase va
  match leaf with
  | none => s.lineFaulted col key .page
  | some l => match s.fetchAccess col c ptbase va l with
    | .good a => s.requestHome c a
    | .bad k _ => s.lineFaulted col key k
    | .walk _ => s

/-- A line enters an instruction cache of 1,024 lines (R158): a full one gives up the line that has been there longest. -/
def cacheLine (c : List (Nat × (Word × List Byte))) (key : Nat) (v : Word × List Byte) : List (Nat × (Word × List Byte)) :=
  let c := unset c key ++ [(key, v)]
  c.drop (c.length - 1024)

/-- LINE_FILL: a line's bytes arrive in a column's cache, and the slots that wait for it take their copies. A fill that
SYS.TLBINV has overtaken is made again (R161). Poison is not consumed by a fetch (R238). -/
def execLineFill (s : State) : Host.Outcome State Fault Refusal :=
  match s.takeItem s.subj.item with
  | (some (.accAns a r), s) => match a.agent with
    | .fetch col =>
      let key := a.uid
      if (s.column col).refill.contains key then
        let ptbase := BitVec.ofNat 64 (key / 2 ^ 48 * 2 ^ 11)
        let s := s.onColumn col fun x => { x with refill := x.refill.filter (· != key) }
        .next (s.askWalk (.fetch col) a.idx ptbase (key % 2 ^ 48))
      else match r.fault with
        | some k => .next (s.lineFaulted col key k)
        | none =>
          let entry := BitVec.ofNat 64 a.row
          let s := s.onColumn col fun x => { x with icache := cacheLine x.icache key (entry, r.bytes) }
          .next (s.lineReady col key fun c sl s => s.onThread c sl fun th =>
            { th with line := some (lineOf th.pc.toNat, r.bytes), lineFault := fetchFault entry th.world, hold := .ready
                      issueAt := max th.issueAt (s.cyc c + 1) })
    | _ => .next s
  | (_, s) => .next s

/-! ### The network port of a column store (R202, R203) -/

/-- Cycles from a network-port access to its answer inside the cluster: 3 for data, 1 for a store. -/
def portDelay (a : Access) : Nat := if isStore a.op then 1 else 3

/-- NETWORK_PORT_ACCESS: an access through the network port is performed on its cycle; one block a cycle, in order of
arrival. unit is the column; sub is 1 once its cycle has come. -/
def execNetworkPortAccess (s : State) : Host.Outcome State Fault Refusal :=
  let id := s.subj.item
  match find s.items id with
  | some (.acc a) =>
    let col := a.va / 2 ^ 18
    let cl := col / 8
    if s.subj.sub = 1 then
      let (s, r) := (s.takeItem id).2.performColumn a
      .next (s.answer cl (col % 8) (portDelay a) a r)
    else if !(s.cluster cl).up then .next (s.inNs 16 .networkPortAccess s.subj)
    else
      let t := (s.cluster cl).t
      let at_ := max (t + 1) (s.column col).netNext
      let s := s.onColumn col fun x => { x with netNext := at_ + 1 }
      .next (s.atCycle cl at_ .networkPortAccess { s.subj with sub := 1 })
  | _ => .next s

end Sys2Proof.Machine
end

