-- ==== Sys2Proof/Machine/Squeeze.lean ====
section
/-!
DEFINITION. The history compressor (10_engines R262 to R266): the parameters and header of a stream, its encoding and its
decoding.
-/
namespace Sys2Proof.Machine

open Sys2Proof

/-- The parameters of a stream: FP64, ORDER, EXP, LOSSLESS (R262). -/
structure SqzPar where
  wide : Bool
  order : Nat
  exp : Int
  lossless : Bool
deriving DecidableEq, Repr

/-- Bytes of an element. -/
def SqzPar.size (p : SqzPar) : Nat := if p.wide then 8 else 4
/-- Bits of an element. -/
def SqzPar.bits (p : SqzPar) : Nat := 8 * p.size
/-- The widest field of a packed block. -/
def SqzPar.maxField (p : SqzPar) : Nat := if p.wide then 53 else 32
/-- The bound on |v|. -/
def SqzPar.lim (p : SqzPar) : Nat := if p.wide then 2 ^ 52 else 2 ^ 30
/-- The format of the elements. -/
def SqzPar.spec (p : SqzPar) : FSpec := if p.wide then specF64 else specF32

/-- v * 2^(e+1) exceeds the largest finite value of the type (R264, R266). -/
def SqzPar.tooLarge (p : SqzPar) (v : Nat) : Bool :=
  match p.spec.val (p.spec.maxFinite false) with
  | .fin _ m x =>
    let d := p.exp + 1 - x
    if 0 ≤ d then decide (m < v * 2 ^ d.toNat) else decide (m * 2 ^ (-d).toNat < v)
  | _ => false

/-- Elements of a list of bytes. -/
def elements (n : Nat) (bs : List Byte) (fuel : Nat) : List Nat := match fuel with
  | 0 => []
  | fuel + 1 => if bs.isEmpty then [] else ofBytes (bs.take n) :: elements n (bs.drop n) fuel

/-- The integer that an element becomes, none where the block is raw (R264). -/
def SqzPar.quantise (p : SqzPar) (x : Nat) : Option Int :=
  if p.lossless then some (sext x p.bits)
  else match p.spec.val x with
    | .fin neg m e =>
      let v := (roundAt .rne neg m e (p.exp + 1) false).1
      if p.lim ≤ v || p.tooLarge v then none else some (signed neg v)
    | _ => none

/-- All of a list of options, or nothing. -/
def allSome (l : List (Option Int)) : Option (List Int) := match l with
  | [] => some []
  | none :: _ => none
  | some x :: r => (allSome r).map fun l => x :: l

/-- The prediction from the two values before (R264). -/
def SqzPar.pred (p : SqzPar) (p1 p2 : Int) : Int := match p.order with
  | 0 => 0
  | 1 => p1
  | _ => 2 * p1 - p2

/-- Reduced to a signed number of the element's width (R264). -/
def SqzPar.wrap (p : SqzPar) (v : Int) : Int := sext (wrapN p.bits v) p.bits

/-- Zigzag. -/
def zigzag (r : Int) : Nat := if 0 ≤ r then 2 * r.toNat else (-2 * r - 1).toNat
/-- Its inverse. -/
def unzigzag (z : Nat) : Int := if z % 2 = 0 then (z / 2 : Nat) else -(((z + 1) / 2 : Nat) : Int)

/-- The fields of a block's values, with the history after it. -/
def SqzPar.fields (p : SqzPar) (vs : List Int) (p1 p2 : Int) : List Nat × Int × Int := match vs with
  | [] => ([], p1, p2)
  | v :: r =>
    let d := v - p.pred p1 p2
    let (zs, q) := p.fields r v p1
    (zigzag (if p.lossless then p.wrap d else d) :: zs, q)

/-- The number of bits of a number. -/
def bitLength (n : Nat) : Nat := if n = 0 then 0 else Nat.log2 n + 1

/-- Fields of w bits, the first at bit 0, padded to bytes. -/
def packFields (zs : List Nat) (w : Nat) : List Byte :=
  toBytes ((zs.length * w + 7) / 8) ((zs.zipIdx).foldl (fun a z => a + z.1 * 2 ^ (w * z.2)) 0)

/-- A raw block. -/
def SqzPar.rawBlock (p : SqzPar) (xs : List Nat) : List Byte :=
  BitVec.ofNat 8 63 :: xs.flatMap fun x => toBytes p.size x

/-- Encode one block: its bytes and the history after it. -/
def SqzPar.block (p : SqzPar) (xs : List Nat) (h1 h2 : Int) : List Byte × Int × Int :=
  match allSome (xs.map p.quantise) with
  | none => (p.rawBlock xs, 0, 0)
  | some vs =>
    let (zs, q1, q2) := p.fields vs h1 h2
    let w := bitLength (zs.foldl max 0)
    if p.maxField < w then (p.rawBlock xs, 0, 0) else (BitVec.ofNat 8 w :: packFields zs w, q1, q2)

/-- Encode blocks of up to 32 elements. -/
def SqzPar.blocks (p : SqzPar) (xs : List Nat) (h1 h2 : Int) (fuel : Nat) : List Byte := match fuel with
  | 0 => []
  | fuel + 1 =>
    if xs.isEmpty then []
    else
      let (bs, q1, q2) := p.block (xs.take 32) h1 h2
      bs ++ p.blocks (xs.drop 32) q1 q2 fuel

/-- The parameters in w3[31:0] (R262). -/
def sqzPar (w : Nat) : SqzPar :=
  { wide := decide (bits w 31 30 = 1), order := bits w 29 28, exp := sext (bits w 27 16) 12, lossless := bit w 15 }

/-- Parameters that are refused (R262). -/
def sqzParBad (w : Nat) : Bool :=
  decide (1 < bits w 31 30) || bits w 29 28 == 3 || bits w 14 0 != 0 ||
  (bit w 15 && (bits w 29 28 != 1 || bits w 27 16 != 0))

/-- Blocks of up to 32 elements, all of them raw. -/
def SqzPar.rawBlocks (p : SqzPar) (xs : List Nat) (fuel : Nat) : List Byte := match fuel with
  | 0 => []
  | fuel + 1 => if xs.isEmpty then [] else p.rawBlock (xs.take 32) ++ p.rawBlocks (xs.drop 32) fuel

/-- A stream of a number of elements with its blocks (R263), padded with zeros to a whole number of 64-byte blocks. -/
def sqzWhole (p : SqzPar) (xs : List Nat) (body : List Byte) : List Byte :=
  let head := [0x5A, 0x51, BitVec.ofNat 8 (16 + (if p.lossless then 8 else 0) + (if p.wide then 1 else 0)),
    BitVec.ofNat 8 p.order] ++ toBytes 2 (wrapN 16 p.exp) ++ [0, 0] ++ toBytes 4 xs.length ++ toBytes 4 (16 + body.length)
  let all := head ++ body
  all ++ List.replicate ((64 - all.length % 64) % 64) 0

/-- The stream of an array (R263, R264). -/
def sqzStream (p : SqzPar) (input : List Byte) : List Byte :=
  let xs := elements p.size input input.length
  sqzWhole p xs (p.blocks xs 0 0 (xs.length + 1))

/-- The stream of an array in which every block is raw (23_retire R443). -/
def rawStream (p : SqzPar) (input : List Byte) : List Byte :=
  let xs := elements p.size input input.length
  sqzWhole p xs (p.rawBlocks xs (xs.length + 1))

/-- The worst-case size of the stream of n elements (R263). -/
def sqzWorst (p : SqzPar) (n : Nat) : Nat := ((16 + (n + 31) / 32 + n * p.size) + 63) / 64 * 64

/-- A stream's header (R263, R266): its parameters, COUNT and LENGTH, or the stream error code of R409. -/
inductive Head where
  | ok (p : SqzPar) (count length : Nat)
  | bad (code : Nat)
deriving DecidableEq, Repr

/-- Read a header against the capacity of the destination. -/
def readHead (bs : List Byte) (cap : Nat) : Head :=
  let f := ofBytes (slice8 bs 2 1)
  let order := ofBytes (slice8 bs 3 1)
  let e := ofBytes (slice8 bs 4 2)
  let count := ofBytes (slice8 bs 8 4)
  let len := ofBytes (slice8 bs 12 4)
  let p : SqzPar := { wide := bit f 0, order := order, exp := sext e 16, lossless := bit f 3 }
  if ofBytes (bs.take 2) ≠ 0x515A || f / 16 ≠ 1 || bit f 2 || 1 < f % 4 || ofBytes (slice8 bs 6 2) ≠ 0 then .bad 1
  else if 2 < order || (p.lossless && (order ≠ 1 || e ≠ 0)) then .bad 2
  else if len < 16 then .bad 1
  else if 2 ^ 30 < count || cap < count * p.size then .bad 6
  else .ok p count len
where
  /-- Bytes of a list from a place on. -/
  slice8 (bs : List Byte) (off n : Nat) : List Byte := (bs.drop off).take n

/-- What decoding gives: the bytes of the elements, and the stream error code where it stopped. -/
structure Expanded where
  bytes : List Byte := []
  code : Nat := 0
deriving DecidableEq, Repr

/-- An element from its integer (R265), none beyond the largest finite value (R266). -/
def SqzPar.rebuild (p : SqzPar) (v : Int) : Option (List Byte) :=
  if p.lossless then some (toBytes p.size (wrapN p.bits v))
  else if p.tooLarge v.natAbs then none
  else some (toBytes p.size (p.spec.round .rne (decide (v < 0)) v.natAbs (p.exp + 1) false).1)

/-- The values of a block's fields, with the history after it. -/
def SqzPar.values (p : SqzPar) (zs : List Nat) (p1 p2 : Int) : List Int × Int × Int := match zs with
  | [] => ([], p1, p2)
  | z :: r =>
    let v := p.pred p1 p2 + unzigzag z
    let v := if p.lossless then p.wrap v else v
    let (vs, q) := p.values r v p1
    (v :: vs, q)

/-- The bytes of all values, none when one is too large. -/
def SqzPar.rebuildAll (p : SqzPar) (vs : List Int) : Option (List Byte) := match vs with
  | [] => some []
  | v :: r => match p.rebuild v, p.rebuildAll r with
    | some a, some b => some (a ++ b)
    | _, _ => none

/-- Decode the blocks of n elements from the bytes that follow the header; a block that fails writes nothing (R265,
R266). cut tells that the bytes end before LENGTH because a read of the stream failed: then decoding stops without an
error of its own. -/
def SqzPar.expand (p : SqzPar) (bs : List Byte) (n : Nat) (h1 h2 : Int) (cut : Bool) (fuel : Nat) : Expanded := match fuel with
  | 0 => {}
  | fuel + 1 =>
    if n = 0 then { code := if bs.isEmpty || cut then 0 else 5 }
    else
      let k := min 32 n
      let past : Expanded := { code := if cut then 0 else 5 }
      let go := fun (out rest : List Byte) (q1 q2 : Int) =>
        let x := p.expand rest (n - k) q1 q2 cut fuel
        ({ x with bytes := out ++ x.bytes } : Expanded)
      match bs with
      | [] => past
      | b :: r =>
        let w := b.toNat
        if w = 63 then
          if r.length < k * p.size then past else go (r.take (k * p.size)) (r.drop (k * p.size)) 0 0
        else if p.maxField < w then { code := 3 }
        else
          let m := (k * w + 7) / 8
          if r.length < m then past
          else
            let z := ofBytes (r.take m)
            let zs := (List.range k).map fun i => z / 2 ^ (w * i) % 2 ^ w
            let (vs, q1, q2) := p.values zs h1 h2
            match p.rebuildAll vs with
            | some out => go out (r.drop m) q1 q2
            | none => { code := 4 }

end Sys2Proof.Machine
end

