-- ==== Sys2Proof/Machine/Engine.lean ====
section
/-!
DEFINITION. The copy engine and its tags (10_engines): CPQ and WAITT, the taking and checking of requests, their reads and
writes block by block, and the setting of TAGFREE and TAGDONE. The reads of a request are all requested at once (06_wheels R143), a
write as soon as its bytes are there; what of its writes is under way at once is the model's choice (log 33).
-/
namespace Sys2Proof.Machine

open Sys2Proof

/-! ### Request words (R247, R248) -/

/-- KIND. -/
def Req.kind (q : Req) : Nat := bits q.w0.toNat 63 56
/-- TAG. -/
def Req.tag (q : Req) : Nat := bits q.w0.toNat 55 50
/-- CNT. -/
def Req.cnt (q : Req) : Nat := bits q.w0.toNat 49 46
/-- SCOPE. -/
def Req.scope (q : Req) : Nat := bits q.w0.toNat 45 43
/-- SSP. -/
def Req.ssp (q : Req) : Nat := bits q.w0.toNat 42 40
/-- DSP. -/
def Req.dsp (q : Req) : Nat := bits q.w0.toNat 39 37
/-- AUX. -/
def Req.aux (q : Req) : Nat := bits q.w0.toNat 31 16
/-- w3[63:32]. -/
def Req.len (q : Req) : Nat := bits q.w3.toNat 63 32
/-- w3[31:0]. -/
def Req.low (q : Req) : Nat := bits q.w3.toNat 31 0

/-- The kinds of request. -/
def reqKinds : List Nat := [0x01, 0x02, 0x03, 0x04, 0x05, 0x06, 0x10, 0x11]

/-- Two ranges of bytes overlap: some byte is in both. -/
def rangesMeet (a b : Nat × Nat) : Bool :=
  decide (0 < a.2) && decide (0 < b.2) && decide (a.1 < b.1 + b.2) && decide (b.1 < a.1 + a.2)

/-- An address as the overlap check compares it: a GLOBAL one by its virtual address (R249). -/
def rangeAddr (space : Nat) (w : Word) : Nat := if space = 0 then w.toNat % 2 ^ 48 else w.toNat

/-- The source ranges of a request; COUNT and LENGTH come from the header of an XPND stream (R249). -/
def Req.sources (q : Req) (h : Nat × Nat × Nat) : List (Nat × Nat) :=
  let a := rangeAddr q.ssp q.w1
  match q.kind with
  | 0x02 => (List.range q.len).map fun i => (a + 64 * bits q.low 31 16 * i, 64 * q.aux)
  | 0x11 => [(a, h.2.2)]
  | _ => [(a, q.len)]

/-- The destination ranges of a request. -/
def Req.dests (q : Req) (h : Nat × Nat × Nat) : List (Nat × Nat) :=
  let a := rangeAddr q.dsp q.w2
  match q.kind with
  | 0x02 => (List.range q.len).map fun i => (a + 64 * bits q.low 15 0 * i, 64 * q.aux)
  | 0x04 => ((List.range 16).filter fun c => bit q.aux c).map fun c =>
      ((bits q.w2.toNat 28 21 * 8 + c / 2) * 2 ^ 18 + bits q.w2.toNat 17 0, q.len)
  | 0x10 => [(a, sqzWorst (sqzPar q.low) (q.len / (sqzPar q.low).size))]
  | 0x11 => [(a, h.1 * h.2.1)]
  | _ => [(a, q.len)]

/-- A destination range of LOCAL space touches a frozen window (R115, R249). -/
def State.touchesFrozen (s : State) (r : Nat × Nat) : Bool :=
  decide (0 < r.2) && (List.range (r.2 / 2 ^ 18 + 2)).any fun j =>
    let col := r.1 / 2 ^ 18 + j
    (s.column col).frozen.any fun p => rangesMeet r (col * 2 ^ 18 + p.2.1, 64 * p.2.2)

/-- The fields of a request break a limit of R247, R248 or R259. DESIGN CHOICE (log 34): a w2 of MCREAD whose offset is not a multiple of
64, to which R248 and R259 give no alignment, is refused too. -/
def Req.malformed (q : Req) : Bool :=
  let al := fun (w : Word) => decide (w.toNat % 64 ≠ 0)
  !(reqKinds.contains q.kind) || decide (5 < q.scope) || decide (4 < q.ssp) || decide (4 < q.dsp) ||
  bits q.w0.toNat 36 32 != 0 || bits q.w0.toNat 15 0 != 0 ||
  (q.aux != 0 && q.kind != 0x02 && q.kind != 0x04) ||
  match q.kind with
  | 0x01 => al q.w1 || al q.w2 || q.len % 64 != 0 || q.low != 0
  | 0x02 => al q.w1 || al q.w2 || q.aux == 0
  | 0x03 => q.ssp != 0 || al q.w2 || q.len % 64 != 0 || q.low != 0
  | 0x04 =>
    let n := if q.dsp = 1 then 18 else 20
    q.ssp != 0 || !(q.dsp == 1 || q.dsp == 2) || al q.w1 || al q.w2 || q.len % 64 != 0 || q.low != 0 || q.aux == 0 ||
    (if q.dsp = 1 then bits q.w2.toNat 20 18 != 0 || bits q.w2.toNat 63 29 != 0
     else bits q.w2.toNat 23 20 != 0 || bits q.w2.toNat 63 32 != 0) ||
    decide (2 ^ n < q.w2.toNat % 2 ^ n + q.len)
  | 0x05 | 0x06 => q.ssp != 0 || q.dsp != 0 || q.w2 != 0 || q.low != 0
  | 0x10 => al q.w1 || al q.w2 || sqzParBad q.low || q.len % (sqzPar q.low).size != 0
  | _ => al q.w1 || al q.w2 || q.low != 0

/-- A request is refused (R249). h is COUNT, element size and LENGTH of an XPND stream's header. -/
def State.refuses (s : State) (q : Req) (h : Nat × Nat × Nat) : Bool :=
  q.malformed ||
  ([0x01, 0x02, 0x10, 0x11].contains q.kind && decide (q.ssp = q.dsp) &&
    (q.sources h).any fun a => (q.dests h).any fun b => rangesMeet a b) ||
  (decide (q.dsp = 1) && (q.dests h).any fun r => s.touchesFrozen r)

/-! ### Tags (R252, R254) -/

/-- Set tag bits of a core; they are new on this cycle. -/
def State.setTag (s : State) (c tag : Nat) (free done miss : Bool) : State :=
  let t := s.cyc c
  s.onCore c fun k =>
    let k := if k.tagSetAt = t then k else { k with tagSetAt := t, tagSetD := 0, tagSetF := 0 }
    let k := if free && !(k.tagfree.getLsbD tag) then
      { k with tagfree := withBit k.tagfree tag, tagSetF := withBit k.tagSetF tag } else k
    let k := if done then
      { k with tagdone := withBit k.tagdone tag, tagSetD := withBit k.tagSetD tag, inUse := k.inUse.filter (· != tag) } else k
    if miss then { k with mxstat := withBit k.mxstat tag } else k

/-- A thread's request with a tag is done (R219). -/
def State.engineDone (s : State) (c sl tag : Nat) : State :=
  s.onThread c sl fun th => { th with engine := th.engine.erase tag }

/-- A request ends: its bits, TAGFREE where it was not set before, its counter, its record when it failed (R249, R250, R254), and
the next request of the core may be taken from the next cycle on (R244). -/
def State.endRequest (s : State) (c : Nat) (r : Running) (refused : Bool) : State :=
  let q := r.req
  let s := match r.failed with
    | some f => s.record c { kind := 4, cause := f.cause, addr := f.addr, w4 := q.tag, w5 := q.kind, w6 := f.off, w7 := f.code }
    | none => s
  let s := s.setTag c q.tag (!r.freed) true (refused || r.failed.isSome)
  let s := if q.cnt = 0 then s else s.decCnt c q.cnt
  (s.onCore c fun k => { k with running := none, engineAt := s.cyc c + 1 }).engineDone c q.slot q.tag

/-- TAGFREE_SET: every source read of the running request has been performed. -/
def execTagfreeSet (s : State) : Host.Outcome State Fault Refusal :=
  let c := s.subj.unit
  match (s.core c).running with
  | some r =>
    if r.freed || !r.reads.isEmpty then .next s
    else .next ((s.onCore c fun k => { k with running := some { r with freed := true } }).setTag c r.req.tag true false false)
  | none => .next s

/-- TAGDONE_SET: every destination write of the running request has been performed at its scope. -/
def execTagdoneSet (s : State) : Host.Outcome State Fault Refusal :=
  let c := s.subj.unit
  match (s.core c).running with
  | some r => if r.ending then .next (s.endRequest c r false) else .next s
  | none => .next s

/-! ### Running a request -/

/-- Change the running request of a core. -/
def State.onRun (s : State) (c : Nat) (f : Running → Running) : State :=
  s.onCore c fun k => { k with running := k.running.map f }

/-- Replace the running request of a core. -/
def State.setRun (s : State) (c : Nat) (r : Running) : State := s.onCore c fun k => { k with running := some r }

/-- A request as the maker of accesses (R246). -/
def State.engineWho (s : State) (r : Running) : Who :=
  let c := r.req.core
  { agent := .engine c, uid := r.no, world := r.req.world, tenant := r.req.tenant, ptbase := r.req.ptbase
    leaves := ((s.cluster (clusterOf c)).engineTc.filter fun p => p.1 == tablesKey r.req.ptbase).map fun p => p.2
    xl := r.xl, core := c, col := columnOf c }

/-- The request fails (R250): the lowest offset stands. -/
def Running.fail (r : Running) (f : Fail) : Running :=
  { r with failed := match r.failed with
      | some g => if f.off < g.off then some f else some g
      | none => some f }

/-- One access of a request: it is requested, waits for a translation, or fails the request. -/
def State.engineAccess (s : State) (c : Nat) (r : Running) (space : Nat) (ea : Word) (width : Nat) (need : Need)
    (off code : Nat) (f : Access → Access) (go : Running → Running) : State :=
  match s.check (s.engineWho r) (modeOf space) ea width need with
  | .walk va => (s.onRun c fun r => { r with walking := some va }).askWalk (.engine c) c r.req.ptbase va
  | .bad k addr => s.onRun c fun r => r.fail { cause := k.code, off := off, code := code, addr := addr }
  | .good a => (s.onRun c go).request (.engine c) c (f a)

/-- The source address of block i. -/
def Req.srcAt (q : Req) (i : Nat) : Word :=
  if q.kind = 0x02 then q.w1 + BitVec.ofNat 64 (64 * (bits q.low 31 16 * (i / q.aux) + i % q.aux))
  else q.w1 + BitVec.ofNat 64 (64 * i)

/-- The destination address of block i. -/
def Req.dstAt (q : Req) (i : Nat) : Word :=
  if q.kind = 0x02 then q.w2 + BitVec.ofNat 64 (64 * (bits q.low 15 0 * (i / q.aux) + i % q.aux))
  else q.w2 + BitVec.ofNat 64 (64 * i)

/-- The first byte of line i of WBR, INVR and MCREAD: offset in the range, address. -/
def Req.lineAt (q : Req) (i : Nat) : Nat × Word :=
  let va := q.w1.toNat % 2 ^ 48
  let off := if i = 0 then 0 else (va / 192 + i) * 192 - va
  (off, q.w1 + BitVec.ofNat 64 off)

/-- The lines of a range of bytes. -/
def Req.lines (q : Req) (n : Nat) : Nat :=
  let va := q.w1.toNat % 2 ^ 48
  if n = 0 then 0 else (va + n - 1) / 192 - va / 192 + 1

/-- The next write of a request that is ready: number, address, bytes, poison, offset (R244: ascending). -/
def Running.ready (r : Running) : Option (Word × List Byte × Bool × Nat) :=
  let i := r.nextWrite
  let q := r.req
  match r.phase with
  | 0 => match q.kind with
    | 0x01 | 0x02 => match find r.got i with
      | some (bs, bad) => some (q.dstAt i, bs, bad, 64 * i)
      | none => none
    | 0x03 => if i < r.total then some (q.dstAt i, (List.range 8).flatMap fun _ => toBytes 8 q.w1.toNat, false, 64 * i) else none
    | _ => none
  | 3 => match r.out[i]? with
    | some (a, bs, off) =>
      if q.kind = 0x10 && i + 1 == r.out.length && !r.writes.isEmpty then none else some (a, bs, r.poisoned, off)
    | none => none
  | _ => none

/-- A further write may be issued: one at a time to GLOBAL space, where a fault may be found at the home; never two to one
block (R248, R250). -/
def Running.mayWrite (r : Running) (a : Word) : Bool :=
  (r.writes.isEmpty || decide (r.req.dsp ≠ 0)) && !(r.writes.any fun p => p.2 == a)

/-- A further source block may be read: all of a request are requested on one cycle (06_wheels R143). -/
def Running.mayRead (r : Running) : Bool :=
  decide (r.nextRead < r.total) && (match r.phase with
    | 0 => [0x01, 0x02, 0x05, 0x06].contains r.req.kind
    | 1 | 2 => true
    | _ => false)

/-- Issue the next access of a request, if one may be issued. -/
def State.engineIssue (s : State) (c : Nat) : Option State := match (s.core c).running with
  | none => none
  | some r =>
    let q := r.req
    if r.failed.isSome || r.walking.isSome || r.ending then none
    else
      let write := match r.ready with
        | some (a, bs, bad, off) =>
          if r.mayWrite a then
            some (s.engineAccess c r q.dsp a (if bs.length = 64 then 64 else 1) { r := false, w := true } off
              (if q.kind = 0x10 then 7 else 0) (fun x => { x with op := .store bs, idx := r.nextWrite, poison := bad })
              fun r => { r with nextWrite := r.nextWrite + 1, got := unset r.got r.nextWrite, writes := r.writes ++ [(r.nextWrite, a)] })
          else none
        | none => none
      match write with
      | some s => some s
      | none =>
        if !r.mayRead then none
        else
          let i := r.nextRead
          let go := fun (r : Running) => { r with nextRead := i + 1, reads := r.reads ++ [i] }
          if q.kind = 0x05 || q.kind = 0x06 then
            let (off, a) := q.lineAt i
            some (s.engineAccess c r 0 a 1 { r := q.kind == 0x05, w := q.kind == 0x06 } off 0
              (fun x => { x with op := if q.kind = 0x05 then .wbl else .inv, idx := i, tagchk := false }) go)
          else
            some (s.engineAccess c r q.ssp (q.srcAt i) 64 { r := true, w := false } (64 * i) 0
              (fun x => { x with op := .load 64 false, idx := i }) go)

/-- The bytes read so far in order, up to the first gap. -/
def gather (got : List (Nat × (List Byte × Bool))) (i : Nat) (fuel : Nat) : List Byte := match fuel with
  | 0 => []
  | fuel + 1 => match find got i with
    | some (bs, _) => bs ++ gather got (i + 1) fuel
    | none => []

/-- Cut output bytes into writes of 64 bytes at rising addresses. -/
def cutOut (a : Word) (bs : List Byte) (off : Nat) (fuel : Nat) : List (Word × List Byte × Nat) := match fuel with
  | 0 => []
  | fuel + 1 =>
    if bs.isEmpty then []
    else (a, bs.take 64, off) :: cutOut (a + 64) (bs.drop 64) (off + 64) fuel

/-- The output of SQZ: the stream's blocks, the first of them last (R263). -/
def Running.squeeze (r : Running) : Running :=
  let q := r.req
  let stream := sqzStream (sqzPar q.low) ((gather r.got 0 (r.total + 1)).take q.len)
  let ws := cutOut q.w2 stream 0 (stream.length + 1)
  { r with phase := 3, out := ws.drop 1 ++ ws.take 1, got := [], poisoned := r.got.any fun p => p.2.2 }

/-- The output of XPND (R265): the elements of every block before a failure, whether of a read or of the stream. DESIGN CHOICE (log 35): a
failed read's byte offset is that of its block in the stream, the stream's own failure's the number of bytes written. -/
def Running.expand (r : Running) : Running :=
  let q := r.req
  match readHead (gather r.got 0 1) q.len with
  | .bad code => { r.fail { cause := 0, off := 0, code := code } with phase := 3, got := [] }
  | .ok p count len =>
    let all := gather r.got 0 (r.total + 1)
    let cut := decide (all.length < len)
    let x := p.expand ((all.take len).drop 16) count 0 0 cut (count + 2)
    let later := if x.code = 0 then r.failed else some { cause := 0, off := x.bytes.length, code := x.code }
    { r with phase := 3, out := cutOut q.w2 x.bytes 0 (x.bytes.length + 1), got := [], failed := none, later := later
             poisoned := r.got.any fun p => p.2.2 }

/-- What follows when no access is under way: the next phase, or none. -/
def State.nextPhase (s : State) (c : Nat) (r : Running) : Option State :=
  let q := r.req
  if r.phase = 1 then
    if r.failed.isSome then none
    else match readHead (gather r.got 0 1) q.len with
      | .bad code => some (s.onRun c fun r => r.fail { cause := 0, off := 0, code := code })
      | .ok p count len =>
        if s.refuses q (count, p.size, len) then some (s.endRequest c { r with failed := none } true)
        else some (s.onRun c fun r => { r with phase := 2, total := (len + 63) / 64 })
  else if r.phase = 2 && (r.failed.isSome || decide (r.nextRead = r.total)) then
    if q.kind = 0x11 then some (s.setRun c r.expand)
    else if r.failed.isSome then none
    else some (s.setRun c r.squeeze)
  else none

/-- Every block of a request is done, or it has failed. -/
def Running.complete (r : Running) : Bool :=
  r.failed.isSome || (match r.phase with
    | 0 => match r.req.kind with
      | 0x01 | 0x02 | 0x03 => decide (r.nextWrite = r.total)
      | _ => decide (r.nextRead = r.total)
    | 3 => decide (r.nextWrite = r.out.length)
    | _ => false)

/-- Every source block of a request has been read (R254); FILL, WBR and INVR have none. -/
def Running.allRead (r : Running) : Bool :=
  r.failed.isNone && r.reads.isEmpty && (match r.req.kind with
    | 0x01 | 0x02 => decide (r.nextRead = r.total)
    | 0x10 | 0x11 => decide (r.phase = 3)
    | 0x04 => decide (r.nextRead = r.total) && decide (r.mcLines = 0) && decide (r.mcSrc = 0)
    | _ => false)

/-- Nothing of a request is under way any more. -/
def Running.idle (r : Running) : Bool :=
  r.reads.isEmpty && r.writes.isEmpty && r.walking.isNone && decide (r.mcLines = 0) && decide (r.mcSrc = 0) && r.mcNeed.isEmpty

/-- Its writes are performed at the completion scope (R254, R233). -/
def Running.atScope (r : Running) : Bool := decide (r.req.scope < 4) || decide (r.invals = 0)

/-- Go on with the request of a core for a number of steps: issue what may be issued, enter the next phase, set the tag bits. -/
def State.pumpFor (s : State) (c : Nat) (fuel : Nat) : State := match fuel with
  | 0 => s
  | fuel + 1 => match s.engineIssue c with
    | some s => s.pumpFor c fuel
    | none => match (s.core c).running with
      | none => s
      | some r =>
        if r.ending then s
        else if r.reads.isEmpty && r.writes.isEmpty && r.walking.isNone && (s.nextPhase c r).isSome then
          match s.nextPhase c r with
          | some s => s.pumpFor c fuel
          | none => s
        else
          let s := if r.allRead && !r.freed then
            { s with agenda := .dev .tagfreeSet { unit := c } :: s.agenda } else s
          if r.complete && r.idle && r.atScope then
            (s.onRun c fun r => { r with ending := true, failed := match r.failed with
              | some f => some f
              | none => r.later }).inCycles (clusterOf c) 1 .tagdoneSet { unit := c }
          else s

/-- The number of steps a request can make at once: each of its blocks read and written, the blocks of an output that is still to be
made, those of a stream whose header has been read, and the phases between. -/
def Running.steps (r : Running) : Nat :=
  2 * (r.total + r.out.length) + 64 + (if r.phase = 1 then r.req.len / 64 + 1
    else if r.phase = 2 && r.reads.isEmpty then (if r.req.kind = 0x11 then r.expand else r.squeeze).out.length
    else 0)

/-- Go on with the request of a core. -/
def State.pump (s : State) (c : Nat) : State := match (s.core c).running with
  | some r => s.pumpFor c r.steps
  | none => s

/-- The answer to an access of a request: the data of a read, the acknowledgement of a write, or a fault (R250). -/
def State.engineAnswered (s : State) (c : Nat) (a : Access) (x : AccResult) : State :=
  let s := s.onRun c fun r =>
    let line := match a.op with
      | .mcast off => some off
      | _ => none
    let r := { r with mcLines := r.mcLines - (if line.isSome then 1 else 0) }
    let off := if line.isSome then line.getD 0 else if r.phase = 3 then (match r.out[a.idx]? with
        | some o => o.2.2
        | none => 0)
      else if r.req.kind = 0x05 || r.req.kind = 0x06 then (r.req.lineAt a.idx).1 else 64 * a.idx
    let r := match x.fault with
      | some k => r.fail { cause := k.code, off := off, addr := BitVec.ofNat 64 a.va
                           code := if isStore a.op && r.req.kind == 0x10 && (k == Cause.page || k == Cause.perm || k == Cause.range) then 7 else 0 }
      | none => r
    if isStore a.op then { r with writes := r.writes.filter fun p => p.1 != a.idx }
    else
      let r := { r with reads := r.reads.filter (· != a.idx) }
      if x.fault.isSome || a.op = .wbl || a.op = .inv || line.isSome then r
      else { r with got := assign r.got a.idx (x.bytes, x.poison) }
  s.pump c

/-- A translation for a request is answered (R246). -/
def State.engineWalked (s : State) (c va : Nat) (leaf : Option Leaf) : State :=
  match (s.core c).running with
  | none => s
  | some r =>
    let s := match leaf with
      | some l => s.onCluster (clusterOf c) fun k => { k with engineTc := ((tablesKey r.req.ptbase, l) :: k.engineTc).take 64 }
      | none => s
    (s.onRun c fun r => { r with walking := none, xl := [{ va := va, leaf := leaf }] }).pump c

/-! ### Taking a request (R244, R249) -/

/-- The request that a core offers the engine on this cycle. -/
def State.offers (s : State) (c : Nat) : Option Req :=
  let k := s.core c
  match k.fifo with
  | q :: _ => if k.running.isNone && decide (q.at_ ≤ s.cyc c) && decide (k.engineAt ≤ s.cyc c) then some q else none
  | [] => none

/-- The row that takes a request of a kind. -/
def takeRow (kind : Nat) : Instr := match kind with
  | 0x01 => .copy
  | 0x02 => .copy2d
  | 0x03 => .fill
  | 0x04 => .mcread
  | 0x05 => .wbr
  | 0x06 => .invr
  | 0x10 => .sqz
  | 0x11 => .xpnd
  | _ => .refusedRequestKind

/-- The core whose request a cluster's engine takes on this cycle: round-robin after the core served last. -/
def State.engineTakes (s : State) (cl : Nat) : Option Nat :=
  let last := (s.cluster cl).engineLast
  (((List.range 16).map fun i => 16 * cl + (last + 1 + i) % 16).filter fun c => (s.offers c).isSome).head?

/-- A request as it starts: blocks or lines to move. -/
def Running.start (q : Req) : Running :=
  match q.kind with
  | 0x01 | 0x03 => { req := q, total := q.len / 64 }
  | 0x02 => { req := q, total := q.len * q.aux }
  | 0x10 => { req := q, phase := if q.len = 0 then 0 else 2, total := (q.len + 63) / 64 }
  | 0x11 => { req := q, phase := 1, total := 1 }
  | _ => { req := q, total := q.lines q.len }

/-- Take the request that a core offers, if its kind is the row's: it is refused, or begins. -/
def State.take (s : State) (row : Instr) (go : State → Nat → Running → State) : State :=
  let c := s.subj.unit
  match s.offers c with
  | some q =>
    if takeRow q.kind = row then
      let s := s.onCore c fun k => { k with fifo := k.fifo.drop 1 }
      let s := s.onCluster (clusterOf c) fun k => { k with engineLast := c % 16 }
      let s := { s with nextId := s.nextId + 1 }
      let r := { Running.start q with no := s.nextId }
      if q.kind != 0x11 && s.refuses q (0, 0, 0) || q.malformed then s.endRequest c r true
      else go (s.onCore c fun k => { k with running := some r }) c r
    else s
  | none => s

/-- Begin with the blocks of a request. -/
def beginBlocks (s : State) (c : Nat) (_r : Running) : State := s.pump c

/-- COPY. -/
def execCopy (s : State) : Host.Outcome State Fault Refusal := .next (s.take .copy beginBlocks)
/-- COPY2D. -/
def execCopy2d (s : State) : Host.Outcome State Fault Refusal := .next (s.take .copy2d beginBlocks)
/-- FILL. -/
def execFill (s : State) : Host.Outcome State Fault Refusal := .next (s.take .fill beginBlocks)
/-- WBR. -/
def execWbr (s : State) : Host.Outcome State Fault Refusal := .next (s.take .wbr beginBlocks)
/-- INVR. -/
def execInvr (s : State) : Host.Outcome State Fault Refusal := .next (s.take .invr beginBlocks)
/-- SQZ. A length of zero makes no access (R248). -/
def execSqz (s : State) : Host.Outcome State Fault Refusal := .next (s.take .sqz beginBlocks)
/-- XPND: the stream's header is read first. -/
def execXpnd (s : State) : Host.Outcome State Fault Refusal := .next (s.take .xpnd beginBlocks)
/-- REFUSED_REQUEST_KIND: a request of another KIND is refused. -/
def execRefusedRequestKind (s : State) : Host.Outcome State Fault Refusal := .next (s.take .refusedRequestKind beginBlocks)

/-! ### CPQ (R251, R252) -/

/-- CPQ: push a request, or give the busy code, or be held. -/
def execCpq (busy : Option Nat) (a b c e : Nat) (s : State) : Host.Outcome State Fault Refusal :=
  guarded s false (a :: b :: c :: e :: busy.toList) busy.toList fun co sl =>
    let k := s.core co
    let w0 := s.reg64 co sl a
    let tag := bits w0.toNat 55 50
    let code := if 16 ≤ k.fifo.length then 1 else if k.inUse.contains tag then 2 else 0
    if code = 0 then
      let q : Req := { w0 := w0, w1 := s.reg64 co sl b, w2 := s.reg64 co sl c, w3 := s.reg64 co sl e
                       world := (s.thread co sl).world, tenant := s.tenantOf (clusterOf co), ptbase := k.ptbase
                       core := co, slot := sl, at_ := s.cyc co + 2 }
      let s := s.onCore co fun k =>
        { k with fifo := k.fifo ++ [q], inUse := tag :: k.inUse, tagdone := withoutBit k.tagdone tag
                 tagfree := withoutBit k.tagfree tag }
      let s := s.onThread co sl fun th => { th with engine := tag :: th.engine }
      match busy with
      | some d => s.finishPut co sl d 0
      | none => s.finish co sl
    else match busy with
      | some d => s.finishPut co sl d (BitVec.ofNat 64 code)
      | none => s.stay co sl (some .send)

/-! ### WAITT (R255 to R257) -/

/-- The bitmap that WAITT looks at; a held thread sees a bit from the cycle after it was set. -/
def State.tagBits (s : State) (c sl : Nat) (free : Bool) : Word :=
  let k := s.core c
  let bm := if free then k.tagfree else k.tagdone
  if (s.thread c sl).holding.isSome && decide (k.tagSetAt = s.cyc c) then
    bm &&& ~~~(if free then k.tagSetF else k.tagSetD)
  else bm

/-- WAITT.ANY. -/
def execWaittAny (free : Bool) (d a : Nat) (s : State) : Host.Outcome State Fault Refusal :=
  guarded s false [d, a] [d] fun c sl =>
    let m := s.reg64 c sl a
    let v := s.tagBits c sl free &&& m
    if m ≠ 0 ∧ v = 0 then s.stay c sl (some .waitt) else s.finishPut c sl d v
/-- WAITT.ALL. -/
def execWaittAll (free : Bool) (a : Nat) (s : State) : Host.Outcome State Fault Refusal :=
  guarded s false [a] [] fun c sl =>
    let m := s.reg64 c sl a
    if s.tagBits c sl free &&& m = m then s.finish c sl else s.stay c sl (some .waitt)
/-- The index of the lowest set bit, 64 for none. -/
def lowestSet (v : Word) : Nat := ((List.range 64).find? fun i => v.getLsbD i).getD 64
/-- WAITT.FFR. -/
def execWaittFfr (free : Bool) (d a : Nat) (s : State) : Host.Outcome State Fault Refusal :=
  guarded s false [d, a] [d] fun c sl =>
    s.finishPut c sl d (BitVec.ofNat 64 (lowestSet (s.tagBits c sl free &&& s.reg64 c sl a)))
/-- WAITT.CLR. -/
def execWaittClr (free : Bool) (a : Nat) (s : State) : Host.Outcome State Fault Refusal :=
  guarded s false [a] [] fun c sl =>
    let m := s.reg64 c sl a
    (s.onCore c fun k => if free then { k with tagfree := k.tagfree &&& ~~~m } else { k with tagdone := k.tagdone &&& ~~~m }).finish c sl
/-- WAITT.TEST. -/
def execWaittTest (free : Bool) (d a : Nat) (s : State) : Host.Outcome State Fault Refusal :=
  guarded s false [d, a] [d] fun c sl => s.finishPut c sl d (s.tagBits c sl free &&& s.reg64 c sl a)

end Sys2Proof.Machine
end

