-- ==== Sys2Proof/Machine/Sha.lean ====
section
/-!
DEFINITION. SHA-512 and HMAC-SHA-512, which the spec names by their standards (13_matrix R322, 23_retire R445, R447; log 30):
FIPS 180-4 and FIPS 198-1.
-/
namespace Sys2Proof.Machine

open Sys2Proof

/-- The first 80 primes. -/
def shaPrimes : List Nat :=
  (List.range 410).filter fun n => decide (2 ≤ n) && (List.range n).all fun d => decide (d < 2) || decide (n % d ≠ 0)

/-- The integer cube root of n, found bit by bit from bit k - 1 down. -/
def shaCbrtFrom (n : Nat) (k acc : Nat) : Nat := match k with
  | 0 => acc
  | k + 1 =>
    let y := acc + 2 ^ k
    shaCbrtFrom n k (if y * y * y ≤ n then y else acc)

/-- The round constants: 64 bits of the fractions of the cube roots of the first 80 primes. -/
def shaK : List Word := shaPrimes.map fun p => BitVec.ofNat 64 (shaCbrtFrom (p * 2 ^ 192) 68 0)

/-- The initial value: 64 bits of the fractions of the square roots of the first eight primes. -/
def shaInit : List Word := (shaPrimes.take 8).map fun p => BitVec.ofNat 64 (isqrt (p * 2 ^ 128))

/-- Big-endian bytes of a word. -/
def beBytes (w : Word) : List Byte := (toBytes 8 w.toNat).reverse

/-- A message with its padding. -/
def shaPad (m : List Byte) : List Byte :=
  let z := (239 - m.length % 128) % 128
  m ++ [0x80] ++ List.replicate z 0 ++ (toBytes 16 (8 * m.length)).reverse

/-- Rotate right. -/
def rotr (w : Word) (n : Nat) : Word := w.rotateRight n

/-- Extend the message schedule by n words; the list holds the newest word first. -/
def shaExtend (n : Nat) (w : List Word) : List Word := match n with
  | 0 => w
  | n + 1 =>
    let x := w.getD 1 0
    let y := w.getD 14 0
    let s1 := rotr x 19 ^^^ rotr x 61 ^^^ (x >>> 6)
    let s0 := rotr y 1 ^^^ rotr y 8 ^^^ (y >>> 7)
    shaExtend n ((s1 + w.getD 6 0 + s0 + w.getD 15 0) :: w)

/-- One round on the eight working words. -/
def shaRound (h : List Word) (kw : Word × Word) : List Word := match h with
  | [a, b, c, d, e, f, g, x] =>
    let t1 := x + (rotr e 14 ^^^ rotr e 18 ^^^ rotr e 41) + ((e &&& f) ^^^ (~~~e &&& g)) + kw.1 + kw.2
    let t2 := (rotr a 28 ^^^ rotr a 34 ^^^ rotr a 39) + ((a &&& b) ^^^ (a &&& c) ^^^ (b &&& c))
    [t1 + t2, a, b, c, d + t1, e, f, g]
  | _ => h

/-- The words of a block, first word last. -/
def shaWords (bs : List Byte) (n : Nat) (acc : List Word) : List Word := match n with
  | 0 => acc
  | n + 1 => shaWords (bs.drop 8) n (BitVec.ofNat 64 (ofBytes (bs.take 8).reverse) :: acc)

/-- Absorb one block of 128 bytes. -/
def shaBlock (h : List Word) (bs : List Byte) : List Word :=
  let w := (shaExtend 64 (shaWords bs 16 [])).reverse
  List.zipWith (· + ·) h ((shaK.zip w).foldl shaRound h)

/-- Absorb n blocks. -/
def shaBlocks (n : Nat) (h : List Word) (bs : List Byte) : List Word := match n with
  | 0 => h
  | n + 1 => shaBlocks n (shaBlock h (bs.take 128)) (bs.drop 128)

/-- SHA-512. -/
def sha512 (m : List Byte) : List Byte :=
  let p := shaPad m
  (shaBlocks (p.length / 128) shaInit p).flatMap beBytes

/-- HMAC-SHA-512. -/
def hmac512 (key m : List Byte) : List Byte :=
  let k := if 128 < key.length then sha512 key else key
  let k := k ++ List.replicate (128 - k.length) 0
  sha512 ((k.map (· ^^^ 0x5C)) ++ sha512 ((k.map (· ^^^ 0x36)) ++ m))

end Sys2Proof.Machine
end

