-- ==== Sys2Proof/Machine/Matrix.lean ====
section
/-!
DEFINITION. The matrix unit (13_matrix R317 to R335, R452): MX at the issuing thread, acceptance, grant and checks, the
commands' effects on tiles and banks, and their completion.
-/
namespace Sys2Proof.Machine

open Sys2Proof

/-! ### MX at the thread (R323 to R325) -/

/-- The operands of an MX: op, busy register, a, b, c, e and tag. -/
structure MxForm where
  op : Nat
  busy : Option Nat
  a : Nat
  b : Option Nat
  c : Nat
  e : Nat
  tag : Option Nat
deriving DecidableEq, Repr

/-- The form of an MX instruction. -/
def mxOf (i : Instr) : Option MxForm := match i with
  | .mxCtx q a c e g => some ⟨0, q, a, none, c, e, g⟩
  | .mxMma q a c e g => some ⟨1, q, a, none, c, e, g⟩
  | .mxMmas q a b c e g => some ⟨2, q, a, some b, c, e, g⟩
  | .mxZero q a c e g => some ⟨3, q, a, none, c, e, g⟩
  | .mxDrain q a c e g => some ⟨4, q, a, none, c, e, g⟩
  | .mxLoadc q a c e g => some ⟨5, q, a, none, c, e, g⟩
  | .mxOrder q a c e g => some ⟨6, q, a, none, c, e, g⟩
  | _ => none

/-- The registers an MX names. -/
def MxForm.regs (f : MxForm) : List Nat := f.a :: f.c :: f.e :: (f.b.toList ++ f.busy.toList)

/-- The device of a target word (R324): the module itself under its own number. -/
def State.targetDev (s : State) (w : Word) : Nat :=
  if bits w.toNat 63 48 = 0xFFFF then s.devNo else bits w.toNat 63 48

/-- The command an MX sends. -/
def State.mxCmdOf (s : State) (c sl : Nat) (f : MxForm) : MxCmd :=
  let w := s.reg64 c sl f.e
  { core := c, slot := sl, uid := (s.thread c sl).uid, dev := s.devNo, tenant := s.tenantOf (clusterOf c)
    world := (s.thread c sl).world, cl := bits w.toNat 15 8, channel := w.toNat % 4, op := f.op, w0 := s.reg64 c sl f.a
    w1 := match f.b with
      | some b => s.reg64 c sl b
      | none => 0
    cap := BitVec.ofNat 64 ((s.reg64 c sl f.c).toNat % 2 ^ 32), tag := f.tag }

/-- Carry a command to its unit (R325). Within a cluster it keeps the order of its core. -/
def State.mxTransmit (s : State) (c dev : Nat) (m : MxCmd) : State :=
  if dev = s.devNo then
    if clusterOf c = m.cl then
      let (d, s) := s.within 14
      let at_ := max (s.cyc c + d) (s.core c).outAt
      (s.onCore c fun k => { k with outAt := at_ }).notify m.cl (at_ - s.cyc c) (.mxCmd m)
    else s.ship (clusterOf c) (epOf c) m.cl 8 0 2 (.mxCmd m)
  else if s.mapped dev m.tenant then s.toDevice dev (clusterOf c) (epOf c) m.cl 8 0 2 (.mxCmd m)
  else s.notify (clusterOf c) 1 (.mxAns m .refused)

/-- One pass of the loop of R325: the tag, the release (R328), then the command. -/
def State.mxTry (s : State) (c sl : Nat) (f : MxForm) (i : Instr) : State :=
  let busyTag := match f.tag with
    | some g => (s.core c).inUse.contains g
    | none => false
  if busyTag then
    match f.busy with
    | some d => s.finishPut c sl d 2
    | none => s.stay c sl (some .send)
  else
    let m := s.mxCmdOf c sl f
    let dev := s.targetDev (s.reg64 c sl f.e)
    let here := decide (dev = s.devNo)
    if s.relWaits (s.thread c sl) (farFrom c (if here then some m.cl else none)) then s.stay c sl (some .send)
    else
      let s := (s.mxTransmit c dev m).await c sl i (some .send)
      if here && decide (m.cl = clusterOf c) then s.answerTurns c sl else s

/-- MX. -/
def mx (i : Instr) (s : State) : Host.Outcome State Fault Refusal := match mxOf i with
  | some f => guarded s false f.regs f.busy.toList fun c sl => s.mxTry c sl f i
  | none => .next s

/-- MX.CTX. -/
def execMxCtx (busy : Option Nat) (a c e : Nat) (tag : Option Nat) (s : State) : Host.Outcome State Fault Refusal :=
  mx (.mxCtx busy a c e tag) s
/-- MX.MMA. -/
def execMxMma (busy : Option Nat) (a c e : Nat) (tag : Option Nat) (s : State) : Host.Outcome State Fault Refusal :=
  mx (.mxMma busy a c e tag) s
/-- MX.MMAS. -/
def execMxMmas (busy : Option Nat) (a b c e : Nat) (tag : Option Nat) (s : State) : Host.Outcome State Fault Refusal :=
  mx (.mxMmas busy a b c e tag) s
/-- MX.ZERO. -/
def execMxZero (busy : Option Nat) (a c e : Nat) (tag : Option Nat) (s : State) : Host.Outcome State Fault Refusal :=
  mx (.mxZero busy a c e tag) s
/-- MX.DRAIN. -/
def execMxDrain (busy : Option Nat) (a c e : Nat) (tag : Option Nat) (s : State) : Host.Outcome State Fault Refusal :=
  mx (.mxDrain busy a c e tag) s
/-- MX.LOADC. -/
def execMxLoadc (busy : Option Nat) (a c e : Nat) (tag : Option Nat) (s : State) : Host.Outcome State Fault Refusal :=
  mx (.mxLoadc busy a c e tag) s
/-- MX.ORDER. -/
def execMxOrder (busy : Option Nat) (a c e : Nat) (tag : Option Nat) (s : State) : Host.Outcome State Fault Refusal :=
  mx (.mxOrder busy a c e tag) s

/-- MX_RETRY: 64 cycles after a FULL answer the loop goes on (R325). On a core that does not run it is saved at the instruction and
executed again (20_traps R416). -/
def execMxRetry (s : State) : Host.Outcome State Fault Refusal :=
  let c := s.subj.unit / 16
  let sl := s.subj.unit % 16
  let th := s.thread c sl
  if th.hold = .retry && decide ((s.slot c sl).st = .run) && decide ((s.core c).pre = .running) then
    match th.pend with
    | some p => match mxOf p.instr with
      | some f => .next (s.mxTry c sl f p.instr)
      | none => .next s
    | none => .next s
  else .next s

/-- A command's mark in its thread's list of work under way (R219): its tag, or a number above every tag. -/
def MxCmd.mark (m : MxCmd) : Nat := m.tag.getD 64

/-- The ACCEPT answer at the issuing core: the tag comes into use and its bits clear (R325). -/
def State.mxAccepted (s : State) (m : MxCmd) : State :=
  let s := s.onCore m.core fun k =>
    let k := { k with mxOut := k.mxOut + 1 }
    match m.tag with
    | some g => { k with inUse := g :: k.inUse, tagdone := withoutBit k.tagdone g, tagfree := withoutBit k.tagfree g }
    | none => k
  s.onThread m.core m.slot fun th => { th with engine := m.mark :: th.engine }

/-- MX_ANSWER. -/
def execMxAnswer (s : State) : Host.Outcome State Fault Refusal :=
  match s.takeItem s.subj.item with
  | (some (.mxAns m a), s) =>
    let c := m.core
    let sl := m.slot
    match ((s.thread c sl).waits).bind mxOf with
    | some f => match a, f.busy with
      | .full, some d => .next ((s.finishPut c sl d 1).after c sl)
      | .full, none => .next ((s.onThread c sl fun th => { th with hold := .retry }).inCycles (clusterOf c) 64 .mxRetry
          { unit := c * 16 + sl })
      | .refused, some d => .next ((s.finishPut c sl d 3).after c sl)
      | .refused, none => .next ((s.trap c sl .perm (s.reg64 c sl f.e)).after c sl)
      | _, some d => .next (((s.mxAccepted m).finishPut c sl d 0).after c sl)
      | _, none => .next (((s.mxAccepted m).finish c sl).after c sl)
    | none => .next s
  | (_, s) => .next s

/-! ### Acceptance (R320, R326) -/

/-- Change a cluster's matrix unit. -/
def State.onMatrix (s : State) (cl : Nat) (f : Matrix → Matrix) : State :=
  s.onCluster cl fun k => { k with matrix := f k.matrix }

/-- A context of a unit. -/
def Matrix.ctx (m : Matrix) (i : Nat) : MxCtx := look m.ctxs i {}

/-- The number a remote context is bound to. -/
def MxCmd.source (m : MxCmd) : Nat := 4096 * m.dev + m.core

/-- The source lies outside the unit's cluster. -/
def State.mxRemote (s : State) (m : MxCmd) : Bool := m.dev != s.devNo || decide (clusterOf m.core ≠ m.cl)

/-- The context of a command: its core's, the remote one bound to it, or a free remote one; none when all are bound. -/
def State.mxContext (s : State) (m : MxCmd) : Option (Nat × MxCtx) :=
  let u := (s.cluster m.cl).matrix
  if !(s.mxRemote m) then some (m.core % 16, u.ctx (m.core % 16))
  else match [16, 17, 18, 19].find? fun i => (u.ctx i).bound = some m.source with
    | some i => some (i, u.ctx i)
    | none => ([16, 17, 18, 19].find? fun i => (u.ctx i).bound = none).map fun i => (i, { bound := some m.source })

/-- Answer a command's source. -/
def State.mxReply (s : State) (m : MxCmd) (d : Nat) (a : Ans) : State :=
  if m.dev ≠ s.devNo then s.toDevice m.dev m.cl 8 (clusterOf m.core) (epOf m.core) 1 1 (.mxAns m a)
  else s.convey m.cl 8 (clusterOf m.core) (epOf m.core) 1 1 d (.mxAns m a)

/-- MATRIX_ACCEPT: the command joins its context's queue, or the unit is full. -/
def execMatrixAccept (s : State) : Host.Outcome State Fault Refusal :=
  match s.takeItem s.subj.item with
  | (some (.mxCmd m), s) =>
    let (d, s) := s.within 14
    match s.mxContext m with
    | some (i, x) =>
      if 32 ≤ x.queue.length then .next (s.mxReply m d .full)
      else
        let s := s.onMatrix m.cl fun u =>
          let okAt := if s.mxRemote m then 0 else (s.cluster m.cl).t + d + 1
          { u with seq := u.seq + 1, ctxs := assign u.ctxs i { x with queue := x.queue ++ [{ m with seq := u.seq, okAt := okAt }] } }
        .next (s.mxReply m d .done)
    | none => .next (s.mxReply m d .full)
  | (_, s) => .next s

/-! ### Grant and checks (R321, R322, R327, R329) -/

/-- The command that a channel of a context offers on a cycle: its oldest, but an ORDER only when nothing was accepted before it
that has not completed (R331). -/
def MxCtx.offer (x : MxCtx) (t ch : Nat) : Option MxCmd :=
  match x.queue.find? fun m => m.channel = ch with
  | some m => if m.op = 6 && (decide (t < x.lateAt) || x.queue.any fun y => decide (y.seq < m.seq)) then none else some m
  | none => none

/-- The channel that a context's turn goes to. -/
def MxCtx.turn (x : MxCtx) (t : Nat) : Option MxCmd :=
  ((List.range 4).map fun j => (x.lastCh + 1 + j) % 4).findSome? fun ch => x.offer t ch

/-- The next command of a unit on a cycle, with its context. -/
def Matrix.next (u : Matrix) (t : Nat) : Option (Nat × MxCmd) :=
  ((List.range 20).map fun j => (u.lastCtx + 1 + j) % 20).findSome? fun i => ((u.ctx i).turn t).map fun m => (i, m)

/-- The unit may be able to grant a command on this cycle: it is free, or a command that may complete on this cycle is ending. -/
def State.mxReady (s : State) (cl : Nat) : Bool :=
  let u := (s.cluster cl).matrix
  (u.next (s.cluster cl).t).isSome && (match u.run with
    | none => true
    | some r => r.ending)

/-- The right bit a command needs: CTX bit 16, MMA bit 17, OUT bit 18; ORDER needs none. -/
def mxRight (op : Nat) : Option Nat := match op with
  | 0 => some 16
  | 1 | 2 | 3 => some 17
  | 4 | 5 => some 18
  | _ => none

/-- CHECK of a capability (R322): the last two bytes of the keyed digest of TENANT, the rights and the cluster. -/
def mxCheckCode (key : List Byte) (tenant rights cl : Nat) : Nat :=
  let d := hmac512 key [BitVec.ofNat 8 tenant, BitVec.ofNat 8 rights, BitVec.ofNat 8 cl]
  256 * (d.getD 62 0).toNat + (d.getD 63 0).toNat

/-- The capability passes (R322). -/
def State.mxCapOk (s : State) (m : MxCmd) : Bool :=
  let cap := m.cap.toNat
  let t := bits cap 31 24
  (m.tenant == some t) && (s.tenantOf m.cl == some t) && (bits cap 23 20 = 0) &&
  (m.world || !(s.cluster m.cl).world) &&
  (match mxRight m.op with
    | some b => bit cap b
    | none => true) &&
  (!(s.mxRemote m) || bit cap 19) &&
  (match find s.keys t with
    | some key => mxCheckCode key t (bits cap 23 16) m.cl = bits cap 15 0
    | none => false)

/-- Planes of a format; the precision for an integer one (R318). -/
def mxPlanes (fmt prec : Nat) : Nat := match fmt with
  | 2 | 3 => 16
  | 4 | 5 => 8
  | 6 => 6
  | _ => prec

/-- The plane term (R17, R318). -/
def mxTerm (fmt prec : Nat) : Nat := match fmt with
  | 2 => 8
  | 3 => 11
  | 4 => 4
  | 5 => 3
  | 6 => 1
  | _ => prec

/-- The largest precision of an integer format; none for a floating one. -/
def mxMaxPrec (fmt : Nat) : Option Nat := match fmt with
  | 10 => some 8
  | 14 => some 4
  | _ => none

/-- A block of the unit's own cluster: bank and row, or out of range (R137). -/
def State.mxPlace (s : State) (cl : Nat) (space : Mode) (off : Nat) : Option (Nat × Nat) :=
  if 2 ^ 24 ≤ off then none else s.mapBank space (cl * 2 ^ 24 + off)

/-- A range of bytes at an offset is misaligned or runs out of its space. -/
def State.mxRangeBad (s : State) (cl : Nat) (space : Mode) (off n : Nat) : Bool :=
  decide (off % 64 ≠ 0) || (decide (0 < n) && (s.mxPlace cl space (off + n - 64)).isNone)

/-- The width in bytes of an element that DRAIN writes or LOADC reads (R329). -/
def mxOutBytes (int32 : Bool) (fmt : Nat) : Nat :=
  if int32 then 4 else match fmt with
  | 1 => 4
  | 2 | 3 => 2
  | _ => 0

/-- The checks of R329 in the order of their codes (20_traps R409): each code with whether it fails. -/
def State.mxChecks (s : State) (i : Nat) (m : MxCmd) : List (Nat × Bool) :=
  let u := (s.cluster m.cl).matrix
  let x := u.ctx i
  let w := m.w0.toNat
  let tile := !(bit x.tmask (bits w 7 5))
  [(1, !(s.mxCapOk m)), (2, (m.op != 0) && (m.op != 6) && !x.valid)] ++
  match m.op with
  | 0 =>
    let f := bits w 63 60
    let p := bits w 55 52
    [(3, !([2, 3, 4, 5, 6, 10, 14].contains f)), (4, bits w 59 56 != f),
     (5, match mxMaxPrec f with
       | some n => (p = 0) || decide (n < p)
       | none => p != 0),
     (6, bits w 51 48 != (if (mxMaxPrec f).isSome then 1 else 0)),
     (7, (List.range 20).any fun j => (j != i) && ((u.ctx j).tmask &&& bits w 47 40) != 0),
     (8, bits w 39 0 != 0)]
  | 1 | 2 =>
    let n := 256 * mxPlanes x.fmt x.prec * bits w 15 8
    [(8, (bits w 4 0 != 0) || (m.op = 2 && bits m.w1.toNat 31 0 != 0)),
     (9, s.mxRangeBad m.cl .tob (bits w 63 40) n), (10, s.mxRangeBad m.cl .tob (bits w 39 16) n),
     (11, bits w 15 8 = 0), (12, tile), (13, m.op = 2 && x.int32)]
  | 3 => [(8, (bits w 63 8 != 0) || (bits w 4 0 != 0)), (12, tile)]
  | 6 => [(8, w != 0)]
  | _ =>
    let f := bits w 15 12
    [(8, (bits w 39 16 != 0) || (bits w 11 8 != 0) || (bits w 4 0 != 0)), (12, tile),
     (14, s.mxRangeBad m.cl .spread (bits w 63 40) (4096 * mxOutBytes x.int32 f)),
     (15, if x.int32 then f != 8 else !([1, 2, 3].contains f))]

/-- The lowest check that a command fails (R329, 20_traps R409). -/
def State.mxRefusal (s : State) (i : Nat) (m : MxCmd) : Option Nat :=
  ((s.mxChecks i m).find? fun p => p.2).map fun p => p.1

/-- The row of a granted command. -/
def mxRow (op : Nat) : Instr := match op with
  | 0 => .ctx
  | 1 => .mma
  | 2 => .mmas
  | 3 => .zero
  | 4 => .drain
  | 5 => .loadc
  | _ => .order

/-- MATRIX_GRANT: the next command is checked, and refused or begun. -/
def execMatrixGrant (s : State) : Host.Outcome State Fault Refusal :=
  let cl := s.subj.unit
  let u := (s.cluster cl).matrix
  if u.run.isSome then .next s else
  match u.next (s.cluster cl).t with
  | none => .next s
  | some (i, m) =>
    let x := u.ctx i
    let bad := s.mxRefusal i m
    let s := s.onMatrix cl fun u =>
      { u with lastCtx := i, run := some { cmd := m, ctx := i, check := bad, ending := bad.isSome }
               ctxs := assign u.ctxs i { x with queue := x.queue.erase m, lastCh := m.channel } }
    match bad with
    | some _ => .next (s.inCycles cl 1 .matrixComplete { unit := cl })
    | none => .next { s with agenda := .dev (mxRow m.op) { unit := cl } :: s.agenda }

/-! ### Ports (R334) -/

/-- The first meeting of a port with a bank from cycle F + 2 on that has no block yet. -/
def State.freeMeeting (s : State) (cl port bank t : Nat) (given : List (Nat × Nat)) (fuel : Nat) : Nat :=
  let c := s.meet cl port bank cl t
  match fuel with
  | 0 => c
  | fuel + 1 => if given.contains (port, c) then s.freeMeeting cl port bank (c - 1) given fuel else c

/-- The port that takes a block, with its meeting: the earliest, on a tie the lowest port. -/
def State.portFor12 (s : State) (cl bank : Nat) (given : List (Nat × Nat)) : Nat × Nat :=
  ((List.range 12).map fun p => (16 + p, s.freeMeeting cl (16 + p) bank (s.cluster cl).t given given.length)).foldl
    (fun best p => if p.2 < best.2 then p else best) (16, s.freeMeeting cl 16 bank (s.cluster cl).t given given.length)

/-- Change the command being executed. -/
def State.onMxRun (s : State) (cl : Nat) (f : MxRun → MxRun) : State :=
  s.onMatrix cl fun u => { u with run := u.run.map f }

/-- Request blocks of the unit's cluster, all on this cycle: number, offset and operation. A block that is out of range
is noted (R452). -/
def State.mxRequest (s : State) (cl : Nat) (space : Mode) (world : Bool) (l : List (Nat × Nat × AccOp)) : State :=
  (l.foldl (fun (st : State × List (Nat × Nat)) b =>
    let (s, given) := st
    match s.mxPlace cl space b.2.1 with
    | none => (s.onMxRun cl fun r => { r with bad := b.1 :: r.bad }, given)
    | some (bank, row) =>
      let p := s.portFor12 cl bank given
      let a : Access := { agent := .matrix cl, idx := b.1, space := space, va := cl * 2 ^ 24 + b.2.1, op := b.2.2
                          world := world, cl := cl, bank := bank, row := row }
      ((s.onMxRun cl fun r => { r with left := r.left + 1 }).requestBank cl p.1 a, p :: given)) (s, [])).1

/-! ### Tiles (R319) -/

/-- Element e of a tile. -/
def Matrix.tile (u : Matrix) (t e : Nat) : Nat := (look u.tiles (t * 4096 + e) 0).toNat

/-- Replace a tile's elements; zeros are not listed. -/
def Matrix.setTile (u : Matrix) (t : Nat) (f : Nat → Nat) : Matrix :=
  let new := ((List.range 4096).map fun e => (t * 4096 + e, BitVec.ofNat 32 (f e))).filter fun p => p.2 != 0
  { u with tiles := (u.tiles.filter fun p => decide (p.1 < t * 4096)) ++ new ++
                    (u.tiles.filter fun p => decide ((t + 1) * 4096 ≤ p.1)) }

/-- The tile a command names. -/
def MxCmd.tileNo (m : MxCmd) : Nat := bits m.w0.toNat 7 5

/-! ### Arithmetic (R332, R333) -/

/-- rne32. -/
def rne32 (v : FVal) : Nat := (specF32.deliver .rne v).1

/-- The product of two LOG6 codes (R333). -/
def log6Product (a b : Nat) : FVal :=
  if a % 64 = 32 || b % 64 = 32 then .nan false
  else if a % 32 = 0 || b % 32 = 0 then .fin false 0 0
  else
    let l := a % 32 + b % 32
    match specF32.val (log6Table (l % 4)) with
    | .fin _ m e => .fin (bit a 5 != bit b 5) m (e + ((l / 4 : Nat) : Int) - 8)
    | v => v

/-- The format of a floating context. -/
def mxSpec (fmt : Nat) : FSpec := match fmt with
  | 2 => specBf16
  | 3 => specF16
  | 4 => specE4m3
  | _ => specE5m2

/-- The product of two elements. -/
def mxProduct (fmt a b : Nat) : FVal :=
  if fmt = 6 then log6Product a b else (mulVal ((mxSpec fmt).val a) ((mxSpec fmt).val b)).1

/-- A value is NaN. -/
def FVal.isNan (v : FVal) : Bool := match v with
  | .nan _ => true
  | _ => false

/-- A value is the zero of sign minus. -/
def FVal.isNegZero (v : FVal) : Bool := match v with
  | .fin n m _ => n && m = 0
  | _ => false

/-- The exact sum of finite values, in units of 2^e. -/
def sumAt (e : Int) (l : List FVal) : Int :=
  l.foldl (fun a v => match v with
    | .fin n m x => a + signed n (m * 2 ^ (x - e).toNat)
    | _ => a) 0

/-- The smallest exponent of the nonzero values. -/
def minExp (l : List FVal) : Int :=
  l.foldl (fun a v => match v with
    | .fin _ m x => if m = 0 then a else min a x
    | _ => a) 0

/-- chunk_sum (R333). -/
def chunkSum (l : List FVal) : FVal :=
  if l.any (·.isNan) then .nan false
  else if l.contains (.inf false) && l.contains (.inf true) then .nan false
  else if l.contains (.inf false) then .inf false
  else if l.contains (.inf true) then .inf true
  else if l.all (·.isNegZero) then .fin true 0 0
  else
    let l := l.filter fun v => match v with
      | .fin _ m _ => m != 0
      | _ => false
    let e := minExp l
    let t := sumAt e l
    .fin (decide (t < 0)) t.natAbs e

/-- One element's update of one chunk (R332): its old bits, the codes of its row and column. -/
def mxElement (x : MxCtx) (scale : Option Nat) (c : Nat) (row col : List Nat) : Nat :=
  if x.int32 then
    wrapN 32 ((c : Int) + (List.zipWith (fun a b => sext a x.prec * sext b x.prec) row col).foldl (· + ·) 0)
  else
    let s := chunkSum (List.zipWith (mxProduct x.fmt) row col)
    let v := match scale with
      | some k => rne32 (mulVal (specF32.val k) s).1
      | none => rne32 s
    (specF32.add .rne c v).1

/-- The codes of a chunk (R317): for each of the 64 rows of A, or columns of B, its 32 elements. -/
def mxCodes (planes : Nat) (bs : List Byte) : List (List Nat) :=
  let word := fun q => ofBytes (slice bs (8 * q) 8)
  let ws := (List.range (32 * planes)).map word
  (List.range 64).map fun i => (List.range 32).map fun k =>
    (List.range planes).foldl (fun a p => if bit (nth ws (k * planes + p)) i then a + 2 ^ p else a) 0

/-- The 32-bit scale of a command. -/
def MxCmd.scale (m : MxCmd) : Option Nat := if m.op = 2 then some (bits m.w1.toNat 63 32) else none

/-- Add a chunk into its tile. -/
def Matrix.addChunk (u : Matrix) (x : MxCtx) (m : MxCmd) (a b : List Byte) : Matrix :=
  let p := mxPlanes x.fmt x.prec
  let rows := mxCodes p a
  let cols := mxCodes p b
  u.setTile m.tileNo fun e =>
    mxElement x m.scale (u.tile m.tileNo e) (rows.getD (e / 64) []) (cols.getD (e % 64) [])

/-! ### The commands (R331, R332, R335, R452) -/

/-- The bytes of consecutive blocks from number n on. -/
def blockBytes (got : List (Nat × List Byte)) (n count : Nat) : List Byte :=
  (List.range count).flatMap fun j => look got (n + j) []

/-- Request the blocks of a chunk: A, then B. -/
def State.mxAskChunk (s : State) (cl n : Nat) : State := match (s.cluster cl).matrix.run with
  | some r =>
    let x := (s.cluster cl).matrix.ctx r.ctx
    let k := 4 * mxPlanes x.fmt x.prec
    let w := r.cmd.w0.toNat
    let blocks := fun (first base : Nat) => (List.range k).map fun j =>
      (128 * n + first + j, base + 64 * k * n + 64 * j, AccOp.load 64 false)
    s.mxRequest cl .tob r.cmd.world (blocks 0 (bits w 63 40) ++ blocks k (bits w 39 16))
  | none => s

/-- The command is over after d cycles, or on this one. -/
def State.mxEnd (s : State) (cl d : Nat) : State :=
  let s := s.onMxRun cl fun r => { r with ending := true, check := if r.bad.isEmpty then r.check else some 16 }
  if d = 0 then { s with agenda := .dev .matrixComplete { unit := cl } :: s.agenda } else s.inCycles cl d .matrixComplete { unit := cl }

/-- MMA and MMAS go on: a chunk whose blocks are all there is computed, and the next one is requested when that begins; one
that lacks a block ends the command. -/
def State.mxCompute (s : State) (cl : Nat) : State := match (s.cluster cl).matrix.run with
  | some r =>
    if 0 < r.left || r.computing || r.ending then s
    else if !r.bad.isEmpty then s.mxEnd cl 0
    else
      let x := (s.cluster cl).matrix.ctx r.ctx
      let s := s.onMxRun cl fun r => { r with computing := true }
      let s := if r.chunk + 1 < bits r.cmd.w0.toNat 15 8 then s.mxAskChunk cl (r.chunk + 1) else s
      s.inCycles cl (mxTerm x.fmt x.prec) (mxRow r.cmd.op) { unit := cl, sub := 1 }
  | none => s

/-- A chunk's compute ends: the tile takes its sums. -/
def State.mxComputed (s : State) (cl : Nat) : State := match (s.cluster cl).matrix.run with
  | some r =>
    if !r.computing then s else
    let u := (s.cluster cl).matrix
    let x := u.ctx r.ctx
    let k := 4 * mxPlanes x.fmt x.prec
    let a := blockBytes r.got (128 * r.chunk) k
    let b := blockBytes r.got (128 * r.chunk + k) k
    let s := s.onMatrix cl fun u => u.addChunk x r.cmd a b
    let s := s.onMxRun cl fun r =>
      { r with computing := false, chunk := r.chunk + 1
               got := r.got.filter fun p => decide (128 * (r.chunk + 1) ≤ p.1) }
    if r.chunk + 1 = bits r.cmd.w0.toNat 15 8 then s.mxEnd cl 1 else s.mxCompute cl
  | none => s

/-- The multiply-adds: sub 0 begins with chunk 0, sub 1 is the end of a chunk's compute. -/
def mmaRow (op : Nat) (s : State) : State :=
  let cl := s.subj.unit
  match (s.cluster cl).matrix.run with
  | some r =>
    if r.cmd.op ≠ op || r.ending then s
    else if s.subj.sub = 1 then s.mxComputed cl
    else (s.mxAskChunk cl 0).mxCompute cl
  | none => s

/-- MMA. -/
def execMma (s : State) : Host.Outcome State Fault Refusal := .next (mmaRow 1 s)
/-- MMAS. -/
def execMmas (s : State) : Host.Outcome State Fault Refusal := .next (mmaRow 2 s)

/-- A granted command of one cycle: its effect, then its end. -/
def oneCycle (op : Nat) (s : State) (f : MxRun → Matrix → Matrix) : Host.Outcome State Fault Refusal :=
  let cl := s.subj.unit
  match (s.cluster cl).matrix.run with
  | some r => if r.cmd.op ≠ op || r.ending then .next s else .next ((s.onMatrix cl (f r)).mxEnd cl 1)
  | none => .next s

/-- CTX: the context takes its formats and tiles. -/
def execCtx (s : State) : Host.Outcome State Fault Refusal :=
  oneCycle 0 s fun r u =>
    let w := r.cmd.w0.toNat
    let x := { u.ctx r.ctx with
      fmt := bits w 63 60, prec := bits w 55 52, int32 := decide (bits w 51 48 = 1), tmask := bits w 47 40
      valid := bits w 47 40 != 0 }
    { u with ctxs := assign u.ctxs r.ctx x }
/-- ZERO. -/
def execZero (s : State) : Host.Outcome State Fault Refusal := oneCycle 3 s fun r u => u.setTile r.cmd.tileNo fun _ => 0
/-- ORDER: nothing. -/
def execOrder (s : State) : Host.Outcome State Fault Refusal := oneCycle 6 s fun _ u => u

/-- The format of DRAIN and LOADC. -/
def mxFmt (n : Nat) : Fmt := match n with
  | 2 => .bf16
  | 3 => .f16
  | _ => .f32

/-- An element as DRAIN writes it. -/
def mxOut (fmt v : Nat) : Nat := if fmt = 2 || fmt = 3 then (convert .f32 (mxFmt fmt) .rne v).1 else v
/-- An element as LOADC reads it. -/
def mxIn (fmt v : Nat) : Nat := if fmt = 2 || fmt = 3 then (convert (mxFmt fmt) .f32 .rne v).1 else v

/-- DRAIN: every block is requested at once, in ascending address. -/
def execDrain (s : State) : Host.Outcome State Fault Refusal :=
  let cl := s.subj.unit
  let u := (s.cluster cl).matrix
  match u.run with
  | some r =>
    if r.cmd.op ≠ 4 || r.ending then .next s else
    let w := r.cmd.w0.toNat
    let f := bits w 15 12
    let n := mxOutBytes (u.ctx r.ctx).int32 f
    let per := 64 / n
    let s := s.mxRequest cl .spread r.cmd.world ((List.range (64 * n)).map fun j =>
      (j, bits w 63 40 + 64 * j,
       AccOp.store ((List.range per).flatMap fun e => toBytes n (mxOut f (u.tile r.cmd.tileNo (per * j + e))))))
    match (s.cluster cl).matrix.run with
    | some r => .next (if r.left = 0 then s.mxEnd cl 1 else s)
    | none => .next s
  | none => .next s

/-- LOADC: every block is requested at once. -/
def execLoadc (s : State) : Host.Outcome State Fault Refusal :=
  let cl := s.subj.unit
  let u := (s.cluster cl).matrix
  match u.run with
  | some r =>
    if r.cmd.op ≠ 5 || r.ending then .next s else
    let w := r.cmd.w0.toNat
    let n := mxOutBytes (u.ctx r.ctx).int32 (bits w 15 12)
    let s := s.mxRequest cl .spread r.cmd.world ((List.range (64 * n)).map fun j =>
      (j, bits w 63 40 + 64 * j, AccOp.load 64 false))
    match (s.cluster cl).matrix.run with
    | some r => .next (if r.left = 0 then s.mxEnd cl 1 else s)
    | none => .next s
  | none => .next s

/-- The tile takes the elements whose blocks LOADC has read; the others keep their bits (R452). -/
def State.mxLoaded (s : State) (cl : Nat) (r : MxRun) : State :=
  s.onMatrix cl fun u =>
    let f := bits r.cmd.w0.toNat 15 12
    let n := mxOutBytes (u.ctx r.ctx).int32 f
    u.setTile r.cmd.tileNo fun e => match find r.got (e * n / 64) with
      | some bs => mxIn f (ofBytes (slice bs (e * n % 64) n))
      | none => u.tile r.cmd.tileNo e

/-- A block of the command being executed has been performed, on the cycle before, or is out of range. -/
def State.matrixAnswered (s : State) (cl : Nat) (a : Access) (x : AccResult) : State :=
  let s := s.onMxRun cl fun r =>
    { r with left := r.left - 1
             got := if x.fault.isNone && !(isStore a.op) then assign r.got a.idx x.bytes else r.got
             bad := if x.fault.isSome then a.idx :: r.bad else r.bad }
  match (s.cluster cl).matrix.run with
  | some r =>
    if 0 < r.left then s
    else if r.cmd.op = 1 || r.cmd.op = 2 then s.mxCompute cl
    else if r.cmd.op = 5 then (s.mxLoaded cl r).mxEnd cl 0
    else s.mxEnd cl 0
  | none => s

/-! ### Completion (R320, R328, R330, R452) -/

/-- Remote contexts with an empty queue and no tile are released, once their commands have completed. -/
def Matrix.release (u : Matrix) (t : Nat) : Matrix :=
  { u with ctxs := u.ctxs.filter fun p => decide (p.1 < 16) || !p.2.queue.isEmpty || (p.2.tmask != 0) || decide (t < p.2.lateAt) }

/-- A command's completion or refusal at its core: its bits, its record (R328, R330). -/
def State.mxCompleted (s : State) (m : MxCmd) (check : Option Nat) : State :=
  let s := s.onCore m.core fun k => { k with mxOut := k.mxOut - 1 }
  let s := match m.tag with
    | some g => s.setTag m.core g true true check.isSome
    | none => s
  let s := if (s.thread m.core m.slot).uid = m.uid then s.engineDone m.core m.slot m.mark else s
  match check with
  | some k =>
    if m.tag.isNone || k = 16 then s.record m.core { kind := 5, w4 := m.cl, w5 := m.channel, w6 := m.op, w7 := k } else s
  | none => s

/-- Tell a command's source of its completion: its own core, another cluster's or another device's (R328). -/
def State.mxTell (s : State) (cl : Nat) (m : MxCmd) (check : Option Nat) : State :=
  if m.dev ≠ s.devNo then s.toDevice m.dev cl 8 (clusterOf m.core) (epOf m.core) 1 1 (.mxDone m check)
  else if clusterOf m.core = cl then s.mxCompleted m check
  else s.ship cl 8 (clusterOf m.core) (epOf m.core) 1 1 (.mxDone m check)

/-- The cycle on which a command that ends on cycle t completes: in grant order (R327), and one that sets bits never before its core has
applied the ACCEPT answer (R325). -/
def Matrix.completes (u : Matrix) (m : MxCmd) (t : Nat) : Nat := max (max t u.doneAt) (if m.tag.isSome then m.okAt else 0)

/-- MATRIX_COMPLETE: the command that is ending leaves the unit, and completes. With sub 1 its core learns of a completion (item) that
came before it had applied the ACCEPT answer. -/
def execMatrixComplete (s : State) : Host.Outcome State Fault Refusal :=
  let cl := s.subj.unit
  if s.subj.sub = 1 then match s.takeItem s.subj.item with
    | (some (.mxDone m check), s) => .next ((s.onMatrix cl fun u => u.release (s.cluster cl).t).mxTell cl m check)
    | (_, s) => .next s
  else match (s.cluster cl).matrix.run with
  | some r =>
    let m := r.cmd
    let t := (s.cluster cl).t
    if !r.ending then .next s
    else
      let at_ := (s.cluster cl).matrix.completes m t
      let told := max at_ m.okAt
      let s := s.onMatrix cl fun u =>
        ({ u with run := none, doneAt := at_, ctxs := assign u.ctxs r.ctx { u.ctx r.ctx with lateAt := at_ } } : Matrix).release t
      if told = t then .next (s.mxTell cl m r.check)
      else
        let (id, s) := s.addItem (.mxDone m r.check)
        .next (s.atCycle cl told .matrixComplete { unit := cl, sub := 1, item := id })
  | none => .next s

end Sys2Proof.Machine
end

