-- ==== Sys2Proof/Machine/Wheel.lean ====
section
/-!
DEFINITION. The wheels and the banks (06_wheels R138 to R156): the meeting of a rider with its bank, the writing and the
swap of the rose tables with the alignment of a quad's clocks (01_device R15), and the change of bank roles.
-/
namespace Sys2Proof.Machine

open Sys2Proof

/-! ### Meetings (R140, R144) -/

/-- Cycles from the meeting to the answer at a requester of the rider's own cluster (R142, 17_crosspath R393): 3 for
data, 1 for a store; the matrix unit has its block on the cycle after (13_matrix R335). -/
def meetDelay (a : Access) : Nat := match a.agent, a.op with
  | .matrix _, _ => 1
  | _, .store _ => 1
  | _, .storeSome _ => 1
  | _, _ => 3

/-- Of some accesses, the one requested first; the first listed of those of one cycle. -/
def earliest (l : List Access) : Option Access := l.foldl (fun b a => match b with
  | none => some a
  | some x => if a.reqT < x.reqT then some a else some x) none

/-- The access that rider i of a cluster performs on this cycle (R135, R140): of those that have waited for the bank it meets for at
least two cycles and are not held, the one requested first. None is performed before an earlier one of its agent to that bank which
waits at another rider (15_ordering R379). -/
def State.dueAt (s : State) (cl i : Nat) : Option Access :=
  let k := s.cluster cl
  let b := innerBank k.inner k.t i
  let g := s.faces cl k.t
  earliest ((look k.riders i []).filter fun a =>
    !a.held && decide (a.bank = b) && decide (a.cl = g) && decide (a.since + 2 ≤ k.t) && !(s.overtakes cl i a))

/-- A GLOBAL access meets the home bank on its own cluster's wheel: what comes at homes comes last in a cycle, after the writes of IDOM
(09_homing R230). -/
def State.reachHome (s : State) (a : Access) : State :=
  let (id, s) := s.addItem (.acc a)
  { s with agenda := s.agenda ++ [.dev (if a.op = .watch then .monitorRegistration else .homeSliceAccess)
      { unit := a.homeCore, item := id }] }

/-- BANK_MEETING: a rider performs one waiting block access, or passes an empty turn. An access to a home bank goes on at
the home slice in the same cycle. -/
def execBankMeeting (s : State) : Host.Outcome State Fault Refusal :=
  let cl := s.subj.unit
  let i := s.subj.sub
  match s.dueAt cl i with
  | none => .next s
  | some a =>
    let s := s.onCluster cl fun k => { k with riders := assign k.riders i ((look k.riders i []).erase a) }
    if a.space = .global then
      .next (s.reachHome a)
    else
      let (s, r) := s.performBank a
      .next (s.answer cl 8 (meetDelay a) a r)

/-! ### Writing the tables (R146 to R148) -/

/-- A cluster's CSRs of the tables are locked while a swap is pending (R148). -/
def State.roseLocked (s : State) (cl : Nat) : Bool := (s.cluster cl).swap

/-- A word of 5-bit bank numbers for n riders from the first on. -/
def packRow (row : List Nat) (first n : Nat) : Word :=
  BitVec.ofNat 64 ((List.range n).foldl (fun a i => a + nth row (first + i) % 32 * 2 ^ (5 * i)) 0)

/-- The 5-bit bank numbers of a word. -/
def unpackRow (w : Word) (n : Nat) : List Nat := (List.range n).map fun i => bits w.toNat (5 * i + 4) (5 * i)

/-- What ROSEDATA0, 1 or 2 reads (R146). -/
def Cluster.roseData (k : Cluster) (part : Nat) : Word :=
  let row := bits k.roseidx.toNat 4 0
  let tbl := if k.roseidx.getLsbD 8 then k.inner else k.innerShadow
  if tbl.length ≤ row then 0 else packRow (tbl.getD row []) (12 * part) (if part = 2 then 8 else 12)

/-- ROSEIDX as it is stored. -/
def roseIdxStore (v : Word) : Word := v &&& 0x11F

/-- Write ROSEDATA2 (R146): the shadow row ROW takes all three staged values, and ROW advances. -/
def State.writeRose2 (s : State) (cl : Nat) (v : Word) : State :=
  if s.roseLocked cl then s else
  s.onCluster cl fun k =>
    let row := bits k.roseidx.toNat 4 0
    { k with innerShadow := k.innerShadow.set row (unpackRow k.stage0 12 ++ unpackRow k.stage1 12 ++ unpackRow v 8)
             roseidx := (k.roseidx &&& 0x100) ||| BitVec.ofNat 64 ((row + 1) % 32) }

/-- ROSEDATA2_WRITE: of a cluster, with a value. -/
def execRosedata2Write (s : State) : Host.Outcome State Fault Refusal := .next (s.writeRose2 s.subj.unit s.subj.val)

/-- Write OUTROSE (R147): ACT and ROW, and with SEL = 0 a FACE into the shadow row, after which ROW advances. It exists in
the quad's first cluster. -/
def State.writeOutrose (s : State) (cl : Nat) (v : Word) : State :=
  if cl % 4 ≠ 0 || s.roseLocked cl then s else
  s.onQuad (cl / 4) fun q =>
    let row := bits v.toNat 11 8
    let q := { q with act := v.getLsbD 12, row := row }
    if v.getLsbD 13 then q
    else { q with outerShadow := q.outerShadow.set row (bits v.toNat 7 0), row := (row + 1) % 16 }

/-- OUTROSE_SELECT: a write with SEL = 1. -/
def execOutroseSelect (s : State) : Host.Outcome State Fault Refusal :=
  .next (s.writeOutrose s.subj.unit (s.subj.val ||| 0x2000))
/-- OUTROSE_WRITE: a write with SEL = 0. -/
def execOutroseWrite (s : State) : Host.Outcome State Fault Refusal :=
  .next (s.writeOutrose s.subj.unit (s.subj.val &&& ~~~0x2000))

/-- What OUTROSE reads (R147). -/
def State.readOutrose (s : State) (cl : Nat) : Word :=
  if cl % 4 ≠ 0 then 0 else
  let q := s.quad (cl / 4)
  let tbl := if q.act then q.outer else q.outerShadow
  BitVec.ofNat 64 (nth tbl q.row + 2 ^ 8 * q.row + (if q.act then 2 ^ 12 else 0))

/-- The number of shadow outer rows that a swap would install (R148). -/
def Quad.shadowRows (q : Quad) : List Nat := q.outerShadow.take (if q.sout = 0 then 16 else q.sout)

/-- What ROSECTL reads (R148). -/
def State.readRosectl (s : State) (cl : Nat) : Word :=
  let k := s.cluster cl
  let q := s.quad (cl / 4)
  BitVec.ofNat 64 (q.outer.length % 16 * 2 ^ 32 + k.inner.length * 2 ^ 24 + (if k.refused then 2 ^ 18 else 0) +
    (if k.done then 2 ^ 17 else 0) + (if k.swap then 2 ^ 16 else 0) + q.sout * 2 ^ 8 + k.sin)

/-! ### The clocks of a quad (01_device R8, R15) -/

/-- The single-row identity table (R139, R147). -/
def identityOuter : List Nat := [0xE4]

/-- The frequency asked for an island. -/
def Cluster.asked (k : Cluster) : Nat := k.mhzReq.getD k.mhz

/-- The quad runs from one clock: a non-identity outer table is active, or a swap that would leave one is pending. -/
def State.oneClock (s : State) (q : Nat) : Bool :=
  (s.quad q).outer != identityOuter || ((s.cluster (4 * q)).swap && (s.quad q).shadowRows != identityOuter)

/-- Put the four islands of a quad on one clock, the lowest of the frequencies asked for, and stop those of clusters
4q+1 to 4q+3 until their counts are congruent with that of 4q modulo a period: a count stands while that of 4q goes on (R15). DESIGN
CHOICE (log 78): the frequency asked for an island that is down counts among the four. -/
def State.alignQuad (s : State) (q period : Nat) : State :=
  let lead := s.cluster (4 * q)
  let ks := (List.range 4).map fun j => 4 * q + j
  let f := ks.foldl (fun a j => min a (s.cluster j).asked) lead.asked
  let n := max 1 period
  ks.foldl (fun s j => s.onCluster j fun k =>
    { k with mhzReq := some k.asked, mhz := f, phase := lead.phase
             stopped := if j = 4 * q then 0 else (k.t + n - lead.t % n) % n }) s

/-- With the identity table back in place each island takes the frequency asked for it (R15). -/
def State.freeQuad (s : State) (q : Nat) : State :=
  (List.range 4).foldl (fun s j => s.onCluster (4 * q + j) fun k => { k with mhz := k.asked, mhzReq := none, stopped := 0 }) s

/-- Ask for a frequency of an island: at once, or recorded while its quad runs on one clock (R15, 23_retire R451). -/
def State.setFrequency (s : State) (cl mhz : Nat) : State :=
  s.onCluster cl fun k => if s.oneClock (cl / 4) then { k with mhzReq := some mhz } else { k with mhz := mhz }

/-! ### Swapping the tables (R148 to R151) -/

/-- Write ROSECTL (R148). A request in cluster 4q that leaves a non-identity table in the place of the identity aligns the
quad's clocks first (R15). DESIGN CHOICE (log 78): the clocks are aligned at the request, also when the swap is refused later. -/
def State.writeRosectl (s : State) (cl : Nat) (v : Word) : State :=
  if s.roseLocked cl then s else
  let req := v.getLsbD 16
  let s := s.onCluster cl fun k => { k with sin := bits v.toNat 5 0 }
  let s := if cl % 4 = 0 then s.onQuad (cl / 4) fun q => { q with sout := bits v.toNat 11 8 } else s
  if !req then s else
  let s := s.onCluster cl fun k => { k with swap := true, swapAt := k.t, done := false, refused := false }
  let q := s.quad (cl / 4)
  if cl % 4 = 0 && q.outer == identityOuter && q.shadowRows != identityOuter then
    s.alignQuad (cl / 4) ((s.cluster cl).sin * q.shadowRows.length)
  else s

/-- Bring a quad that runs from one clock onto it and onto one phase of its active tables, or of those of the swap that waits (R15, R130):
after its table or one of its islands has been set by the firmware. In any other quad recorded requests take effect. -/
def State.realignQuad (s : State) (q : Nat) : State :=
  let lead := s.cluster (4 * q)
  if (s.quad q).outer != identityOuter then s.alignQuad q (lead.inner.length * (s.quad q).outer.length)
  else if s.oneClock q then s.alignQuad q (lead.sin * (s.quad q).shadowRows.length)
  else if (List.range 4).any fun j => (s.cluster (4 * q + j)).mhzReq.isSome then s.freeQuad q
  else s

/-- ROSECTL_SWAP_REQUEST: a write that sets SWAP. -/
def execRosectlSwapRequest (s : State) : Host.Outcome State Fault Refusal :=
  .next (s.writeRosectl s.subj.unit (s.subj.val ||| 0x10000))

/-- A list is a permutation of the numbers below n. -/
def isPerm (l : List Nat) (n : Nat) : Bool :=
  decide (l.length = n) && (List.range n).all fun i => l.contains i

/-- The groups that an outer row gives to the four clusters. -/
def facesOf (f : Nat) : List Nat := (List.range 4).map fun j => bits f (2 * j + 1) (2 * j)

/-- Some rider meets some bank that is not RETIRED in none of the rows (R150, rule 3). -/
def incomplete (rows : InnerTable) (bankrole : Word) : Bool :=
  (List.range 32).any fun i => (List.range 32).any fun b =>
    roleIn bankrole b != 3 && !(rows.any fun r => nth r i == b)

/-- The rules on which a swap is refused (R150). -/
def State.swapRefused (s : State) (cl : Nat) : Bool :=
  let k := s.cluster cl
  let q := s.quad (cl / 4)
  let rows := k.innerShadow.take k.sin
  let first := decide (cl % 4 = 0)
  let newOuter := if first then q.shadowRows else q.outer
  let lins := (List.range 4).map fun j =>
    if cl / 4 * 4 + j = cl then k.sin else (s.cluster (cl / 4 * 4 + j)).inner.length
  (k.sin = 0) || decide (32 < k.sin) || !(rows.all fun r => isPerm r 32) || incomplete rows k.bankrole ||
  (first && (!(q.shadowRows.all fun f => isPerm (facesOf f) 4) ||
    (List.range 4).any fun j => !(q.shadowRows.any fun f => nth (facesOf f) j == j))) ||
  (newOuter != identityOuter && !(lins.all fun n => n == k.sin)) ||
  (first && q.outer != identityOuter && q.shadowRows != identityOuter &&
    k.inner.length * q.outer.length % (k.sin * q.shadowRows.length) != 0)

/-- An access waits on the outer wheel for a group that its cluster faces in no row of the shadow outer table (R149). -/
def State.wouldStrand (s : State) (q : Nat) : Bool :=
  (List.range 4).any fun j => (s.cluster (4 * q + j)).riders.any fun p => p.2.any fun a =>
    !a.held && decide (a.cl ≠ 4 * q + j) && !(inColumn (s.quad q).shadowRows (4 * q + j) a.cl)

/-- The counts of the quad's running clusters agree as R15 asks before a non-identity table becomes active. DESIGN CHOICE (log
78): the count of a cluster whose island is down is not compared. -/
def State.aligned (s : State) (q : Nat) : Bool :=
  let lead := s.cluster (4 * q)
  let n := max 1 (lead.sin * (s.quad q).shadowRows.length)
  (List.range 4).all fun j =>
    let k := s.cluster (4 * q + j)
    !k.up || (decide (k.stopped = 0) && decide (k.t % n = lead.t % n))

/-- The cycle qualifies for the pending swap of a cluster (R149). -/
def State.swapDue (s : State) (cl : Nat) : Bool :=
  let k := s.cluster cl
  let q := s.quad (cl / 4)
  k.swap && decide (k.swapAt < k.t) &&
  if cl % 4 ≠ 0 then decide (k.t % k.inner.length = 0)
  else decide (k.t % (k.inner.length * q.outer.length) = 0) &&
    (q.outer != identityOuter || q.shadowRows == identityOuter || s.aligned (cl / 4)) && !(s.wouldStrand (cl / 4))

/-- A held request goes on: it takes its path under the tables in force and waits for its meetings from this cycle on (R141, R149, R153).
Where it stays at its rider it keeps its place among the requests (R135). -/
def State.goOn (s : State) (cl rider : Nat) (a : Access) : State :=
  if a.cl = cl || (ridesOuter a.agent && inColumn (s.quad (cl / 4)).outer cl a.cl) then
    let b : Access := { a with since := (s.cluster cl).t, held := s.roleHolds a.cl a.bank || s.swapHolds cl a.cl }
    s.onCluster cl fun k => { k with riders := assign k.riders rider (look k.riders rider [] ++ [b]) }
  else s.requestBank cl rider { a with held := false }

/-- Let the requests of a quad's riders go that no role change or swap holds any more (R149). -/
def State.releaseHeld (s : State) (q : Nat) : State :=
  (List.range 4).foldl (fun s j =>
    let cl := 4 * q + j
    (s.cluster cl).riders.foldl (fun s p =>
      let free := p.2.filter fun a => a.held && !(s.roleHolds a.cl a.bank || s.swapHolds cl a.cl)
      let s := s.onCluster cl fun k =>
        { k with riders := assign k.riders p.1 ((look k.riders p.1 []).filter fun a => !(free.contains a)) }
      free.foldl (fun s a => s.goOn cl p.1 a) s) s) s

/-- ROSE_SWAP: at the qualifying boundary the shadow tables become active, or the swap is refused. -/
def execRoseSwap (s : State) : Host.Outcome State Fault Refusal :=
  let cl := s.subj.unit
  if !(s.swapDue cl) then .next s
  else
    let first := cl % 4 = 0
    if s.swapRefused cl then
      let s := s.onCluster cl fun k => { k with swap := false, done := true, refused := true }
      let s := if first && (s.quad (cl / 4)).outer == identityOuter then s.freeQuad (cl / 4) else s
      .next (s.releaseHeld (cl / 4))
    else
      let s := s.onCluster cl fun k => { k with inner := k.innerShadow.take k.sin, swap := false, done := true }
      let s := if first then s.onQuad (cl / 4) fun q => { q with outer := q.shadowRows } else s
      let s := if first && (s.quad (cl / 4)).outer == identityOuter then s.freeQuad (cl / 4) else s
      .next (s.releaseHeld (cl / 4))

/-! ### Changing bank roles (R153, R154) -/

/-- The banks whose role differs between two values of BANKROLE. -/
def changing (old new : Word) : List Nat := (List.range 32).filter fun b => roleIn old b != roleIn new b

/-- A bank holds a valid line. -/
def Cluster.holdsLine (k : Cluster) (b : Nat) : Bool := k.lines.any fun p => decide (p.1 / 512 = b)

/-- The lowest bank that may not change as asked (R153). -/
def Cluster.roleFault (k : Cluster) (new : Word) : Option Nat :=
  (changing k.bankrole new).find? fun b =>
    (roleIn k.bankrole b == 1 && k.holdsLine b) ||
    (roleIn k.bankrole b == 3 && (List.range 32).any fun i => !(k.inner.any fun r => nth r i == b))

/-- The requests that a cluster's quad has made on the cycle of a BANKROLE write, to banks that change, are held from that cycle on
(R153). -/
def State.holdNew (s : State) (cl : Nat) : State :=
  (List.range 4).foldl (fun s j =>
    let src := cl / 4 * 4 + j
    s.onCluster src fun k =>
      { k with riders := k.riders.map fun p =>
          (p.1, p.2.map fun a => if a.cl = cl && decide (k.t ≤ a.reqT) && s.roleHolds cl a.bank then { a with held := true } else a) }) s

/-- Ask for a change of roles (R153): none when a bank may not change. A writer of the same cycle as an earlier one
overrides it (R152); otherwise a thread that writes waits. -/
def State.askRoles (s : State) (cl : Nat) (new : Word) (writer : Option (Nat × Nat)) : State :=
  let s := s.onCluster cl fun k =>
    let before := match k.roleChange with
      | some rc => rc.writers
      | none => []
    let old := match k.roleChange with
      | some rc => rc.new
      | none => k.bankrole
    { k with roleChange := some { writers := before ++ (writer.toList.map fun w => (w.1, w.2, old)), new := new, reqT := k.t } }
  s.holdNew cl

/-- BANKROLE_WRITE: a new value for a cluster's roles, refused as a whole where a bank may not change. -/
def execBankroleWrite (s : State) : Host.Outcome State Fault Refusal :=
  let k := s.cluster s.subj.unit
  match k.roleFault s.subj.val with
  | some _ => .next s
  | none => if k.roleChange.isSome then .next s else .next (s.askRoles s.subj.unit s.subj.val none)

/-- An access to a changing bank, requested before the write, is still waiting at a rider, or its fill is under way. -/
def State.roleBusy (s : State) (cl : Nat) (new : Word) : Bool :=
  let ch := changing (s.cluster cl).bankrole new
  ((List.range 4).any fun j => (s.cluster (cl / 4 * 4 + j)).riders.any fun p => p.2.any fun a =>
    !a.held && decide (a.cl = cl) && ch.contains a.bank) ||
  s.items.any fun p => match p.2 with
    | .acc a => a.filled && decide (clusterOf a.homeCore = cl) && (match s.homeBank a with
      | some b => ch.contains b
      | none => false)
    | _ => false

/-- The CACHE banks of a core under given roles. -/
def cacheBanks (bankrole : Word) (c : Nat) : List Nat := [2 * c, 2 * c + 1].filter fun b => roleIn bankrole b = 1

/-- Map a waiting request again under the new roles (R153, 15_ordering R364, R381). One that was held goes on from this cycle; any other
keeps its wait, and one of the matrix unit its bank and row too (13_matrix R452). One that goes out of range is answered so. -/
def State.remap (s : State) (cl rider : Nat) (a : Access) : State :=
  let put := fun (s : State) (b : Access) =>
    if a.held then s.goOn cl rider b
    else s.onCluster cl fun k => { k with riders := assign k.riders rider (look k.riders rider [] ++ [b]) }
  match a.agent, a.held, a.space with
  | .matrix _, false, _ => put s a
  | _, _, .global => match s.homeBank a with
    | some b => put s { a with bank := b }
    | none => s.reachHome { a with held := false }
  | _, _, sp => match s.mapBank sp a.va with
    | some (b, row) => put s { a with bank := b, row := row }
    | none => s.answer cl 8 1 { a with held := false } { fault := some .range }

/-- Map every request that waits in a cluster's quad for one of its banks again, in order. -/
def State.remapAll (s : State) (cl : Nat) : State :=
  (List.range 4).foldl (fun s j =>
    let src := cl / 4 * 4 + j
    (s.cluster src).riders.foldl (fun s p =>
      let mine := p.2.filter fun a => decide (a.cl = cl)
      let s := s.onCluster src fun k => { k with riders := assign k.riders p.1 ((look k.riders p.1 []).filter fun a => a.cl != cl) }
      mine.foldl (fun s a => s.remap src p.1 a) s) s) s

/-- GEN of every domain whose MASK has the core advances (R232). -/
def bumpGens (k : Cluster) (c : Nat) : Cluster :=
  { k with idom := (List.range 8).map fun d =>
      let (m, g) := k.domain d
      (d, if bit m c then (m, (g + 1) % 256) else (m, g)) }

/-- A core whose number of CACHE banks changed: generations, and a pass over the bank that stays (R232); monitors whose home bank or set
moved are lost (R355). -/
def State.slicePass (s : State) (cl c : Nat) (old new : Word) : State :=
  if (cacheBanks old c).length = (cacheBanks new c).length then s
  else
    let s := s.onCluster cl fun k => bumpGens k c
    let s := s.loseWatches (16 * cl + c) fun w => homeBankSet old w.line c != homeBankSet new w.line c
    if ((cacheBanks old c).filter fun b => (cacheBanks new c).contains b).isEmpty then s
    else
      let t := (s.cluster cl).t
      (s.onCluster cl fun k => { k with passes := k.passes ++ [{ dom := none, core := c, until_ := t + 512 }] }).inCycles
        cl 513 .slicePassComplete { unit := cl, sub := c }

/-- The destination register of a CSR instruction. -/
def csrDest (i : Instr) : Nat := match i with
  | .csrRead d _ => d
  | .csrWrite d _ _ => d
  | .csrSet d _ _ => d
  | .csrClear d _ _ => d
  | _ => 0

/-- BANKROLE_CHANGE: the roles change at an inner period boundary, waiting requests are mapped again, and the writers go on
with the old value (R153); a bank that leaves the CACHE role keeps the bits of its lines (R154). -/
def execBankroleChange (s : State) : Host.Outcome State Fault Refusal :=
  let cl := s.subj.unit
  let k := s.cluster cl
  match k.roleChange with
  | none => .next s
  | some rc =>
    if !(decide (rc.reqT < k.t)) || decide (k.t % k.inner.length ≠ 0) || s.roleBusy cl rc.new then .next s
    else
      let old := k.bankrole
      let ch := changing old rc.new
      let s := (k.lines.filter fun p => ch.contains (p.1 / 512)).foldl (fun s p =>
        let (s, x) := s.writeWay cl p.1 p.2
        s.leaveWay cl p.1 x) s
      let s := s.onCluster cl fun k =>
        { k with bankrole := rc.new, roleChange := none, lines := k.lines.filter fun p => !(ch.contains (p.1 / 512)) }
      let s := s.remapAll cl
      let s := (List.range 16).foldl (fun s c => s.slicePass cl c old rc.new) s
      .next (rc.writers.foldl (fun s w => match (s.thread w.1 w.2.1).waits with
        | some i => s.finishPut w.1 w.2.1 (csrDest i) w.2.2
        | none => s) s)

end Sys2Proof.Machine
end

