-- ==== Sys2Proof/Machine/System.lean ====
section
/-!
DEFINITION. The control and status registers (07_issue R176 to R182), SYS (R183 to R187), context records (20_traps R407,
R408), the invalidation of translations, and the trap of a slot's turn at a PC that cannot be decoded (02_lines R43, R44).
-/
namespace Sys2Proof.Machine

open Sys2Proof

/-! ### Reading a CSR (R178, R180) -/

/-- ERRLOG as it reads: NEXT in place (R403). -/
def Core.errlogWord (k : Core) : Word := k.errlog ||| BitVec.ofNat 64 (8 * k.errNext)

/-- The code of a pre-emption state (R414). -/
def PreSt.code (p : PreSt) : Nat := match p with
  | .running => 0
  | .stopping => 1
  | .draining => 2
  | .saving => 3
  | .preempted => 4
  | .restoring => 5

/-- PREEMPTST (R414). -/
def Core.preemptst (k : Core) : Word := BitVec.ofNat 64 (k.preCount * 2 ^ 32 + k.spillMax * 2 ^ 16 + k.pre.code)

/-- TLIMIT (06_wheels R132). -/
def Thread.tlimit (th : Thread) : Word :=
  BitVec.ofNat 64 (if th.tiller.isSome then 2 ^ 19 + th.limit else th.base * 2 ^ 8 + th.limit)

/-- WHEELPH (06_wheels R156). -/
def State.wheelph (s : State) (cl : Nat) : Word :=
  let k := s.cluster cl
  let q := s.quad (cl / 4)
  BitVec.ofNat 64 (k.t / k.inner.length % q.outer.length * 2 ^ 8 + k.t % k.inner.length)

/-- IDOM d of a cluster (09_homing R229). -/
def Cluster.idomWord (k : Cluster) (d : Nat) : Word :=
  let (m, g) := k.domain d
  BitVec.ofNat 64 (g * 2 ^ 16 + m)

/-- What a CSR reads for a thread; unknown numbers never reach this (R177). -/
def State.readCsr (s : State) (c sl n : Nat) : Word :=
  let th := s.thread c sl
  let k := s.core c
  let cl := clusterOf c
  let q := s.cluster cl
  let col := s.column (columnOf c)
  let w := fun (n : Nat) => BitVec.ofNat 64 n
  match n with
  | 0x000 => w th.tid
  | 0x001 => w c
  | 0x002 => w cl
  | 0x003 => w (columnOf c)
  | 0x004 => w sl
  | 0x005 => th.tlimit
  | 0x006 => w q.t
  | 0x007 => s.wheelph cl
  | 0x008 => th.fflags
  | 0x009 => k.tagdone
  | 0x00A => k.tagfree
  | 0x00B => 1
  | 0x00C => th.lastcrown
  | 0x00D => th.tplbase
  | 0x00E => th.tplsize
  | 0x010 => th.thandler
  | 0x011 => th.tepc
  | 0x012 => th.tcause
  | 0x013 => th.tword
  | 0x014 => th.taddr
  | 0x015 => th.tprog
  | 0x016 => k.mxstat
  | 0x017 => k.stealgrp
  | 0x01C => w q.keeper
  | 0x100 => q.bankrole
  | 0x101 => s.readRosectl cl
  | 0x102 => q.roseidx
  | 0x103 => q.roseData 0
  | 0x104 => q.roseData 1
  | 0x105 => q.roseData 2
  | 0x106 => s.readOutrose cl
  | 0x110 => k.savebase
  | 0x111 => k.spillbase
  | 0x112 => k.preemptst
  | 0x113 => w (col.miss * 2 ^ 32) ||| col.twinctl
  | 0x114 => k.wdog
  | 0x115 => k.errlogWord
  | 0x116 => k.ptbase
  | 0x117 => if q.world then 15 else 0
  | 0x118 => q.tenant
  | 0x119 => w q.pinbypass
  | 0x11A => w q.orphans
  | _ =>
    if 0x018 ≤ n && n ≤ 0x01B then look k.memb (n - 0x018) 0
    else if 0x020 ≤ n && n ≤ 0x02F then w (look k.cnt (n - 0x020) 0)
    else if 0x108 ≤ n && n ≤ 0x10F then q.idomWord (n - 0x108)
    else if 0x140 ≤ n && n ≤ 0x17F then k.tt (n - 0x140)
    else 0

/-! ### Writing a CSR -/

/-- The bits of a list of fields, high to low. -/
def fieldMask (l : List (Nat × Nat)) : Word :=
  BitVec.ofNat 64 (l.foldl (fun a p => a + (2 ^ (p.1 + 1) - 2 ^ p.2)) 0)

/-- SAVEBASE and SPILLBASE keep V, TIER and BASE (R414). -/
def baseMask : Word := fieldMask [(63, 63), (62, 62), (47, 16)]
/-- PTBASE keeps EN, TIER and ROOT (08_access R198). -/
def ptMask : Word := fieldMask [(63, 63), (62, 62), (42, 11)]
/-- ERRLOG keeps all but NEXT and the reserved bits (R403). -/
def errMask : Word := fieldMask [(63, 13), (2, 2)]

/-- TWINCTL's pair bits take a value, and the queues of a pair that changed are empty (20_traps R412). -/
def State.setTwins (s : State) (col : Nat) (v : Word) : State :=
  s.onColumn col fun x =>
    { x with twinctl := v &&& 0x7FFF
             twins := x.twins.filter fun p => x.twinctl.getLsbD p.1 == v.getLsbD p.1 }

/-- The lowest slot whose pair bit a write would change although a slot of the pair is not free (R412). -/
def State.twinFault (s : State) (col : Nat) (v : Word) : Option Nat :=
  (List.range 15).find? fun j => ((s.column col).twinctl.getLsbD j != v.getLsbD j) &&
    !((s.slot (2 * col) j).freeOn (s.cyc (2 * col)) && (s.slot (2 * col + 1) j).freeOn (s.cyc (2 * col)))

/-- TWINCTL_WRITE: of a column, with a value; nothing where a slot is not free. -/
def execTwinctlWrite (s : State) : Host.Outcome State Fault Refusal :=
  match s.twinFault s.subj.unit s.subj.val with
  | some _ => .next s
  | none => .next (s.setTwins s.subj.unit s.subj.val)

/-- Clear bits of MXSTAT (R178). -/
def State.clearMxstat (s : State) (c : Nat) (v : Word) : State := s.onCore c fun k => { k with mxstat := k.mxstat &&& ~~~v }

/-- MXSTAT_CLEAR: of a core, the bits named. -/
def execMxstatClear (s : State) : Host.Outcome State Fault Refusal := .next (s.clearMxstat s.subj.unit s.subj.val)

/-- What writing a CSR stores (R6, R177): read-only registers ignore the write. op is 1 WRITE, 2 SET, 3 CLEAR; x is the
operand and v the value computed. -/
def State.writeCsr (s : State) (c sl n op : Nat) (x v : Word) : State :=
  let cl := clusterOf c
  let th := fun (f : Thread → Thread) => s.onThread c sl f
  let core := fun (f : Core → Core) => s.onCore c f
  let clus := fun (f : Cluster → Cluster) => s.onCluster cl f
  match n with
  | 0x008 => th fun t => { t with fflags := v &&& 0x1F }
  | 0x00D => th fun t => { t with tplbase := v &&& 0x1FFFFFFF }
  | 0x00E => th fun t => { t with tplsize := v &&& 0x1FF }
  | 0x010 => th fun t => { t with thandler := v }
  | 0x011 => th fun t => { t with tepc := v }
  | 0x012 => th fun t => { t with tcause := v &&& 0xFF }
  | 0x013 => th fun t => { t with tword := v }
  | 0x014 => th fun t => { t with taddr := v }
  | 0x015 => th fun t => { t with tprog := v &&& 0x3F }
  | 0x016 => if op = 3 then s.clearMxstat c x else s
  | 0x017 => core fun k => { k with stealgrp := v &&& 0x1FF }
  | 0x101 => s.writeRosectl cl v
  | 0x102 => if s.roseLocked cl then s else clus fun k => { k with roseidx := roseIdxStore v }
  | 0x103 => if s.roseLocked cl then s else clus fun k => { k with stage0 := v }
  | 0x104 => if s.roseLocked cl then s else clus fun k => { k with stage1 := v }
  | 0x105 => s.writeRose2 cl v
  | 0x106 => s.writeOutrose cl v
  | 0x110 => core fun k => { k with savebase := v &&& baseMask }
  | 0x111 => core fun k => { k with spillbase := v &&& baseMask }
  | 0x113 => s.setTwins (columnOf c) v
  | 0x114 => core fun k => { k with wdog := v }
  | 0x115 => core fun k => { k with errlog := v &&& errMask }
  | 0x116 => core fun k => { k with ptbase := v &&& ptMask }
  | 0x119 => clus fun k => { k with pinbypass := bits v.toNat 31 0 }
  | 0x11A => clus fun k => { k with orphans := bits v.toNat 31 0 }
  | _ =>
    if 0x020 ≤ n && n ≤ 0x02F then s.setCnt c (n - 0x020) (v.toNat % 65536)
    else if 0x108 ≤ n && n ≤ 0x10F then s.writeIdom cl (n - 0x108) (v.toNat % 65536)
    else if 0x140 ≤ n && n ≤ 0x17F then (s.setTt c (n - 0x140) v).deliverHeld c (n - 0x140)
    else s

/-- The value a CSR instruction computes: op 1 WRITE, 2 SET, 3 CLEAR. -/
def csrValue (op : Nat) (old x : Word) : Word := match op with
  | 1 => x
  | 2 => old ||| x
  | _ => old &&& ~~~x

/-- What a write to BANKROLE changes: the roles, with what earlier writes of the same cycle have asked for (R152, R153). -/
def Cluster.rolesAsked (k : Cluster) : Word := match k.roleChange with
  | some rc => if rc.reqT = k.t then rc.new else k.bankrole
  | none => k.bankrole

/-- A write to BANKROLE (06_wheels R153): refused where a bank may not change; the thread waits for the change, or first for
one that is already under way. DESIGN CHOICE (log 81): a write that changes no bank's role completes at once. -/
def State.csrRoles (s : State) (c sl d : Nat) (old v : Word) (i : Instr) : State :=
  let cl := clusterOf c
  let k := s.cluster cl
  match k.roleChange with
  | some rc =>
    if rc.reqT < k.t then s.stay c sl none
    else match k.roleFault v with
      | some b => s.trap c sl .perm (BitVec.ofNat 64 b)
      | none => (s.askRoles cl v (some (c, sl))).await c sl i none
  | none => match k.roleFault v with
    | some b => s.trap c sl .perm (BitVec.ofNat 64 b)
    | none =>
      if v = k.bankrole then s.finishPut c sl d old
      else (s.askRoles cl v (some (c, sl))).await c sl i none

/-- CSR (R177). A MASK is not changed while a pass over its domain runs: the thread waits (19_domains R399). -/
def State.csr (s : State) (c sl d n op : Nat) (x : Word) (i : Instr) : State :=
  let cl := clusterOf c
  let old := s.readCsr c sl n
  if op = 0 then s.finishPut c sl d old
  else
    let v := csrValue op (if n = 0x100 then (s.cluster cl).rolesAsked else old) x
    if n = 0x100 then s.csrRoles c sl d old v i
    else if n = 0x113 then match s.twinFault (columnOf c) v with
      | some j => s.trap c sl .perm (BitVec.ofNat 64 j)
      | none => (s.writeCsr c sl n op x v).finishPut c sl d old
    else if 0x108 ≤ n && n ≤ 0x10F && (s.cluster cl).passing (n - 0x108) &&
        decide (((s.cluster cl).domain (n - 0x108)).1 ≠ v.toNat % 65536) then s.await c sl i none
    else (s.writeCsr c sl n op x v).finishPut c sl d old

/-- CSR.READ. -/
def execCsrRead (d csr : Nat) (s : State) : Host.Outcome State Fault Refusal :=
  guarded s (decide (0x100 ≤ csr)) [d] [d] fun c sl => s.csr c sl d csr 0 0 (.csrRead d csr)
/-- CSR.WRITE. -/
def execCsrWrite (d a csr : Nat) (s : State) : Host.Outcome State Fault Refusal :=
  guarded s (decide (0x100 ≤ csr)) [d, a] [d] fun c sl => s.csr c sl d csr 1 (s.reg64 c sl a) (.csrWrite d a csr)
/-- CSR.SET. -/
def execCsrSet (d a csr : Nat) (s : State) : Host.Outcome State Fault Refusal :=
  guarded s (decide (0x100 ≤ csr)) [d, a] [d] fun c sl => s.csr c sl d csr 2 (s.reg64 c sl a) (.csrSet d a csr)
/-- CSR.CLEAR. -/
def execCsrClear (d a csr : Nat) (s : State) : Host.Outcome State Fault Refusal :=
  guarded s (decide (0x100 ≤ csr)) [d, a] [d] fun c sl => s.csr c sl d csr 3 (s.reg64 c sl a) (.csrClear d a csr)

/-! ### TRAP, SVC and IDLE (R184, R185) -/

/-- SYS.TRAP. -/
def execSysTrap (code : Nat) (s : State) : Host.Outcome State Fault Refusal :=
  guarded s false [] [] fun c sl => s.trap c sl .usertrap (BitVec.ofNat 64 code)
/-- SYS.SVC. -/
def execSysSvc (code : Nat) (s : State) : Host.Outcome State Fault Refusal :=
  guarded s false [] [] fun c sl => s.trap c sl .svc (BitVec.ofNat 64 code)
/-- SYS.IDLE: held until the core accepts a message or receives a mesh interrupt message. -/
def execSysIdle (s : State) : Host.Outcome State Fault Refusal :=
  guarded s true [] [] fun c sl => s.await c sl .sysIdle none

/-! ### TLBINV (R186) -/

/-- Two addresses lie in one page of some size. -/
def samePage (a b : Nat) : Bool := a / pageSize 0 = b / pageSize 0

/-- Remove the entries of the page that contains va, at every size, from a core's translation cache, and its lines from the
column's instruction cache; lines under way are filled again (07_issue R161). -/
def State.dropPage (s : State) (c va : Nat) : State :=
  let s := s.onCore c fun k => { k with tcache := k.tcache.filter fun l => !(l.covers va) }
  s.onColumn (columnOf c) fun x =>
    let hit := fun (key : Nat) => samePage (key % 2 ^ 48) va
    { x with icache := x.icache.filter (fun p => !(hit p.1))
             refill := x.refill ++ ((x.filling.filter fun p => hit p.1).map fun p => p.1) }

/-- Remove them from the engine of a cluster, with those that its running requests hold (10_engines R246). -/
def State.dropEngine (s : State) (cl va : Nat) : State :=
  let kept := fun (x : Xlat) => match x.leaf with
    | some l => !(l.covers va)
    | none => !(samePage x.va va)
  let s := s.onCluster cl fun k => { k with engineTc := k.engineTc.filter fun p => !(p.2.covers va) }
  (List.range 16).foldl (fun s j => s.onRun (16 * cl + j) fun r => { r with xl := r.xl.filter kept }) s

/-- The other cores that a TLBINV reaches: the tenant's, in the scope, in islands that are up. -/
def State.tlbCores (s : State) (c : Nat) (scope : Scope) : List Nat :=
  let me := clusterOf c
  let cls := match scope with
    | .core | .column => []
    | .cluster => [me]
    | .stack => (List.range 64).map fun i => 64 * stackOf me + i
    | .device | .system => List.range 256
  (cls.filter fun k => (s.cluster k).up && s.tenantOf k == s.tenantOf me).flatMap fun k =>
    ((List.range 16).map fun j => 16 * k + j).filter (· != c)

/-- SYS.TLBINV: the issuer's own caches at once, the other cores by messages, each acknowledged. From scope 3 on the thread is held
for the round trip to the farthest cluster in scope at least; DEDUCED (log 82): of those that hold a core it reaches. -/
def execSysTlbinv (a : Nat) (scope : Scope) (s : State) : Host.Outcome State Fault Refusal :=
  guarded s true [a] [] fun c sl =>
    let va := bits (s.reg64 c sl a).toNat 47 0
    let s := s.dropPage c va
    match scope with
    | .core => (s.finish c sl).turns c sl 2
    | .column => ((s.dropPage (if c % 2 = 0 then c + 1 else c - 1) va).finish c sl).turns c sl 2
    | _ =>
      let s := s.dropEngine (clusterOf c) va
      let others := s.tlbCores c scope
      let w := (s.tenantOf (clusterOf c)).getD 0
      let s := if scope = .cluster then s.turns c sl 3
        else s.onThread c sl fun th => { th with issueAt := s.cyc c + s.roundTrip c others + 1 }
      if others.isEmpty then s.finish c sl
      else
        let s := (s.await c sl (.sysTlbinv a scope) none).onThread c sl fun th => { th with acks := others.length }
        others.foldl (fun s k => s.coreToCore c k 4 1 (.tlbInv k va (BitVec.ofNat 64 w) c sl)) s

/-- TLBINV_REMOTE: a core removes the page and acknowledges. -/
def execTlbinvRemote (s : State) : Host.Outcome State Fault Refusal :=
  match s.takeItem s.subj.item with
  | (some (.tlbInv c va _ rc rs), s) =>
    .next (((s.dropPage c va).dropEngine (clusterOf c) va).coreToCore c rc 1 1 (.thrAns rc rs .done))
  | (_, s) => .next s

/-- One acknowledgement of an instruction that waits for several; the last completes it. -/
def State.acked (s : State) (c sl : Nat) : State :=
  let th := s.thread c sl
  if th.acks ≤ 1 then (s.finish c sl).after c sl else s.setThread c sl { th with acks := th.acks - 1 }

/-! ### Context records (R407) -/

/-- The code of a slot's state in a record. -/
def SlotSt.code (x : SlotSt) : Nat := match x with
  | .run => 1
  | .service => 2
  | .parked => 3
  | _ => 0

/-- STATE. -/
def ctxState (x : Slot) : Nat :=
  let th := x.th
  let b := fun (v : Bool) (n : Nat) => if v then 2 ^ n else 0
  2 ^ 63 + b th.world 62 + b th.sup 61 + b th.tiller.isSome 60 + th.pri % 4 * 2 ^ 58 + (th.limit / 8 - 1) % 16 * 2 ^ 54 +
    b th.wo 53 + th.level % 8 * 2 ^ 50 + (if th.tiller.isSome then 0 else th.base % 2048) * 2 ^ 39 + b th.heads 38 + x.st.code

/-- The monitor word. -/
def Monitor.word (m : Monitor) : Nat := match m with
  | .disarmed => 0
  | .armed l _ => 2 ^ 62 + l % 2 ^ 40
  | .fired k l => 2 * 2 ^ 62 + k % 4 * 2 ^ 60 + l % 2 ^ 40

/-- An arrival record's 32 bits (14_sync R344). -/
def BarRec.word (r : BarRec) : Nat := r.group % 256 * 2 ^ 24 + r.bar % 128 * 2 ^ 17 + 2 ^ 16 + r.phase % 65536

/-- Words 0 to 7 of the blocks 0 to 19 of a record. -/
def ctxWords (x : Slot) : List Nat :=
  let th := x.th
  let rec_ := fun (i : Nat) => match th.records[i]? with
    | some r => r.word
    | none => 0
  let seen := fun (i : Nat) => look th.seen i 0 % 2 ^ 32
  let priv := match th.tiller with
    | some t => ((t.priv.filter fun p => p.1 != t.dreg).foldl (fun a p => a + 2 ^ p.1) 0)
    | none => 0
  let til := match th.tiller with
    | some t => [t.handle, t.index]
    | none => [0, 0]
  let held := match th.heldWait with
    | some r => 2 ^ 63 + r.group % 256 * 2 ^ 32 + r.bar % 128 * 2 ^ 16 + r.phase % 65536
    | none => 0
  [th.pc.toNat, ctxState x, th.tid % 65536, th.fflags.toNat, th.thandler.toNat, th.tepc.toNat, th.tcause.toNat, th.taddr.toNat,
   th.tword.toNat, th.tprog.toNat, th.tplbase.toNat, th.tplsize.toNat, th.lastcrown.toNat, th.monitor.word,
   seen 0 + seen 1 * 2 ^ 32, seen 2 + seen 3 * 2 ^ 32] ++
  ((List.range 7).map fun m => (look th.masks (m + 1) 0).toNat) ++ [0] ++
  [rec_ 0 + rec_ 1 * 2 ^ 32, rec_ 2 + rec_ 3 * 2 ^ 32, priv % 2 ^ 64, priv / 2 ^ 64] ++ til ++ [held, 0] ++
  (List.range 16).flatMap fun n => match find th.handles n with
    | some h => [h.desc.toNat, h.geo.toNat, h.ccur.toNat, h.pcur.toNat, h.seenp.toNat, h.seenc.toNat, 1, 0]
    | none => [0, 0, 0, 0, 0, 0, 0, 0]

/-- The context record of a slot: 20 + limit blocks. -/
def State.ctxRecord (s : State) (c sl : Nat) : List Byte :=
  let x := s.slot c sl
  (ctxWords x).flatMap (toBytes 8) ++ (List.range x.th.limit).flatMap fun r => toBytes 64 (s.reg c sl r).toNat

/-- Word j of block b of a record. -/
def ctxWord (bs : List Byte) (b j : Nat) : Nat := ofBytes (slice bs (64 * b + 8 * j) 8)

/-- Register x of a record. -/
def ctxReg (bs : List Byte) (x : Nat) : VWord := BitVec.ofNat 512 (ofBytes (slice bs (64 * (20 + x)) 64))

/-- The limit that STATE names. -/
def ctxLimit (st : Nat) : Nat := 8 * (bits st 57 54 + 1)

/-- The checks of V and of the PC, a head address, that every record passes (R408). -/
def ctxHead (bs : List Byte) : Bool := bit (ctxWord bs 0 1) 63 && headAddress (BitVec.ofNat 64 (ctxWord bs 0 0))

/-- Those, and the reserved fields (R407, R408). -/
def ctxOk (bs : List Byte) : Bool :=
  let st := ctxWord bs 0 1
  ctxHead bs && (bits st 37 4 = 0) && (bits (ctxWord bs 0 2) 63 16 = 0) && (ctxWord bs 2 7 = 0) && (ctxWord bs 3 7 = 0) &&
  (bit st 60 || (List.range 4).all fun j => ctxWord bs 3 (2 + j) == 0) &&
  (bits (ctxWord bs 3 6) 62 40 = 0) && (bits (ctxWord bs 3 6) 31 23 = 0) &&
  (List.range 16).all fun n => ctxWord bs (4 + n) 7 == 0 && decide (ctxWord bs (4 + n) 6 ≤ 1)

/-- The record fits a thread in SERVICE: TID, LIM, TL, W and HD are its own. -/
def ctxFits (th : Thread) (bs : List Byte) : Bool :=
  let st := ctxWord bs 0 1
  ctxOk bs && (ctxWord bs 0 2 = th.tid) && (ctxLimit st = th.limit) && (bit st 60 == th.tiller.isSome) &&
  (bit st 62 == th.world) && (bit st 38 == th.heads)

/-- The record may be admitted into a free slot: no tiller, no crown, ST = 1. -/
def ctxFresh (bs : List Byte) : Bool :=
  let st := ctxWord bs 0 1
  ctxHead bs && !(bit st 60) && !(bit st 38) && (bits st 3 0 = 1)

/-- The monitor of a record. -/
def ctxMonitor (w : Nat) : Monitor := match bits w 63 62 with
  | 1 => .armed (bits w 39 0) 0
  | 2 => .fired (bits w 61 60) (bits w 39 0)
  | _ => .disarmed

/-- A monitor that stays armed at its line keeps its registration. -/
def Monitor.kept (old new : Monitor) : Monitor := match old, new with
  | .armed l r, .armed m _ => if l = m then .armed l r else new
  | _, _ => new

/-- The arrival record of 32 bits. -/
def ctxBar (w : Nat) : Option BarRec :=
  if bit w 16 then some { group := bits w 31 24, bar := bits w 23 17, phase := bits w 15 0 } else none

/-- What a record gives a thread beside its registers; its identity, limit, world and range stay. -/
def ctxThread (th : Thread) (bs : List Byte) : Thread :=
  let w := ctxWord bs
  let v := fun (b j : Nat) => BitVec.ofNat 64 (w b j)
  let st := w 0 1
  { th with
    pc := v 0 0, sup := bit st 61, pri := bits st 59 58, wo := bit st 53, level := bits st 52 50
    fflags := v 0 3 &&& 0x1F, thandler := v 0 4, tepc := v 0 5, tcause := v 0 6 &&& 0xFF, taddr := v 0 7
    tword := v 1 0, tprog := v 1 1 &&& 0x3F, tplbase := v 1 2 &&& 0x1FFFFFFF, tplsize := v 1 3 &&& 0x1FF, lastcrown := v 1 4
    monitor := th.monitor.kept (ctxMonitor (w 1 5))
    seen := [(0, bits (w 1 6) 31 0), (1, bits (w 1 6) 63 32), (2, bits (w 1 7) 31 0), (3, bits (w 1 7) 63 32)]
    masks := (List.range 7).map fun m => (m + 1, v 2 m)
    records := [bits (w 3 0) 31 0, bits (w 3 0) 63 32, bits (w 3 1) 31 0, bits (w 3 1) 63 32].filterMap ctxBar
    heldWait := if bit (w 3 6) 63 then
      some { group := bits (w 3 6) 39 32, bar := bits (w 3 6) 22 16, phase := bits (w 3 6) 15 0 } else none
    handles := (List.range 16).filterMap fun n => if bit (w (4 + n) 6) 0 then
      some (n, { desc := v (4 + n) 0, geo := v (4 + n) 1, ccur := v (4 + n) 2, pcur := v (4 + n) 3, seenp := v (4 + n) 4
                 seenc := v (4 + n) 5 }) else none
    hold := .ready, holding := none, pend := none, xl := [], acks := 0, result := 0, entering := false }

/-- The private registers that a tiller's record names, its index register apart (R407, R110). -/
def ctxPriv (bs : List Byte) (dreg limit : Nat) : List Nat :=
  let map := ctxWord bs 3 2 + 2 ^ 64 * ctxWord bs 3 3
  (List.range (min limit 128)).filter fun r => bit map r && r != dreg && r != 0

/-- A tiller with the crown handle, the index and the private map of a record: a register that the map leaves out gives its entry
back, one that it adds takes an entry. -/
def Tiller.remapped (t : Tiller) (bs : List Byte) (limit : Nat) : Tiller :=
  let named := ctxPriv bs t.dreg limit
  let stays := fun (p : Nat × Nat) => p.1 == t.dreg || named.contains p.1
  let room := t.spare ++ ((t.priv.filter fun p => !(stays p)).map fun p => p.2)
  let new := named.filter fun r => (find t.priv r).isNone
  { t with handle := ctxWord bs 3 4, index := ctxWord bs 3 5, taken := named.length
           priv := new.zip room ++ t.priv.filter stays, spare := room.drop new.length }

/-- The registers of a record that differ from a thread's own. -/
def State.ctxChanged (s : State) (c sl : Nat) (bs : List Byte) : List Nat :=
  (List.range (s.thread c sl).limit).filter fun x => (x != 0) && s.reg c sl x != ctxReg bs x

/-- Write registers of a record. -/
def State.ctxRegs (s : State) (c sl : Nat) (bs : List Byte) (rs : List Nat) : State :=
  rs.foldl (fun s x => s.setReg c sl x (ctxReg bs x)) s

/-! ### SAVECTX, LOADCTX and SCRUB (R187, R408) -/

/-- The slot that register a names, when it may be used: the issuer's own is not allowed, and one whose thread has ended is FREE from
its next turn on (R164, R189). -/
def State.ctxSlot (s : State) (c sl a : Nat) (ok : SlotSt → Bool) : Option Nat :=
  let n := (s.reg64 c sl a).toNat
  let x := s.slot c n
  if n ≤ 15 && n != sl && ok x.st && (x.st != .free || x.freeOn (s.cyc c)) then some n else none

/-- The plan of a number of blocks of a record: stores of its bytes, or loads. -/
def ctxPlan (ea : Word) (n : Nat) (bs : Option (List Byte)) : Plan :=
  { space := .global, need := { r := bs.isNone, w := bs.isSome }
    els := (List.range n).map fun i =>
      { idx := i, ea := ea + BitVec.ofNat 64 (64 * i), width := 64
        op := match bs with
          | some l => .store (slice l (64 * i) 64)
          | none => .load 64 false } }

/-- The plan of a SAVECTX that a thread executes. -/
def State.savePlan (s : State) (c sl a b : Nat) : Plan :=
  let t := (s.reg64 c sl a).toNat
  ctxPlan (s.reg64 c sl b) (20 + (s.thread c t).limit) (some (s.ctxRecord c t))

/-- Request the blocks of a record below the first that its check loop stops at, held until all are answered; it traps at once when
that is the first of all. -/
def State.ctxAccess (s : State) (c sl : Nat) (i : Instr) (p : Plan) (undo : State → State) : State :=
  let x := s.scan c sl p p.els
  match x.walk with
  | some va => s.walkFor c sl i va
  | none => match x.goods, x.stop with
    | [], some (_, k, addr) => (undo s).trap c sl k addr
    | goods, stop => goods.foldl (fun s a => s.requestHome c a) (s.outstanding c sl i goods.length stop)

/-- SYS.SAVECTX. -/
def execSysSavectx (a b : Nat) (s : State) : Host.Outcome State Fault Refusal :=
  guarded s true [a, b] [] fun c sl =>
    match s.ctxSlot c sl a fun x => x = .service || x = .parked with
    | none => s.trap c sl .perm (s.reg64 c sl a)
    | some _ =>
      if (s.reg64 c sl b).toNat % 64 ≠ 0 then s.trap c sl .misalign (s.reg64 c sl b)
      else s.ctxAccess c sl (.sysSavectx a b) (s.savePlan c sl a b) id

/-- The blocks of a SAVECTX are all written: complete, or the lowest block's fault. -/
def State.savectxDone (s : State) (c sl a b : Nat) (q : Pending) : State :=
  match firstFound (s.savePlan c sl a b) q.got with
  | some (e, .fault k) => s.trap c sl k e.ea
  | some (e, .bad r) => s.parkPoison c sl e.ea r
  | none => match q.stop with
    | some (_, k, addr) => s.trap c sl k addr
    | none => s.finish c sl

/-- A slot kept for a LOADCTX is given back. -/
def State.unreserve (s : State) (c t : Nat) : State :=
  if (s.slot c t).st = .reserved then s.setSlot c t {} else s

/-- Trap a LOADCTX, giving its reserved slot back. -/
def State.loadTrap (s : State) (c sl t : Nat) (k : Cause) (addr : Word) : State := (s.unreserve c t).trap c sl k addr

/-- Admit a record into the slot kept for it, once its registers can be placed (R78, R408). -/
def State.ctxAdmit (s : State) (c sl t : Nat) (bs : List Byte) : State :=
  let st := ctxWord bs 0 1
  let limit := ctxLimit st
  match s.room c t limit with
  | none => s.stay c sl none
  | some base =>
    let th := ctxThread { limit := limit, base := base, tid := bits (ctxWord bs 0 2) 15 0, world := bit st 62 } bs
    let s := s.admitThread c t th []
    let s := s.ctxRegs c t bs ((List.range limit).filter (· != 0))
    let s := if s.paired c t then s.ctxRegs (c + 1) t bs ((List.range limit).filter (· != 0)) else s
    s.finish c sl

/-- Load a checked record into a thread in SERVICE (R408): a tiller's handle, index and private map with the rest. A tiller's end past
its budget waits for its posted stores. -/
def State.ctxInstall (s : State) (c sl t : Nat) (bs : List Byte) : State :=
  let th := s.thread c t
  let mapped := s.setThread c t { th with tiller := th.tiller.map fun l => l.remapped bs th.limit }
  let added := (ctxPriv bs ((th.tiller.map fun l => l.dreg).getD 0) th.limit).filter fun r => match th.tiller with
    | some l => (find l.priv r).isNone
    | none => false
  let changed := (added ++ mapped.ctxChanged c t bs).eraseDups
  if (mapped.thread c t).overBudget changed then
    match th.tiller with
    | some _ => if s.endWaits th then s.stay c sl none else (s.failTiller c t .copyfault th.pc).finish c sl
    | none => s.finish c sl
  else
    let s := mapped.ctxRegs c t bs changed
    let x := s.slot c t
    let s := s.setSlot c t { x with st := .run, th := { ctxThread x.th bs with issueAt := s.cyc c + 1 } }
    (s.jumpTo c t (BitVec.ofNat 64 (ctxWord bs 0 0))).finish c sl

/-- The whole record of a LOADCTX is read: its checks, and its effect. -/
def State.ctxLoad (s : State) (c sl a : Nat) (bs : List Byte) : State :=
  let ga := s.reg64 c sl a
  let t := ga.toNat
  match (s.slot c t).st with
  | .service => if ctxFits (s.thread c t) bs then s.ctxInstall c sl t bs else s.trap c sl .perm ga
  | .reserved => if ctxFresh bs then s.ctxAdmit c sl t bs else s.loadTrap c sl t .perm ga
  | _ => s.trap c sl .perm ga

/-- The bytes of the blocks that have been read. -/
def gotBytes (got : List (Nat × AccResult)) (n : Nat) : List Byte :=
  (List.range n).flatMap fun i => (look got i {}).bytes

/-- The blocks read by a LOADCTX: block 0 first, then the record, whose length block 0 gives. -/
def State.loadctxDone (s : State) (c sl a b : Nat) (i : Instr) (q : Pending) : State :=
  let t := (s.reg64 c sl a).toNat
  let ea := s.reg64 c sl b
  let n := q.got.length
  let p := ctxPlan ea n none
  match firstFound p q.got with
  | some (e, .fault k) => s.loadTrap c sl t k e.ea
  | some (e, .bad r) => (s.unreserve c t).parkPoison c sl e.ea r
  | none => match q.stop with
    | some (_, k, addr) => s.loadTrap c sl t k addr
    | none =>
      if n = 1 then s.ctxAccess c sl i (ctxPlan ea (20 + ctxLimit (ctxWord (gotBytes q.got 1) 0 1)) none) (·.unreserve c t)
      else s.ctxLoad c sl a (gotBytes q.got n)

/-- SYS.LOADCTX. A free slot is kept for the record from here on. A record that waits for registers has been read. -/
def execSysLoadctx (a b : Nat) (s : State) : Host.Outcome State Fault Refusal :=
  guarded s true [a, b] [] fun c sl =>
    let th := s.thread c sl
    let i : Instr := .sysLoadctx a b
    let again := th.hold != .ready
    match s.ctxSlot c sl a fun x => x = .service || x = .free || (again && x = .reserved) with
    | none => s.trap c sl .perm (s.reg64 c sl a)
    | some t =>
      if (s.slot c t).st = .free && s.paired c t && decide (c % 2 = 1) then s.trap c sl .perm (s.reg64 c sl a)
      else if (s.reg64 c sl b).toNat % 64 ≠ 0 then s.trap c sl .misalign (s.reg64 c sl b)
      else
        let s := if (s.slot c t).st = .free then s.setSlot c t { st := .reserved } else s
        match th.pend with
        | some q =>
          if 1 < q.got.length then s.ctxLoad c sl a (gotBytes q.got q.got.length)
          else s.ctxAccess c sl i (ctxPlan (s.reg64 c sl b) 1 none) (·.unreserve c t)
        | none => s.ctxAccess c sl i (ctxPlan (s.reg64 c sl b) 1 none) (·.unreserve c t)

/-- End a parked or served thread (R118, R189, R408). -/
def State.scrubSlot (s : State) (c t : Nat) : State :=
  let x := s.slot c t
  let th := x.th
  let s := (s.zeroRegs c t).endThread c t th.tiller.isSome
  match th.tiller with
  | some l => s.record c { kind := 3, cause := if x.st = .parked then th.parkCause else th.tcause.toNat, slot := t, pc := th.pc
                           tid := th.tid, w4 := l.handle, w5 := l.index }
  | none => s

/-- SYS.SCRUB: a tiller's end waits for its posted stores (R122); either slot of a twin pair ends both (R413). -/
def execSysScrub (a : Nat) (s : State) : Host.Outcome State Fault Refusal :=
  guarded s true [a] [] fun c sl =>
    match s.ctxSlot c sl a fun x => x = .parked || x = .service with
    | none => s.trap c sl .perm (s.reg64 c sl a)
    | some t =>
      let th := s.thread c t
      if th.tiller.isSome && s.endWaits th then s.stay c sl none
      else
        let other := if c % 2 = 0 then c + 1 else c - 1
        let pair := s.paired c t && (s.slot other t).busy
        let s := s.scrubSlot c t
        let s := if pair then s.scrubSlot other t else s
        (if s.paired c t then s.clearPair c t else s).finish c sl

/-! ### A turn at a PC that cannot be decoded (R43, R44, R160) -/

/-- What stands at a thread's PC: a fault of the fetch, or what its line copy decodes to. -/
inductive AtPc where
  | fault (k : Cause)
  | illine
  | illegal
  | op (i : Instr)
deriving DecidableEq, Repr

/-- The fetch of a thread. -/
def Thread.atPc (th : Thread) : AtPc := match th.lineFault with
  | some k => .fault k
  | none => match decodeAt th.lineCopy (headOf th.pc.toNat) with
    | .illine => .illine
    | .illegal => .illegal
    | .op i => .op i

/-- The causes that never enter a handler (20_traps R402). -/
def Cause.parks (k : Cause) : Bool := match k with
  | .poison | .copyfault | .shadowfull | .twinmismatch => true
  | _ => false

/-- ILLEGAL_ENCODING: a fault of the fetch with TADDR the PC, a malformed line or a head beyond n, or illegal words. A fetch consumes no
poison (09_homing R238); a thread that held such a fault would be parked with it (20_traps R402, log 13). -/
def execIllegalEncoding (s : State) : Host.Outcome State Fault Refusal :=
  current s fun c sl =>
    let th := s.thread c sl
    match th.atPc with
    | .fault k =>
      if k.parks then s.park c sl { kind := 1, cause := k.code, pc := th.pc, addr := th.pc } else s.enterTrap c sl k 0 th.pc false
    | .illine => s.enterTrap c sl .illine th.illineWord (BitVec.ofNat 64 (lineOf th.pc.toNat)) false
    | .illegal => s.trap c sl .illegal 0
    | .op _ => s

end Sys2Proof.Machine
end

