-- ==== Sys2Proof/Machine/Preempt.lean ====
section
/-!
DEFINITION. Pre-emption (20_traps R414 to R418): PREEMPT and RESUME messages, draining, the save area's layout, saving it
block by block, installing what is read back, applying the spill queue, and running again.
-/
namespace Sys2Proof.Machine

open Sys2Proof

/-- Tell the platform firmware of an event: a code in [63:56] and what it concerns. Codes: 1 PREEMPT refused, 2 PREEMPT or
RESUME ignored, 3 pre-empted, 4 running again, 5 dead link, 6 failed port, 7 frequency lowered, 8 chart acknowledged. -/
def State.tellFirmware (s : State) (code what : Nat) : State :=
  { s with fwNotes := s.fwNotes ++ [BitVec.ofNat 64 (code * 2 ^ 56 + what)] }

/-! ### PREEMPT and draining (R415, R416) -/

/-- PREEMPT: refused for want of an area, ignored by a core that does not run, else STOPPING begins. A message that stops
nothing wakes an idle thread (07_issue R185). -/
def execPreempt (s : State) : Host.Outcome State Fault Refusal :=
  match s.takeItem s.subj.item with
  | (some (.preempt c), s) =>
    let k := s.core c
    if k.pre ≠ .running then .next (s.tellFirmware 2 c)
    else if !(k.savebase.getLsbD 63) || !(k.spillbase.getLsbD 63) then .next ((s.wakeIdle c).tellFirmware 1 c)
    else .next (s.setCore c { k with pre := .stopping, stopAt := s.cyc c, spillMax := k.spill.length })
  | (_, s) => .next s

/-- PREEMPT_DRAINING: at a rotation boundary the slots stop issuing. -/
def execPreemptDraining (s : State) : Host.Outcome State Fault Refusal :=
  let c := s.subj.unit
  let k := s.core c
  if k.pre = .stopping && decide (s.cyc c % 16 = 0) && decide (k.stopAt < s.cyc c) then
    .next (s.setCore c { k with pre := .draining })
  else .next s

/-- Instructions that a drain completes although they are executed again on every turn (R416). -/
def drains (i : Instr) : Bool := match i with
  | .fenceAcquire _ | .fenceRelease _ | .fenceXpath _ | .fenceFull _ => true
  | .sysLoadctx _ _ | .sysScrub _ => true
  | .csrWrite _ _ k | .csrSet _ _ k | .csrClear _ _ k => decide (k = 0x100)
  | _ => false

/-- A held thread can be saved as it stands: its hold is one that R416 saves at the instruction. -/
def Thread.settled (th : Thread) : Bool :=
  (th.posted = 0) && (th.invals = 0) && match th.hold with
  | .answer => decide (th.waits = some .sysIdle)
  | .walked | .migrating _ => false
  | .again => match th.atPc with
    | .op i => !(drains i)
    | _ => true
  | _ => true

/-- Draining is done: every thread is settled, the engine and the matrix units owe the core nothing (R415). -/
def State.drained (s : State) (c : Nat) : Bool :=
  let k := s.core c
  (k.slots.all fun p => p.2.st != .run || p.2.th.settled) && k.fifo.isEmpty && k.running.isNone && (k.mxOut = 0) && !k.stealOut

/-- FREEZEs of the core whose every install stands in a crown slot or a spill queue are complete (R416). -/
def State.freezesDone (s : State) (c : Nat) : State :=
  (List.range 16).foldl (fun s sl =>
    let th := s.thread c sl
    match th.waits with
    | some (.freeze d _ _) => match s.liveCrown th.result.toNat with
      | some k => if k.installing.all fun m => k.spilledIn.contains m then s.freezeDone c sl th.result.toNat d else s
      | none => s
    | _ => s) s

/-! ### The save area (R418)

Words of 64 bits, numbered from the start of the area. Where R418 names the content of a part and not the places in it, the
places are the model's (log 42). -/

/-- The meta word of a record (04_channels R86). -/
def Rec.meta (r : Rec) : Nat :=
  let b := fun (v : Bool) (n : Nat) => if v then 2 ^ n else 0
  b r.k 63 + b r.w 62 + r.pri % 4 * 2 ^ 60 + r.lim % 16 * 2 ^ 56 + r.crown % 2 ^ 32 * 2 ^ 24 + b r.hl 23 + r.cnt % 64

/-- The four words of a record. -/
def Rec.words (r : Rec) : List Nat := [r.w0.toNat, r.arg0.toNat, r.arg1.toNat, r.meta]

/-- A record read from its four words. -/
def recOf (ws : List Nat) : Rec :=
  let m := nth ws 3
  { k := bit m 63, w := bit m 62, pri := bits m 61 60, lim := bits m 59 56, crown := bits m 55 24, hl := bit m 23, cnt := bits m 5 0
    w0 := BitVec.ofNat 64 (nth ws 0), arg0 := BitVec.ofNat 64 (nth ws 1), arg1 := BitVec.ofNat 64 (nth ws 2) }

/-- Pack numbers of n bits into one word. -/
def packBits (n : Nat) (l : List Nat) : Nat := l.foldr (fun x a => x % 2 ^ n + 2 ^ n * a) 0

/-- Word i of the header. -/
def Core.headWord (k : Core) (c i : Nat) : Nat := match i with
  | 0 => 1
  | 1 => c
  | 2 => k.stopAt
  | 3 => packBits 4 ((List.range 16).map fun sl => (look k.slots sl {}).st.code)
  | _ => 0

/-- The words of the counters. -/
def Core.countWords (k : Core) : List Nat :=
  [k.tagdone.toNat, k.tagfree.toNat, k.mxstat.toNat, k.stealgrp.toNat] ++ ((List.range 16).map fun i => look k.cnt i 0) ++
  [packBits 1 (k.deque.map fun r => if r.parked.isSome then 1 else 0)] ++
  ((List.range 4).map fun j => packBits 4 (((k.deque.drop (16 * j)).take 16).map fun r => r.parked.getD 0)) ++
  [k.deque.length, k.arrivals.length]

/-- The two words of a barrier cell. -/
def Cell.words (x : Cell) : List Nat :=
  [(match x.group with
    | some g => 2 ^ 63 + g
    | none => 0) + x.expected % 65536 * 2 ^ 16, x.count % 65536 + x.phase % 65536 * 2 ^ 32]

/-- The words of a crown slot: header and CSRs, masks, member map from word 16, registers from word 80. -/
def CrownSlot.words (x : CrownSlot) : List Nat :=
  let b := fun (v : Bool) (n : Nat) => if v then 2 ^ n else 0
  let img := x.image.getD {}
  [2 ^ 63 + x.handle, x.join % 2 ^ 32 + x.failed % 2 ^ 32 * 2 ^ 32,
   (match x.dealer with
    | some d => 2 ^ 32 + d % 2 ^ 32
    | none => 0) + b x.home 40 + b x.image.isSome 41 + b x.crownEnded 42,
   img.level + img.limit * 2 ^ 8 + img.pri * 2 ^ 16 + b img.world 24 + b img.sup 25 + img.dreg * 2 ^ 32,
   img.budget + img.group * 2 ^ 8 + img.sheaf * 2 ^ 16 + img.shadow * 2 ^ 24 + img.n * 2 ^ 32,
   img.pc.toNat, img.thandler.toNat, img.tplbase.toNat, img.tplsize.toNat] ++
  ((List.range 7).map fun m => (look img.masks (m + 1) 0).toNat) ++
  ((List.range 64).map fun j => packBits 1 ((List.range 64).map fun i => if img.members.contains (64 * j + i) then 1 else 0)) ++
  (List.range 127).flatMap fun r => (List.range 8).map fun j => bits (look img.regs (r + 1) 0).toNat (64 * j + 63) (64 * j)

/-- Word w of the save area of a core. -/
def State.saveWord (s : State) (c w : Nat) : Nat :=
  let k := s.core c
  if w < 8 then k.headWord c w
  else if w < 64 then nth k.countWords (w - 8)
  else if w < 1088 then match k.arrivals[(w - 64) / 16]? with
    | some a => ofBytes (slice (a.msg.entry s.devNo) (8 * ((w - 64) % 16)) 8)
    | none => 0
  else if w < 1344 then match k.deque[(w - 1088) / 4]? with
    | some r => nth r.words ((w - 1088) % 4)
    | none => 0
  else if w < 1600 then nth (look k.cells ((w - 1344) / 2) {}).words ((w - 1344) % 2)
  else if w < 1728 then packBits 16 ((List.range 4).map fun i => look k.mirrors (4 * (w - 1600) + i) 0)
  else if w < 1792 then ((look k.links ((w - 1728) / 16) []).getD ((w - 1728) % 16) 0).toNat
  else if w < 2048 then 0
  else if w < 6656 then match find k.crowns ((w - 2048) / 1152) with
    | some x => nth x.words ((w - 2048) % 1152)
    | none => 0
  else if w < 8192 then 0
  else if w < 27136 then
    let sl := (w - 8192) / 1184
    let j := (w - 8192) % 1184
    if (s.slot c sl).st.code = 0 then 0
    else if j < 160 then nth (ctxWords (s.slot c sl)) j
    else if (j - 160) / 8 < (s.thread c sl).limit then
      bits (s.reg c sl ((j - 160) / 8)).toNat (64 * (j % 8) + 63) (64 * (j % 8))
    else 0
  else 0

/-- Block b of the save area of a core. -/
def State.saveBlock (s : State) (c b : Nat) : List Byte := (List.range 8).flatMap fun j => toBytes 8 (s.saveWord c (8 * b + j))

/-- PREEMPT_SAVING: with sub 0, draining ends if it is done, or on a turn of the service slot the next block's write goes
out; with sub 1 block number item is performed, three cycles after its turn. -/
def execPreemptSaving (s : State) : Host.Outcome State Fault Refusal :=
  let c := s.subj.unit
  let k := s.core c
  if s.subj.sub = 1 then
    let s := s.tierWrite (k.savebase.getLsbD 62) (areaBase k.savebase + 64 * s.subj.item) (s.saveBlock c s.subj.item)
    .next (if s.subj.item = 4095 then { s with agenda := .dev .preemptSaved { unit := c } :: s.agenda } else s)
  else match k.pre with
    | .draining =>
      let s := s.freezesDone c
      .next (if s.drained c then s.onCore c fun k => { k with pre := .saving, saveNext := 0 } else s)
    | .saving =>
      if s.cyc c % 16 = 15 && decide (k.saveNext < 4096) then
        .next ((s.setCore c { k with saveNext := k.saveNext + 1 }).inCycles (clusterOf c) 3 .preemptSaving
          { unit := c, sub := 1, item := k.saveNext })
      else .next s
    | _ => .next s

/-- PREEMPT_SAVED: the register file is cleared, COUNT advances, and the firmware is told. -/
def execPreemptSaved (s : State) : Host.Outcome State Fault Refusal :=
  let c := s.subj.unit
  let k := s.core c
  if k.pre = .saving then
    .next ((s.setCore c { k with pre := .preempted, rf := [], rfErr := [], preCount := (k.preCount + 1) % 2 ^ 32 }).tellFirmware 3 c)
  else .next s

/-! ### RESUME (R415, R417, R418) -/

/-- RESUME: RESTORING begins, the first block of the area being read on the next cycle; a core that is not pre-empted ignores it. -/
def execResume (s : State) : Host.Outcome State Fault Refusal :=
  match s.takeItem s.subj.item with
  | (some (.resume c), s) =>
    let k := s.core c
    if k.pre = .preempted then
      .next ((s.setCore c { k with pre := .restoring, saveNext := 0, areaIn := [] }).inCycles (clusterOf c) 1 .restoreComplete { unit := c })
    else .next ((s.wakeIdle c).tellFirmware 2 c)
  | (_, s) => .next s

/-- Bytes of the blocks of its save area that a core has read, from a word on. -/
def Core.areaBytes (k : Core) (w n : Nat) : List Byte :=
  slice (((k.areaIn.drop (w / 8)).take ((8 * (w % 8) + n + 63) / 64)).flatMap id) (8 * (w % 8)) n

/-- The bytes of a core's save area from a word on, as they were read. -/
def State.areaBytes (s : State) (c w n : Nat) : List Byte := (s.core c).areaBytes w n

/-- Word w of a core's save area as it was read. -/
def State.areaWord (s : State) (c w : Nat) : Nat := ofBytes (s.areaBytes c w 8)

/-- Words of the area. -/
def State.areaWords (s : State) (c w n : Nat) : List Nat := (List.range n).map fun i => s.areaWord c (w + i)

/-- An arrival read from its entry: the one it was where nothing was changed (its world and age stand in no entry),
else a message of secure world. -/
def State.areaArrival (s : State) (c i : Nat) : Arrival :=
  let bs := s.areaBytes c (64 + 16 * i) 128
  let new : Arrival :=
    let w := ofBytes (bs.take 8)
    { entered := s.cyc c
      msg := { remop := bits w 63 56 != 1, srcDev := bits w 33 18, srcCore := bits w 45 34, srcSlot := 15, world := true
               tenant := s.tenantOf (clusterOf c), dstDev := s.devNo, dstCore := c, channel := bits w 51 46
               words := (List.range (bits w 55 52)).map fun j => BitVec.ofNat 64 (ofBytes (slice bs (8 + 8 * j) 8))
               report := bits w 63 56 = 10 } }
  match (s.core c).arrivals[i]? with
  | some a => if a.msg.entry s.devNo = bs then a else new
  | none => new

/-- A deque record read from the area, with its counter when the map marks it parked; one that was changed has a number of its own. -/
def State.areaRec (s : State) (c i : Nat) : Rec :=
  let ws := s.areaWords c (1088 + 4 * i) 4
  let parked := if bit (s.areaWord c 28) i then some (bits (s.areaWord c (29 + i / 16)) (4 * (i % 16) + 3) (4 * (i % 16))) else none
  let new : Rec := { recOf ws with parked := parked, entered := s.cyc c, uid := s.nextId + 1 + i }
  match (s.core c).deque[i]? with
  | some r => if r.words = ws && r.parked == parked then r else new
  | none => new

/-- A barrier cell read from the area. -/
def State.areaCell (s : State) (c i : Nat) : Cell :=
  let a := s.areaWord c (1344 + 2 * i)
  let b := s.areaWord c (1345 + 2 * i)
  { group := if bit a 63 then some (bits a 7 0) else none, expected := bits a 31 16, count := bits b 15 0, phase := bits b 47 32 }

/-- A crown slot read from the area. What stands in no word of it is kept from the slot as it was. -/
def State.areaCrown (s : State) (c i : Nat) : Option CrownSlot :=
  let w := fun (j : Nat) => s.areaWord c (2048 + 1152 * i + j)
  let v := fun (j : Nat) => BitVec.ofNat 64 (w j)
  if !(bit (w 0) 63) then none
  else
    let old := (find (s.core c).crowns i).getD { handle := bits (w 0) 31 0 }
    let limit := bits (w 3) 15 8
    let img : Image :=
      { level := bits (w 3) 7 0, limit := limit, pri := bits (w 3) 17 16, world := bit (w 3) 24, sup := bit (w 3) 25
        dreg := bits (w 3) 38 32, budget := bits (w 4) 7 0, group := bits (w 4) 15 8, sheaf := bits (w 4) 23 16
        shadow := bits (w 4) 31 24, n := bits (w 4) 63 32, pc := v 5, thandler := v 6
        tplbase := v 7 &&& 0x1FFFFFFF, tplsize := v 8 &&& 0x1FF
        masks := (List.range 7).map fun m => (m + 1, v (9 + m))
        members := (List.range 4096).filter fun m => bit (w (16 + m / 64)) (m % 64)
        regs := (List.range (limit - 1)).map fun r =>
          (r + 1, BitVec.ofNat 512 (ofBytes (s.areaBytes c (2048 + 1152 * i + 80 + 8 * r) 64))) }
    some { old with
      handle := bits (w 0) 31 0, join := bits (w 1) 31 0, failed := bits (w 1) 63 32
      dealer := if bit (w 2) 32 then some (bits (w 2) 31 0) else none
      home := bit (w 2) 40, image := if bit (w 2) 41 then some img else none, crownEnded := bit (w 2) 42 }

/-- Install what the area holds besides the slots. -/
def State.installCore (s : State) (c : Nat) : State :=
  let n := s.areaWords c 8 56
  let word := fun (i : Nat) => BitVec.ofNat 64 (nth n i)
  let arrivals := (List.range (min 64 (nth n 26))).map fun i => s.areaArrival c i
  let deque := (List.range (min 64 (nth n 25))).map fun i => s.areaRec c i
  let cells := (List.range 128).map fun i => (i, s.areaCell c i)
  let mirrors := (List.range 512).map fun i => (i, bits (s.areaWord c (1600 + i / 4)) (16 * (i % 4) + 15) (16 * (i % 4)))
  let links := (List.range 4).map fun j =>
    (j, ((s.areaWords c (1728 + 16 * j) 16).filter (· != 0)).map fun x => BitVec.ofNat 64 x)
  let crowns := (List.range 4).filterMap fun i => (s.areaCrown c i).map fun x => (i, x)
  { s with nextId := s.nextId + 64 }.onCore c fun k =>
    { k with tagdone := word 0, tagfree := word 1, mxstat := word 2, stealgrp := word 3 &&& 0x1FF
             cnt := (List.range 16).map fun i => (i, nth n (4 + i) % 65536)
             arrivals := arrivals, deque := deque, cells := cells, mirrors := mirrors, links := links, crowns := crowns }

/-- A tiller's entries as they are placed anew: its private registers as the map gives them, the index entry, and the rest
of its budget (05_crowns R111). -/
def State.areaTiller (s : State) (c : Nat) (old : Option Tiller) (bs : List Byte) : Option Tiller :=
  let h := ctxWord bs 3 4
  match ((s.core c).crownAt h).bind fun p => p.2.image with
  | none => none
  | some img =>
    let map := ctxWord bs 3 2 + 2 ^ 64 * ctxWord bs 3 3
    let priv := (List.range 128).filter fun r => bit map r && r != img.dreg
    let need := img.budget + (if img.dreg = 0 then 0 else 1)
    match freeEntries (s.core c) (s.cyc c) need with
    | none => none
    | some es =>
      let own := if img.dreg = 0 then [] else [img.dreg]
      let base : Tiller := (old.filter fun t => t.handle = h && t.index = ctxWord bs 3 5).getD
        { handle := h, index := ctxWord bs 3 5, dreg := img.dreg, shadowMax := img.shadow }
      some { base with dreg := img.dreg, budget := img.budget, taken := priv.length
                       priv := (own ++ priv).zip es, spare := es.drop (own ++ priv).length }

/-- Park a slot whose record fails its checks: its thread, or an empty one. -/
def State.parkRecord (s : State) (c sl : Nat) : State :=
  if (s.slot c sl).busy then s.park c sl { kind := 1, pc := (s.thread c sl).pc }
  else (s.setSlot c sl { st := .parked, th := { limit := 0 } }).record c { kind := 1, slot := sl }

/-- Install a slot from its record: free, as the record says, or parked with a record of kind 1 when the checks fail. Whether the
handler's first instruction is still to issue stands in no word of the record: it is kept where the PC is what it was (log 83). -/
def State.installSlot (s : State) (c sl : Nat) : State :=
  let bs := s.areaBytes c (8192 + 1184 * sl) 9472
  let st := ctxWord bs 0 1
  let x := s.slot c sl
  if st = 0 then s.setSlot c sl {}
  else if !(ctxOk bs) || decide (3 < bits st 3 0) then s.parkRecord c sl
  else
    let tl := bit st 60
    let t := if tl then s.areaTiller c x.th.tiller bs else none
    if tl && t.isNone then s.parkRecord c sl
    else
      let th := ctxThread { x.th with tid := bits (ctxWord bs 0 2) 15 0, limit := ctxLimit st, world := bit st 62
                                      base := bits st 49 39, heads := bit st 38, tiller := t, issueAt := 0 } bs
      let state : SlotSt := match bits st 3 0 with
        | 1 => .run
        | 2 => .service
        | _ => .parked
      let s := s.setSlot c sl { st := state, th := { th with entering := x.th.entering && decide (th.pc = x.th.pc) } }
      match t with
      | none => s.ctxRegs c sl bs ((List.range (ctxLimit st)).filter (· != 0))
      | some t => s.ctxRegs c sl bs (t.priv.map fun p => p.1)

/-- The record of a slot in the area is a tiller's. -/
def State.areaTl (s : State) (c sl : Nat) : Bool := bit (s.areaWord c (8192 + 1184 * sl + 1)) 60

/-- Install the tillers, whose entries are placed among those of the plain threads. -/
def State.installTillers (s : State) (c : Nat) : State :=
  let mine := (List.range 16).filter (s.areaTl c)
  let s := mine.foldl (fun s sl => s.onThread c sl fun th => { th with tiller := th.tiller.map fun t =>
    { t with priv := [], spare := [] } }) s
  mine.foldl (fun s sl => s.installSlot c sl) s

/-- Install what is whole with block b of the area: the core with its last crown slot, a plain thread with the last block of its
record, the tillers at the end. -/
def State.installBlock (s : State) (c b : Nat) : State :=
  if b = 831 then s.installCore c
  else if b = 4095 then s.installTillers c
  else if 1024 < b && (b - 1024) % 148 = 147 && !(s.areaTl c ((b - 1024) / 148)) && decide ((b - 1024) / 148 < 16) then
    s.installSlot c ((b - 1024) / 148)
  else s

/-- Read block b of the area and install it. -/
def State.restoreBlock (s : State) (c b : Nat) : State :=
  let k := s.core c
  let bs := s.tierRead (k.savebase.getLsbD 62) (areaBase k.savebase + 64 * b) 64
  (s.setCore c { k with areaIn := k.areaIn ++ [bs] }).installBlock c b

/-- Apply the next entry of the spill queue (R417), or when there is none run at the first rotation boundary: messages enter the arrival
queue, or stay where they are while it is full; an image is fetched from its home; every other item runs its own row. -/
def State.applySpill (s : State) (c : Nat) : State :=
  let k := s.core c
  let again := fun (s : State) => s.inCycles (clusterOf c) 1 .restoreComplete { unit := c, sub := 1 }
  match k.spill[k.saveNext]? with
  | none =>
    let at_ := slotTurn 0 (s.cyc c)
    if at_ = s.cyc c then { s with agenda := .dev .resumeRunning { unit := c } :: s.agenda }
    else s.atCycle (clusterOf c) at_ .resumeRunning { unit := c }
  | some x =>
    let rest := k.dropSpill k.saveNext
    match x with
    | .msg m =>
      if k.saveNext = 0 && decide (k.arrivals.length < 64) then again ((s.setCore c rest).queueArrival c m)
      else again (s.setCore c { k with saveNext := k.saveNext + 1 })
    | .imgInstall m h img =>
      let s := s.setCore c rest
      if k.freeCrown.isSome || k.holds h then again (s.fetchImage c h)
      else
        let (id, s) := s.addItem (.imgInstall m h img)
        again (s.inCycles (clusterOf c) 64 .imageInstall { unit := c, item := id })
    | x =>
      let (id, s) := (s.setCore c { rest with applying := true }).addItem x
      { s with agenda := .dev (rowOf x).1 (subjOf x id) :: .dev .restoreComplete { unit := c, sub := 2 } :: s.agenda }

/-- RESTORE_COMPLETE: on each of 4,096 cycles a block of the area is read and installed; then, one entry each cycle, the spill queue
is applied. -/
def execRestoreComplete (s : State) : Host.Outcome State Fault Refusal :=
  let c := s.subj.unit
  if (s.core c).pre ≠ .restoring then .next s
  else match s.subj.sub with
    | 0 =>
      let b := s.subj.item
      .next ((s.restoreBlock c b).inCycles (clusterOf c) 1 .restoreComplete
        (if b < 4095 then { unit := c, item := b + 1 } else { unit := c, sub := 1 }))
    | 1 => .next (s.applySpill c)
    | _ => .next ((s.onCore c fun k => { k with applying := false }).inCycles (clusterOf c) 1 .restoreComplete { unit := c, sub := 1 })

/-- RESUME_RUNNING: the slots issue again, each with a new line copy; armed monitors are registered again and fire SPURIOUS (14_sync
R355). What has come into the spill queue since it was last found empty is applied first (04_channels R97). -/
def execResumeRunning (s : State) : Host.Outcome State Fault Refusal :=
  let c := s.subj.unit
  let k := s.core c
  if k.pre ≠ .restoring then .next s
  else if (k.spill[k.saveNext]?).isSome then .next (s.applySpill c)
  else
    let s := s.setCore c { k with pre := .running, saveNext := 0, areaIn := [] }
    let s := (List.range 16).foldl (fun s sl =>
      let x := s.slot c sl
      if x.st = .run then (s.spurious c sl).jumpTo c sl x.th.pc
      else if x.st = .service then s.spurious c sl
      else s) s
    .next (s.tellFirmware 4 c)

end Sys2Proof.Machine
end

