-- ==== Sys2Proof/Machine/Fabric.lean ====
section
/-!
DEFINITION. The fabric (21_fabric): routing of headers over adaptive and escape buffers, delivery in stream order,
acknowledgements, link retries and dead links, chart editions and their turns, Ethernet frames, and the system chart.
-/
namespace Sys2Proof.Machine

open Sys2Proof

/-! ### Routes (R421, R424, R425, R428) -/

/-- The router beyond a port: 0 +x, 1 -x, 2 +y, 3 -y. -/
def neighbour (cl port : Nat) : Option Nat :=
  let x := meshX cl
  let y := meshY cl
  match port with
  | 0 => if x < 15 then some (clusterAt (x + 1) y) else none
  | 1 => if 0 < x then some (clusterAt (x - 1) y) else none
  | 2 => if y < 15 then some (clusterAt x (y + 1)) else none
  | 3 => if 0 < y then some (clusterAt x (y - 1)) else none
  | _ => none

/-- The port at the other end of a link. -/
def opposite (port : Nat) : Nat := if port % 2 = 0 then port + 1 else port - 1

/-- A port on a minimal route to a destination. -/
def productive (cl dcl port : Nat) : Bool := match port with
  | 0 => decide (meshX cl < meshX dcl)
  | 1 => decide (meshX dcl < meshX cl)
  | 2 => decide (meshY cl < meshY dcl)
  | 3 => decide (meshY dcl < meshY cl)
  | _ => false

/-- The escape output of the default chart: X first. -/
def xFirst (cl dcl : Nat) : Nat :=
  if meshX cl < meshX dcl then 0 else if meshX dcl < meshX cl then 1 else if meshY cl < meshY dcl then 2 else 3

/-- A router's chart entry for a destination. -/
def State.chartOf (s : State) (cl dcl : Nat) : ChartEntry := match (s.router cl).active with
  | none => { allowed := 15, esc := xFirst cl dcl }
  | some ch => (find ch dcl).getD { allowed := 0, esc := 0, unreachable := true }

/-- Used adaptive flit buffers of a router. -/
def Router.usedAll (r : Router) : Nat := (r.used.map fun p => p.2).foldl (· + ·) 0

/-- The regional count that the neighbour through a port reports for that direction (R425). -/
def State.regional (s : State) (port fuel cl : Nat) : Nat := match fuel with
  | 0 => 0
  | fuel + 1 => match neighbour cl port with
    | some n => min 15 (((s.router n).usedAll / 4 + s.regional port fuel n) / 2)
    | none => 0

/-- Free flits of the adaptive buffer beyond an output, for a class. -/
def State.adaptiveFree (s : State) (cl port cls : Nat) : Nat := match neighbour cl port with
  | some n => 8 - look (s.router n).used (8 * opposite port + cls) 0
  | none => 0

/-- Free flits of the escape buffer beyond an output. -/
def State.escapeFree (s : State) (cl port : Nat) : Nat := match neighbour cl port with
  | some n => 4 - look (s.router n).escUsed (opposite port) 0
  | none => 0

/-- Outputs a header may take: minimal, allowed by the chart, and alive. -/
def State.outputs (s : State) (cl dcl : Nat) : List Nat :=
  (List.range 4).filter fun o =>
    bit (s.chartOf cl dcl).allowed o && productive cl dcl o && !((s.router cl).dead.contains o) && (neighbour cl o).isSome

/-- The output with free adaptive space and the lowest regional count, x before y on a tie. -/
def State.pickOutput (s : State) (cl dcl cls : Nat) : Option Nat :=
  ((s.outputs cl dcl).filter fun o => decide (0 < s.adaptiveFree cl o cls)).foldl (fun a o => match a with
    | none => some o
    | some b => if s.regional o 16 cl < s.regional b 16 cl then some o else some b) none

/-- Give back the buffer in which a packet stands. -/
def State.freeBuffer (s : State) (p : Packet) : State :=
  if p.holds = 0 then s
  else s.onRouter p.at_ fun r =>
    if p.inEsc then { r with escUsed := assign r.escUsed p.inPort (look r.escUsed p.inPort 0 - p.holds) }
    else { r with used := assign r.used (8 * p.inPort + p.cls) (look r.used (8 * p.inPort + p.cls) 0 - p.holds) }

/-- Replace a packet. -/
def State.setPacket (s : State) (id : Nat) (p : Packet) : State := { s with packets := assign s.packets id p }

/-- Drop a packet on its way; its source still keeps it for replay. -/
def State.dropPacket (s : State) (id : Nat) : State := match find s.packets id with
  | some p => let s := s.freeBuffer p
    { s with packets := unset s.packets id }
  | none => s

/-- Send a header through an output: three fabric nanoseconds a hop (R423). A packet takes as many flits of the next buffer
as it has and as are free there. -/
def State.hop (s : State) (id : Nat) (p : Packet) (o : Nat) : State := match neighbour p.at_ o with
  | some n =>
    let s := s.freeBuffer p
    let q := opposite o
    let k := min p.len (if p.esc then s.escapeFree p.at_ o else s.adaptiveFree p.at_ o p.cls)
    let s := s.onRouter n fun r =>
      if p.esc then { r with escUsed := assign r.escUsed q (look r.escUsed q 0 + k) }
      else { r with used := assign r.used (8 * q + p.cls) (look r.used (8 * q + p.cls) 0 + k) }
    (s.setPacket id { p with at_ := n, waited := 0, inPort := q, holds := k, inEsc := p.esc, via := some (p.at_, o) }).inNs 3
      .headerRouting { item := id, unit := n }
  | none => s

/-- A header waits a nanosecond at its router. -/
def State.waitHere (s : State) (id : Nat) (p : Packet) : State :=
  (s.setPacket id { p with waited := p.waited + 1 }).inNs 1 .headerRouting { item := id, unit := p.at_ }

/-- A packet at its destination's router is handed to its endpoint. -/
def State.handOver (s : State) (id : Nat) (p : Packet) : State :=
  ((s.freeBuffer p).setPacket id { p with holds := 0 }).inNs (10 + (p.len - 1) / 2) .packetDelivery { item := id, unit := p.dcl }

/-- Send a header on through the chart's escape output, in its buffer class or in the escape channel, once there is space. -/
def State.forward (s : State) (id : Nat) (p : Packet) : State :=
  let o := (s.chartOf p.at_ p.dcl).esc
  if (s.router p.at_).dead.contains o || (if p.esc then s.escapeFree p.at_ o else s.adaptiveFree p.at_ o p.cls) = 0 then s.waitHere id p
  else s.hop id p o

/-- The destination of a packet, as one of those of a multicast sector. -/
def Packet.branch (p : Packet) : Branch := { dcl := p.dcl, dep := p.dep, seq := p.seq, content := p.content }

/-- The copy of a packet that serves some of its destinations. -/
def Packet.serving (p : Packet) (bs : List Branch) : Packet := match bs with
  | b :: r => { p with dcl := b.dcl, dep := b.dep, seq := b.seq, content := b.content, more := r }
  | [] => p

/-- A further copy of a packet comes to stand at a router: its number, and the state. -/
def State.addCopy (s : State) (p : Packet) : Nat × State :=
  (s.nextId, { s with packets := assign s.packets s.nextId p, nextId := s.nextId + 1 })

/-- A multicast sector at a router (10_engines R261, 21_fabric R431): each destination of this cluster gets a copy, and one goes on
through each escape output that leads to others. -/
def State.fork (s : State) (id : Nat) (p : Packet) : State :=
  let p := { p with esc := p.esc || decide (8 ≤ p.waited) }
  let all := p.branch :: p.more
  let port := fun (b : Branch) => (s.chartOf p.at_ b.dcl).esc
  let here := all.filter fun b => b.dcl = p.at_
  let on := all.filter fun b => b.dcl ≠ p.at_
  let s := here.foldl (fun s b =>
    let q := { p.serving [b] with holds := 0 }
    let (i, s) := s.addCopy q
    s.handOver i q) s
  match (on.map port).eraseDups with
  | [] => s.dropPacket id
  | o :: rest =>
    let part := fun (o : Nat) => on.filter fun b => port b = o
    let s := rest.foldl (fun s o =>
      let q := { p.serving (part o) with holds := 0 }
      let (i, s) := s.addCopy q
      s.forward i q) s
    s.forward id (p.serving (part o))

/-- Route a header that stands at a router (R425): a multicast sector along the escape outputs, any other packet by the adaptive
ones first. -/
def State.routeHeader (s : State) (id : Nat) (p : Packet) : State :=
  if p.cast ≠ 0 then s.fork id p
  else if p.at_ = p.dcl then s.handOver id p
  else if p.esc || decide (8 ≤ p.waited) then s.forward id { p with esc := true }
  else match s.pickOutput p.at_ p.dcl p.cls with
    | some o => s.hop id p o
    | none => s.waitHere id p

/-- HEADER_ROUTING: a packet of the router's edition is routed; one of the next edition is held until the router turns; an
older one is dropped (R429). -/
def execHeaderRouting (s : State) : Host.Outcome State Fault Refusal :=
  let id := s.subj.item
  match find s.packets id with
  | none => .next s
  | some p =>
    let e := (s.router p.at_).edition
    let p := { p with via := none }
    if p.edition = e then .next (s.routeHeader id p)
    else if p.edition = (e + 1) % 256 then
      .next ((s.setPacket id p).onRouter p.at_ fun r => { r with held := r.held ++ [id] })
    else .next (s.dropPacket id)

/-! ### Delivery and acknowledgement (R426) -/

/-- The ends of a stream as one word, for an acknowledgement. -/
def Stream.word (k : Stream) : Word := BitVec.ofNat 64 (k.scl + 256 * k.sep + 4096 * k.dcl + 2 ^ 20 * k.dep + 2 ^ 24 * k.cls)

/-- The stream a word names. -/
def streamOf (w : Word) : Stream :=
  let n := w.toNat
  { scl := bits n 7 0, sep := bits n 11 8, dcl := bits n 19 12, dep := bits n 23 20, cls := bits n 26 24 }

/-- The stream of a packet; one from another device runs from end to end (R435). -/
def Packet.stream (p : Packet) : Stream :=
  { scl := p.scl, sep := p.sep, dcl := p.dcl, dep := p.dep, cls := (p.far.map fun f => f.2).getD p.cls, far := p.far.map fun f => f.1 }

/-- Acknowledge a packet to another device, in its own stream's terms. -/
def State.ackDevice (s : State) (dev cls : Nat) (p : Packet) : State := match s.portFor dev with
  | some port =>
    let c : Content := .farAck p.scl p.sep p.dcl p.dep cls p.seq
    let a : Packet := { edition := s.sysEdition, seq := p.seq, len := 1, cls := 4, scl := p.dcl, sep := p.dep, dcl := p.scl, dep := p.sep
                        sdev := s.devNo, ddev := dev, op := c.ctorIdx, content := 0 }
    s.putFrame dev port (a, c)
  | none => s

/-- Acknowledge a packet to its source. The acknowledgement bears the edition and takes the way back. What another device sent is
acknowledged by its endpoint, and no longer kept at its port (R435). -/
def State.acknowledge (s : State) (p : Packet) : State := match p.far with
  | none => s.inNs (20 + 3 * hops p.scl p.dcl) .packetAck
      { unit := p.scl, sub := (s.router p.dcl).edition, item := p.seq, val := p.stream.word }
  | some (dev, cls) =>
    { s with farIn := s.farIn.filter fun x => !(decide (x.2.stream = p.stream) && decide (x.2.seq = p.seq)) }.ackDevice dev cls p

/-- The packets that follow in order: the one due and those held for the gap before them. -/
def inOrder (fuel expect : Nat) (early : List Packet) : List Packet := match fuel with
  | 0 => []
  | fuel + 1 => match early.find? fun p => p.seq = expect % 65536 with
    | some p => p :: inOrder fuel (expect + 1) early
    | none => []

/-- Take a packet into its stream: the packets now due, in order, and the counts after it. None is due when it is early or
has been delivered before; the flag tells the latter. -/
def StreamSt.take (st : StreamSt) (p : Packet) : List Packet × StreamSt × Bool :=
  let gap := (p.seq + 65536 - st.expect % 65536) % 65536
  if 32768 ≤ gap then ([], st, true)
  else
    let early := if st.early.any fun q => q.seq = p.seq then st.early else st.early ++ [p]
    let due := inOrder early.length st.expect early
    (due, { st with expect := st.expect + due.length, early := early.filter fun q => !(due.any fun r => r.seq = q.seq) }, false)

/-- A move that sends a multicast sector. -/
def sendsSector (m : Move) : Bool := match m with
  | .dev .multicastSectorSend _ => true
  | _ => false

/-- Put moves into the cycle: those that come last at its end, before the slices send their sectors (18_multicast_at_work R397); the
others at once. -/
def State.enqueue (s : State) (ms : List Move) : State :=
  let late := fun (m : Move) => match m with
    | .dev i _ => lateRow i
    | _ => false
  let (a, b) := s.agenda.span fun m => !(sendsSector m)
  { s with agenda := (ms.filter fun m => !(late m)) ++ a ++ ms.filter late ++ b }

/-- A packet reaches its endpoint: base-die units take it in at once, those of a cluster on a cycle of theirs (R8). -/
def State.arrivePacket (s : State) (id : Nat) (p : Packet) : State :=
  let s := { s with packets := unset s.packets id }
  if p.edition ≠ (s.router p.dcl).edition then s
  else
    let (due, st, dup) := (s.stream p.stream).take p
    let s := s.setStream st
    if dup then s.acknowledge p
    else
      let s := due.foldl (fun s q => s.acknowledge q) s
      let moves := due.filterMap fun q => (find s.items q.content).map fun c => Move.dev (rowOf c).1 (subjOf c q.content)
      if decide (p.dep < 10) && !(s.onEdge p.dcl p.ago) then moves.foldl (fun s m => match m with
        | .dev i subj => s.land p.dcl i subj
        | _ => s) s
      else s.enqueue moves

/-- Launch waiting packets of a stream as its retry buffer has room (R426, R430). -/
def StreamSt.room (st : StreamSt) (edition : Nat) : List Packet × StreamSt :=
  let n := 256 - st.retry.length
  let out := (st.waiting.take n).map fun p => { p with edition := edition }
  (out, { st with retry := st.retry ++ out, waiting := st.waiting.drop n })

/-- PACKET_ACK: the source removes the packet from its retry buffer, and a packet that waited goes out. An acknowledgement of
an old edition is dropped; one of the next waits for the turn (R429). -/
def execPacketAck (s : State) : Host.Outcome State Fault Refusal :=
  let e := (s.router s.subj.unit).edition
  if s.subj.sub = (e + 1) % 256 then .next (s.inNs 10 .packetAck s.subj)
  else if s.subj.sub ≠ e then .next s
  else
    let key := streamOf s.subj.val
    let st := s.stream key
    let st := { st with retry := st.retry.filter fun p => p.seq != s.subj.item }
    let (out, st) := if s.noWay key.scl key.dcl then ([], st) else st.room e
    .next ((s.setStream st).launchAll out)

/-! ### Charts (R425, R428 to R430)

The chart that the fabric manager computes: every live minimal output is allowed. The escape output is the X-first one where that route is
alive (R425). The other routes keep one of four orders of turns, each of which has every turn of an X-first route and no cycle, so that
the escape channel cannot deadlock (R429): the first order by which every destination is reached that can be. Where none is, all escape
outputs follow a tree of live links from the lowest cluster (log 50). -/

/-- The links a chart may use. -/
def liveLink (dl : List Nat) (cl port : Nat) : Option Nat := if dl.contains (4 * cl + port) then none else neighbour cl port

/-- One round of distances from the root of each part of the mesh: root and distance by cluster. -/
def treeRound (dl : List Nat) (t : List (Nat × Nat)) : List (Nat × Nat) :=
  (List.range 256).map fun cl =>
    (List.range 4).foldl (fun best port => match liveLink dl cl port with
      | some n =>
        let (r, d) := t.getD n (n, 0)
        if r < best.1 || (r = best.1 && decide (d + 1 < best.2)) then (r, d + 1) else best
      | none => best) (t.getD cl (cl, 0))

/-- Root and distance of every cluster. -/
def treeOf (dl : List Nat) (fuel : Nat) : List (Nat × Nat) := match fuel with
  | 0 => (List.range 256).map fun cl => (cl, 0)
  | fuel + 1 => treeRound dl (treeOf dl fuel)

/-- The port of a cluster toward its root. -/
def parentPort (dl : List Nat) (t : List (Nat × Nat)) (cl : Nat) : Option Nat :=
  let (r, d) := t.getD cl (cl, 0)
  if d = 0 then none
  else (List.range 4).find? fun port => match liveLink dl cl port with
    | some n => t.getD n (n, 0) = (r, d - 1)
    | none => false

/-- Climb from a destination to the router: the port of the router that leads down to it, none when it is not below. -/
def downPort (dl : List Nat) (t : List (Nat × Nat)) (cl fuel d : Nat) : Option Nat := match fuel with
  | 0 => none
  | fuel + 1 => match parentPort dl t d with
    | none => none
    | some p => match neighbour d p with
      | some n => if n = cl then some (opposite p) else downPort dl t cl fuel n
      | none => none

/-- A packet that came by a port's direction may leave by another in an order of turns: 0 none into -x, 1 none into +x, 2 none out of -y,
3 none out of +y; it turns back in none. -/
def turnOk (ord a b : Nat) : Bool :=
  b ≠ opposite a && !(match ord with
    | 0 => decide (2 ≤ a) && b = 1
    | 1 => decide (2 ≤ a) && b = 0
    | 2 => a = 3 && decide (b < 2)
    | _ => a = 2 && decide (b < 2))

/-- The X-first route from a cluster to another is alive. -/
def xLive (dl : List Nat) (d fuel cl : Nat) : Bool := match fuel with
  | 0 => false
  | fuel + 1 => cl = d || match liveLink dl cl (xFirst cl d) with
    | some n => xLive dl d fuel n
    | none => false

/-- One round of finding escape outputs to a destination: a cluster that has none takes the first by which a neighbour that has one, or
the destination, is reached in the order of turns. -/
def escRound (dl : List Nat) (ord d : Nat) (t : List (Option Nat)) : List (Option Nat) :=
  (List.range 256).map fun cl => match t.getD cl none with
    | some o => some o
    | none => if cl = d then none else (List.range 4).find? fun o => match liveLink dl cl o with
      | some n => n = d || match t.getD n none with
        | some o' => turnOk ord o o'
        | none => false
      | none => false

/-- Rounds until none changes anything. -/
def escRounds (dl : List Nat) (ord d fuel : Nat) (t : List (Option Nat)) : List (Option Nat) := match fuel with
  | 0 => t
  | fuel + 1 =>
    let u := escRound dl ord d t
    if u = t then t else escRounds dl ord d fuel u

/-- The escape outputs of all clusters to a destination in an order of turns. -/
def escOf (dl : List Nat) (ord d : Nat) : List (Option Nat) :=
  escRounds dl ord d 256 ((List.range 256).map fun cl => if cl ≠ d && xLive dl d 32 cl then some (xFirst cl d) else none)

/-- Two clusters are connected by live links. -/
def connected (t : List (Nat × Nat)) (a b : Nat) : Bool := (t.getD a (a, 0)).1 = (t.getD b (b, 0)).1

/-- The order of turns of a chart: the first by which every cluster reaches every other that it is connected to, 4 where none is. -/
def turnOrder (dl : List Nat) : Nat :=
  let t := treeOf dl 256
  ((List.range 4).find? fun ord => (List.range 256).all fun d =>
    let e := escOf dl ord d
    (List.range 256).all fun cl => cl = d || !(connected t cl d) || (e.getD cl none).isSome).getD 4

/-- The escape output of a router to a destination. -/
def escapeOut (dl : List Nat) (ord : Nat) (t : List (Nat × Nat)) (cl d : Nat) : Nat :=
  if ord < 4 then
    if xLive dl d 32 cl then xFirst cl d else ((escOf dl ord d).getD cl none).getD 0
  else (downPort dl t cl 256 d).getD ((parentPort dl t cl).getD 0)

/-- A router's chart. -/
def chartFor (dl : List Nat) (ord cl : Nat) : List (Nat × ChartEntry) :=
  let t := treeOf dl 256
  (List.range 256).map fun d =>
    (d, if !(connected t cl d) then { allowed := 0, esc := 0, unreachable := true }
        else
          { allowed := ((List.range 4).filter fun p => (liveLink dl cl p).isSome).foldl (fun a p => a + 2 ^ p) 0
            esc := escapeOut dl ord t cl d })

/-! ### Links (R427) -/

/-- LINK_RETRY: of a router's port: a bad flit is sent again; val 1 tells that the retry failed as well, val 2 that the link has
lost training, val 3 that it has been silent for a number of fabric cycles (item). The eighth failure in a row, a loss of training and
4,096 silent cycles are the link's death. -/
def execLinkRetry (s : State) : Host.Outcome State Fault Refusal :=
  let cl := s.subj.unit
  let port := s.subj.sub
  if s.subj.val = 1 then
    let n := look (s.router cl).retries port 0 + 1
    let s := s.onRouter cl fun r => { r with retries := assign r.retries port n }
    .next (if 8 ≤ n then { s with agenda := .dev .linkDead { unit := cl, sub := port } :: s.agenda } else s)
  else if s.subj.val = 2 || (s.subj.val = 3 && decide (4096 ≤ s.subj.item)) then
    .next { s with agenda := .dev .linkDead { unit := cl, sub := port } :: s.agenda }
  else if s.subj.val = 3 then .next s
  else .next (s.onRouter cl fun r => { r with retries := unset r.retries port })

/-- The fabric manager starts on a chart for the dead links it has heard of: it is written into every router. The times of R432 are
typical ones, and free. -/
def State.startCharts (s : State) : State :=
  (List.range 256).foldl (fun s cl => s.inAtLeast 1 .chartInstall { unit := cl })
    { s with fmDead := some s.fmHeard, fmAgain := false, fmOrder := turnOrder s.fmHeard }

/-- A router's report reaches the fabric manager: a link it has not heard of yet asks for a new chart, after the one under way
(R429). -/
def State.heardDead (s : State) (cl port : Nat) : State := match neighbour cl port with
  | none => s
  | some n =>
    if s.fmHeard.contains (4 * cl + port) then s
    else
      let s := { s with fmHeard := s.fmHeard ++ [4 * cl + port, 4 * n + opposite port] }.tellFirmware 5 (4 * cl + port)
      if s.fmDead.isSome then { s with fmAgain := true } else s.startCharts

/-- LINK_DEAD: of a router's port: both ends stop using the link and discard what stands on it, and each reports it on the SYS class
to the fabric manager of its base die (R427). -/
def execLinkDead (s : State) : Host.Outcome State Fault Refusal :=
  let cl := s.subj.unit
  let port := s.subj.sub
  match neighbour cl port with
  | none => .next s
  | some n =>
    if (s.router cl).dead.contains port then .next s
    else
      let kill := fun (s : State) (cl port : Nat) => s.onRouter cl fun r =>
        { r with dead := r.dead ++ [port], retries := unset r.retries port }
      let s := kill (kill s cl port) n (opposite port)
      let lost := s.packets.filter fun x => x.2.via = some (cl, port) || x.2.via = some (n, opposite port)
      let s := lost.foldl (fun s x => s.dropPacket x.1) s
      let tell := fun (s : State) (cl port : Nat) => s.ship cl 8 (64 * stackOf cl + 27) 12 4 1 (.linkDown cl port)
      .next (tell (tell s cl port) n (opposite port))

/-! ### Chart editions (R428 to R431) -/

/-- The tenants that have clusters. -/
def State.tenants (s : State) : List Nat := ((List.range 256).filterMap fun cl => s.tenantOf cl).eraseDups

/-- The clusters that a cluster's chart for some dead links cannot reach. -/
def cutOff (dl : List Nat) (cl : Nat) : List Nat :=
  let t := treeOf dl 256
  (List.range 256).filter fun d => !(connected t cl d)

/-- The first cluster of a tenant. -/
def State.firstCluster (s : State) (t : Nat) : Option Nat := (List.range 256).find? fun cl => s.tenantOf cl == some t

/-- The platform's report to a tenant's supervisor, a REMOP to the core and channel that ERRLOG of the tenant's first core names;
none while LV of it is 0 (20_traps R403). DESIGN CHOICE (log 80): the spec gives these reports no form. -/
def State.tellSupervisor (s : State) (t : Nat) (words : List Nat) : State := match s.firstCluster t with
  | none => s
  | some cl =>
    let e := (s.core (16 * cl)).errlog
    if !(errLv e) then s
    else
      let m : Msg := { remop := true, srcDev := 0xFFFE, srcCore := 0, srcSlot := 15, world := true, tenant := none, dstDev := s.devNo
                       dstCore := errRcore e, channel := errRch e, words := words.map fun w => BitVec.ofNat 64 w, report := true }
      s.ship (64 * stackOf cl + 27) 12 (clusterOf (errRcore e)) (epOf (errRcore e)) 2 2 (.msg m)

/-- The fabric manager reports a partition (R430) to each tenant's supervisor: 8 and the first cluster that the tenant's first one
does not reach. -/
def State.tellPartition (s : State) (dl : List Nat) : State :=
  s.tenants.foldl (fun s t => match (s.firstCluster t).map fun cl => cutOff dl cl with
    | some (far :: _) => s.tellSupervisor t [8, far]
    | _ => s) s

/-- A device that no system chart reaches any more is reported to its tenant's supervisor (R436 as R430): 9 and the device. -/
def State.tellUnreached (s : State) (old : List (Nat × List Nat)) : State :=
  s.devMap.foldl (fun s d =>
    if (look s.sysChart d.1 []).isEmpty && !(look old d.1 []).isEmpty then s.tellSupervisor d.2.tenant [9, d.1] else s) s

/-- CHART_INSTALL: the shadow chart of a router is written and acknowledged; with the last acknowledgement TURN goes out to
every router and endpoint. -/
def execChartInstall (s : State) : Host.Outcome State Fault Refusal :=
  let cl := s.subj.unit
  match s.fmDead with
  | none => .next s
  | some dl =>
    let s := s.onRouter cl fun r => { r with shadow := some (chartFor dl s.fmOrder cl), shadowAck := true }
    if (List.range 256).all fun k => (s.router k).shadowAck then
      .next ((List.range 256).foldl (fun s k => s.inAtLeast (20 + 3 * hops 27 k) .editionTurn { unit := k })
        ((s.tellFirmware 8 0).tellPartition dl))
    else .next s

/-- What an endpoint sends of a stream under the new edition: its retry buffer in SEQ order, and what waited and can now be reached
(R429, R430). -/
def State.again (s : State) (st : StreamSt) (e : Nat) : List Packet × StreamSt :=
  let old := st.retry.map fun p => { p with edition := e }
  if s.noWay st.id.scl st.id.dcl then ([], { st with retry := old })
  else
    let (out, st) := { st with retry := old }.room e
    (old ++ out, st)

/-- The endpoints of a router replay under the new edition; the copies of one multicast sector that have not been acknowledged go
together, as far as their routes do (R431). -/
def State.replay (s : State) (sts : List StreamSt) (e : Nat) : State :=
  let all := sts.map fun st => s.again st e
  (all.foldl (fun (s : State) x => s.setStream x.2) s).launchAll (all.flatMap fun x => x.1)

/-- A packet of another device enters the mesh at a port's router, or waits there while its destination is unreachable. -/
def State.enterAt (s : State) (mac : Nat) (p : Packet) : State := if s.noWay mac p.dcl then s else s.launchAt mac 0 p

/-- The ports of a router send what other devices have sent and no endpoint has acknowledged into the mesh again (R426, R429). -/
def State.reenter (s : State) (cl e : Nat) : State :=
  let s := { s with farIn := s.farIn.map fun (x : Nat × Packet) => if x.1 = cl then (x.1, { x.2 with edition := e }) else x }
  (s.farIn.filter fun (x : Nat × Packet) => x.1 = cl).foldl (fun (s : State) x => s.enterAt cl x.2) s

/-- EDITION_TURN: a router's shadow chart becomes active, packets of the old edition buffered there are dropped, held ones of the
new go on, and its endpoints replay, its ports among them. When the last router has turned, a chart for links that died meanwhile follows. -/
def execEditionTurn (s : State) : Host.Outcome State Fault Refusal :=
  let cl := s.subj.unit
  let r := s.router cl
  match r.shadow with
  | none => .next s
  | some ch =>
    let e := (r.edition + 1) % 256
    let old := s.packets.filter fun x => x.2.at_ = cl && x.2.via.isNone && x.2.edition = r.edition
    let s := old.foldl (fun s x => s.dropPacket x.1) s
    let s := s.onRouter cl fun r => { r with active := some ch, shadow := none, shadowAck := false, edition := e, held := [] }
    let s := { s with agenda := (r.held.map fun id => Move.dev .headerRouting { item := id, unit := cl }) ++ s.agenda }
    let mine := s.streams.filter fun st => st.id.scl = cl && st.id.far.isNone
    let s := (s.replay mine e).reenter cl e
    if (List.range 256).all fun k => (s.router k).edition = e && (s.router k).shadow.isNone then
      .next (if s.fmAgain then s.startCharts else { s with fmDead := none })
    else .next s

/-! ### Ethernet and other devices (R433 to R436) -/

/-- Count an event the firmware counts. -/
def State.fwCount (s : State) (n : Nat) : State := { s with fwCounts := assign s.fwCounts n (look s.fwCounts n 0 + 1) }

/-- What a device may send, attributed to its world and tenant (R435); an access goes to the cluster that the packet names. -/
def attributed (dev here port id : Nat) (e : DevEntry) (p : Packet) (c : Content) : Option Content := match c with
  | .msg m => some (.msg { m with srcDev := dev, world := e.world, tenant := some e.tenant, dstDev := here, report := false })
  | .acc a =>
    if clusterOf a.homeCore ≠ p.dcl then none
    else some (.acc { a with agent := .device dev id port p.scl p.sep, uid := 0, space := .global, world := e.world, tenant := some e.tenant
                             held := false, copyOk := false, filled := false, stamp := 0 })
  | .mxCmd m => some (.mxCmd { m with dev := dev, world := e.world, tenant := some e.tenant })
  | .sendAns .. | .mxAns .. | .mxDone .. => some c
  | _ => none

/-- An acknowledgement from another device: the packet leaves its retry buffer, and one that waited goes out. -/
def State.ackedBy (s : State) (dev scl sep dcl dep cls seq : Nat) : State :=
  let st := s.stream { scl := scl, sep := sep, dcl := dcl, dep := dep, cls := cls, far := some dev }
  let gone := st.retry.filter fun p => p.seq = seq
  let s := { s with items := s.items.filter fun x => !(gone.any fun p => p.content = x.1) }
  let (out, st) := { st with retry := st.retry.filter fun p => p.seq != seq }.room s.sysEdition
  out.foldl (fun s p => s.frameOut p) (s.setStream st)

/-- The class in which a packet of a frame travels: the one of its tag's priority (R433). Priority n is class n, and one above 4 leaves the
header's class (log 52). -/
def Frame.cls (f : Frame) (p : Packet) : Nat := match f.tag with
  | some n => if n < 5 then n else p.cls
  | none => p.cls

/-- A packet of a frame: an acknowledgement, or a content that enters the mesh at its port's router and goes on to its endpoint, by which
its stream is put in order and acknowledged (R426, R435). One that the endpoint has taken is acknowledged again, and one that is on its
way to it is not sent twice. -/
def State.packetIn (s : State) (f : Frame) (e : DevEntry) (p : Packet) (c : Content) : State := match c with
  | .farAck scl sep dcl dep cls seq => s.ackedBy f.src scl sep dcl dep cls seq
  | _ =>
    let mac := portCluster f.port
    let q : Packet := { p with far := some (f.src, p.cls), cls := f.cls p, edition := (s.router mac).edition, sdev := f.src
                               ddev := s.devNo, content := s.nextId, esc := false, cast := 0, more := [], waited := 0, holds := 0
                               inEsc := false, via := none, ago := (0, 1) }
    if 32768 ≤ (q.seq + 65536 - (s.stream q.stream).expect % 65536) % 65536 then s.acknowledge q
    else if s.farIn.any fun x => x.2.stream = q.stream && x.2.seq = q.seq then s
    else match attributed f.src s.devNo f.port s.nextId e q c with
      | some x =>
        let s := (s.addItem x).2
        { s with farIn := s.farIn ++ [(mac, q)] }.enterAt mac q
      | none => s

/-- The header of a packet, bytes 0 to 15 of its first flit (R422). -/
def Packet.header (p : Packet) : List Byte :=
  toBytes 8 (p.edition % 256 * 2 ^ 56 + p.seq % 65536 * 2 ^ 40 + p.len % 256 * 2 ^ 32 + p.cls % 8 * 2 ^ 29 + (if p.esc then 2 ^ 28 else 0) +
    p.dcl % 256 * 2 ^ 20 + p.dep % 16 * 2 ^ 16 + p.scl % 256 * 2 ^ 8 + p.sep % 16 * 2 ^ 4) ++
  toBytes 8 (p.sdev % 65536 * 2 ^ 48 + p.ddev % 65536 * 2 ^ 32 + p.op % 256 * 2 ^ 24 + p.fields % 2 ^ 24)

/-- A number in n bytes in the network's order, the most significant first (802.3). -/
def netBytes (n v : Nat) : List Byte := (toBytes n v).reverse

/-- The headers of a fabric frame (R434): the Ethernet header, with the tag where there is one, and the system header. PRESUMED (log 52): an
Ethernet header has 802.3's byte order. -/
def Frame.head (f : Frame) : List Byte :=
  netBytes 6 f.dstMac ++ netBytes 6 f.srcMac ++ (match f.tag with
    | some n => netBytes 2 0x8100 ++ netBytes 2 (n % 8 * 2 ^ 13)
    | none => []) ++ netBytes 2 f.etherType ++
  toBytes 1 f.version ++ toBytes 1 f.flags ++ toBytes 1 f.edition ++ toBytes 1 (f.zero / 2 ^ 48) ++
  toBytes 2 f.src ++ toBytes 2 f.dst ++ toBytes 2 f.count ++ toBytes 6 f.zero

/-- The bytes of a fabric frame: its headers, 64 for each flit, and the check sum. -/
def Frame.bytes (f : Frame) : Nat := f.head.length + 64 * (f.packets.foldl (fun n x => n + max 1 x.1.len) 0) + 4

/-- A frame whose headers are those of a fabric frame for this module (R434). -/
def State.takes (s : State) (f : Frame) : Bool :=
  decide (f.dst = s.devNo) && decide (f.dstMac = s.macOf s.devNo) && decide (f.version = 1) && decide (f.flags = 0) &&
  decide (f.zero = 0) && decide (f.count = f.packets.length)

/-- ETHERNET_FRAME_RX: the oldest frame received is dropped for a bad check sum, ignored when it is PAUSE, dropped and counted when its
EtherType is another (count 0), its source unmapped or mismatched or its headers not those of R434 for this module (1), or its system
edition old (2), and dropped when it has no packet or more than 9,216 bytes, of which 143 flits leave none (R433, R434); else its packets
enter the mesh. A frame of the next edition waits for the turn (R436). -/
def execEthernetFrameRx (s : State) : Host.Outcome State Fault Refusal := match s.ethIn with
  | [] => .next s
  | f :: rest =>
    let s := { s with ethIn := rest }
    if !f.goodFcs || f.etherType = 0x8808 then .next s
    else if f.etherType ≠ 0x8A7E then .next (s.fwCount 0)
    else match find s.devMap f.src with
      | none => .next (s.fwCount 1)
      | some e =>
        if e.mac ≠ f.srcMac || !(e.ports.contains f.port) || !(s.takes f) then .next (s.fwCount 1)
        else if f.edition = (s.sysEdition + 1) % 256 then .next { s with ethEarly := s.ethEarly ++ [f] }
        else if f.edition ≠ s.sysEdition then .next (s.fwCount 2)
        else if f.packets = [] || decide (9216 < f.bytes) then .next s
        else .next (f.packets.foldl (fun s x => s.packetIn f e x.1 x.2) s)

/-- PORT_FAILURE: a port (unit), or with sub 1 the path of device item through it, fails; the firmware is told, and turns the
system edition with a new chart. -/
def execPortFailure (s : State) : Host.Outcome State Fault Refusal :=
  let port := s.subj.unit
  let s := if s.subj.sub = 1 then { s with pathsDown := (s.subj.item, port) :: s.pathsDown } else { s with portsDown := port :: s.portsDown }
  .next ((s.tellFirmware 6 port).inAtLeast 1 .systemEditionTurn {})

/-- SYSTEM_EDITION_TURN: the new system chart leaves out what has failed, the system edition advances, and every endpoint replays
its unacknowledged system-scope packets. A device that the chart leaves unreachable is reported. -/
def execSystemEditionTurn (s : State) : Host.Outcome State Fault Refusal :=
  let chart := s.sysChart.map fun x => (x.1, x.2.filter fun p => !(s.portsDown.contains p) && !(s.pathsDown.contains (x.1, p)))
  let e := (s.sysEdition + 1) % 256
  let old := s.sysChart
  let s := { s with sysChart := chart, sysEdition := e, ethIn := s.ethEarly ++ s.ethIn, ethEarly := [] }
  let far := s.streams.filter fun st => st.id.far.isSome && !(st.retry.isEmpty)
  .next ((far.foldl (fun s st => st.retry.foldl (fun s p => s.frameOut { p with edition := e }) s) s).tellUnreached old)

end Sys2Proof.Machine
end

