-- ==== Sys2Proof/Machine/Firmware.lean ====
section
/-!
DEFINITION. The platform (01_device R19, R20, 23_retire R440 to R451): reset, boot, bringing up and powering down islands,
tenants, frequencies, and the firmware's service of requests: check codes, pre-emption of a core, retiring a bank, group
entries, checkpoint and restore, attestation, and the reset of a tenant.
-/
namespace Sys2Proof.Machine

open Sys2Proof

/-! ### Reset and boot (R19, R445) -/

/-- RESET_INPUT: the whole module restarts. What lies outside it stays: flash, the firmware's plan, images on storage, frames
already sent; and the model's own counters go on. -/
def execResetInput (s : State) : Host.Outcome State Fault Refusal :=
  .next { State.reset with flash := s.flash, plan := s.plan, planDev := s.planDev, images := s.images, ethOut := s.ethOut
                           fresh := s.fresh, nextId := s.nextId }

/-- BOOT_STAGE: of a stack: the next stage is loaded, checked and measured. A stage that fails, and a flash without any, halts the
base die's management cores; after the last stage the firmware brings up the stack's islands. -/
def execBootStage (s : State) : Host.Outcome State Fault Refusal :=
  let st := s.subj.unit
  let k := s.stack st
  if k.halted || k.booted then .next s
  else match s.flash[k.stage]? with
    | some (bs, sig) =>
      let d := sha512 bs
      if Config.sigOk d sig then
        .next ((s.onStack st fun k => { k with m := sha512 (k.m ++ d), stage := k.stage + 1 }).inAtLeast 1 .bootStage { unit := st })
      else .next (s.onStack st fun k => { k with halted := true })
    | none =>
      if k.stage = 0 then .next (s.onStack st fun k => { k with halted := true })
      else .next ((List.range 64).foldl (fun s j => s.inAtLeast 1 .islandBringUp { unit := 64 * st + j })
        (s.onStack st fun k => { k with booted := true }))

/-! ### Groups and memberships (05_crowns R127, R128) -/

/-- The position of a core among members. -/
def rankOf (ms : List Nat) (c : Nat) : Nat := (ms.filter fun m => decide (m < c)).length

/-- A membership register. -/
def membWord (g : Nat) (ms : List Nat) (c : Nat) : Word :=
  BitVec.ofNat 64 (2 ^ 32 + ms.length % 4096 * 2 ^ 20 + rankOf ms c * 2 ^ 8 + g)

/-- The groups of a core in ascending number. -/
def State.groupsOf (s : State) (c : Nat) : List (Nat × Group) := s.groups.filter fun g => g.2.members.contains c

/-- Write a core's membership registers from the table, an entry of which has been written; the link queue of a membership that is
written is empty (R337): that of the entry, and of every register that changes. -/
def State.setMembs (s : State) (c : Nat) (entry : Option Nat) : State :=
  let gs := s.groupsOf c
  let new := (List.range 4).map fun j => (j, match gs[j]? with
    | some (g, e) => membWord g e.members c
    | none => 0)
  s.onCore c fun k =>
    let stays := fun (j : Nat) => look k.memb j 0 = look new j 0 && entry != some (bits (look new j 0).toNat 7 0)
    { k with memb := new, links := k.links.filter fun x => stays x.1 }

/-! ### Islands (R20, R446, R449, R451) -/

/-- A tenant's matrix key is made with the tenant (13_matrix R322). -/
def State.needKey (s : State) (t : Nat) : State := match find s.keys t with
  | some _ => s
  | none =>
    let (n, s) := s.draw
    { s with keys := assign s.keys t (Config.newKey n) }

/-- TENANT's word. -/
def tenantWord (t : Option Nat) : Word := match t with
  | some t => BitVec.ofNat 64 (16 + t % 16)
  | none => 0

/-- What the firmware writes into a core before its island admits anything. -/
def State.setUpCore (s : State) (c : Nat) (p : PlanEntry) : State :=
  let s := s.onCore c fun k => { k with errlog := look p.errlog (c % 16) 0 &&& errMask, ptbase := look p.ptbase (c % 16) 0 &&& ptMask }
  let s := s.setMembs c none
  (List.range 64).foldl (fun s ch => match find p.entries (64 * (c % 16) + ch) with
    | some w => (s.setTt c ch w).deliverHeld c ch
    | none => s) s

/-- ISLAND_BRING_UP: of a cluster whose stack's firmware runs: its cores and registers stand at their reset values, and the
firmware writes ERRLOG, WORLD, TENANT and KEEPER by its plan and assigns the device number. The frequency that the plan asks for is
held to the range of 01_device R14, and an island of a quad that runs from one clock joins it (R15). The firmware assigns neither 0xFFFE nor
0xFFFF, which name itself and the own module (R450, 04_channels R73). -/
def execIslandBringUp (s : State) : Host.Outcome State Fault Refusal :=
  let cl := s.subj.unit
  if !(s.stack (stackOf cl)).booted || (s.cluster cl).up then .next s
  else
    let p := look s.plan cl {}
    let s := { s with devNo := if s.planDev < 0xFFFE then s.planDev else s.devNo, cores := s.cores.filter fun x => clusterOf x.1 != cl
                      columns := s.columns.filter fun x => x.1 / 8 != cl }
    let s := s.onCluster cl fun _ =>
      { Cluster.reset cl with up := true, mhz := max 400 (min 1000 p.mhz), world := p.world, tenant := tenantWord p.tenant
                              keeper := if clusterOf p.keeper = cl then p.keeper else 16 * cl }
    let s := match p.tenant with
      | some t => s.needKey t
      | none => s
    let s := s.realignQuad (cl / 4)
    .next ((List.range 16).foldl (fun s j => s.setUpCore (16 * cl + j) p) s)

/-- The first rotation boundary after cycle t. -/
def nextBoundary (t : Nat) : Nat := t + 16 - t % 16

/-- Ask for a frequency of an island from its next rotation boundary on. -/
def State.askFrequency (s : State) (cl mhz : Nat) : State :=
  s.atCycle cl (nextBoundary (s.cluster cl).t) .islandFrequencyChange { unit := cl, val := BitVec.ofNat 64 mhz }

/-- ISLAND_FREQUENCY_CHANGE: a request takes effect, or is recorded while the quad runs on one clock (01_device R15). -/
def execIslandFrequencyChange (s : State) : Host.Outcome State Fault Refusal :=
  .next (s.setFrequency s.subj.unit s.subj.val.toNat)

/-- POWER_LIMIT_THROTTLE: the firmware lowers an island to a frequency of at least 400 MHz, and reports it to the supervisor of its
tenant (R451): 7, the cluster and the frequency (log 80). -/
def execPowerLimitThrottle (s : State) : Host.Outcome State Fault Refusal :=
  let cl := s.subj.unit
  let f := s.subj.val.toNat
  if 400 ≤ f && decide (f < (s.cluster cl).asked) then
    let s := (s.askFrequency cl f).tellFirmware 7 (cl * 65536 + f)
    .next (match s.tenantOf cl with
      | some t => s.tellSupervisor t [7, cl, f]
      | none => s)
  else .next s

/-- Nothing of a launch is left in a core (R440). -/
def Core.quiet (k : Core) : Bool :=
  (k.slots.all fun x => x.2.st = .free) && k.arrivals.isEmpty && k.deque.isEmpty && k.spill.isEmpty && k.crowns.isEmpty &&
  k.fifo.isEmpty && k.running.isNone && (k.mxOut = 0)

/-- Some packet of a set of clusters is unacknowledged: one that an endpoint of theirs, which base-die units are not (21_fabric R421), has
sent or is to take. -/
def State.unackedOf (s : State) (cls : List Nat) : Bool :=
  let own := fun (cl ep : Nat) => cls.contains cl && decide (ep < 10)
  (s.streams.any fun st => (own st.id.scl st.id.sep || (st.id.far.isNone && own st.id.dcl st.id.dep)) &&
    !(st.retry.isEmpty && st.waiting.isEmpty)) ||
  s.farIn.any fun x => own x.2.dcl x.2.dep

/-- Clusters are quiescent (R440). -/
def State.quiescent (s : State) (cls : List Nat) : Bool :=
  (cls.all fun cl => (List.range 16).all fun j => (s.core (16 * cl + j)).quiet) && !(s.unackedOf cls)

/-- ISLAND_POWER_DOWN: of a quiescent cluster. Its dirty lines are written back first. -/
def execIslandPowerDown (s : State) : Host.Outcome State Fault Refusal :=
  let cl := s.subj.unit
  if (s.cluster cl).up && s.quiescent [cl] then
    let s := (s.cluster cl).lines.foldl (fun s p => (s.writeWay cl p.1 p.2).1) s
    .next (s.onCluster cl fun k => { k with up := false, lines := [] })
  else .next s

/-- KEEPER_CHANGE: of a cluster, to a core of its own (13_matrix R336). -/
def execKeeperChange (s : State) : Host.Outcome State Fault Refusal :=
  let cl := s.subj.unit
  let c := s.subj.val.toNat
  if clusterOf c = cl then .next (s.onCluster cl fun k => { k with keeper := c }) else .next s

/-- A barrier whose count is not zero, a multicast, a steal group or an unretired crown uses a group (05_crowns R127, 14_sync R349). -/
def State.groupUsed (s : State) (g : Nat) : Bool :=
  let ms := (s.members g).getD []
  (s.cores.any fun x =>
    (x.2.cells.any fun c => c.2.group = some g && decide (c.2.count ≠ 0)) ||
    (x.2.stealgrp.getLsbD 8 && decide (bits x.2.stealgrp.toNat 7 0 = g)) ||
    (x.2.crowns.any fun y => match y.2.image with
      | some i => i.group = g
      | none => false)) ||
  (s.clusters.any fun x => x.2.mcast.any fun e => e.dests.any fun d => (setBits d.2 16).any fun j => ms.contains (16 * d.1 + j))

/-- Write a group entry and the membership registers of the members it had and has. -/
def State.writeGroup (s : State) (t g : Nat) (ms : List Nat) : State :=
  let old := (s.members g).getD []
  let s := { s with groups := if ms.isEmpty then unset s.groups g else assign s.groups g { tenant := t, members := ms } }
  ((old ++ ms).eraseDups).foldl (fun s c => s.setMembs c (some g)) s

/-- The groups of another tenant than the given one, or of any where none is given, that a core of a cluster is a member of. -/
def State.strayGroups (s : State) (cl : Nat) (t : Option Nat) : List (Nat × Group) :=
  s.groups.filter fun g => some g.2.tenant != t && g.2.members.any fun c => clusterOf c = cl

/-- TENANT_ASSIGNMENT: of a quiescent cluster, to tenant item with world val (sub 1), or to none. Its cores leave the groups of other
tenants, since every member of a group belongs to its tenant (05_crowns R127). DESIGN CHOICE (log 94): while one of these groups may not be
changed the firmware does not assign the cluster. -/
def execTenantAssignment (s : State) : Host.Outcome State Fault Refusal :=
  let cl := s.subj.unit
  let new := if s.subj.sub = 1 then some (s.subj.item % 16) else none
  if !(s.quiescent [cl]) || (s.strayGroups cl new).any fun g => s.groupUsed g.1 then .next s
  else
    let s := (s.strayGroups cl new).foldl (fun s g => s.writeGroup g.2.tenant g.1 (g.2.members.filter fun c => clusterOf c != cl)) s
    match new with
    | some t => .next ((s.needKey t).onCluster cl fun k => { k with tenant := tenantWord (some t), world := s.subj.val.getLsbD 0 })
    | none => .next (s.onCluster cl fun k => { k with tenant := tenantWord none })

/-! ### Requests to the firmware (R450) -/

/-- The clusters of a tenant. -/
def State.clustersOf (s : State) (t : Nat) : List Nat := (List.range 256).filter fun cl => s.tenantOf cl == some t

/-- The cores of a tenant. -/
def State.coresOf (s : State) (t : Nat) : List Nat := (s.clustersOf t).flatMap fun cl => (List.range 16).map fun j => 16 * cl + j

/-- Word i of a request. -/
def Msg.arg (m : Msg) (i : Nat) : Nat := (m.words.getD i 0).toNat

/-- The firmware's answer: one TASK message of two words to the reply channel; the tenant's next request may come. -/
def State.fwReply (s : State) (id : Nat) (m : Msg) (t status result : Nat) : State :=
  let g1 := m.arg 0
  let rcore := bits g1 47 36
  let r : Msg := { remop := false, srcDev := 0xFFFE, srcCore := 0, srcSlot := 0, world := true, tenant := none, dstDev := s.devNo
                   dstCore := rcore, channel := bits g1 35 30
                   words := [BitVec.ofNat 64 (bits g1 7 0 + 256 * status), BitVec.ofNat 64 result] }
  ({ s with items := unset s.items id, fwBusy := s.fwBusy.filter (· != t) }).ship (mgmtCluster (clusterOf m.srcCore)) 12
    (clusterOf rcore) (epOf rcore) 2 2 (.msg r)

/-- A request at the firmware: the SEND is answered; a reply core of another tenant is counted and nothing is done; reserved
bits, and a request while an earlier one of the tenant is served, are answered; else it is served. -/
def fwRequest (s : State) (serve : State → Nat → Msg → Nat → State) : Host.Outcome State Fault Refusal :=
  let id := s.subj.item
  match find s.items id with
  | some (.msg m) => match m.tenant with
    | none => .next { s with items := unset s.items id }
    | some t =>
      if s.subj.sub ≠ 0 then .next (serve s id m t)
      else
        let g1 := m.arg 0
        let s := s.ship (mgmtCluster (clusterOf m.srcCore)) 12 (clusterOf m.srcCore) (epOf m.srcCore) 1 1 (.sendAns m.srcCore m.srcSlot .done)
        if s.tenantOf (clusterOf (bits g1 47 36)) ≠ some t then .next ({ s with items := unset s.items id }.fwCount 5)
        else if s.fwBusy.contains t then
          .next { s.fwReply id m t 3 0 with fwBusy := s.fwBusy }
        else if bits g1 63 48 ≠ 0 || bits g1 29 8 ≠ 0 || bits g1 7 0 = 0 || decide (8 < bits g1 7 0) then .next (s.fwReply id m t 1 0)
        else .next (serve { s with fwBusy := t :: s.fwBusy } id m t)
  | _ => .next s

/-- Go on with a request later: at a stage, with a value. -/
def State.fwLater (s : State) (row : Instr) (id stage val : Nat) : State :=
  s.inNs 64 row { item := id, sub := stage, val := BitVec.ofNat 64 val }

/-- A cluster of a tenant. -/
def State.ownCluster (s : State) (t cl : Nat) : Bool := decide (cl < 256) && s.tenantOf cl == some t

/-- FW_MATRIX_CHECK_CODE: of a rights byte and a cluster (13_matrix R322). -/
def execFwMatrixCheckCode (s : State) : Host.Outcome State Fault Refusal :=
  fwRequest s fun s id m t =>
    if 255 < m.arg 1 || !(s.ownCluster t (m.arg 2)) then s.fwReply id m t 1 0
    else s.fwReply id m t 0 (mxCheckCode (look s.keys t []) t (m.arg 1) (m.arg 2))

/-- Send PREEMPT or RESUME to a core from its stack's management cores. -/
def State.interrupt (s : State) (c : Nat) (x : Content) : State :=
  s.ship (mgmtCluster (clusterOf c)) 12 (clusterOf c) (epOf c) 4 1 x

/-- A PREEMPT to the core would be obeyed now. -/
def State.preemptible (s : State) (c : Nat) : Bool :=
  let k := s.core c
  (s.cluster (clusterOf c)).up && k.pre = .running && k.savebase.getLsbD 63 && k.spillbase.getLsbD 63

/-- The firmware has been told since note n that a core refused or ignored a message. -/
def State.toldNo (s : State) (n c : Nat) : Bool :=
  (s.fwNotes.drop n).any fun w => w = BitVec.ofNat 64 (2 ^ 56 + c) || w = BitVec.ofNat 64 (2 * 2 ^ 56 + c)

/-- FW_PREEMPT_CORE. -/
def execFwPreemptCore (s : State) : Host.Outcome State Fault Refusal :=
  fwRequest s fun s id m t =>
    let c := m.arg 1
    if s.subj.sub = 1 then
      if (s.core c).pre = .preempted then s.fwReply id m t 0 0
      else if s.toldNo s.subj.val.toNat c then s.fwReply id m t 2 0
      else s.fwLater .fwPreemptCore id 1 s.subj.val.toNat
    else if 4095 < c || s.tenantOf (clusterOf c) ≠ some t || m.arg 2 ≠ 0 then s.fwReply id m t 1 0
    else if !(s.preemptible c) then s.fwReply id m t 2 0
    else (s.interrupt c (.preempt c)).fwLater .fwPreemptCore id 1 s.fwNotes.length

/-- FW_RESUME_CORE. -/
def execFwResumeCore (s : State) : Host.Outcome State Fault Refusal :=
  fwRequest s fun s id m t =>
    let c := m.arg 1
    if s.subj.sub = 1 then
      if (s.core c).pre = .running then s.fwReply id m t 0 0
      else if s.toldNo s.subj.val.toNat c then s.fwReply id m t 2 0
      else s.fwLater .fwResumeCore id 1 s.subj.val.toNat
    else if 4095 < c || s.tenantOf (clusterOf c) ≠ some t then s.fwReply id m t 1 0
    else if (s.core c).pre ≠ .preempted then s.fwReply id m t 2 0
    else (s.interrupt c (.resume c)).fwLater .fwResumeCore id 1 s.fwNotes.length

/-- FW_ISLAND_FREQUENCY. -/
def execFwIslandFrequency (s : State) : Host.Outcome State Fault Refusal :=
  fwRequest s fun s id m t =>
    if !(s.ownCluster t (m.arg 1)) || decide (m.arg 2 < 400) || decide (1000 < m.arg 2) then s.fwReply id m t 1 0
    else (s.askFrequency (m.arg 1) (m.arg 2)).fwReply id m t 0 0

/-- FW_RETIRE_BANK: the bank's role becomes RETIRED under 06_wheels R153. -/
def execFwRetireBank (s : State) : Host.Outcome State Fault Refusal :=
  fwRequest s fun s id m t =>
    let cl := m.arg 1
    let b := m.arg 2
    if !(s.ownCluster t cl) || decide (31 < b) then s.fwReply id m t 1 0
    else
      let k := s.cluster cl
      if roleIn k.bankrole b = 3 then s.fwReply id m t 0 0
      else if k.roleChange.isSome then s.fwLater .fwRetireBank id 1 0
      else
        let new := k.bankrole ||| BitVec.ofNat 64 (3 * 4 ^ b)
        match k.roleFault new with
        | some _ => s.fwReply id m t 2 0
        | none => (s.askRoles cl new none).fwLater .fwRetireBank id 1 0

/-! ### The firmware's accesses -/

/-- The firmware as the maker of an access: through the PTBASE and in the world of the sender's core. -/
def State.fwWho (s : State) (m : Msg) (va : Nat) : Who :=
  let k := s.core m.srcCore
  { agent := .device 0xFFFE 0 0 0 0, world := m.world, tenant := m.tenant, ptbase := k.ptbase, leaves := (s.walk k.ptbase va).toList, xl := []
    core := m.srcCore, col := columnOf m.srcCore }

/-- The check of an access of the firmware: it takes MASK and GEN from the home cluster, as a replay would (09_homing R230). -/
def State.fwCheck (s : State) (m : Msg) (ea : Nat) (need : Need) : Checked :=
  (s.onCore m.srcCore fun k => { k with domCache := [] }).check (s.fwWho m (ea % 2 ^ 48)) .global (BitVec.ofNat 64 ea) 1 need

/-- An access of the firmware to one 64-byte block or less at its home, or at the tier where the home holds no line of it. -/
def State.fwAccess (s : State) (a : Access) : State × AccResult :=
  match s.homePlace a with
  | none => s.performTier a
  | some (bank, set) =>
    let cl := clusterOf a.homeCore
    match (s.cluster cl).hitWay bank set (a.pa / 192) a.tier with
    | none => s.performTier a
    | some w => match find (s.cluster cl).lines w with
      | none => s.performTier a
      | some x =>
        let (x, fs) := s.fillLine a x (neededSectors a.op (a.pa % 192))
        match sectorFaults a (s.knowTags a x) fs with
        | some r => (s, r)
        | none =>
          let (y, r, wrote) := performLine a x
          let s := s.onCluster cl fun k => { k with lines := assign k.lines w y }
          (if wrote then s.wrote a else s, r)

/-- Read bytes at an address of the sender, block by block; none when the sender could not. -/
def State.fwRead (s : State) (m : Msg) (ea n fuel : Nat) : Option (List Byte) := match fuel with
  | 0 => some []
  | fuel + 1 =>
    if n = 0 then some [] else
    let k := min n (64 - ea % 64)
    match s.fwCheck m ea { r := true, w := false } with
    | .good a =>
      let (_, r) := s.fwAccess { a with op := .load k false }
      if r.fault.isSome || r.poison then none
      else (s.fwRead m (ea + k) (n - k) fuel).map fun bs => r.bytes ++ bs
    | _ => none

/-- The sender could write n bytes at an address. -/
def State.fwMayWrite (s : State) (m : Msg) (ea n fuel : Nat) : Bool := match fuel with
  | 0 => true
  | fuel + 1 =>
    if n = 0 then true else
    match s.fwCheck m ea { r := false, w := true } with
    | .good _ => s.fwMayWrite m (ea + (64 - ea % 64)) (n - (64 - ea % 64)) fuel
    | _ => false

/-- Write bytes at an address of the sender, block by block. -/
def State.fwWrite (s : State) (m : Msg) (ea : Nat) (bs : List Byte) (fuel : Nat) : State := match fuel with
  | 0 => s
  | fuel + 1 =>
    if bs.isEmpty then s else
    let k := min bs.length (64 - ea % 64)
    match s.fwCheck m ea { r := false, w := true } with
    | .good a => (s.fwAccess { a with op := .store (bs.take k) }).1.fwWrite m (ea + k) (bs.drop k) fuel
    | _ => s

/-! ### Group entries (05_crowns R127) -/

/-- The set bits of a member map. -/
def mapMembers (bs : List Byte) : List Nat :=
  (List.range 4096).filter fun c => (bs.getD (c / 8) 0).getLsbD (c % 8)

/-- FW_WRITE_GROUP. -/
def execFwWriteGroup (s : State) : Host.Outcome State Fault Refusal :=
  fwRequest s fun s id m t =>
    let g := m.arg 1
    let foreign := match find s.groups g with
      | some e => e.tenant != t
      | none => false
    if 255 < g || foreign || m.arg 2 % 64 ≠ 0 then s.fwReply id m t 1 0
    else match s.fwRead m (m.arg 2) 512 8 with
      | none => s.fwReply id m t 1 0
      | some bs =>
        let ms := mapMembers bs
        if !(ms.all fun c => s.tenantOf (clusterOf c) == some t) then s.fwReply id m t 1 0
        else if s.groupUsed g || ms.any fun c => decide (4 ≤ ((s.groupsOf c).filter fun x => x.1 != g).length) then s.fwReply id m t 2 0
        else (s.writeGroup t g ms).fwReply id m t 0 0

/-! ### Attestation (R447) -/

/-- The data a quote digests: nonce, the four M values, MATHREV, device number, and the tenant of every cluster. -/
def State.quoteData (s : State) (nonce : List Byte) : List Byte :=
  nonce ++ ((List.range 4).flatMap fun st => (s.stack st).m) ++ toBytes 8 1 ++ toBytes 2 s.devNo ++
    (List.range 256).flatMap fun cl => toBytes 1 (s.cluster cl).tenant.toNat

/-- FW_ATTESTATION_QUOTE. -/
def execFwAttestationQuote (s : State) : Host.Outcome State Fault Refusal :=
  fwRequest s fun s id m t => match s.fwRead m (m.arg 1) 64 2 with
    | none => s.fwReply id m t 1 0
    | some nonce =>
      if !(s.fwMayWrite m (m.arg 2) 4096 65) then s.fwReply id m t 1 0
      else
        let out := (Config.sign (sha512 (s.quoteData nonce)) ++ Config.certificate).take 4096
        (s.fwWrite m (m.arg 2) out 65).fwReply id m t 0 out.length

/-! ### Pre-empting a partition -/

/-- A request has no more cores that it has stopped. -/
def State.letGo (s : State) (id : Nat) : State := { s with fwStopped := s.fwStopped.filter fun x => x.1 != id }

/-- A request is refused by state: the cores that it has stopped run again, since it is never partly performed. -/
def State.undo (s : State) (id : Nat) (m : Msg) (t : Nat) : State :=
  ((s.fwStopped.filter fun x => x.1 = id).foldl (fun s x => s.interrupt x.2 (.resume x.2)) (s.letGo id)).fwReply id m t 2 0

/-- Pre-empt the cores of a tenant one at a time, then go on; a core that cannot be pre-empted refuses the request. Stage 1
sends to core number val, stage 2 waits for it; val is the number and, times 4096, the notes the firmware had. -/
def State.preemptAll (s : State) (row : Instr) (id : Nat) (m : Msg) (t : Nat) (done : State → State) : State :=
  let cs := s.coresOf t
  let v := s.subj.val.toNat
  let k := v % 4096
  match cs[k]? with
  | none => done (s.letGo id)
  | some c =>
    if (s.core c).pre = .preempted then
      if cs.length ≤ k + 1 then done (s.letGo id) else s.fwLater row id 1 (k + 1)
    else if s.subj.sub = 1 && s.preemptible c then
      ({ s with fwStopped := s.fwStopped ++ [(id, c)] }.interrupt c (.preempt c)).fwLater row id 2 (k + 4096 * s.fwNotes.length)
    else if s.subj.sub = 1 || s.toldNo (v / 4096) c then s.undo id m t
    else s.fwLater row id 2 v

/-- Every core of a tenant can be pre-empted or is. -/
def State.canPreempt (s : State) (t : Nat) : Bool :=
  (s.coresOf t).all fun c => s.preemptible c || (s.core c).pre = .preempted

/-! ### Checkpoint (R443) -/

/-- Write back what the CACHE banks of clusters hold: orphans first, then the lines at their homes; all stay, clean. -/
def State.cleanCaches (s : State) (cls : List Nat) : State :=
  let pass := fun (s : State) (orphans : Bool) => cls.foldl (fun s cl =>
    ((s.cluster cl).lines.filter fun x => x.2.orphan = orphans).foldl (fun s x =>
      let (s, y) := s.writeWay cl x.1 x.2
      s.onCluster cl fun k => { k with lines := assign k.lines x.1 y }) s) s
  cls.foldl (fun s cl => s.onCluster cl fun k => { k with lines := k.lines.map fun x => (x.1, x.2.clean) }) (pass (pass s true) false)

/-- The entries of a page table at a level, from the address of its first: pointers and leaves, each with what lies below. -/
def State.tableEntries (s : State) (lp : Bool) (fuel level base n : Nat) : List CkPage := match fuel with
  | 0 => []
  | fuel + 1 => (List.range n).flatMap fun i =>
    let a := base + 8 * i
    let e := s.entryAt lp a
    if entryBad level e then []
    else if bit e 62 then [{ tableLp := lp, at_ := a, level := level, entry := BitVec.ofNat 64 e }]
    else { tableLp := lp, at_ := a, level := level, entry := BitVec.ofNat 64 e } ::
      s.tableEntries lp fuel (level + 1) (bits e 43 12 * 2048) 256

/-- The part of a memory from an address on, by place in that part. -/
def Memory.part (m : Memory) (base n : Nat) : Memory :=
  (m.filter fun x => decide (base ≤ x.1) && decide (x.1 < base + n)).map fun x => (x.1 - base, x.2)

/-- The tier place of a leaf's page: tier, address, size. -/
def CkPage.place (p : CkPage) : Bool × Nat × Nat :=
  let e := p.entry.toNat
  (bit e 59, bits e 43 12 * pageSize p.level, pageSize p.level)

/-- A table entry is a leaf. -/
def CkPage.leaf (p : CkPage) : Bool := p.entry.getLsbD 62

/-- A table entry with the content of its page. -/
def State.savePage (s : State) (p : CkPage) : CkPage :=
  if !p.leaf then p
  else
    let (lp, pa, n) := p.place
    let one := if lp then 1 else 0
    { p with bytes := (if lp then s.lp else s.hbm).part pa n
             sectors := (s.sectors.filter fun x => x.1 % 2 = one && decide (pa / 48 ≤ x.1 / 2) && decide (x.1 / 2 < (pa + n) / 48)).map
               fun x => (x.1 / 2 - pa / 48, x.2) }

/-- The page tables of a tenant's cores. -/
def State.tablesOf (s : State) (t : Nat) : List CkPage :=
  let roots := (((s.coresOf t).map fun c => (s.core c).ptbase).filter fun w => w.getLsbD 63).eraseDups
  (roots.flatMap fun w => s.tableEntries (w.getLsbD 62) 3 0 (bits w.toNat 42 11 * 2048) 87382).eraseDups

/-- Bytes of a cluster's column stores and banks. -/
def colSpan : Nat := 8 * 2 ^ 18
/-- Bytes of a cluster's banks. -/
def bankSpan : Nat := 32 * 1536 * 64

/-- The save area of a core as it stands in memory. -/
def State.areaStored (s : State) (c : Nat) : List Byte :=
  let k := s.core c
  s.tierRead (k.savebase.getLsbD 62) (areaBase k.savebase) 262144

/-- A cluster for an image. -/
def State.saveCluster (s : State) (cl : Nat) : CkCluster :=
  let k := s.cluster cl
  { cl := cl, idom := k.idom, bankrole := k.bankrole, inner := k.inner, outer := (s.quad (cl / 4)).outer
    cols := s.colMem.part (cl * colSpan) colSpan, banks := s.bankMem.part (cl * bankSpan) bankSpan
    entries := (List.range 16).flatMap fun j => (s.core (16 * cl + j)).ttab.map fun x => (64 * j + x.1, x.2) }

/-- The parameters of an image's streams: TYPE 1, FP64, lossless, of order 1 (R262, R443). -/
def ckPar : SqzPar := { wide := true, order := 1, exp := 0, lossless := true }

/-- The stream of a page. -/
def ckStream (m : Memory) (n : Nat) : List Byte := sqzStream ckPar (m.readN 0 n)

/-- The stream of a column store or of a cluster's banks: raw blocks. -/
def ckRaw (m : Memory) (n : Nat) : List Byte := rawStream ckPar (m.readN 0 n)

/-- The configuration of a cluster in an image: its number, task entries, IDOM0 to IDOM7, BANKROLE, and rose tables. -/
def CkCluster.config (x : CkCluster) : List Byte :=
  toBytes 8 x.cl ++ toBytes 8 x.entries.length ++ (x.entries.flatMap fun e => toBytes 8 e.1 ++ toBytes 8 e.2.toNat) ++
    ((List.range 8).flatMap fun d => toBytes 8 (look x.idom d (0xFFFF, 0)).1 ++ toBytes 8 (look x.idom d (0xFFFF, 0)).2) ++
    toBytes 8 x.bankrole.toNat ++ toBytes 8 x.inner.length ++ (x.inner.flatMap fun r => r.flatMap (toBytes 1)) ++
    toBytes 8 x.outer.length ++ x.outer.flatMap (toBytes 1)

/-- The parts of an image after its header (R443): configuration, contexts, and storage, a stream for each page, column store and
cluster bank space. DESIGN CHOICE (log 59): how the numbers of a part follow one another. -/
def CkImage.parts (img : CkImage) : List (List Byte) :=
  (img.clusters.map fun x => x.config) ++
  (img.groups.map fun g => toBytes 8 g.1 ++ toBytes 512 (g.2.foldl (fun a c => a ||| 2 ^ c) 0)) ++
  (img.areas.map fun x => x.2) ++
  ((img.pages.filter fun p => p.leaf).map fun p => ckStream p.bytes (pageSize p.level)) ++
  img.clusters.flatMap fun x =>
    ((List.range 8).map fun j => ckRaw (x.cols.part (j * 2 ^ 18) (2 ^ 18)) (2 ^ 18)) ++ [ckRaw x.banks bankSpan]

/-- The bytes of an image above its digest: the header's eight fields, then the parts. -/
def CkImage.bytes (img : CkImage) : List Byte :=
  ([0x4B43, 1, img.tenant, img.device, img.stackCount, img.mathrev, if img.quiescent then 1 else 0, img.parts.length].flatMap (toBytes 8)) ++
    img.parts.flatten

/-- An image with its digest signed by the identity key (R443, R447). -/
def CkImage.signed (img : CkImage) : CkImage := { img with sig := Config.sign (sha512 img.bytes) }

/-- The image of a tenant's partition as it stands. -/
def State.imageOf (s : State) (t storage : Nat) (id : Word) : CkImage :=
  let cls := s.clustersOf t
  let q := s.quiescent cls
  CkImage.signed
  { id := id, storage := storage, tenant := t, device := s.devNo, stackCount := 4, mathrev := 1, quiescent := q
    clusters := cls.map fun cl => s.saveCluster cl
    groups := (s.groups.filter fun g => g.2.tenant = t).map fun g => (g.1, g.2.members)
    areas := if q then [] else (s.coresOf t).map fun c => (c, s.areaStored c)
    pages := (s.tablesOf t).map fun p => s.savePage p }

/-- The storage device is mapped and the tenant's own (R435). -/
def State.ownStorage (s : State) (t dev : Nat) : Bool := match find s.devMap dev with
  | some e => e.tenant = t
  | none => false

/-- FW_CHECKPOINT. Its checks of state are made a free time after its receipt. -/
def execFwCheckpoint (s : State) : Host.Outcome State Fault Refusal :=
  fwRequest s fun s id m t =>
    let flags := m.arg 2
    if s.subj.sub = 0 then
      if !(s.ownStorage t (m.arg 1)) || decide (7 < flags) then s.fwReply id m t 1 0
      else s.inAtLeast 1 .fwCheckpoint { item := id, sub := 3 }
    else if s.subj.sub = 3 && ((bit flags 2 && !(s.quiescent (s.clustersOf t))) || !(s.canPreempt t)) then s.fwReply id m t 2 0
    else if s.subj.sub = 3 then s.fwLater .fwCheckpoint id 1 0
    else s.preemptAll .fwCheckpoint id m t fun s =>
      let s := s.cleanCaches (s.clustersOf t)
      let img := s.imageOf t (m.arg 1) (BitVec.ofNat 64 (m.arg 3))
      let s := { s with images := img :: s.images.filter fun x => !(x.id = img.id && x.storage = img.storage) }
      let s := if bit flags 1 then s else (s.coresOf t).foldl (fun s c => s.interrupt c (.resume c)) s
      s.fwReply id m t 0 0

/-! ### Restore (R444) -/

/-- Write a part of memory back at a base: what the part does not list is zero. -/
def Memory.setPart (m : Memory) (base n : Nat) (p : Memory) : Memory :=
  p.foldl (fun m x => if x.1 < n then Memory.write m (base + x.1) x.2 else m)
    (m.filter fun x => decide (x.1 < base) || decide (base + n ≤ x.1))

/-- The cluster that a saved cluster goes to. -/
def CkImage.target (img : CkImage) (cls : List Nat) (cl : Nat) : Option Nat :=
  match (img.clusters.map fun x => x.cl).findIdx? fun x => x = cl with
  | some i => cls[i % cls.length]?
  | none => none

/-- A leaf with its home moved through the map. -/
def CkImage.rehome (img : CkImage) (cls : List Nat) (e : Word) : Word :=
  if !(e.getLsbD 62) then e
  else
    let n := e.toNat
    let put := fun (h : Nat) => BitVec.ofNat 64 (n - bits n 55 44 * 2 ^ 44 + h * 2 ^ 44)
    if bit n 58 then match img.target cls (bits n 55 48) with
      | some c => put (c * 16 + bits n 47 44)
      | none => e
    else match img.target cls (bits n 55 44 / 16) with
      | some c => put (c * 16 + bits n 55 44 % 16)
      | none => e

/-- Copies of a place of a tier leave the stacks; fills under way have been crossed (15_ordering R382). -/
def State.dropPlace (s : State) (lp : Bool) (pa n : Nat) : State :=
  let hit := fun (x : CopyLine) => x.tier == lp && decide (pa / 192 ≤ x.l) && decide (x.l ≤ (pa + n - 1) / 192)
  (List.range 4).foldl (fun s st => s.onStack st fun k =>
    { k with copies := k.copies.filter fun x => !(hit x)
             filling := k.filling.map fun x =>
               if x.tier == lp && decide (pa / 192 ≤ x.l) && decide (x.l ≤ (pa + n - 1) / 192) then { x with crossed := true } else x }) s

/-- Restore a table entry and its page. Pages keep their places in the tiers. -/
def State.restorePage (s : State) (img : CkImage) (cls : List Nat) (p : CkPage) : State :=
  let s := s.tierWrite p.tableLp p.at_ (toBytes 8 (img.rehome cls p.entry).toNat)
  if !p.leaf then s
  else
    let (lp, pa, n) := p.place
    let one := if lp then 1 else 0
    let s := s.dropPlace lp pa n
    let s := if lp then { s with lp := s.lp.setPart pa n p.bytes } else { s with hbm := s.hbm.setPart pa n p.bytes }
    let out := s.sectors.filter fun x => !(x.1 % 2 = one && decide (pa / 48 ≤ x.1 / 2) && decide (x.1 / 2 < (pa + n) / 48))
    { s with sectors := p.sectors.foldl (fun l x => assign l (2 * (pa / 48 + x.1) + one) x.2) out }

/-- Restore a cluster's own part, every block of which is written whole and so is good; messages held for an entry that it gives are
delivered (01_device R20). -/
def State.restoreCluster (s : State) (x : CkCluster) (cl : Nat) : State :=
  let s := s.onCluster cl fun k => { k with idom := x.idom, bankrole := x.bankrole, inner := x.inner, lines := [] }
  let outside := fun (span b : Nat) => decide (b * 64 < cl * span) || decide (cl * span + span ≤ b * 64)
  let s := { s with colMem := s.colMem.setPart (cl * colSpan) colSpan x.cols
                    bankMem := s.bankMem.setPart (cl * bankSpan) bankSpan x.banks
                    colBad := s.colBad.filter (outside colSpan), colErr := s.colErr.filter fun e => outside colSpan e.1
                    bankBad := s.bankBad.filter (outside bankSpan), bankErr := s.bankErr.filter fun e => outside bankSpan e.1 }
  (List.range 16).foldl (fun s j =>
    let c := 16 * cl + j
    (x.entries.filter fun e => e.1 / 64 = j).foldl (fun s e => (s.putTt c (e.1 % 64) e.2).deliverHeld c (e.1 % 64))
      (s.onCore c fun k => { k with ttab := [] })) s

/-- The outer table that a quad gets: that of the saved quad whose four clusters go to it, in order, else the identity. -/
def CkImage.outerFor (img : CkImage) (cls : List Nat) (q : Nat) : List Nat :=
  match img.clusters.find? fun x => x.cl % 4 = 0 && (List.range 4).all fun j => img.target cls (x.cl + j) = some (4 * q + j) with
  | some x => x.outer
  | none => identityOuter

/-- The outer tables of the target's quads, each of which its cluster 4q sets (06_wheels R147). With the identity back in place recorded
frequencies take effect (01_device R15). -/
def State.restoreOuter (s : State) (img : CkImage) (cls : List Nat) : State :=
  (cls.filter fun c => c % 4 = 0).foldl (fun s c =>
    (s.onQuad (c / 4) fun q => { q with outer := img.outerFor cls (c / 4) }).realignQuad (c / 4)) s

/-- The groups of an image with their members carried through the map. -/
def CkImage.groupsFor (img : CkImage) (cls : List Nat) : List (Nat × List Nat) :=
  img.groups.map fun g => (g.1, (List.range 4096).filter fun c => g.2.any fun m => match img.target cls (clusterOf m) with
    | some k => c = 16 * k + m % 16
    | none => false)

/-- The group entries of an image may be written (05_crowns R127): one that changes is the tenant's own or free and not in use, and no core
comes to be in more than four groups. -/
def State.groupsFit (s : State) (img : CkImage) (t : Nat) : Bool :=
  let cls := s.clustersOf t
  let new := img.groupsFor cls
  decide (cls.length < img.clusters.length) ||
  ((new.all fun g => match find s.groups g.1 with
      | some e => e.tenant == t && (e.members == g.2 || !(s.groupUsed g.1))
      | none => true) &&
    (new.flatMap fun g => g.2).all fun c =>
      decide (((s.groupsOf c).filter fun x => !(new.any fun g => g.1 == x.1)).length + (new.filter fun g => g.2.contains c).length ≤ 4))

/-- Groups with their members carried through the map. -/
def State.restoreGroups (s : State) (img : CkImage) (cls : List Nat) (t : Nat) : State :=
  (img.groupsFor cls).foldl (fun s g => if (s.members g.1).getD [] = g.2 then s else s.writeGroup t g.1 g.2) s

/-- Restore the storage of an image into a tenant's partition. Translations and lines cached there are dropped. -/
def State.restoreStorage (s : State) (img : CkImage) (t : Nat) : State :=
  let cls := s.clustersOf t
  let s := cls.foldl (fun s cl => s.onCluster cl fun k => { k with lines := [], engineTc := [] }) s
  let s := img.pages.foldl (fun s p => s.restorePage img cls p) s
  let s := (s.coresOf t).foldl (fun s c => (s.onCore c fun k => { k with tcache := [], domCache := [] }).onColumn (columnOf c) fun x =>
    { x with icache := [] }) s
  if cls.length < img.clusters.length then s
  else
    let s := img.clusters.foldl (fun s x => match img.target cls x.cl with
      | some cl => s.restoreCluster x cl
      | none => s) s
    (s.restoreOuter img cls).restoreGroups img cls t

/-- The bytes of a tier that a table entry holds: its own, and its page where it is a leaf. -/
def CkPage.spans (p : CkPage) : List (Bool × Nat × Nat) :=
  (p.tableLp, p.at_, 8) :: if p.leaf then [p.place] else []

/-- Every page of an image fits (R444): none lies where another tenant's page or table does. -/
def State.pagesFit (s : State) (img : CkImage) (t : Nat) : Bool :=
  let taken := ((s.tenants.filter (· != t)).flatMap fun u => s.tablesOf u).flatMap fun p => p.spans
  (img.pages.flatMap fun p => p.spans).all fun x => taken.all fun y =>
    x.1 != y.1 || decide (x.2.1 + x.2.2 ≤ y.2.1) || decide (y.2.1 + y.2.2 ≤ x.2.1)

/-- FW_RESTORE. An image that is not quiescent goes to the same cores, which are pre-empted first and resumed from its save
areas. -/
def execFwRestore (s : State) : Host.Outcome State Fault Refusal :=
  fwRequest s fun s id m t =>
    match s.images.find? fun x => x.id = BitVec.ofNat 64 (m.arg 3) && x.storage = m.arg 1 && x.tenant = t with
    | none => s.fwReply id m t 1 0
    | some img =>
      if s.subj.sub = 0 then
        if !(s.ownStorage t (m.arg 1)) || decide (7 < m.arg 2) then s.fwReply id m t 1 0
        else if img.mathrev ≠ 1 || !(s.pagesFit img t) || !(s.groupsFit img t) then s.fwReply id m t 2 0
        else if img.quiescent then (s.restoreStorage img t).fwReply id m t 0 0
        else if img.stackCount ≠ 4 || (img.clusters.map fun x => x.cl) ≠ s.clustersOf t || !(s.canPreempt t) then s.fwReply id m t 2 0
        else s.fwLater .fwRestore id 1 0
      else s.preemptAll .fwRestore id m t fun s =>
        if !(s.groupsFit img t) then ((s.coresOf t).foldl (fun s c => s.interrupt c (.resume c)) s).fwReply id m t 2 0 else
        let s := s.restoreStorage img t
        let s := img.areas.foldl (fun s x =>
          let k := s.core x.1
          (s.tierWrite (k.savebase.getLsbD 62) (areaBase k.savebase) x.2).interrupt x.1 (.resume x.1)) s
        s.fwReply id m t 0 0

/-! ### Tenant reset (R450) -/

/-- FW_TENANT_RESET: every core of the tenant is pre-empted and cleared, and with it its column but for the store's bytes; its pages are
zeroed, its groups are invalid, and a new matrix key makes its capabilities invalid. -/
def execFwTenantReset (s : State) : Host.Outcome State Fault Refusal :=
  fwRequest s fun s id m t =>
    if s.subj.sub = 0 then
      if !(s.canPreempt t) then s.fwReply id m t 2 0 else s.fwLater .fwTenantReset id 1 0
    else s.preemptAll .fwTenantReset id m t fun s =>
      let cs := s.coresOf t
      let pages := (s.tablesOf t).filter fun p => p.leaf
      let s := (s.clustersOf t).foldl (fun s cl => s.onCluster cl fun k => { k with lines := [], engineTc := [] }) s
      let s := pages.foldl (fun s p =>
        let (lp, pa, n) := p.place
        let one := if lp then 1 else 0
        let s := s.dropPlace lp pa n
        let s := if lp then { s with lp := s.lp.setPart pa n [] } else { s with hbm := s.hbm.setPart pa n [] }
        { s with sectors := s.sectors.filter fun x => !(x.1 % 2 = one && decide (pa / 48 ≤ x.1 / 2) && decide (x.1 / 2 < (pa + n) / 48)) }) s
      let s := { s with groups := s.groups.filter fun g => g.2.tenant != t, keys := unset s.keys t
                        columns := s.columns.filter fun x => !(s.ownCluster t (x.1 / 8)) }
      let s := cs.foldl (fun s c => (s.setCore c {}).setUpCore c (look s.plan (clusterOf c) {})) (s.needKey t)
      s.fwReply id m t 0 0

end Sys2Proof.Machine
end

