-- ==== Sys2Proof/Machine/Migrate.lean ====
section
/-!
DEFINITION. The arrival of a migrating thread at its column (08_access R219 to R221).
-/
namespace Sys2Proof.Machine

open Sys2Proof

/-- The slot and the register base that a core offers to a migrant: its lowest free program slot, with limit contiguous
free entries; a twin slot takes none, and a core that does not run takes none (R220, 20_traps R412). -/
def State.migrantRoom (s : State) (c limit : Nat) : Option (Nat × Nat) :=
  let k := s.core c
  if k.pre ≠ .running then none
  else match (freeSlots k (s.cyc c)).find? fun sl => !(s.paired c sl), freeBase k (s.cyc c) limit with
    | some sl, some b => some (sl, b)
    | _, _ => none

/-- Put a migrant into a slot: its registers, and its line copy of the access instruction. In its own cluster it issues at
least 3 turns after the issue at the origin; from elsewhere the mesh transit comes first (R221). -/
def State.placeMigrant (s : State) (m : Migrant) (c sl base : Nat) : State :=
  let at_ := if clusterOf m.fromCore = clusterOf c then m.th.issueAt else s.cyc c + 48
  let s := s.place c sl { m.th with base := base } []
  let s := m.regs.foldl (fun s r => s.setReg c sl r.1 r.2) s
  s.onThread c sl fun th => { th with issueAt := max at_ (s.cyc c + 1) }

/-- Place a migrant at its column: the upper core, then the lower one (R220). -/
def State.tryMigrant (s : State) (m : Migrant) : Option State :=
  match s.migrantRoom (2 * m.col) m.th.limit with
  | some (sl, b) => some (s.placeMigrant m (2 * m.col) sl b)
  | none => match s.migrantRoom (2 * m.col + 1) m.th.limit with
    | some (sl, b) => some (s.placeMigrant m (2 * m.col + 1) sl b)
    | none => none

/-- MIGRANT_ARRIVAL: the packed thread takes a slot or a place in the column's queue of 16, or is answered FULL. Queued
migrants go first. -/
def execMigrantArrival (s : State) : Host.Outcome State Fault Refusal :=
  match s.takeItem s.subj.item with
  | (some (.migrant m), s) =>
    let ans := fun (s : State) (ok : Bool) =>
      s.coreToCore (2 * m.col) m.fromCore 1 1 (.migAns m.fromCore m.fromSlot ok)
    let q := (s.column m.col).migrants
    match (if q.isEmpty then s.tryMigrant m else none) with
    | some s => .next (ans s true)
    | none =>
      if q.length < 16 then .next (ans (s.onColumn m.col fun x => { x with migrants := x.migrants ++ [m] }) true)
      else .next (ans s false)
  | (_, s) => .next s

/-- MIGRANT_QUEUE_ADMIT: the oldest queued migrant of a column takes a slot once there is room. -/
def execMigrantQueueAdmit (s : State) : Host.Outcome State Fault Refusal :=
  match (s.column s.subj.unit).migrants with
  | m :: rest => match s.tryMigrant m with
    | some s => .next (s.onColumn m.col fun x => { x with migrants := rest })
    | none => .next s
  | [] => .next s

/-- The answer at the origin: the slot is freed, or the thread is sent again 64 cycles later (R220). -/
def State.migrantAnswered (s : State) (c sl : Nat) (ok : Bool) : State :=
  let th := s.thread c sl
  match th.hold with
  | .migrating col =>
    if ok then s.setSlot c sl {}
    else (s.setThread c sl { th with hold := .migrate col }).inCycles (clusterOf c) 64 .migrationRetry { unit := c * 16 + sl }
  | _ => s

/-- MIGRATION_RETRY: a thread that was answered FULL is packed and sent again. -/
def execMigrationRetry (s : State) : Host.Outcome State Fault Refusal :=
  let c := s.subj.unit / 16
  let sl := s.subj.unit % 16
  let th := s.thread c sl
  match th.hold, th.pend with
  | .migrate col, some p =>
    if (s.slot c sl).st = .run && (s.core c).pre = .running then .next (s.move c sl col p.instr) else .next s
  | _, _ => .next s

end Sys2Proof.Machine
end

