-- ==== Sys2Proof/Machine/Multicast.lean ====
section
/-!
DEFINITION. One read, many destinations (10_engines R259 to R261, 18_multicast R396, R397): MCREAD and its line requests,
the send list of a home slice with its tail transfers, and the writing of destination blocks.
-/
namespace Sys2Proof.Machine

open Sys2Proof

/-! ### Destinations -/

/-- The destination cores of a mask; a LOCAL block is written once for a column (R259). -/
def destMask (dsp mask : Nat) : Nat :=
  if dsp = 1 then ((List.range 16).filter fun c => c % 2 = 0 && (bit mask c || bit mask (c + 1))).foldl (fun a c => a + 2 ^ c) 0
  else mask

/-- The address of a destination core's block at an offset. -/
def destAddr (dsp cl core off : Nat) : Nat :=
  if dsp = 1 then (cl * 8 + core / 2) * 2 ^ 18 + off else cl * 2 ^ 24 + core * 2 ^ 20 + off

/-- The blocks of a line that a range of its bytes holds. -/
def blocksIn (lo len : Nat) : List Nat := (List.range 3).filter fun b => decide (lo ≤ 64 * b) && decide (64 * b + 64 ≤ lo + len)

/-- The first block of a request whose destination fails a check (R250, R259). -/
def State.destFault (s : State) (r : Running) : Option Fail :=
  let q := r.req
  let m := mcReqOf q { agent := .engine q.core, idx := 0, space := .global, va := 0, op := .mcast 0 }
  (List.range (q.len / 64)).findSome? fun i =>
    (setBits (destMask m.dsp m.mask) 16).findSome? fun c =>
      match s.check (s.engineWho r) (modeOf m.dsp) (BitVec.ofNat 64 (destAddr m.dsp m.cl c (m.off + 64 * i))) 64
        { r := false, w := true } with
      | .bad k addr => some { cause := k.code, off := 64 * i, addr := addr }
      | _ => none

/-! ### The line requests of a request (R259, R396) -/

/-- The bytes a request moves: up to a failure found ahead. -/
def Running.reach (r : Running) : Nat := match r.later with
  | some f => f.off
  | none => r.req.len

/-- Send the next line request; one leaves a cycle. -/
def State.nextLine (s : State) (c : Nat) : State := match (s.core c).running with
  | none => s
  | some r =>
    let q := r.req
    let i := r.nextRead
    if q.kind != 0x04 || r.failed.isSome || r.walking.isSome || r.ending || decide (r.total ≤ i) then s
    else
      let (off, ea) := q.lineAt i
      let va := q.w1.toNat % 2 ^ 48 + off
      let n := min ((va / 192 + 1) * 192) (q.w1.toNat % 2 ^ 48 + r.reach) - va
      match s.check (s.engineWho r) .global ea 1 { r := true, w := false } with
      | .walk va => (s.onRun c fun r => { r with walking := some va }).askWalk (.engine c) c q.ptbase va
      | .bad k addr => (s.onRun c fun r => r.fail { cause := k.code, off := off, addr := addr }).pump c
      | .good a =>
        let s := s.onRun c fun r => { r with nextRead := i + 1, mcLines := r.mcLines + 1 }
        let s := s.sendLineRequest c { a with op := .mcast off, row := n, idx := i }
        if i + 1 < r.total then s.inCycles (clusterOf c) 1 .mcread { unit := c, sub := 1 } else s

/-- MCREAD: the engine takes the request; from two cycles later on (sub = 1) a line request leaves on each cycle. -/
def execMcread (s : State) : Host.Outcome State Fault Refusal :=
  if s.subj.sub = 1 then .next (s.nextLine s.subj.unit)
  else .next (s.take .mcread fun s c r =>
    let later := s.destFault r
    let n := r.req.lines (match later with
      | some f => f.off
      | none => r.req.len)
    let s := s.onRun c fun r => { r with total := n, later := later }
    if n = 0 then s.pump c else s.inCycles (clusterOf c) 2 .mcread { unit := c, sub := 1 })

/-! ### At the home slice (R260, R397) -/

/-- First and last sector of a line request. -/
def McReq.first (r : McReq) : Nat := r.lo / 48
/-- Last. -/
def McReq.last (r : McReq) : Nat := (r.lo + r.len - 1) / 48

/-- Two line requests ask for the same: line, tenant, bytes, space and offset (R260). -/
def McReq.same (a b : McReq) : Bool :=
  a.access.pa / 192 = b.access.pa / 192 && a.access.tier = b.access.tier && a.tenant = b.tenant && a.lo = b.lo &&
  a.len = b.len && a.dsp = b.dsp && a.off = b.off

/-- A multicast that a request arriving now may join. -/
def McSend.joinable (x : McSend) (home : Nat) (r : McReq) : Bool :=
  decide (x.home = home) && !x.isTail && !x.dirty && decide (r.first < x.next) && decide (x.next ≤ x.last) &&
  (match x.reqs with
    | a :: _ => a.same r
    | [] => false)

/-- The number of a block of a destination core of a multicast. -/
def mcKey (id core b : Nat) : Nat := (id * 16 + core) * 4 + b

/-- The requester learns that its line is served by a multicast: the blocks its destinations lack are still to be held. -/
def State.mcServed (s : State) (id : Nat) (r : McReq) : State :=
  let need := (setBits (destMask r.dsp r.mask) 16).flatMap fun c => ((blocksIn r.lo r.len).filter fun b =>
    !((s.cluster r.cl).mcDone.contains (mcKey id c b))).map fun b => (id, 16 * r.cl + c, b)
  s.onRun r.core fun x => { x with mcLines := x.mcLines - 1, mcSrc := x.mcSrc + 1, mcNeed := x.mcNeed ++ need }

/-- A line request fails at its home: its core's request fails at that line (R250). -/
def State.mcFailed (s : State) (r : McReq) (k : Cause) : State :=
  let off := match r.access.op with
    | .mcast o => o
    | _ => 0
  (s.onRun r.core fun x => { x.fail { cause := k.code, off := off, addr := BitVec.ofNat 64 r.access.va } with
    mcLines := x.mcLines - 1 }).pump r.core

/-- A sector of a line request has another tag than its page's (R246, R267). -/
def McReq.wrongTag (r : McReq) (tags : List Nat) : Bool :=
  r.access.tagchk && (List.range 4).any fun j => decide (r.first ≤ j) && decide (j ≤ r.last) && decide (tags.getD j 0 ≠ r.access.tag)

/-- Join a multicast under way (R260). Its tags are checked as for one of its own, since failing is determinate and merging is not
(R267). -/
def State.mcJoin (s : State) (home : Nat) (x : McSend) (r : McReq) : State :=
  if r.wrongTag x.tags then s.mcFailed r .tagmismatch
  else
  let old := look x.dests r.cl 0
  let m := destMask r.dsp r.mask
  let add := ((setBits m 16).filter fun c => !(bit old c)).foldl (fun a c => a + 2 ^ c) 0
  let y := { x with reqs := x.reqs ++ [r], dests := assign x.dests r.cl (old + add)
                    joins := x.joins ++ [(x.next, r.cl, add, r.core)] }
  (s.onCluster (clusterOf home) fun k => { k with mcast := k.mcast.map fun z => if z.no = x.no then y else z }).mcServed x.id r

/-- Start a multicast on the line as it is read now (R396). -/
def State.mcStart (s : State) (home : Nat) (r : McReq) (line : Line) : State :=
  let cl := clusterOf home
  let tags := line.sectors.map fun y => y.tag
  if r.wrongTag tags then s.mcFailed r .tagmismatch
  else
    let s := { s with nextId := s.nextId + 1 }
    let x : McSend :=
      { id := s.nextId, no := s.nextId, home := home, reqs := [r], data := line.data
        bad := (List.range 4).filter fun j => match line.sectors[j]? with
          | some y => y.poison
          | none => false
        tags := tags, next := r.first, last := r.last, dests := [(r.cl, destMask r.dsp r.mask)], readyAt := (s.cluster cl).t + 1 }
    (s.onCluster cl fun k => { k with mcast := k.mcast ++ [x] }).mcServed x.id r

/-- The line of a request at its home when the sectors of its range are valid there. -/
def State.mcLine (s : State) (home : Nat) (r : McReq) : Option Line :=
  let k := s.cluster (clusterOf home)
  match s.homePlace r.access with
  | none => none
  | some (b, st) => match k.hitWay b st (r.access.pa / 192) r.access.tier with
    | none => none
    | some w => match find k.lines w with
      | some x => if (List.range 4).all fun j => decide (j < r.first) || decide (r.last < j) || (match x.sectors[j]? with
          | some y => y.valid
          | none => false) then some x else none
      | none => none

/-- A multicast reads a line in its way: the bank's ECC finds the errors of the blocks it reads (R155), and the way keeps what poison they
leave. -/
def State.mcRead (s : State) (home : Nat) (r : McReq) (x : Line) : State × Line :=
  let cl := clusterOf home
  match (s.homePlace r.access).bind fun p => (s.cluster cl).hitWay p.1 p.2 x.l x.tier with
  | none => (s, x)
  | some w =>
    let (s, y) := s.readWay cl w x ((List.range 3).filter fun b => decide (r.lo / 64 ≤ b) && decide (64 * b < r.lo + r.len)) 0 false
    (s.onCluster cl fun k => { k with lines := assign k.lines w y }, y)

/-- The line of a request as its fill leaves it, which takes a way where one may be taken (R225, R226): the lowest fault, or the
line. -/
def State.mcFill (s : State) (home : Nat) (r : McReq) : State × (Cause ⊕ Line) :=
  let a := { r.access with tagchk := false }
  let cl := clusterOf home
  let k := s.cluster cl
  let place := if s.moved a then none else s.homePlace a
  let way := place.bind fun p => k.hitWay p.1 p.2 (a.pa / 192) a.tier
  let old := (way.bind (find k.lines)).getD (Line.fresh (a.pa / 192) a.tier (domainMark a))
  let js := (List.range 4).filter fun j => decide (r.first ≤ j) && decide (j ≤ r.last) && (match old.sectors[j]? with
    | some y => !y.valid
    | none => true)
  let s := js.foldl (fun s j => s.logSector a j) s
  let (x, fs) := s.fillLine a old js
  match fs with
  | (_, c) :: _ => (s, .inl c)
  | [] => match place, way with
    | _, some w => (s.onCluster cl fun k => { k with lines := assign k.lines w x }, .inr x)
    | some p, none => match k.victim p.1 p.2 with
      | some w => (s.allocate cl w x, .inr x)
      | none => (s.onCluster cl fun k => { k with pinbypass := counted k.pinbypass }, .inr x)
    | none, none => (s, .inr x)

/-- MCREAD_LINE_REQUEST: a line request reaches its home: it joins a multicast, or starts one, after the line's fill when
it misses (sub = 1 once that is done): the tier's time and no more (R396), on an island's clock as R8 counts it. -/
def execMcreadLineRequest (s : State) : Host.Outcome State Fault Refusal :=
  let id := s.subj.item
  match find s.items id with
  | some (.mcLine r) =>
    let a := r.access
    let home := a.homeCore
    let cl := clusterOf home
    let again := fun (d : Nat) => Host.Outcome.next (s.inCycles cl d .mcreadLineRequest { unit := r.core, item := id })
    if !(s.cluster cl).up then .next (s.inNs 16 .mcreadLineRequest s.subj)
    else if s.subj.sub = 1 then
      let s := (s.takeItem id).2
      match s.mcLine home r with
      | some x =>
        let (s, x) := s.mcRead home r x
        .next (s.mcStart home r x)
      | none => match s.mcFill home r with
        | (s, .inl k) => .next (s.mcFailed r k)
        | (s, .inr x) => .next (s.mcStart home r x)
    else match s.gate a with
      | .rehome mask gen => .next ((s.takeItem id).2.convey cl 9 (clusterOf r.core) 8 1 1 3 (.rehome a mask gen))
      | .wait d => again d
      | _ => match (s.cluster cl).mcast.find? fun x => x.joinable home r with
        | some x => .next ((s.takeItem id).2.mcJoin home x r)
        | none => match s.mcLine home r with
          | some x =>
            let (s, x) := (s.takeItem id).2.mcRead home r x
            .next (s.mcStart home r x)
          | none => .next (s.inCycles cl (s.islandCycles cl (missTime a.tier)) .mcreadLineRequest { unit := r.core, item := id, sub := 1 })
  | _ => .next s

/-- The entry of a home slice's send list that is served on this cycle (R396). -/
def State.mcServe (s : State) (home : Nat) : Option McSend :=
  let k := s.cluster (clusterOf home)
  let mine := k.mcast.filter fun x => x.home = home && decide (x.readyAt ≤ k.t)
  let streams := mine.any fun x => !x.isTail
  let ok := mine.filter fun x => !x.isTail || !streams
  match ok.find? fun x => decide ((s.core home).mcLast < x.no) with
  | some x => some x
  | none => ok.head?

/-- The destinations of a sector of an entry: for a tail, those that joined after it. -/
def McSend.targets (x : McSend) (j : Nat) : List (Nat × Nat) :=
  if x.isTail then
    (x.joins.filter fun p => decide (j < p.1)).foldl (fun m p => assign m p.2.1 (look m p.2.1 0 ||| p.2.2.1)) []
  else x.dests

/-- The sectors from the first that a request's destinations receive in the tail end before this one: those of the latest to join
among the cores it names, whichever request added it; 0 when none is owed (R260). -/
def McSend.tailEnd (x : McSend) (r : McReq) : Nat :=
  (x.joins.filter fun p => p.2.1 = r.cl && decide (p.2.2.1 &&& destMask r.dsp r.mask ≠ 0)).foldl (fun m p => max m p.1) 0

/-- The requesters for which a sector of an entry is the last that any of their destinations receives (R260). -/
def McSend.served (x : McSend) (j : Nat) : List Nat :=
  (x.reqs.filter fun r => if x.isTail then x.tailEnd r = j + 1 else decide (j = x.last) && x.tailEnd r = 0).map fun r => r.core

/-- The endpoints that a destination mask stands for: each column of a LOCAL one, the cluster port for BANK (R261, 21_fabric R421);
with the part of the mask there. -/
def mcEndpoints (dsp mask : Nat) : List (Nat × Nat) :=
  if dsp = 1 then (setBits mask 16).map fun c => (c / 2, 2 ^ c) else [(8, mask)]

/-- MULTICAST_SECTOR_SEND: the next sector of the entry served leaves for its destinations; after a multicast's last sector
the tail of its joiners starts (R260). -/
def execMulticastSectorSend (s : State) : Host.Outcome State Fault Refusal :=
  let home := s.subj.unit
  let cl := clusterOf home
  match s.mcServe home with
  | none => .next s
  | some x =>
    let j := x.next
    match x.reqs with
    | [] => .next (s.onCluster cl fun k => { k with mcast := k.mcast.filter fun z => z.no != x.no })
    | r :: _ =>
      let s := s.onCore home fun k => { k with mcLast := x.no }
      let s := s.shipCast cl 9 1 1 (((x.targets j).filter fun p => p.2 != 0).flatMap fun p =>
        (mcEndpoints r.dsp p.2).map fun e =>
          (p.1, e.1, Content.mcSector x.id r j (slice x.data (48 * j) 48) (x.bad.contains j) p.1 e.2))
      let s := (x.served j).foldl (fun s c => s.ship cl 9 (clusterOf c) 8 1 1 (.mcSrcDone c)) s
      if j < x.last then
        .next (s.onCluster cl fun k => { k with mcast := k.mcast.map fun z => if z.no = x.no then { x with next := j + 1 } else z })
      else
        let s := { s with nextId := s.nextId + 1 }
        let late := x.joins.filter fun p => p.2.2.1 != 0
        let tail := late.foldl (fun m p => max m p.1) 0
        s.onCluster cl (fun k =>
          let rest := k.mcast.filter fun z => z.no != x.no
          { k with mcast := if x.isTail || late.isEmpty || tail ≤ r.first then rest
              else rest ++ [{ x with no := s.nextId, isTail := true, joins := late, next := r.first, last := tail - 1
                                     readyAt := k.t + 1 }] }) |> .next

/-! ### At the destinations (R260, R261) -/

/-- The sectors that a block of a line spans. -/
def sectorsOfBlock (b : Nat) : List Nat := [64 * b / 48, (64 * b + 63) / 48].eraseDups

/-- The bytes of a block from the sectors received, with poison, when all have arrived. -/
def blockFrom (parts : List (Nat × (List Byte × Bool))) (id core b : Nat) : Option (List Byte × Bool) :=
  match (sectorsOfBlock b).map fun j => find parts (mcKey id core j) with
  | [some x] => some (slice x.1 (64 * b % 48) 64, x.2)
  | [some x, some y] => some (slice (x.1 ++ y.1) (64 * b % 48) 64, x.2 || y.2)
  | _ => none

/-- A destination block is held: every request that named it takes note. -/
def State.mcHeld (s : State) (cl id core b : Nat) : State :=
  let s := s.onCluster cl fun k => { k with mcDone := mcKey id core b :: k.mcDone }
  let cs := (s.cores.filter fun p => match p.2.running with
    | some r => r.mcNeed.contains (id, 16 * cl + core, b)
    | none => false).map fun p => p.1
  cs.foldl (fun s c => (s.onRun c fun r => { r with mcNeed := r.mcNeed.filter (· != (id, 16 * cl + core, b)) }).pump c) s

/-- Book a destination block at its column's network port once the cycle's arrivals are known: the lower address first (R396). -/
def State.mcBook (s : State) (a : Access) : State :=
  let (item, s) := s.addItem (.acc a)
  let col := a.va / 2 ^ 18
  let after := fun (m : Move) => match m with
    | .dev .networkPortAccess x => decide (x.sub = 2) && decide (x.unit = col) && (match find s.items x.item with
      | some (.acc b) => decide (a.va < b.va)
      | _ => false)
    | _ => false
  let mv : Move := .dev .networkPortAccess { unit := col, item := item, sub := 2 }
  match s.agenda.findIdx? after with
  | some i => { s with agenda := s.agenda.take i ++ mv :: s.agenda.drop i }
  | none => { s with agenda := s.agenda ++ [mv] }

/-- A block of a request's destination, which a multicast writes: its byte offset in the request's range. -/
def Req.mcOffset (q : Req) (off : Nat) : Nat :=
  off - (if q.dsp = 1 then bits q.w2.toNat 17 0 else bits q.w2.toNat 19 0)

/-- A destination block that a role change has put out of range fails the requests that named it, at that block (R250, R259). -/
def State.mcMissed (s : State) (cl id core b addr : Nat) : State :=
  let cs := (s.cores.filter fun p => match p.2.running with
    | some x => x.mcNeed.contains (id, 16 * cl + core, b)
    | none => false).map fun p => p.1
  let s := cs.foldl (fun s c => s.onRun c fun x =>
    x.fail { cause := Cause.range.code, off := x.req.mcOffset (addr % 2 ^ 20), addr := BitVec.ofNat 64 addr }) s
  s.mcHeld cl id core b

/-- Write a destination block, whole, in one access: through a column's network port, or by a network rider. -/
def State.mcWrite (s : State) (cl id core b : Nat) (r : McReq) (bs : List Byte) (bad : Bool) : State :=
  let addr := destAddr r.dsp cl core (r.off + 64 * b - r.lo)
  let a : Access := { agent := .mcast cl id, idx := core * 4 + b, space := modeOf r.dsp, va := addr, op := .store bs, cl := cl
                      poison := bad }
  if r.dsp = 1 then s.mcBook a
  else match s.mapBank .bank addr with
    | some (bank, row) =>
      s.atRiderFrom cl (s.firstRider cl 30 31 bank cl ((s.cluster cl).t + 1)) 1 { a with bank := bank, row := row }
    | none => s.mcMissed cl id core b addr

/-- MULTICAST_BLOCK_WRITE: a sector reaches a destination cluster; every block that it makes whole is written. -/
def execMulticastBlockWrite (s : State) : Host.Outcome State Fault Refusal :=
  match s.takeItem s.subj.item with
  | (some (.mcSector id r j bs bad cl mask), s) =>
    let cores := setBits mask 16
    let s := s.onCluster cl fun k =>
      { k with mcParts := cores.foldl (fun m c => assign m (mcKey id c j) (bs, bad)) k.mcParts }
    let ready := (blocksIn r.lo r.len).filter fun b => (sectorsOfBlock b).contains j
    .next (ready.foldl (fun s b => cores.foldl (fun s c =>
      match blockFrom (s.cluster cl).mcParts id c b with
      | some (xs, p) => s.mcWrite cl id c b r xs p
      | none => s) s) s)
  | (_, s) => .next s

/-- The answer to a destination block's write: the block is held, or it has come to lie out of range. -/
def State.mcWritten (s : State) (a : Access) (r : AccResult) : State := match a.agent with
  | .mcast cl id =>
    if r.fault.isSome then s.mcMissed cl id (a.idx / 4) (a.idx % 4) a.va else s.mcHeld cl id (a.idx / 4) (a.idx % 4)
  | _ => s

/-- The notice of a request's last sector at its core (R260). -/
def State.mcNoticed (s : State) (c : Nat) : State :=
  (s.onRun c fun r => { r with mcSrc := r.mcSrc - 1 }).pump c

end Sys2Proof.Machine
end

