-- ==== Sys2Proof/Machine/Twin.lean ====
section
/-!
DEFINITION. Twin execution (20_traps R412, R413): which instructions take values from outside and which have effects
outside, the lead's and the trail's turns, TWIN_COMPARE and a mismatch; and the stall watchdog (14_sync R361,
20_traps R419).
-/
namespace Sys2Proof.Machine

open Sys2Proof

/-! ### What an instruction takes from outside and does outside (R413) -/

/-- A ring handle as a queue entry's register number. -/
def handleKey (h : Nat) : Nat := 128 + h

/-- The registers an instruction's outside value comes into (128 + h stands for ring handle h); none for an instruction that
has no outside value. An instruction with an outside effect and no result still owes one empty entry, register 0. -/
def outsideRegs (i : Instr) : Option (List Nat) := match i with
  | .ld d _ _ _ _ _ _ => some [d]
  | .ldLast d h _ _ _ _ => some [d, handleKey h]
  | .ldm d _ n _ _ | .sld d _ _ _ _ n => some (regRun d n)
  | .vld d .. | .vgsGather d .. => some [d]
  | .amoAdd d .. | .amoAnd d .. | .amoOr d .. | .amoXor d .. | .amoMin d .. | .amoMax d .. | .amoMinn d .. | .amoMaxn d ..
  | .amoSwap d .. | .amoCas d .. | .amoFadd32 d .. | .amoFadd64 d .. => some [d]
  | .memopLtag d _ | .waittAny _ d _ | .waittFfr _ d _ | .waittTest _ d _ | .joinWait d _ | .joinTest d _ | .skLink d _
  | .skMul d .. | .chanQuery d _ | .freeze d .. | .monWait d => some [d]
  | .migrHome d => some [d]
  | .csrRead d n => if n = 0x000 then none else some [d]
  | .csrWrite d .. | .csrSet d .. | .csrClear d .. => some [d]
  | .sendTask d .. | .sendRemop d .. | .spawn d .. | .cpq d .. | .mxCtx d .. | .mxMma d .. | .mxMmas d .. | .mxZero d ..
  | .mxDrain d .. | .mxLoadc d .. | .mxOrder d .. => some [d.getD 0]
  | .ringInit _ _ h | .ringWfill h _ | .ringWfree h _ | .ringAcons h _ | .ringAprod h _ => some [handleKey h]
  | .ringStat d h => some [d, handleKey h]
  | .waittAll .. | .waittClr .. | .st .. | .stm .. | .sst .. | .vst .. | .vgsScatter .. | .memopStag .. | .memopPin ..
  | .memopUnpin .. | .memopWbl .. | .memopPf .. | .chanBlock .. | .chanUnblock .. | .chanTtset .. | .barInit .. | .barArrive ..
  | .barWait .. | .barSync .. | .monArm .. | .monDisarm | .migrGoto .. | .fenceFull .. | .fenceRelease .. | .fenceAcquire ..
  | .fenceXpath .. | .sysSavectx .. => some [0]
  | _ => none

/-- The bits of a GLOBAL address but its tag, which MEMOP and MON ignore (09_homing R241, 14_sync R354). -/
def withoutTag : Word := ~~~(0xF#64 <<< 56)

/-- The registers that the outside effect of an instruction reads, each with the bits of it that leave the thread; none for an instruction
without an outside effect. -/
def effectRegs (i : Instr) : Option (List (Nat × Word)) :=
  let whole := fun (x : Nat) => (x, BitVec.allOnes 64)
  let r := fun (l : List Nat) => some (l.map whole)
  match i with
  | .st d a b _ _ m _ => r (d :: b :: baseReg m a)
  | .stm d a n _ _ | .sst d a _ _ _ n => r (a :: regRun d n)
  | .vst d a _ _ _ (.block _) => r [d, a]
  | .vst d a _ _ _ (.strided b _) => r [d, a, b]
  | .vgsScatter d a b .. => r [d, a, b]
  | .amoAdd _ a b .. | .amoAnd _ a b .. | .amoOr _ a b .. | .amoXor _ a b .. | .amoMin _ a b .. | .amoMax _ a b ..
  | .amoMinn _ a b .. | .amoMaxn _ a b .. | .amoSwap _ a b .. | .amoFadd32 _ a b .. | .amoFadd64 _ a b .. => r [a, b]
  | .amoCas _ a b c .. => r [a, b, c]
  | .memopStag a b => some [(a, withoutTag), (b, 15)]
  | .memopPin a b | .memopUnpin a b => some [(a, withoutTag), whole b]
  | .memopLtag _ a | .memopWbl a | .memopPf a | .monArm a => some [(a, withoutTag)]
  | .chanTtset a b | .sysSavectx a b => r [a, b]
  | .chanBlock a | .chanUnblock a | .chanQuery _ a | .migrGoto a => r [a]
  | .sendTask _ a b n | .sendRemop _ a b n => r (a :: regRun b n)
  | .spawn _ a b c .. => r [a, b, c]
  | .cpq _ a b c e => r [a, b, c, e]
  | .mxCtx _ a c e _ | .mxMma _ a c e _ | .mxZero _ a c e _ | .mxDrain _ a c e _ | .mxLoadc _ a c e _ | .mxOrder _ a c e _ =>
    some [whole a, (c, 0xFFFFFFFF), whole e]
  | .mxMmas _ a b c e _ => some [whole a, whole b, (c, 0xFFFFFFFF), whole e]
  | .skMul _ a b _ => r [a, b]
  | .freeze _ a b => r [a, b]
  | .barInit a (.reg x) _ => r [a, x]
  | .barInit a (.imm _) _ => r [a]
  | .barArrive (.reg x) _ | .barWait (.reg x) _ | .barSync (.reg x) _ => r [x]
  | .ldLast _ _ b _ _ _ => r [b]
  | .barArrive (.imm _) _ | .barWait (.imm _) _ | .barSync (.imm _) _ | .monWait _ | .monDisarm | .migrHome _ | .ringAcons .. | .ringAprod ..
  | .fenceFull .. | .fenceRelease .. | .fenceAcquire .. | .fenceXpath .. => r []
  | _ => none

/-- The registers an instruction with an outside value reads for it besides those of its effect. -/
def valueRegs (i : Instr) : List Nat := match i with
  | .ld _ a b _ _ m _ => b :: baseReg m a
  | .ldm _ a .. | .sld _ a .. => [a]
  | .vld _ a _ _ _ st => a :: (st.map fun x => x.1).toList
  | .vgsGather _ a b .. | .ringInit a b _ => [a, b]
  | .waittAny _ _ a | .waittAll _ a | .waittFfr _ _ a | .waittTest _ _ a | .waittClr _ a | .joinWait _ a | .joinTest _ a
  | .csrWrite _ a _ | .csrSet _ a _ | .csrClear _ a _ => [a]
  | _ => []

/-- The words of a number of bytes. -/
def wordsOf (bs : List Byte) : List Word :=
  (List.range ((bs.length + 7) / 8)).map fun j => BitVec.ofNat 64 (ofBytes (slice bs (8 * j) 8))

/-- An element of a store, an atomic or a ring count as a comparator entry holds it: address, width, data. -/
def Elem.words (e : Elem) : List Word :=
  e.ea :: BitVec.ofNat 64 e.width :: match e.op with
    | .store bs => wordsOf bs
    | .storeSome ps => ps.flatMap fun p => BitVec.ofNat 64 p.1 :: wordsOf p.2
    | .amo k _ y z => [BitVec.ofNat 64 k, BitVec.ofNat 64 y, BitVec.ofNat 64 z]
    | _ => []

/-- The plan of what a memory instruction does outside; LD.LAST's is its ring count (08_access R216). -/
def State.effectPlan (s : State) (c sl : Nat) (i : Instr) : Option Planned := match i with
  | .ldLast .. => s.planRing c sl i
  | _ => s.planOf c sl i

/-- A comparator entry (R413): the instruction's words for its fields, then for a memory access address, width and data of each element,
and for any other effect the words that leave the thread. DESIGN CHOICE (log 48): the layout. -/
def State.twinEntry (s : State) (c sl : Nat) (i : Instr) (rs : List (Nat × Word)) : List Word :=
  (s.thread c sl).instrWord :: match s.effectPlan c sl i with
    | some (.ok p) => p.els.flatMap Elem.words
    | some (.bad k addr) => [BitVec.ofNat 64 k.code, addr]
    | none => rs.map fun r => s.reg64 c sl r.1 &&& r.2

/-- An instruction that takes PRIV, REGLIMIT or COPYFAULT (02_lines R47) does so on each core by itself. -/
def twinEarly (th : Thread) (i : Instr) : Bool :=
  let outs := ((outsideRegs i).getD []).filter (· < 128)
  let priv := match i with
    | .csrRead _ n | .csrWrite _ _ n | .csrSet _ _ n | .csrClear _ _ n => decide (0x100 ≤ n)
    | .sysSavectx .. | .chanTtset .. => true
    | _ => false
  let ins := ((effectRegs i).getD []).map fun r => r.1
  (priv && !th.sup) || (overLimit th (outs ++ ins ++ valueRegs i)).isSome || th.overBudget outs

/-- A run of blocks with a restart count (R208). -/
def isRun (i : Instr) : Bool := match i with
  | .ldm .. | .stm .. | .sld .. | .sst .. => true
  | _ => false

/-- The cause of a code (R402). -/
def causeOf (n : Nat) : Cause :=
  [Cause.illegal, .illegal, .illine, .reglimit, .misalign, .page, .perm, .tagmismatch, .poison, .copyfault, .shadowfull,
    .nomigrate, .badscale, .usertrap, .svc, .freezedepth, .priv, .ringerr, .misdirect, .twinmismatch, .range].getD n .illegal

/-! ### The pair's queues -/

/-- A pair of a column. -/
def State.pair (s : State) (col sl : Nat) : TwinPair := look (s.column col).twins sl {}
/-- Change a pair. -/
def State.onPair (s : State) (col sl : Nat) (f : TwinPair → TwinPair) : State :=
  s.onColumn col fun x => { x with twins := assign x.twins sl (f (look x.twins sl {})) }

/-- A ring handle as one value. -/
def Handle.packed (h : Handle) : VWord :=
  BitVec.ofNat 512 (ofBytes ([h.desc, h.geo, h.ccur, h.pcur, h.seenp, h.seenc].flatMap fun w => toBytes 8 w.toNat))

/-- A ring handle from a value. -/
def handleFrom (v : VWord) : Handle :=
  let w := fun (j : Nat) => (v >>> (64 * j)).setWidth 64
  { desc := w 0, geo := w 1, ccur := w 2, pcur := w 3, seenp := w 4, seenc := w 5 }

/-- What the lead owes, as queue entries: values, or its trap and, after a fault of a run, the values it has loaded. -/
def State.twinEntries (s : State) (c sl : Nat) : List TwinVal :=
  let th := s.thread c sl
  let values := th.twinOwes.map fun r => TwinVal.value
    (if r < 128 then s.reg c sl r else match find th.handles (r - 128) with
      | some h => h.packed
      | none => 0)
  if th.entering && !th.twinOwes.isEmpty then
    .trap (causeOf th.tcause.toNat) th.taddr th.tprog :: (if th.tprog = 0 then [] else values)
  else values

/-- Take a value into a register or handle of the trail. -/
def State.takeValue (s : State) (c sl r : Nat) (v : TwinVal) : State := match v with
  | .value x =>
    if r < 128 then s.setReg c sl r x
    else s.onThread c sl fun th => { th with handles := assign th.handles (r - 128) (handleFrom x) }
  | .trap .. => s

/-- Take values into a list of registers. -/
def State.takeValues (s : State) (c sl : Nat) (rs : List Nat) (vs : List TwinVal) : State :=
  (rs.zip vs).foldl (fun s p => s.takeValue c sl p.1 p.2) s

/-- CSRs that belong to the thread: the trail writes its own as well. -/
def threadCsr (n : Nat) : Bool := n = 0x008 || n = 0x00D || n = 0x00E || (decide (0x010 ≤ n) && decide (n ≤ 0x015))

/-- The thread-register part of a CSR write, made by the trail with the old value it took. -/
def State.trailCsr (s : State) (c sl : Nat) (i : Instr) (old : Word) : State :=
  let go := fun (n op a : Nat) =>
    if threadCsr n then s.writeCsr c sl n op (s.reg64 c sl a) (csrValue op old (s.reg64 c sl a)) else s
  match i with
  | .csrWrite _ a n => go n 1 a
  | .csrSet _ a n => go n 2 a
  | .csrClear _ a n => go n 3 a
  | _ => s

/-- The trail has begun to take the outcome of its instruction and still waits for the rest of it. -/
def TwinPair.taking (p : TwinPair) : Bool := p.got != 0 || p.trapped.isSome

/-- The trail takes what the queue holds of the lead's outcome of an instruction, and performs nothing; with the last of it the
instruction is done, or traps as the lead's did. -/
def State.trailTake (s : State) (c sl : Nat) (i : Instr) (outs : List Nat) : State :=
  let col := columnOf c
  let p := s.pair col sl
  let (trap, q) : Option TwinVal × List TwinVal := match p.trapped, p.values with
    | none, .trap k addr prog :: rest => (some (.trap k addr prog), rest)
    | t, q => (t, q)
  match trap with
  | some (.trap k addr 0) => (s.onPair col sl fun p => { p with values := q, got := 0, trapped := none }).trap c sl k addr
  | _ =>
    let left := outs.drop p.got
    let here := q.take left.length
    let done := here.length = left.length
    let old := match q with
      | .value v :: _ => low64 v
      | _ => 0
    let s := s.onPair col sl fun p =>
      { p with values := q.drop here.length, got := if done then 0 else p.got + here.length, trapped := if done then none else trap }
    let s := if done && trap.isNone then s.trailCsr c sl i old else s
    let s := s.takeValues c sl left here
    if !done then s
    else match trap with
      | some (.trap k addr prog) =>
        let s := s.onThread c sl fun th => { th with tprog := prog }
        s.enterTrap c sl k (s.thread c sl).instrWord addr true
      | _ => (s.onThread c sl fun th => { th with tprog := if isRun i then 0 else th.tprog }).finish c sl

/-! ### Turns of a pair -/

/-- What a turn of a paired slot does: run the instruction, or nothing more. -/
inductive TwinTurn where
  | run (s : State)
  | pass (s : State)

/-- A comparator entry is made; when both are there they are compared. -/
def State.comparing (s : State) (col sl : Nat) : State :=
  let p := s.pair col sl
  if p.lead.isSome && p.trail.isSome then { s with agenda := .dev .twinCompare { unit := col, sub := sl } :: s.agenda } else s

/-- Entries that a pair's queue of 32 holds. -/
def twinRoom : Nat := 32

/-- What the lead owes enters the queue, as far as there is room. -/
def State.pushOwed (s : State) (c sl : Nat) : State :=
  let new := s.twinEntries c sl
  (s.onPair (columnOf c) sl fun p =>
    let all := p.owed ++ new
    { p with values := p.values ++ all.take (twinRoom - p.values.length), owed := all.drop (twinRoom - p.values.length) }).onThread c sl
      fun th => { th with twinOwes := [] }

/-- A turn of the lead: held while the queue is full, or has no room for all that it owes. -/
def State.leadTurn (s : State) (c sl : Nat) (i : Instr) : TwinTurn :=
  let col := columnOf c
  let s := s.pushOwed c sl
  let th := s.thread c sl
  let p := s.pair col sl
  if !p.owed.isEmpty || decide (twinRoom ≤ p.values.length) then .pass s
  else
    let s := (s.onPair col sl fun p => { p with leadAt := s.cyc c }).onThread c sl
      fun th => { th with twinCount := if th.twinGo || p.lead.isSome then th.twinCount else th.twinCount + 1 }
    let outs := (outsideRegs i).getD []
    if twinEarly th i then .run s
    else match effectRegs i with
      | some rs =>
        if th.twinGo then .run (s.onThread c sl fun th => { th with twinGo := false, twinOwes := outs })
        else .pass (((s.onPair col sl fun p => { p with lead := some (s.twinEntry c sl i rs) }).onThread c sl
          fun th => { th with hold := .twin }).comparing col sl)
      | none => .run (s.onThread c sl fun th => { th with twinOwes := outs })

/-- The trail may issue its next instruction: on a turn after the lead's, or once the lead has ended. -/
def State.trailMay (s : State) (c sl : Nat) : Bool :=
  let p := s.pair (columnOf c) sl
  let lead := s.slot (c - 1) sl
  let k := (s.thread c sl).twinCount
  decide (p.leadAt < s.cyc c) && (lead.st = .free || decide (k < lead.th.twinCount)) ||
    (lead.st != .free && decide (k + 1 < lead.th.twinCount))

/-- A turn of the trail. -/
def State.trailTurn (s : State) (c sl : Nat) (i : Instr) : TwinTurn :=
  let col := columnOf c
  let th := s.thread c sl
  let p := s.pair col sl
  let counted := fun (s : State) => s.onThread c sl fun th => { th with twinCount := th.twinCount + 1 }
  let outs := outsideRegs i
  if p.taking then if p.values = [] then .pass s else .pass (s.trailTake c sl i (outs.getD []))
  else if th.twinGo then
    if p.values = [] then .pass s
    else .pass ((s.onThread c sl fun th => { th with twinGo := false }).trailTake c sl i (outs.getD []))
  else if p.trail.isNone && !(s.trailMay c sl) then .pass s
  else if twinEarly th i then .run (counted s)
  else match effectRegs i, outs with
    | some rs, _ =>
      let s := if p.trail.isSome then s else counted s
      .pass (((s.onPair col sl fun p => { p with trail := some (s.twinEntry c sl i rs) }).onThread c sl
        fun th => { th with hold := .twin }).comparing col sl)
    | none, some outs => if p.values = [] then .pass s else .pass ((counted s).trailTake c sl i outs)
    | none, none => .run (counted s)

/-- A turn of a slot with an instruction to issue: of a pair, or of a slot by itself. -/
def State.twinTurn (s : State) (c sl : Nat) (i : Instr) : TwinTurn :=
  if !((s.column (columnOf c)).twinctl.getLsbD sl) || decide (15 ≤ sl) || (s.thread c sl).hold ≠ .ready then .run s
  else if c % 2 = 0 then s.leadTurn c sl i else s.trailTurn c sl i

/-- The first place at which two entries differ, with the words there; a word that is missing reads zero. -/
def firstDiff (n : Nat) (a b : List Word) : Nat × Word × Word := match a, b with
  | x :: a, y :: b => if x = y then firstDiff (n + 1) a b else (n, x, y)
  | x :: _, [] => (n, x, 0)
  | [], y :: _ => (n, 0, y)
  | [], [] => (n, 0, 0)

/-- TWIN_COMPARE: a column's pair with both entries. A match lets the lead perform the effect and the trail take its
outcome, each on its next turn; a mismatch parks both with one record and counts. -/
def execTwinCompare (s : State) : Host.Outcome State Fault Refusal :=
  let col := s.subj.unit
  let sl := s.subj.sub
  let up := 2 * col
  match (s.pair col sl).lead, (s.pair col sl).trail with
  | some a, some b =>
    let s := s.onPair col sl fun p => { p with lead := none, trail := none }
    if a = b then
      let go := fun (c : Nat) (s : State) => s.onThread c sl fun th => { th with hold := .ready, twinGo := true }
      .next (go (up + 1) (go up s))
    else
      let (n, x, y) := firstDiff 0 a b
      let s := (s.onColumn col fun k => { k with miss := min (k.miss + 1) (2 ^ 32 - 1) }).halt (up + 1) sl Cause.twinmismatch.code
      .next (s.park up sl { kind := 9, cause := Cause.twinmismatch.code, pc := (s.thread up sl).pc, w4 := x.toNat, w5 := y.toNat, w6 := n })
  | _, _ => .next s

/-! ### The stall watchdog (R361, R419) -/

/-- A class's limit in WDOG, in cycles, and its code. -/
def wdogLimit (w : Word) (k : HoldClass) : Nat × Nat := match k with
  | .send => (1024 * bits w.toNat 15 0, 0)
  | .waitt => (1024 * bits w.toNat 31 16, 1)
  | .bar => (1024 * bits w.toNat 47 32, 2)
  | .mon => (1024 * bits w.toNat 63 48, 3)

/-- A slot's hold has outlasted its class's limit and is not yet reported. -/
def State.expired (s : State) (c sl : Nat) : Bool :=
  let k := s.core c
  match (s.slot c sl).st, (s.thread c sl).holding with
  | .run, some (cls, start, told) =>
    let (lim, _) := wdogLimit k.wdog cls
    k.pre = .running && lim ≠ 0 && decide (start + lim < s.cyc c) && !told
  | _, _ => false

/-- WATCHDOG_EXPIRY: of a core's slot: one record and report for the hold; the thread stays held. -/
def execWatchdogExpiry (s : State) : Host.Outcome State Fault Refusal :=
  let c := s.subj.unit
  let sl := s.subj.sub
  match s.expired c sl, (s.thread c sl).holding with
  | true, some (cls, start, _) =>
    let th := s.thread c sl
    let s := s.setThread c sl { th with holding := some (cls, start, true) }
    .next (s.record c { kind := 6, slot := sl, pc := th.pc, tid := th.tid, w4 := (wdogLimit (s.core c).wdog cls).2, w5 := s.cyc c - start })
  | _, _ => .next s

end Sys2Proof.Machine
end

