-- ==== Sys2Proof/Machine/Complete.lean ====
section
/-!
DEFINITION. What an answer does at the unit that waits for it: accesses and translations at threads, engines, matrix units and
fetches, and PACKET_DELIVERY (21_fabric R426), which delivers whatever no other row names.
-/
namespace Sys2Proof.Machine

open Sys2Proof

/-! ### Accesses -/

/-- A plan of a run from the address of its block 0. -/
def Plan.startingAt (p : Plan) (start : Option Word) : Plan := match start with
  | some w => { p with els := p.els.map fun e => { e with ea := w + BitVec.ofNat 64 (64 * e.idx) } }
  | none => p

/-- The last access of a thread's instruction is answered: the elements of a run lie where they were requested, whatever its blocks have
left in its base register since. -/
def State.threadDone (s : State) (c sl : Nat) (r : AccResult) : State := match (s.thread c sl).pend with
  | none => s
  | some q => match s.planOf c sl q.instr with
    | some (.ok p) => s.completeMem c sl q.instr (p.startingAt q.start) q
    | some (.bad k addr) => s.trap c sl k addr
    | none => match q.instr with
      | .sysSavectx a b => s.savectxDone c sl a b q
      | .sysLoadctx a b => s.loadctxDone c sl a b q.instr q
      | i => s.completeHomeOp c sl i r

/-- An access of a thread is answered: a posted store is off its count; another answer is gathered until all are in. Data is in
the register one cycle later (06_wheels R142). Answers to a thread that has ended find another admission and are dropped. -/
def State.threadAnswered (s : State) (c sl : Nat) (a : Access) (r : AccResult) : State :=
  let th := s.thread c sl
  if th.uid ≠ a.uid then s
  else if a.posted then s.setThread c sl { th with posted := th.posted - 1 }
  else match th.hold, th.pend with
    | .answer, some p =>
      let s := s.gotAnswer c sl a r (s.cyc c + if isStore a.op then 0 else 1)
      if p.left ≤ 1 then s.threadDone c sl r else s
    | _, _ => s

/-- The answer to an access, at the agent that made it. -/
def State.accessAnswered (s : State) (a : Access) (r : AccResult) : State :=
  let s := s.landed a
  match a.agent with
  | .thread c sl => s.threadAnswered c sl a r
  | .engine c => if a.op = .pf then s else s.engineAnswered c a r
  | .matrix cl => s.matrixAnswered cl a r
  | .mcast _ _ => s.mcWritten a r
  | .device .. => s
  | .fetch _ => s

/-! ### Translations (08_access R201) -/

/-- A leaf enters a core's translation cache. -/
def Core.cacheLeaf (k : Core) (ptbase : Word) (leaf : Option Leaf) : Core := match leaf with
  | some l => if tablesKey ptbase = tablesKey k.ptbase then { k with tcache := (l :: k.tcache.filter (· != l)).take 64 } else k
  | none => k

/-- A translation arrives at the agent that waits for it; one that the tables no longer give is asked for again. -/
def State.walkAnswered (s : State) (g : Agent) (c : Nat) (ptbase : Word) (va : Nat) (leaf : Option Leaf) : State :=
  if s.walk ptbase va ≠ leaf then s.askWalk g c ptbase va
  else match g with
    | .thread c sl =>
      let th := s.thread c sl
      match th.hold, th.pend with
      | .answer, some p =>
        if p.left = 0 then
          ((s.onCore c fun k => k.cacheLeaf ptbase leaf).onThread c sl fun th =>
            { th with xl := th.xl ++ [{ va := va, leaf := leaf }] }).resumeNow c sl
        else s
      | _, _ => s
    | .engine c =>
      let s := s.engineWalked c va leaf
      match (s.core c).running with
      | some r => if r.req.kind = 0x04 then { s with agenda := .dev .mcread { unit := c, sub := 1 } :: s.agenda } else s
      | none => s
    | .fetch col => s.fetchWalked col c ptbase va leaf
    | _ => s

/-! ### Answers to a thread -/

/-- An answer to an instruction that a thread holds; the thread issues again on its first turn after it. -/
def State.threadTold (s : State) (c sl : Nat) (a : Ans) : State := match (s.thread c sl).waits, a with
  | some (.joinWait d _), a => (s.joinAnswered c sl d false a).after c sl
  | some (.joinTest d _), a => (s.joinAnswered c sl d true a).after c sl
  | some (.sysTlbinv _ _), _ => s.acked c sl
  | some _, .trap k addr => (s.trap c sl k addr).after c sl
  | some (.chanQuery d _), .value v => (s.finishPut c sl d v).after c sl
  | some _, _ => (s.finish c sl).after c sl
  | none, _ => s

/-! ### PACKET_DELIVERY -/

/-- Take in a content that no other row names. -/
def State.takeIn (s : State) (c : Content) : State := match c with
  | .reportAns core a => s.reportAnswered core a
  | .thrAns core slot a => s.threadTold core slot a
  | .imgDone home h member spilled => s.imageConfirmed home h member spilled
  | .imgData thief h img =>
    let p := (s.core thief).pre
    if p = .saving || p = .preempted || p = .restoring then s.notify (clusterOf thief) 64 c else s.imageArrived thief h img
  | .joinOp h test rcore rslot =>
    let (s, a) := s.joinAt h test
    s.coreToCore (homeOf h) rcore 1 1 (.thrAns rcore rslot a)
  | .crownEnd h => s.crownThreadEnded h
  | .sheaf core r home => s.sheafArrived core r home
  | .acc a => s.atNetwork a
  | .atPort a => match s.homeBank a with
    | some b => s.atRider a.cl (s.pickRider a.cl 30 31 { a with bank := b }) { a with bank := b }
    | none => s.reachHome a
  | .accAns a r => s.accessAnswered a r
  | .walkAns g core ptbase va leaf => s.walkAnswered g core ptbase va leaf
  | .copyInvAck g uid =>
    let s := s.paid g uid
    match g with
    | .engine c => s.pump c
    | _ => s
  | .migAns core slot ok => s.migrantAnswered core slot ok
  | .mcSrcDone core => s.mcNoticed core
  | .mxDone m check => s.mxCompleted m check
  | .skReq keeper slot g p => s.numberLink keeper slot g p
  | .linkAck core slot v => s.linkAcked core slot v
  | .barAns core slot a => s.barAnswered core slot a
  | .monFire core slot reg cause => s.fireMonitor core slot reg cause
  | .linkDown cl port => s.heardDead cl port
  | _ => s

/-- PACKET_DELIVERY: with sub 0 a packet reaches its endpoint (R426); with sub 1 a content is taken in. A request to the firmware
with no defined code is answered there (23_retire R450). -/
def execPacketDelivery (s : State) : Host.Outcome State Fault Refusal :=
  if s.subj.sub = 1 then
    match find s.items s.subj.item with
    | some (.msg _) => fwRequest { s with subj := { s.subj with sub := 0 } } fun s id m t => s.fwReply id m t 1 0
    | some c => .next ((s.takeItem s.subj.item).2.takeIn c)
    | none => .next s
  else match find s.packets s.subj.item with
    | some p => .next (s.arrivePacket s.subj.item p)
    | none => .next s

end Sys2Proof.Machine
end

