-- ==== Sys2Proof/Machine/Maths.lean ====
section
/-!
DEFINITION. VMATH (11_formats R285 to R287): every function's exact value rounded once under RNE. Values are enclosed
between two fixed-point numbers, at rising precision, until both ends round alike; exact results are found apart. Where
the last precision does not settle a rounding, the result is the free value Config.mathResult (log 5).
-/
namespace Sys2Proof.Machine

open Sys2Proof

/-! ### Enclosures: pairs lo ≤ x * 2^p ≤ hi -/

/-- An enclosure at a scale known to the user. -/
abbrev Encl := Int × Int

/-- Floor of a / 2^p. -/
def fdivP (a : Int) (p : Nat) : Int := a / (2 : Int) ^ p
/-- Ceiling of a / 2^p. -/
def cdivP (a : Int) (p : Nat) : Int := -(-a / (2 : Int) ^ p)
/-- Sum. -/
def eAdd (a b : Encl) : Encl := (a.1 + b.1, a.2 + b.2)
/-- Difference. -/
def eSub (a b : Encl) : Encl := (a.1 - b.2, a.2 - b.1)
/-- Negation. -/
def eNeg (a : Encl) : Encl := (-a.2, -a.1)
/-- Product at scale p. -/
def eMul (p : Nat) (a b : Encl) : Encl :=
  let w := a.1 * b.1
  let x := a.1 * b.2
  let y := a.2 * b.1
  let z := a.2 * b.2
  (fdivP (min (min w x) (min y z)) p, cdivP (max (max w x) (max y z)) p)
/-- Product with an integer. -/
def eTimes (k : Int) (a : Encl) : Encl := if 0 ≤ k then (k * a.1, k * a.2) else (k * a.2, k * a.1)
/-- Quotient by a positive integer. -/
def eOver (a : Encl) (n : Nat) : Encl := (a.1 / (n : Int), -(-a.2 / (n : Int)))
/-- Quotient by a positive enclosure, at scale p. -/
def eDiv (p : Nat) (a b : Encl) : Encl :=
  let lo := if 0 ≤ a.1 then b.2 else b.1
  let hi := if 0 ≤ a.2 then b.1 else b.2
  (a.1 * (2 : Int) ^ p / lo, -(-(a.2 * (2 : Int) ^ p) / hi))
/-- Square root of a nonnegative enclosure, at scale p. -/
def eSqrt (p : Nat) (a : Encl) : Encl :=
  ((isqrt (a.1.toNat * 2 ^ p) : Int), (isqrt (a.2.toNat * 2 ^ p) : Int) + 1)
/-- Widen by k units. -/
def eWiden (a : Encl) (k : Int) : Encl := (a.1 - k, a.2 + k)
/-- A dyadic number m * 2^e at scale p. -/
def eOf (p : Nat) (m : Int) (e : Int) : Encl :=
  if 0 ≤ e + p then (m * (2 : Int) ^ (e + p).toNat, m * (2 : Int) ^ (e + p).toNat)
  else (fdivP m (-(e + p)).toNat, cdivP m (-(e + p)).toNat)
/-- One. -/
def eOne (p : Nat) : Encl := ((2 : Int) ^ p, (2 : Int) ^ p)

/-- Horner: 1/c(0) + t * (1/c(1) + t * (...)) over n terms, c(k) = first + k * step (series of atanh and atan). -/
def oddSeries (p : Nat) (t : Encl) (n k : Nat) : Encl := match n with
  | 0 => (0, 0)
  | n + 1 => eAdd (eOver (eOne p) (2 * k + 1)) (eMul p t (oddSeries p t n (k + 1)))

/-- Horner: 1 + r/(k+1) * (1 + r/(k+2) * (...)) (exponential series). -/
def expSeries (p : Nat) (r : Encl) (n k : Nat) : Encl := match n with
  | 0 => eOne p
  | n + 1 => eAdd (eOne p) (eOver (eMul p r (expSeries p r n (k + 1))) (k + 1))

/-- Horner: 1 + r/((k+1)(k+2)) * (1 + r/((k+3)(k+4)) * (...)) with r = -x^2 (series of sine and cosine). -/
def trigSeries (p : Nat) (r : Encl) (n k : Nat) : Encl := match n with
  | 0 => eOne p
  | n + 1 => eAdd (eOne p) (eOver (eMul p r (trigSeries p r n (k + 2))) ((k + 1) * (k + 2)))

/-- atanh of |z| at most 1/3. -/
def eAtanh (p : Nat) (z : Encl) : Encl := eWiden (eMul p z (oddSeries p (eMul p z z) (p / 3 + 8) 0)) 4
/-- ln 2. -/
def eLn2 (p : Nat) : Encl := eTimes 2 (eAtanh p (eOver (eOne p) 3))
/-- atan of |t| at most 1/4. -/
def eAtanSmall (p : Nat) (t : Encl) : Encl := eWiden (eMul p t (oddSeries p (eNeg (eMul p t t)) (p / 4 + 8) 0)) 4
/-- pi (Machin). -/
def ePi (p : Nat) : Encl :=
  eSub (eTimes 16 (eAtanSmall p (eOver (eOne p) 5))) (eTimes 4 (eAtanSmall p (eOver (eOne p) 239)))

/-- An enclosure times 2^k. -/
def eShift (a : Encl) (k : Int) : Encl :=
  if 0 ≤ k then (a.1 * (2 : Int) ^ k.toNat, a.2 * (2 : Int) ^ k.toNat)
  else (fdivP a.1 (-k).toNat, cdivP a.2 (-k).toNat)

/-- exp x as an enclosure and a power of two: x = k ln 2 + r. -/
def eExp (p : Nat) (x : Encl) : Encl × Int :=
  let l := eLn2 p
  let k := (2 * x.1 + l.1) / (2 * l.1)
  (eWiden (expSeries p (eSub x (eTimes k l)) (p / 2 + 12) 0) 2, k)

/-- log of m * 2^e, m > 0. -/
def eLog (p : Nat) (m : Nat) (e : Int) : Encl :=
  let n := Nat.log2 m
  let big := decide (2 ^ (2 * n + 1) < m * m)
  let k : Int := e + (n : Int) + (if big then 1 else 0)
  let one : Int := (2 : Int) ^ (n + (if big then 1 else 0))
  let num : Int := (m : Int) - one
  let den : Int := (m : Int) + one
  let z : Encl := (num * (2 : Int) ^ p / den, -(-(num * (2 : Int) ^ p) / den))
  eAdd (eTimes 2 (eAtanh p z)) (eTimes k (eLn2 p))

/-- sin and cos of a dyadic number, by reduction modulo pi / 2. -/
def eSinCos (p : Nat) (x : Int) (e : Int) : Encl × Encl :=
  let extra := (e + (Nat.log2 x.natAbs : Int) + 8).toNat
  let pi := ePi (p + extra)
  let xw := eOf (p + extra) x e
  let k := (2 * xw.1 + pi.1 / 2) / pi.1
  let r := eShift (eSub xw (eShift (eTimes k pi) (-1))) (-(extra : Int))
  let r2 := eNeg (eMul p r r)
  let c := eWiden (trigSeries p r2 (p / 2 + 8) 0) 2
  let s := eWiden (eMul p r (trigSeries p r2 (p / 2 + 8) 1)) 2
  let q := k % 4
  if q = 0 then (s, c) else if q = 1 then (c, eNeg s) else if q = 2 then (eNeg s, eNeg c) else (eNeg c, s)

/-- atan of an enclosure in 0 to 1: two halvings of the angle. -/
def eAtanUnit (p : Nat) (t : Encl) : Encl :=
  let half := fun t : Encl => eDiv p t (eAdd (eOne p) (eSqrt p (eAdd (eOne p) (eMul p t t))))
  eTimes 4 (eAtanSmall p (half (half t)))

/-- atan of y / x for nonnegative y and x, not both zero, as the ratio of two enclosures. -/
def eAtanRatio (p : Nat) (y x : Encl) : Encl :=
  if y.1 ≤ x.1 then eAtanUnit p (eDiv p y x)
  else eSub (eShift (ePi p) (-1)) (eAtanUnit p (eDiv p x y))

/-! ### Rounding an enclosure -/

/-- Both ends of a positive enclosure at 2^(k-p) round alike: the result, always inexact. -/
def roundEncl (f : FSpec) (neg : Bool) (p : Nat) (k : Int) (a : Encl) : Option FRes :=
  if a.1 ≤ 0 then none
  else
    let lo := f.round .rne neg a.1.toNat (k - (p : Int)) true
    let hi := f.round .rne neg a.2.toNat (k - (p : Int)) true
    if lo = hi then some (lo.1, lo.2 ||| fNX) else none

/-- Round an enclosure of either sign. -/
def roundSigned (f : FSpec) (p : Nat) (k : Int) (a : Encl) : Option FRes :=
  if 0 < a.1 then roundEncl f false p k a
  else if a.2 < 0 then roundEncl f true p k (eNeg a)
  else none

/-- The first precision that settles the rounding, else the free value of the function at these operands (log 5). -/
def settle (f : FSpec) (fn a b : Nat) (g : Nat → Option FRes) : FRes :=
  match g 160 with
  | some r => r
  | none => match g 320 with
    | some r => r
    | none => match g 1280 with
      | some r => r
      | none => (Config.mathResult fn f.width a b % 2 ^ f.width, fNX)

/-! ### The functions on finite nonzero operands -/

/-- Extra scale for a result as small as the operand. -/
def small (m : Nat) (e : Int) : Nat := (-(e + (Nat.log2 m : Int))).toNat

/-- exp of an enclosure x, rounded; beyond 2^13 the result overflows or underflows whatever the digits. -/
def expOf (f : FSpec) (fn a b : Nat) (huge neg : Bool) (x : Nat → Nat × Encl) : FRes :=
  if huge then f.round .rne false 1 (if neg then -20000 else 20000) true |> fun r => (r.1, r.2 ||| fNX)
  else settle f fn a b fun w =>
    let (p, v) := x w
    let (y, k) := eExp p v
    roundEncl f false p k y

/-- |x| at least 2^13. -/
def isHuge (m : Nat) (e : Int) : Bool := decide (13 ≤ e + (Nat.log2 m : Int))

/-- An integer dyadic number's value, when it is one. -/
def intVal (neg : Bool) (m : Nat) (e : Int) : Option Int :=
  if 0 ≤ e then some (signed neg (m * 2 ^ e.toNat))
  else if m % 2 ^ (-e).toNat = 0 then some (signed neg (m / 2 ^ (-e).toNat)) else none

/-- The odd part of a positive number and its power of two. -/
def oddPart (n : Nat) (m : Nat) (e : Int) : Nat × Int := match n with
  | 0 => (m, e)
  | n + 1 => if m % 2 = 0 && m != 0 then oddPart n (m / 2) (e + 1) else (m, e)

/-- A finite nonzero operand's function. -/
def mathExp (f : FSpec) (a : Nat) (neg : Bool) (m : Nat) (e : Int) : FRes :=
  expOf f 0 a 0 (isHuge m e) neg fun w => (w + 32, eOf (w + 32) (signed neg m) e)

/-- 2^x: exact for integers. -/
def mathExp2 (f : FSpec) (a : Nat) (neg : Bool) (m : Nat) (e : Int) : FRes :=
  match (if isHuge m e then none else intVal neg m e) with
  | some k => f.round .rne false 1 k false
  | none => expOf f 1 a 0 (isHuge m e) neg fun w => (w + 32, eMul (w + 32) (eOf (w + 32) (signed neg m) e) (eLn2 (w + 32)))

/-- ln 10. -/
def eLn10 (p : Nat) : Encl := eLog p 10 0

/-- 10^x: exact for integers 0 to 30. -/
def mathExp10 (f : FSpec) (a : Nat) (neg : Bool) (m : Nat) (e : Int) : FRes :=
  match (if isHuge m e then none else intVal neg m e) with
  | some k => if 0 ≤ k && decide (k ≤ 400) then f.round .rne false (10 ^ k.toNat) 0 false
              else expOf f 2 a 0 (isHuge m e) neg fun w =>
                (w + 32, eMul (w + 32) (eOf (w + 32) (signed neg m) e) (eLn10 (w + 32)))
  | none => expOf f 2 a 0 (isHuge m e) neg fun w =>
      (w + 32, eMul (w + 32) (eOf (w + 32) (signed neg m) e) (eLn10 (w + 32)))

/-- exp x - 1. -/
def mathExpm1 (f : FSpec) (a : Nat) (neg : Bool) (m : Nat) (e : Int) : FRes :=
  if isHuge m e then (if neg then f.round .rne true (2 ^ 200 - 1) (-200) true |> fun r => (r.1, r.2 ||| fNX)
                      else expOf f 3 a 0 true false fun w => (w, (0, 0)))
  else settle f 3 a 0 fun w =>
    let p := w + small m e + 64
    let (y, k) := eExp p (eOf p (signed neg m) e)
    if 64 ≤ k then roundSigned f p k (eSub y (eShift (eOne p) (-k)))
    else roundSigned f p 0 (eSub (eShift y k) (eOne p))

/-- log x, divided by the log of a base when one is given. -/
def logBase (f : FSpec) (fn a : Nat) (m : Nat) (e : Int) (base : Option Nat) : FRes :=
  settle f fn a 0 fun w =>
    let p := w + 80
    let l := eLog p m e
    match base with
    | none => roundSigned f p 0 l
    | some b => roundSigned f p 0 (eDiv p l (eLog p b 0))

/-- log x. -/
def mathLog (f : FSpec) (a : Nat) (m : Nat) (e : Int) : FRes :=
  let (o, k) := oddPart 60 m e
  if o = 1 && k = 0 then (f.zero false, 0) else logBase f 4 a m e none

/-- log2 x: exact for powers of two. -/
def mathLog2 (f : FSpec) (a : Nat) (m : Nat) (e : Int) : FRes :=
  let (o, k) := oddPart 60 m e
  if o = 1 then f.deliver .rne (.fin (decide (k < 0)) k.natAbs 0) else logBase f 5 a m e (some 2)

/-- log10 x: exact for powers of ten. -/
def mathLog10 (f : FSpec) (a : Nat) (m : Nat) (e : Int) : FRes :=
  let (o, k) := oddPart 60 m e
  match (List.range 30).find? fun n => decide (0 ≤ k) && decide (k.toNat = n) && decide (o = 5 ^ n) with
  | some n => f.deliver .rne (.fin false n 0)
  | none => logBase f 6 a m e (some 10)

/-- log (1 + x), x > -1. -/
def mathLog1p (f : FSpec) (a : Nat) (neg : Bool) (m : Nat) (e : Int) : FRes :=
  let v : Int := if 0 ≤ e then signed neg (m * 2 ^ e.toNat) + 1 else signed neg m + (2 : Int) ^ (-e).toNat
  settle f 7 a 0 fun w =>
    let p := w + small m e + 80
    roundSigned f p 0 (eLog p v.toNat (min e 0))

/-- sin, cos and tan by the pair of enclosures. -/
def mathTrig (f : FSpec) (fn a : Nat) (neg : Bool) (m : Nat) (e : Int) (g : Nat → Encl × Encl → Encl) : FRes :=
  settle f fn a 0 fun w =>
    let p := w + small m e + 96
    roundSigned f p 0 (g p (eSinCos p (signed neg m) e))

/-- sin x / cos x with the signs carried. -/
def eTan (p : Nat) (sc : Encl × Encl) : Encl :=
  if 0 < sc.2.1 then eDiv p sc.1 sc.2 else if sc.2.2 < 0 then eDiv p (eNeg sc.1) (eNeg sc.2) else (0, 0)

/-- 1 - x^2 of a dyadic number at scale p, exact below. -/
def eCofactor (p : Nat) (m : Nat) (e : Int) : Encl :=
  let d := (-2 * e).toNat
  eOf p ((2 : Int) ^ d - (m * m : Nat)) (-(d : Int))

/-- asin of 0 < |x| < 1 or pi / 2. -/
def mathAsin (f : FSpec) (a : Nat) (neg : Bool) (m : Nat) (e : Int) : FRes :=
  settle f 11 a 0 fun w =>
    let p := w + small m e + 128
    roundEncl f neg p 0 (eAtanRatio p (eOf p m e) (eSqrt p (eCofactor p m e)))

/-- acos of 0 < |x| ≤ 1, x ≠ 1. -/
def mathAcos (f : FSpec) (a : Nat) (neg : Bool) (m : Nat) (e : Int) : FRes :=
  settle f 12 a 0 fun w =>
    let p := w + 128
    let t := eAtanRatio p (eSqrt p (eCofactor p m e)) (eOf p m e)
    roundEncl f false p 0 (if neg then eSub (ePi p) t else t)

/-- atan x. -/
def mathAtan (f : FSpec) (a : Nat) (neg : Bool) (m : Nat) (e : Int) : FRes :=
  settle f 13 a 0 fun w =>
    let p := w + small m e + 64
    roundEncl f neg p 0 (eAtanRatio p (if 0 ≤ e then eOne p else eOf p m e)
      (if 0 ≤ e then eDiv p (eOne p) (eShift (eOf p m 0) e) else eOne p))

/-- A multiple of pi over 4, rounded. -/
def piQuarters (f : FSpec) (neg : Bool) (k : Nat) : FRes :=
  settle f 14 k 0 fun w => roundEncl f neg w (-2) (eTimes k (ePi w))

/-- atan(q) for a quotient q = y/x below 2^-127: it lies below q by less than one part in 2^250, so it rounds as what is just below
q, also where q is a number of the type or half way between two. -/
def tinyAtan (f : FSpec) (neg : Bool) (my : Nat) (ey : Int) (mx : Nat) (ex : Int) : FRes :=
  let m := my * 2 ^ 192 / mx
  let e := ey - ex - 192
  if my * 2 ^ 192 % mx = 0 then f.round .rne neg (2 * m - 1) (e - 1) true else f.round .rne neg m e true

/-- atan2 of finite nonzero operands. -/
def mathAtan2 (f : FSpec) (a b : Nat) (ny : Bool) (my : Nat) (ey : Int) (nx : Bool) (mx : Nat) (ex : Int) : FRes :=
  let d := (ey + (Nat.log2 my : Int)) - (ex + (Nat.log2 mx : Int))
  if !nx && decide (d ≤ -128) then tinyAtan f ny my ey mx ex else
  settle f 14 a b fun w =>
    let p := w + min (-d).toNat 1400 + min d.toNat 1400 + 64
    let dd := max (-3000) (min 3000 d)
    let y := eOf p my (-(Nat.log2 my : Int))
    let x := eOf p mx (-(Nat.log2 mx : Int))
    let t := if 0 ≤ dd then eAtanRatio p y (eShift x (-dd)) else eAtanRatio p (eShift y dd) x
    let t := (max t.1 1, max t.2 1)
    roundEncl f ny p 0 (if nx then eSub (ePi p) t else t)

/-- (exp x - exp(-x)) / 2 or (exp x + exp(-x)) / 2 as an enclosure and a power of two. -/
def eHyper (p : Nat) (x : Encl) (plus : Bool) : Encl × Int :=
  let (y, k) := eExp p x
  let z := eDiv p (eOne p) y
  if 2 * k < -(p : Int) || (p : Int) < 2 * k then (eWiden y 2, k - 1)
  else if 0 ≤ k then
    (let u := eShift z (-2 * k)
     if plus then eAdd y u else eSub y u, k - 1)
  else (let u := eShift y (2 * k)
        if plus then eAdd u z else eSub u z, -k - 1)

/-- sinh x. -/
def mathSinh (f : FSpec) (a : Nat) (neg : Bool) (m : Nat) (e : Int) : FRes :=
  if isHuge m e then (let r := f.round .rne neg 1 20000 true
                      (r.1, r.2 ||| fNX))
  else settle f 15 a 0 fun w =>
    let p := w + small m e + 64
    let (y, k) := eHyper p (eOf p m e) false
    roundEncl f neg p k y

/-- cosh x. -/
def mathCosh (f : FSpec) (a : Nat) (m : Nat) (e : Int) : FRes :=
  if isHuge m e then (let r := f.round .rne false 1 20000 true
                      (r.1, r.2 ||| fNX))
  else settle f 16 a 0 fun w =>
    let p := w + 64
    let (y, k) := eHyper p (eOf p m e) true
    roundEncl f false p k y

/-- tanh x: beyond 64 it lies within 2^-100 of 1. -/
def mathTanh (f : FSpec) (a : Nat) (neg : Bool) (m : Nat) (e : Int) : FRes :=
  if 6 ≤ e + (Nat.log2 m : Int) then (let r := f.round .rne neg (2 ^ 200 - 1) (-200) true
                                      (r.1, r.2 ||| fNX))
  else settle f 17 a 0 fun w =>
    let p := w + small m e + 256
    let (y, k) := eExp p (eOf p (2 * m) e)
    let y := eShift y k
    roundEncl f neg p 0 (eDiv p (eSub y (eOne p)) (eAdd y (eOne p)))

/-- erf x: beyond 8 it lies within 2^-90 of 1. -/
def mathErf (f : FSpec) (a : Nat) (neg : Bool) (m : Nat) (e : Int) : FRes :=
  if 3 ≤ e + (Nat.log2 m : Int) then (let r := f.round .rne neg (2 ^ 200 - 1) (-200) true
                                      (r.1, r.2 ||| fNX))
  else settle f 21 a 0 fun w =>
    let p := w + small m e + 256
    let x := eOf p m e
    let t := eMul p x x
    let (g, k) := eExp p (eNeg t)
    let series := erfSeries p (eTimes 2 t) (2 * p + 200) 0
    let v := eMul p (eMul p x (eShift g k)) series
    roundEncl f neg p 1 (eDiv p v (eSqrt p (ePi p)))
where
  /-- Sum over n of (2 x^2)^n / (1 * 3 * ... * (2 n + 1)), a positive series. -/
  erfSeries (p : Nat) (t : Encl) (n k : Nat) : Encl := match n with
    | 0 => eOne p
    | n + 1 => eAdd (eOne p) (eOver (eMul p t (erfSeries p t n (k + 1))) (2 * k + 3))

/-- Cube root: the integer root, bit by bit from bit k - 1 down. -/
def icbrtFrom (n : Nat) (k acc : Nat) : Nat := match k with
  | 0 => acc
  | k + 1 => icbrtFrom n k (if (acc + 2 ^ k) ^ 3 ≤ n then acc + 2 ^ k else acc)

/-- cbrt x, exact or rounded with what is left below. -/
def mathCbrt (f : FSpec) (neg : Bool) (m : Nat) (e : Int) : FRes :=
  let k := 3 * (f.fbits + 4) + (e % 3).toNat
  let n := m * 2 ^ k
  let x := icbrtFrom n (Nat.log2 n / 3 + 1) 0
  f.round .rne neg x ((e - (k : Int)) / 3) (x ^ 3 != n)

/-- hypot of finite operands, not both zero: the root of the exact sum of squares. -/
def mathHypot (f : FSpec) (ma : Nat) (ea : Int) (mb : Nat) (eb : Int) : FRes :=
  let e := min ea eb
  let x := ma * 2 ^ (ea - e).toNat
  let y := mb * 2 ^ (eb - e).toNat
  let (r, q, st) := sqrtParts (x * x + y * y) (2 * e) (f.fbits + 4)
  f.round .rne false r q st

/-- The exact 2^-j-th root of an odd number, when it has one, for j up to 6. -/
def exactRoot (j : Nat) (m : Nat) : Option Nat := match j with
  | 0 => some m
  | j + 1 => let r := isqrt m
             if r * r = m then exactRoot j r else none

/-- x^y exactly, when x is a positive dyadic number and the power is a dyadic number of at most 64 odd bits. -/
def powExact (m : Nat) (e : Int) (ny : Bool) (my : Nat) (ey : Int) : Option (Nat × Int) :=
  let (o, k) := oddPart 60 m e
  let (n, j) := oddPart 60 my ey
  let down := (-j).toNat
  if o = 1 then
    (let t := k * (n : Int) * (if 0 ≤ j then (2 : Int) ^ (min j 40).toNat else 1)
     if t % (2 : Int) ^ down = 0 then some (1, (if ny then -1 else 1) * (t / (2 : Int) ^ down)) else none)
  else if ny || decide (6 < down) || decide (k % (2 : Int) ^ down ≠ 0) || decide (6 < j) then none
  else match exactRoot down o with
    | none => none
    | some r =>
      let y := n * 2 ^ j.toNat
      if 64 < y || 64 < Nat.log2 r * y then none
      else some (r ^ y, k / (2 : Int) ^ down * (y : Int))

/-- |x|^y for finite nonzero |x| ≠ 1 and y, with a sign. -/
def mathPow (f : FSpec) (a b : Nat) (neg : Bool) (m : Nat) (e : Int) (ny : Bool) (my : Nat) (ey : Int) : FRes :=
  let big := f.round .rne neg 1 20000 true
  let tinyR := f.round .rne neg 1 (-20000) true
  let less := decide (e + (Nat.log2 m : Int) < 0)
  match powExact m e ny my ey with
  | some (v, k) => if 20000 < k.natAbs then (if k < 0 then (tinyR.1, tinyR.2 ||| fNX) else (big.1, big.2 ||| fNX))
                   else f.round .rne neg v k false
  | none =>
    if 80 ≤ ey + (Nat.log2 my : Int) then
      (if less = ny then (big.1, big.2 ||| fNX) else (tinyR.1, tinyR.2 ||| fNX))
    else settle f 18 a b fun w =>
      let p := w + 192
      let l := eLog p m e
      let t := eMul p l (eOf p (signed ny my) ey)
      if (2 : Int) ^ (p + 14) < t.1 then some (big.1, big.2 ||| fNX)
      else if t.2 < -(2 : Int) ^ (p + 14) then some (tinyR.1, tinyR.2 ||| fNX)
      else
        let (v, k) := eExp p t
        roundEncl f neg p k v

/-! ### Special operands (R287) and the instructions -/

/-- A one-operand function: NaN operands, then infinities and zeros as its row gives, then finite operands. -/
def math1 (f : FSpec) (a : Nat) (onInf : Bool → FRes) (onZero : Bool → FRes) (g : Bool → Nat → Int → FRes) : FRes :=
  match f.val a with
  | .nan s => f.deliver .rne (.nan s)
  | .inf n => onInf n
  | .fin n m e => if m = 0 then onZero n else g n m e

/-- 1.0. -/
def FSpec.one (f : FSpec) (neg : Bool) : Nat := f.signBit neg + f.bias * 2 ^ f.fbits
/-- An invalid operation. -/
def FSpec.invalid (f : FSpec) : FRes := (f.nan, fNV)

/-- The logarithms' special operands. -/
def logLike (f : FSpec) (a : Nat) (g : Nat → Int → FRes) : FRes :=
  math1 f a (fun n => if n then f.invalid else (f.inf false, 0)) (fun _ => (f.inf true, fDZ))
    fun n m e => if n then f.invalid else g m e

/-- |x| > 1 for a finite value. -/
def aboveOne (m : Nat) (e : Int) : Bool := if 0 ≤ e then decide (1 < m * 2 ^ e.toNat) else decide (2 ^ (-e).toNat < m)
/-- |x| = 1. -/
def isOne (m : Nat) (e : Int) : Bool := if 0 ≤ e then decide (m * 2 ^ e.toNat = 1) else decide (m = 2 ^ (-e).toNat)

/-- ATAN2 of two encodings, y then x (clause 9.2.1 and R287). -/
def atan2Of (f : FSpec) (a b : Nat) : FRes :=
  match nanOf (f.val a) (f.val b) with
  | some n => f.deliver .rne n
  | none => match f.val a, f.val b with
    | .inf n, .inf m => piQuarters f n (if m then 3 else 1)
    | .inf n, _ => piQuarters f n 2
    | .fin n _ _, .inf m =>
      if m then piQuarters f n 4 else (f.zero n, 0)
    | .fin n my ey, .fin nx mx ex =>
      if my = 0 then (if nx then piQuarters f n 4 else (f.zero n, 0))
      else if mx = 0 then piQuarters f n 2
      else mathAtan2 f a b n my ey nx mx ex
    | _, _ => f.invalid

/-- y is an odd integer; y is an integer. -/
def oddInt (m : Nat) (e : Int) : Bool := match intVal false m (min e 1) with
  | some v => v % 2 = 1 && decide (e ≤ 0)
  | none => false
/-- y is an integer. -/
def isInt (m : Nat) (e : Int) : Bool := decide (0 ≤ e) || m % 2 ^ (-e).toNat = 0

/-- POW of two encodings, x then y (clause 9.2.1 and R287). -/
def powOf (f : FSpec) (a b : Nat) : FRes :=
  let x := f.val a
  let y := f.val b
  if x = .nan true || y = .nan true then f.invalid
  else match x, y with
    | _, .fin _ 0 _ => (f.one false, 0)
    | .fin n m e, .nan s => if !n && isOne m e then (f.one false, 0) else f.deliver .rne (.nan s)
    | .nan s, _ => f.deliver .rne (.nan s)
    | _, .nan s => f.deliver .rne (.nan s)
    | .fin _ m e, .inf ny =>
      if m = 0 then (if ny then (f.inf false, 0) else (f.zero false, 0))
      else if isOne m e then (f.one false, 0)
      else if aboveOne m e = ny then (f.zero false, 0) else (f.inf false, 0)
    | .inf _, .inf ny => if ny then (f.zero false, 0) else (f.inf false, 0)
    | .inf n, .fin ny my ey =>
      let odd := n && oddInt my ey
      if ny then (f.zero odd, 0) else (f.inf odd, 0)
    | .fin n m e, .fin ny my ey =>
      if m = 0 then
        (let odd := n && oddInt my ey
         if ny then (f.inf odd, fDZ) else (f.zero odd, 0))
      else if n && !(isInt my ey) then f.invalid
      else
        let neg := n && oddInt my ey
        if isOne m e then (f.one neg, 0) else mathPow f a b neg m e ny my ey

/-- HYPOT of two encodings: an infinity wins over a quiet NaN. -/
def hypotOf (f : FSpec) (a b : Nat) : FRes :=
  let x := f.val a
  let y := f.val b
  if x = .nan true || y = .nan true then f.invalid
  else match x, y with
    | .inf _, _ => (f.inf false, 0)
    | _, .inf _ => (f.inf false, 0)
    | .fin _ ma ea, .fin _ mb eb =>
      if ma = 0 && mb = 0 then (f.zero false, 0) else mathHypot f ma ea mb eb
    | _, _ => (f.nan, 0)

/-- The format of a VMATH type. -/
def mathSpec (f32 : Bool) : FSpec := if f32 then specF32 else specF64

/-- A one-operand VMATH: k32 or k64 turns (R287). -/
def vmath1 (s : State) (d a m : Nat) (f32 : Bool) (k32 k64 : Nat) (g : FSpec → Nat → FRes) :
    Host.Outcome State Fault Refusal :=
  let w := if f32 then 32 else 64
  lanewise s [a] d m w (if f32 then k32 else k64) fun c sl i => g (mathSpec f32) (lane (s.reg c sl a) i w)

/-- A two-operand VMATH. -/
def vmath2 (s : State) (d a b m : Nat) (f32 : Bool) (k32 k64 : Nat) (g : FSpec → Nat → Nat → FRes) :
    Host.Outcome State Fault Refusal :=
  let w := if f32 then 32 else 64
  lanewise s [a, b] d m w (if f32 then k32 else k64) fun c sl i =>
    g (mathSpec f32) (lane (s.reg c sl a) i w) (lane (s.reg c sl b) i w)

/-- VMATH.EXP (R287). -/
def execVmathExp (d a : Nat) (f32 : Bool) (m : Nat) (s : State) : Host.Outcome State Fault Refusal :=
  vmath1 s d a m f32 4 6 fun f x => math1 f x (fun n => if n then (f.zero false, 0) else (f.inf false, 0)) (fun _ => (f.one false, 0)) (mathExp f x)

/-- VMATH.EXP2 (R287). -/
def execVmathExp2 (d a : Nat) (f32 : Bool) (m : Nat) (s : State) : Host.Outcome State Fault Refusal :=
  vmath1 s d a m f32 3 5 fun f x => math1 f x (fun n => if n then (f.zero false, 0) else (f.inf false, 0)) (fun _ => (f.one false, 0)) (mathExp2 f x)

/-- VMATH.EXP10 (R287). -/
def execVmathExp10 (d a : Nat) (f32 : Bool) (m : Nat) (s : State) : Host.Outcome State Fault Refusal :=
  vmath1 s d a m f32 4 6 fun f x => math1 f x (fun n => if n then (f.zero false, 0) else (f.inf false, 0)) (fun _ => (f.one false, 0)) (mathExp10 f x)

/-- VMATH.EXPM1 (R287). -/
def execVmathExpm1 (d a : Nat) (f32 : Bool) (m : Nat) (s : State) : Host.Outcome State Fault Refusal :=
  vmath1 s d a m f32 4 6 fun f x => math1 f x (fun n => if n then (f.one true, 0) else (f.inf false, 0)) (fun n => (f.zero n, 0)) (mathExpm1 f x)

/-- VMATH.LOG (R287). -/
def execVmathLog (d a : Nat) (f32 : Bool) (m : Nat) (s : State) : Host.Outcome State Fault Refusal :=
  vmath1 s d a m f32 4 6 fun f x => logLike f x (mathLog f x)

/-- VMATH.LOG2 (R287). -/
def execVmathLog2 (d a : Nat) (f32 : Bool) (m : Nat) (s : State) : Host.Outcome State Fault Refusal :=
  vmath1 s d a m f32 3 5 fun f x => logLike f x (mathLog2 f x)

/-- VMATH.LOG10 (R287). -/
def execVmathLog10 (d a : Nat) (f32 : Bool) (m : Nat) (s : State) : Host.Outcome State Fault Refusal :=
  vmath1 s d a m f32 4 6 fun f x => logLike f x (mathLog10 f x)

/-- VMATH.LOG1P (R287). -/
def execVmathLog1p (d a : Nat) (f32 : Bool) (m : Nat) (s : State) : Host.Outcome State Fault Refusal :=
  vmath1 s d a m f32 4 6 fun f x => math1 f x (fun n => if n then f.invalid else (f.inf false, 0)) (fun n => (f.zero n, 0))
    fun n m e => if n && isOne m e then (f.inf true, fDZ) else if n && aboveOne m e then f.invalid else mathLog1p f x n m e

/-- VMATH.SIN (R287). -/
def execVmathSin (d a : Nat) (f32 : Bool) (m : Nat) (s : State) : Host.Outcome State Fault Refusal :=
  vmath1 s d a m f32 5 8 fun f x => math1 f x (fun _ => f.invalid) (fun n => (f.zero n, 0)) fun n m e => mathTrig f 8 x n m e fun _ sc => sc.1

/-- VMATH.COS (R287). -/
def execVmathCos (d a : Nat) (f32 : Bool) (m : Nat) (s : State) : Host.Outcome State Fault Refusal :=
  vmath1 s d a m f32 5 8 fun f x => math1 f x (fun _ => f.invalid) (fun _ => (f.one false, 0)) fun n m e => mathTrig f 9 x n m e fun _ sc => sc.2

/-- VMATH.TAN (R287). -/
def execVmathTan (d a : Nat) (f32 : Bool) (m : Nat) (s : State) : Host.Outcome State Fault Refusal :=
  vmath1 s d a m f32 6 9 fun f x => math1 f x (fun _ => f.invalid) (fun n => (f.zero n, 0)) fun n m e => mathTrig f 10 x n m e eTan

/-- VMATH.ASIN (R287). -/
def execVmathAsin (d a : Nat) (f32 : Bool) (m : Nat) (s : State) : Host.Outcome State Fault Refusal :=
  vmath1 s d a m f32 6 9 fun f x => math1 f x (fun _ => f.invalid) (fun n => (f.zero n, 0)) fun n m e =>
    if aboveOne m e then f.invalid else if isOne m e then piQuarters f n 2 else mathAsin f x n m e

/-- VMATH.ACOS (R287). -/
def execVmathAcos (d a : Nat) (f32 : Bool) (m : Nat) (s : State) : Host.Outcome State Fault Refusal :=
  vmath1 s d a m f32 6 9 fun f x => math1 f x (fun _ => f.invalid) (fun _ => piQuarters f false 2) fun n m e =>
    if aboveOne m e then f.invalid else if isOne m e then (if n then piQuarters f false 4 else (f.zero false, 0)) else mathAcos f x n m e

/-- VMATH.ATAN (R287). -/
def execVmathAtan (d a : Nat) (f32 : Bool) (m : Nat) (s : State) : Host.Outcome State Fault Refusal :=
  vmath1 s d a m f32 5 8 fun f x => math1 f x (fun n => piQuarters f n 2) (fun n => (f.zero n, 0)) (mathAtan f x)

/-- VMATH.SINH (R287). -/
def execVmathSinh (d a : Nat) (f32 : Bool) (m : Nat) (s : State) : Host.Outcome State Fault Refusal :=
  vmath1 s d a m f32 5 7 fun f x => math1 f x (fun n => (f.inf n, 0)) (fun n => (f.zero n, 0)) (mathSinh f x)

/-- VMATH.COSH (R287). -/
def execVmathCosh (d a : Nat) (f32 : Bool) (m : Nat) (s : State) : Host.Outcome State Fault Refusal :=
  vmath1 s d a m f32 5 7 fun f x => math1 f x (fun _ => (f.inf false, 0)) (fun _ => (f.one false, 0)) fun _ m e => mathCosh f x m e

/-- VMATH.TANH (R287). -/
def execVmathTanh (d a : Nat) (f32 : Bool) (m : Nat) (s : State) : Host.Outcome State Fault Refusal :=
  vmath1 s d a m f32 5 7 fun f x => math1 f x (fun n => (f.one n, 0)) (fun n => (f.zero n, 0)) (mathTanh f x)

/-- VMATH.CBRT (R287). -/
def execVmathCbrt (d a : Nat) (f32 : Bool) (m : Nat) (s : State) : Host.Outcome State Fault Refusal :=
  vmath1 s d a m f32 4 6 fun f x => math1 f x (fun n => (f.inf n, 0)) (fun n => (f.zero n, 0)) (mathCbrt f)

/-- VMATH.ERF (R287). -/
def execVmathErf (d a : Nat) (f32 : Bool) (m : Nat) (s : State) : Host.Outcome State Fault Refusal :=
  vmath1 s d a m f32 6 9 fun f x => math1 f x (fun n => (f.one n, 0)) (fun n => (f.zero n, 0)) (mathErf f x)

/-- VMATH.ATAN2 (R287). -/
def execVmathAtan2 (d a b : Nat) (f32 : Bool) (m : Nat) (s : State) : Host.Outcome State Fault Refusal :=
  vmath2 s d a b m f32 6 10 atan2Of

/-- VMATH.POW (R287). -/
def execVmathPow (d a b : Nat) (f32 : Bool) (m : Nat) (s : State) : Host.Outcome State Fault Refusal :=
  vmath2 s d a b m f32 8 12 powOf

/-- VMATH.HYPOT (R287). -/
def execVmathHypot (d a b : Nat) (f32 : Bool) (m : Nat) (s : State) : Host.Outcome State Fault Refusal :=
  vmath2 s d a b m f32 3 4 hypotOf

end Sys2Proof.Machine
end

