-- ==== Sys2Proof/Machine/Scalar.lean ====
section
/-!
DEFINITION. The scalar and control instructions of 07_issue: branches and jumps (R166, R167), integer operations (R168
to R175), and SYSQ (R188 to R190). Each reads the low 64 bits of its sources and writes its result under R165.
-/
namespace Sys2Proof.Machine

open Sys2Proof

/-! ### Branches and jumps -/

/-- The target of a branch (R29), as an integer: line plus 64 * delta plus 2 * index. -/
def branchTarget (pc : Word) (delta : Int) (index : Nat) : Int := (lineOf pc.toNat : Int) + 64 * delta + 2 * (index : Int)

/-- Go to a computed target, or trap PAGE when it lies outside 0 to 2^48 - 1 (R29); the link, if any, is written after
the check and before control moves (R30). -/
def goTarget (s : State) (c sl : Nat) (t : Int) (link : Option Nat) : State :=
  if t < 0 || (2 : Int) ^ 48 ≤ t then s.trap c sl .page (wordOf t)
  else
    let s1 := match link with
      | none => s
      | some d => s.put c sl d (s.thread c sl).nextPc
    (s1.onThread c sl fun th => { th with entering := false }).jumpTo c sl (wordOf t)

/-- BR (R166): the target is computed, and its traps raised, only when the branch is taken. -/
def branch (s : State) (a : Nat) (delta : Int) (index : Nat) (holds : Int → Bool) : Host.Outcome State Fault Refusal :=
  guarded s false [a] [] fun c sl =>
    if holds (s.reg64 c sl a).toInt then goTarget s c sl (branchTarget (s.thread c sl).pc delta index) none
    else s.finish c sl

/-- BR.EQZ (R166): branch when g[a] equals zero. -/
def execBrEqz (a : Nat) (delta : Int) (index : Nat) (s : State) : Host.Outcome State Fault Refusal :=
  branch s a delta index fun x => decide (x = 0)

/-- BR.NEZ (R166): branch when g[a] differs from zero. -/
def execBrNez (a : Nat) (delta : Int) (index : Nat) (s : State) : Host.Outcome State Fault Refusal :=
  branch s a delta index fun x => decide (x ≠ 0)

/-- BR.LTZ (R166): branch when g[a] is negative. -/
def execBrLtz (a : Nat) (delta : Int) (index : Nat) (s : State) : Host.Outcome State Fault Refusal :=
  branch s a delta index fun x => decide (x < 0)

/-- BR.GEZ (R166): branch when g[a] is not negative. -/
def execBrGez (a : Nat) (delta : Int) (index : Nat) (s : State) : Host.Outcome State Fault Refusal :=
  branch s a delta index fun x => decide (0 ≤ x)

/-- BR.GTZ (R166): branch when g[a] is positive. -/
def execBrGtz (a : Nat) (delta : Int) (index : Nat) (s : State) : Host.Outcome State Fault Refusal :=
  branch s a delta index fun x => decide (0 < x)

/-- BR.LEZ (R166): branch when g[a] is not positive. -/
def execBrLez (a : Nat) (delta : Int) (index : Nat) (s : State) : Host.Outcome State Fault Refusal :=
  branch s a delta index fun x => decide (x ≤ 0)

/-- JMP (R167). -/
def execJmp (d : Nat) (delta : Int) (index : Nat) (s : State) : Host.Outcome State Fault Refusal :=
  guarded s false [d] [d] fun c sl => goTarget s c sl (branchTarget (s.thread c sl).pc delta index) (some d)

/-- JR (R167, R30): the target is read, then checked, before the link is written. -/
def execJr (d a : Nat) (s : State) : Host.Outcome State Fault Refusal :=
  guarded s false [d, a] [d] fun c sl =>
    let t := s.reg64 c sl a
    if t.toNat % 2 = 1 || headOf t.toNat = 0 then s.trap c sl .misalign t
    else if 2 ^ 48 ≤ t.toNat then s.trap c sl .page t
    else ((s.put c sl d (s.thread c sl).nextPc).onThread c sl fun th => { th with entering := false }).jumpTo c sl t

/-! ### Integer operations (R169) -/

/-- A two-operand operation on the low 64 bits, in one turn unless k says otherwise (R164). -/
def binary (s : State) (d a b k : Nat) (op : Word → Word → Word) : Host.Outcome State Fault Refusal :=
  scalar s [a, b] d k fun c sl => op (s.reg64 c sl a) (s.reg64 c sl b)

/-- A one-operand operation. -/
def unary (s : State) (d a : Nat) (op : Word → Word) : Host.Outcome State Fault Refusal :=
  scalar s [a] d 1 fun c sl => op (s.reg64 c sl a)

/-- The shift amount y[5:0]. -/
def amount (y : Word) : Nat := y.toNat % 64
/-- Rotate left. -/
def rol (x : Word) (n : Nat) : Word := if n % 64 = 0 then x else (x <<< (n % 64)) ||| (x >>> (64 - n % 64))
/-- DIV: signed, toward zero; -1 on a zero divisor. -/
def divS (x y : Word) : Word := if y = 0 then -1 else wordOf (x.toInt.tdiv y.toInt)
/-- DIVN: unsigned; all ones on a zero divisor. -/
def divU (x y : Word) : Word := if y = 0 then -1 else BitVec.ofNat 64 (x.toNat / y.toNat)
/-- REM: the remainder has the sign of the dividend; the dividend on a zero divisor. -/
def remS (x y : Word) : Word := if y = 0 then x else wordOf (x.toInt.tmod y.toInt)
/-- REMN. -/
def remU (x y : Word) : Word := if y = 0 then x else BitVec.ofNat 64 (x.toNat % y.toNat)
/-- Number of one bits below n. -/
def popc (x n : Nat) : Nat := (setBits x n).length
/-- Leading zero bits of a word. -/
def clz (x : Word) : Nat := ((List.range 64).takeWhile fun i => !(bit x.toNat (63 - i))).length
/-- Trailing zero bits of a word. -/
def ctz (x : Word) : Nat := ((List.range 64).takeWhile fun i => !(bit x.toNat i)).length
/-- The bits in reverse order. -/
def brev (x : Word) : Word := BitVec.ofNat 64 ((List.range 64).foldl (fun r i => 2 * r + (bit x.toNat i).toNat) 0)
/-- The bytes in reverse order. -/
def bswap (x : Word) : Word := BitVec.ofNat 64 (ofBytes (toBytes 8 x.toNat).reverse)
/-- A 32-bit result, sign-extended. -/
def word32 (v : Word) : Word := wordOf (sext v.toNat 32)
/-- The smaller of two signed words. -/
def minS (x y : Word) : Word := if x.toInt ≤ y.toInt then x else y
/-- The larger of two signed words. -/
def maxS (x y : Word) : Word := if x.toInt ≤ y.toInt then y else x
/-- The smaller of two unsigned words. -/
def minU (x y : Word) : Word := if x.toNat ≤ y.toNat then x else y
/-- The larger of two unsigned words. -/
def maxU (x y : Word) : Word := if x.toNat ≤ y.toNat then y else x
/-- The signed high half of a product. -/
def mulhS (x y : Word) : Word := wordOf (x.toInt * y.toInt / (2 : Int) ^ 64)
/-- The unsigned high half of a product. -/
def mulhU (x y : Word) : Word := BitVec.ofNat 64 (x.toNat * y.toNat / 2 ^ 64)
/-- Shift left by y[5:0]. -/
def shlW (x y : Word) : Word := x <<< amount y
/-- Logical shift right by y[5:0]. -/
def shrW (x y : Word) : Word := x >>> amount y
/-- Arithmetic shift right by y[5:0]. -/
def sarW (x y : Word) : Word := x.sshiftRight (amount y)
/-- A truth value as 1 or 0. -/
def truth (b : Bool) : Word := if b then 1 else 0

/-- ALU.ADD (R169), 1 turn (R164). -/
def execAluAdd (d a b : Nat) (s : State) : Host.Outcome State Fault Refusal :=
  binary s d a b 1 fun x y => x + y

/-- ALU.SUB (R169), 1 turn (R164). -/
def execAluSub (d a b : Nat) (s : State) : Host.Outcome State Fault Refusal :=
  binary s d a b 1 fun x y => x - y

/-- ALU.AND (R169), 1 turn (R164). -/
def execAluAnd (d a b : Nat) (s : State) : Host.Outcome State Fault Refusal :=
  binary s d a b 1 fun x y => x &&& y

/-- ALU.OR (R169), 1 turn (R164). -/
def execAluOr (d a b : Nat) (s : State) : Host.Outcome State Fault Refusal :=
  binary s d a b 1 fun x y => x ||| y

/-- ALU.XOR (R169), 1 turn (R164). -/
def execAluXor (d a b : Nat) (s : State) : Host.Outcome State Fault Refusal :=
  binary s d a b 1 fun x y => x ^^^ y

/-- ALU.ANDN (R169), 1 turn (R164). -/
def execAluAndn (d a b : Nat) (s : State) : Host.Outcome State Fault Refusal :=
  binary s d a b 1 fun x y => x &&& ~~~y

/-- ALU.SHL (R169), 1 turn (R164). -/
def execAluShl (d a b : Nat) (s : State) : Host.Outcome State Fault Refusal :=
  binary s d a b 1 fun x y => shlW x y

/-- ALU.SHR (R169), 1 turn (R164). -/
def execAluShr (d a b : Nat) (s : State) : Host.Outcome State Fault Refusal :=
  binary s d a b 1 fun x y => shrW x y

/-- ALU.SAR (R169), 1 turn (R164). -/
def execAluSar (d a b : Nat) (s : State) : Host.Outcome State Fault Refusal :=
  binary s d a b 1 fun x y => sarW x y

/-- ALU.ROL (R169), 1 turn (R164). -/
def execAluRol (d a b : Nat) (s : State) : Host.Outcome State Fault Refusal :=
  binary s d a b 1 fun x y => rol x (amount y)

/-- ALU.MIN (R169), 1 turn (R164). -/
def execAluMin (d a b : Nat) (s : State) : Host.Outcome State Fault Refusal :=
  binary s d a b 1 fun x y => minS x y

/-- ALU.MAX (R169), 1 turn (R164). -/
def execAluMax (d a b : Nat) (s : State) : Host.Outcome State Fault Refusal :=
  binary s d a b 1 fun x y => maxS x y

/-- ALU.MINN (R169), 1 turn (R164). -/
def execAluMinn (d a b : Nat) (s : State) : Host.Outcome State Fault Refusal :=
  binary s d a b 1 fun x y => minU x y

/-- ALU.MAXN (R169), 1 turn (R164). -/
def execAluMaxn (d a b : Nat) (s : State) : Host.Outcome State Fault Refusal :=
  binary s d a b 1 fun x y => maxU x y

/-- ALU.MUL (R169), 1 turn (R164). -/
def execAluMul (d a b : Nat) (s : State) : Host.Outcome State Fault Refusal :=
  binary s d a b 1 fun x y => x * y

/-- ALU.MULH (R169), 1 turn (R164). -/
def execAluMulh (d a b : Nat) (s : State) : Host.Outcome State Fault Refusal :=
  binary s d a b 1 fun x y => mulhS x y

/-- ALU.MULHN (R169), 1 turn (R164). -/
def execAluMulhn (d a b : Nat) (s : State) : Host.Outcome State Fault Refusal :=
  binary s d a b 1 fun x y => mulhU x y

/-- ALU.DIV (R169), 3 turns (R164). -/
def execAluDiv (d a b : Nat) (s : State) : Host.Outcome State Fault Refusal :=
  binary s d a b 3 fun x y => divS x y

/-- ALU.DIVN (R169), 3 turns (R164). -/
def execAluDivn (d a b : Nat) (s : State) : Host.Outcome State Fault Refusal :=
  binary s d a b 3 fun x y => divU x y

/-- ALU.REM (R169), 3 turns (R164). -/
def execAluRem (d a b : Nat) (s : State) : Host.Outcome State Fault Refusal :=
  binary s d a b 3 fun x y => remS x y

/-- ALU.REMN (R169), 3 turns (R164). -/
def execAluRemn (d a b : Nat) (s : State) : Host.Outcome State Fault Refusal :=
  binary s d a b 3 fun x y => remU x y

/-- ALU.CLZ (R169). -/
def execAluClz (d a : Nat) (s : State) : Host.Outcome State Fault Refusal :=
  unary s d a fun x => BitVec.ofNat 64 (clz x)

/-- ALU.CTZ (R169). -/
def execAluCtz (d a : Nat) (s : State) : Host.Outcome State Fault Refusal :=
  unary s d a fun x => BitVec.ofNat 64 (ctz x)

/-- ALU.POPC (R169). -/
def execAluPopc (d a : Nat) (s : State) : Host.Outcome State Fault Refusal :=
  unary s d a fun x => BitVec.ofNat 64 (popc x.toNat 64)

/-- ALU.BREV (R169). -/
def execAluBrev (d a : Nat) (s : State) : Host.Outcome State Fault Refusal :=
  unary s d a fun x => brev x

/-- ALU.BSWAP (R169). -/
def execAluBswap (d a : Nat) (s : State) : Host.Outcome State Fault Refusal :=
  unary s d a fun x => bswap x

/-- ALU.SEL (R169): x when z differs from zero, else y. -/
def execAluSel (d a b c : Nat) (s : State) : Host.Outcome State Fault Refusal :=
  scalar s [a, b, c] d 1 fun k sl => if s.reg64 k sl c ≠ 0 then s.reg64 k sl a else s.reg64 k sl b

/-- ALU.ADDW (R169). -/
def execAluAddw (d a b : Nat) (s : State) : Host.Outcome State Fault Refusal :=
  binary s d a b 1 fun x y => word32 (x + y)

/-- ALU.SUBW (R169). -/
def execAluSubw (d a b : Nat) (s : State) : Host.Outcome State Fault Refusal :=
  binary s d a b 1 fun x y => word32 (x - y)

/-- ALU.MULW (R169). -/
def execAluMulw (d a b : Nat) (s : State) : Host.Outcome State Fault Refusal :=
  binary s d a b 1 fun x y => word32 (x * y)

/-- ALUQ.ADD (R170): as the ALU operation of the name. -/
def execAluqAdd (d a b : Nat) (s : State) : Host.Outcome State Fault Refusal :=
  binary s d a b 1 fun x y => x + y

/-- ALUQ.SUB (R170): as the ALU operation of the name. -/
def execAluqSub (d a b : Nat) (s : State) : Host.Outcome State Fault Refusal :=
  binary s d a b 1 fun x y => x - y

/-- ALUQ.AND (R170): as the ALU operation of the name. -/
def execAluqAnd (d a b : Nat) (s : State) : Host.Outcome State Fault Refusal :=
  binary s d a b 1 fun x y => x &&& y

/-- ALUQ.OR (R170): as the ALU operation of the name. -/
def execAluqOr (d a b : Nat) (s : State) : Host.Outcome State Fault Refusal :=
  binary s d a b 1 fun x y => x ||| y

/-- ADDI (R171): the immediate is already sign-extended. -/
def execAddi (d a : Nat) (k : Int) (s : State) : Host.Outcome State Fault Refusal :=
  unary s d a fun x => x + wordOf k

/-- A 32-bit immediate, sign-extended. -/
def imm32 (k : Nat) : Word := wordOf (sext k 32)

/-- LI.S32 (R171). -/
def execLiS32 (d k : Nat) (s : State) : Host.Outcome State Fault Refusal := scalar s [] d 1 fun _ _ => imm32 k

/-- LI.Z32 (R171). -/
def execLiZ32 (d k : Nat) (s : State) : Host.Outcome State Fault Refusal :=
  scalar s [] d 1 fun _ _ => BitVec.ofNat 64 (k % 2 ^ 32)

/-- LI.HI (R171): the immediate above x[31:0]. -/
def execLiHi (d a k : Nat) (s : State) : Host.Outcome State Fault Refusal :=
  unary s d a fun x => BitVec.ofNat 64 (k % 2 ^ 32 * 2 ^ 32 + x.toNat % 2 ^ 32)

/-- LOGI.AND (R172). -/
def execLogiAnd (d a k : Nat) (s : State) : Host.Outcome State Fault Refusal := unary s d a fun x => x &&& imm32 k

/-- LOGI.OR (R172). -/
def execLogiOr (d a k : Nat) (s : State) : Host.Outcome State Fault Refusal := unary s d a fun x => x ||| imm32 k

/-- LOGI.XOR (R172). -/
def execLogiXor (d a k : Nat) (s : State) : Host.Outcome State Fault Refusal := unary s d a fun x => x ^^^ imm32 k

/-- A shift by an immediate amount (R172). -/
def shiftImm (kind : ShKind) (x : Word) (n : Nat) : Word := match kind with
  | .shl => x <<< (n % 64)
  | .shr => x >>> (n % 64)
  | .sar => x.sshiftRight (n % 64)
  | .rol => rol x n

/-- LOGI.SH (R172). -/
def execLogiSh (d a : Nat) (kind : ShKind) (n : Nat) (s : State) : Host.Outcome State Fault Refusal :=
  unary s d a fun x => shiftImm kind x n

/-- CMP.EQ (R173). -/
def execCmpEq (d a b : Nat) (s : State) : Host.Outcome State Fault Refusal :=
  binary s d a b 1 fun x y => truth (decide (x = y))

/-- CMP.NE (R173). -/
def execCmpNe (d a b : Nat) (s : State) : Host.Outcome State Fault Refusal :=
  binary s d a b 1 fun x y => truth (decide (x ≠ y))

/-- CMP.LT (R173). -/
def execCmpLt (d a b : Nat) (s : State) : Host.Outcome State Fault Refusal :=
  binary s d a b 1 fun x y => truth (decide (x.toInt < y.toInt))

/-- CMP.GE (R173). -/
def execCmpGe (d a b : Nat) (s : State) : Host.Outcome State Fault Refusal :=
  binary s d a b 1 fun x y => truth (decide (y.toInt ≤ x.toInt))

/-- CMP.LTN (R173). -/
def execCmpLtn (d a b : Nat) (s : State) : Host.Outcome State Fault Refusal :=
  binary s d a b 1 fun x y => truth (decide (x.toNat < y.toNat))

/-- CMP.GEN (R173). -/
def execCmpGen (d a b : Nat) (s : State) : Host.Outcome State Fault Refusal :=
  binary s d a b 1 fun x y => truth (decide (y.toNat ≤ x.toNat))

/-- The field of len bits at pos (R174), sign-extended when sx. -/
def extractField (x : Word) (pos len : Nat) (sx : Bool) : Word :=
  let v := x.toNat / 2 ^ pos % 2 ^ len
  if sx then wordOf (sext v len) else BitVec.ofNat 64 v

/-- y's low len bits placed at pos of x (R174). -/
def insertField (x y : Word) (pos len : Nat) : Word :=
  (x &&& ~~~(BitVec.ofNat 64 ((2 ^ len - 1) * 2 ^ pos))) ||| BitVec.ofNat 64 (y.toNat % 2 ^ len * 2 ^ pos)

/-- BIT.EXT (R174). -/
def execBitExt (d a pos len : Nat) (sx : Bool) (s : State) : Host.Outcome State Fault Refusal :=
  unary s d a fun x => extractField x pos len sx

/-- BIT.INS (R174). -/
def execBitIns (d a b pos len : Nat) (s : State) : Host.Outcome State Fault Refusal :=
  binary s d a b 1 fun x y => insertField x y pos len

/-- AGEN (R175): x plus y shifted left plus the displacement. -/
def execAgen (d a b : Nat) (disp : Int) (sh : Nat) (s : State) : Host.Outcome State Fault Refusal :=
  binary s d a b 1 fun x y => x + (y <<< sh) + wordOf disp

/-! ### SYSQ (R188) -/

/-- SYSQ.NOP: nothing but the PC. -/
def execSysqNop (s : State) : Host.Outcome State Fault Refusal := guarded s false [] [] fun c sl => s.finish c sl

/-- The end of a tiller is a release: its posted stores are performed first (R122). Any other thread ends at once. -/
def exitThread (s : State) (c sl : Nat) : State := match (s.thread c sl).tiller with
  | some _ => if s.endWaits (s.thread c sl) then s.stay c sl none else s.endThread c sl false
  | none => s.endThread c sl false

/-- SYSQ.EXIT (R189). -/
def execSysqExit (s : State) : Host.Outcome State Fault Refusal :=
  guarded s false [] [] fun c sl => exitThread s c sl

/-- SYSQ.ERET (R190). -/
def execSysqEret (s : State) : Host.Outcome State Fault Refusal := guarded s false [] [] fun c sl => s.eret c sl

end Sys2Proof.Machine
end

