-- ==== Sys2Proof/Machine/Dispatch.lean ====
section
/-! DEFINITION. The dispatch: one arm for each constructor of Instr, a direct call of its meaning. -/
namespace Sys2Proof.Machine

open Sys2Proof

def exec (i : Instr) (s : State) : Host.Outcome State Fault Refusal :=
  match i with
  | .brEqz a delta index => Sys2Proof.Machine.execBrEqz a delta index s
  | .brNez a delta index => Sys2Proof.Machine.execBrNez a delta index s
  | .brLtz a delta index => Sys2Proof.Machine.execBrLtz a delta index s
  | .brGez a delta index => Sys2Proof.Machine.execBrGez a delta index s
  | .brGtz a delta index => Sys2Proof.Machine.execBrGtz a delta index s
  | .brLez a delta index => Sys2Proof.Machine.execBrLez a delta index s
  | .jmp d delta index => Sys2Proof.Machine.execJmp d delta index s
  | .jr d a => Sys2Proof.Machine.execJr d a s
  | .csrRead d csr => Sys2Proof.Machine.execCsrRead d csr s
  | .csrWrite d a csr => Sys2Proof.Machine.execCsrWrite d a csr s
  | .csrSet d a csr => Sys2Proof.Machine.execCsrSet d a csr s
  | .csrClear d a csr => Sys2Proof.Machine.execCsrClear d a csr s
  | .sysTrap code => Sys2Proof.Machine.execSysTrap code s
  | .sysSvc code => Sys2Proof.Machine.execSysSvc code s
  | .sysIdle => Sys2Proof.Machine.execSysIdle s
  | .sysTlbinv a scope => Sys2Proof.Machine.execSysTlbinv a scope s
  | .sysSavectx a b => Sys2Proof.Machine.execSysSavectx a b s
  | .sysLoadctx a b => Sys2Proof.Machine.execSysLoadctx a b s
  | .sysScrub a => Sys2Proof.Machine.execSysScrub a s
  | .sysqNop => Sys2Proof.Machine.execSysqNop s
  | .sysqExit => Sys2Proof.Machine.execSysqExit s
  | .sysqEret => Sys2Proof.Machine.execSysqEret s
  | .aluAdd d a b => Sys2Proof.Machine.execAluAdd d a b s
  | .aluSub d a b => Sys2Proof.Machine.execAluSub d a b s
  | .aluAnd d a b => Sys2Proof.Machine.execAluAnd d a b s
  | .aluOr d a b => Sys2Proof.Machine.execAluOr d a b s
  | .aluXor d a b => Sys2Proof.Machine.execAluXor d a b s
  | .aluAndn d a b => Sys2Proof.Machine.execAluAndn d a b s
  | .aluShl d a b => Sys2Proof.Machine.execAluShl d a b s
  | .aluShr d a b => Sys2Proof.Machine.execAluShr d a b s
  | .aluSar d a b => Sys2Proof.Machine.execAluSar d a b s
  | .aluRol d a b => Sys2Proof.Machine.execAluRol d a b s
  | .aluMin d a b => Sys2Proof.Machine.execAluMin d a b s
  | .aluMax d a b => Sys2Proof.Machine.execAluMax d a b s
  | .aluMinn d a b => Sys2Proof.Machine.execAluMinn d a b s
  | .aluMaxn d a b => Sys2Proof.Machine.execAluMaxn d a b s
  | .aluMul d a b => Sys2Proof.Machine.execAluMul d a b s
  | .aluMulh d a b => Sys2Proof.Machine.execAluMulh d a b s
  | .aluMulhn d a b => Sys2Proof.Machine.execAluMulhn d a b s
  | .aluDiv d a b => Sys2Proof.Machine.execAluDiv d a b s
  | .aluDivn d a b => Sys2Proof.Machine.execAluDivn d a b s
  | .aluRem d a b => Sys2Proof.Machine.execAluRem d a b s
  | .aluRemn d a b => Sys2Proof.Machine.execAluRemn d a b s
  | .aluClz d a => Sys2Proof.Machine.execAluClz d a s
  | .aluCtz d a => Sys2Proof.Machine.execAluCtz d a s
  | .aluPopc d a => Sys2Proof.Machine.execAluPopc d a s
  | .aluBrev d a => Sys2Proof.Machine.execAluBrev d a s
  | .aluBswap d a => Sys2Proof.Machine.execAluBswap d a s
  | .aluSel d a b c => Sys2Proof.Machine.execAluSel d a b c s
  | .aluAddw d a b => Sys2Proof.Machine.execAluAddw d a b s
  | .aluSubw d a b => Sys2Proof.Machine.execAluSubw d a b s
  | .aluMulw d a b => Sys2Proof.Machine.execAluMulw d a b s
  | .aluqAdd d a b => Sys2Proof.Machine.execAluqAdd d a b s
  | .aluqSub d a b => Sys2Proof.Machine.execAluqSub d a b s
  | .aluqAnd d a b => Sys2Proof.Machine.execAluqAnd d a b s
  | .aluqOr d a b => Sys2Proof.Machine.execAluqOr d a b s
  | .addi d a k => Sys2Proof.Machine.execAddi d a k s
  | .liS32 d k => Sys2Proof.Machine.execLiS32 d k s
  | .liHi d a k => Sys2Proof.Machine.execLiHi d a k s
  | .liZ32 d k => Sys2Proof.Machine.execLiZ32 d k s
  | .logiAnd d a k => Sys2Proof.Machine.execLogiAnd d a k s
  | .logiOr d a k => Sys2Proof.Machine.execLogiOr d a k s
  | .logiXor d a k => Sys2Proof.Machine.execLogiXor d a k s
  | .logiSh d a kind n => Sys2Proof.Machine.execLogiSh d a kind n s
  | .cmpEq d a b => Sys2Proof.Machine.execCmpEq d a b s
  | .cmpNe d a b => Sys2Proof.Machine.execCmpNe d a b s
  | .cmpLt d a b => Sys2Proof.Machine.execCmpLt d a b s
  | .cmpGe d a b => Sys2Proof.Machine.execCmpGe d a b s
  | .cmpLtn d a b => Sys2Proof.Machine.execCmpLtn d a b s
  | .cmpGen d a b => Sys2Proof.Machine.execCmpGen d a b s
  | .bitExt d a pos len sx => Sys2Proof.Machine.execBitExt d a pos len sx s
  | .bitIns d a b pos len => Sys2Proof.Machine.execBitIns d a b pos len s
  | .agen d a b disp sh => Sys2Proof.Machine.execAgen d a b disp sh s
  | .sendTask busy a b count => Sys2Proof.Machine.execSendTask busy a b count s
  | .sendRemop busy a b count => Sys2Proof.Machine.execSendRemop busy a b count s
  | .chanBlock a => Sys2Proof.Machine.execChanBlock a s
  | .chanUnblock a => Sys2Proof.Machine.execChanUnblock a s
  | .chanQuery d a => Sys2Proof.Machine.execChanQuery d a s
  | .chanTtset a b => Sys2Proof.Machine.execChanTtset a b s
  | .spawn busy a b c pri park lim => Sys2Proof.Machine.execSpawn busy a b c pri park lim s
  | .freeze d a b => Sys2Proof.Machine.execFreeze d a b s
  | .joinWait d a => Sys2Proof.Machine.execJoinWait d a s
  | .joinTest d a => Sys2Proof.Machine.execJoinTest d a s
  | .migrGoto a => Sys2Proof.Machine.execMigrGoto a s
  | .migrHome d => Sys2Proof.Machine.execMigrHome d s
  | .ld d a b acq w mode off => Sys2Proof.Machine.execLd d a b acq w mode off s
  | .ldLast d h b acq w off => Sys2Proof.Machine.execLdLast d h b acq w off s
  | .st d a b rel w mode off => Sys2Proof.Machine.execSt d a b rel w mode off s
  | .ldm d a count mode off => Sys2Proof.Machine.execLdm d a count mode off s
  | .stm d a count mode off => Sys2Proof.Machine.execStm d a count mode off s
  | .sld d a space acq off count => Sys2Proof.Machine.execSld d a space acq off count s
  | .sst d a space rel off count => Sys2Proof.Machine.execSst d a space rel off count s
  | .amoAdd d a b w64 order scope spread => Sys2Proof.Machine.execAmoAdd d a b w64 order scope spread s
  | .amoAnd d a b w64 order scope spread => Sys2Proof.Machine.execAmoAnd d a b w64 order scope spread s
  | .amoOr d a b w64 order scope spread => Sys2Proof.Machine.execAmoOr d a b w64 order scope spread s
  | .amoXor d a b w64 order scope spread => Sys2Proof.Machine.execAmoXor d a b w64 order scope spread s
  | .amoMin d a b w64 order scope spread => Sys2Proof.Machine.execAmoMin d a b w64 order scope spread s
  | .amoMax d a b w64 order scope spread => Sys2Proof.Machine.execAmoMax d a b w64 order scope spread s
  | .amoMinn d a b w64 order scope spread => Sys2Proof.Machine.execAmoMinn d a b w64 order scope spread s
  | .amoMaxn d a b w64 order scope spread => Sys2Proof.Machine.execAmoMaxn d a b w64 order scope spread s
  | .amoSwap d a b w64 order scope spread => Sys2Proof.Machine.execAmoSwap d a b w64 order scope spread s
  | .amoCas d a b c w64 order scope spread => Sys2Proof.Machine.execAmoCas d a b c w64 order scope spread s
  | .amoFadd32 d a b order scope spread => Sys2Proof.Machine.execAmoFadd32 d a b order scope spread s
  | .amoFadd64 d a b order scope spread => Sys2Proof.Machine.execAmoFadd64 d a b order scope spread s
  | .ringInit a b h => Sys2Proof.Machine.execRingInit a b h s
  | .ringWfill h n => Sys2Proof.Machine.execRingWfill h n s
  | .ringWfree h n => Sys2Proof.Machine.execRingWfree h n s
  | .ringAcons h n => Sys2Proof.Machine.execRingAcons h n s
  | .ringAprod h n => Sys2Proof.Machine.execRingAprod h n s
  | .ringStat d h => Sys2Proof.Machine.execRingStat d h s
  | .waittAny free d a => Sys2Proof.Machine.execWaittAny free d a s
  | .waittAll free a => Sys2Proof.Machine.execWaittAll free a s
  | .waittFfr free d a => Sys2Proof.Machine.execWaittFfr free d a s
  | .waittClr free a => Sys2Proof.Machine.execWaittClr free a s
  | .waittTest free d a => Sys2Proof.Machine.execWaittTest free d a s
  | .cpq busy a b c e => Sys2Proof.Machine.execCpq busy a b c e s
  | .barInit a bar group => Sys2Proof.Machine.execBarInit a bar group s
  | .barArrive bar group => Sys2Proof.Machine.execBarArrive bar group s
  | .barWait bar group => Sys2Proof.Machine.execBarWait bar group s
  | .barSync bar group => Sys2Proof.Machine.execBarSync bar group s
  | .monArm a => Sys2Proof.Machine.execMonArm a s
  | .monWait d => Sys2Proof.Machine.execMonWait d s
  | .monDisarm => Sys2Proof.Machine.execMonDisarm s
  | .fenceFull scope => Sys2Proof.Machine.execFenceFull scope s
  | .fenceRelease scope => Sys2Proof.Machine.execFenceRelease scope s
  | .fenceAcquire scope => Sys2Proof.Machine.execFenceAcquire scope s
  | .fenceXpath scope => Sys2Proof.Machine.execFenceXpath scope s
  | .memopStag a b => Sys2Proof.Machine.execMemopStag a b s
  | .memopLtag d a => Sys2Proof.Machine.execMemopLtag d a s
  | .memopPin a b => Sys2Proof.Machine.execMemopPin a b s
  | .memopUnpin a b => Sys2Proof.Machine.execMemopUnpin a b s
  | .memopWbl a => Sys2Proof.Machine.execMemopWbl a s
  | .memopPf a => Sys2Proof.Machine.execMemopPf a s
  | .vfAdd d a b ty rnd m => Sys2Proof.Machine.execVfAdd d a b ty rnd m s
  | .vfSub d a b ty rnd m => Sys2Proof.Machine.execVfSub d a b ty rnd m s
  | .vfMul d a b ty rnd m => Sys2Proof.Machine.execVfMul d a b ty rnd m s
  | .vfDiv d a b ty rnd m => Sys2Proof.Machine.execVfDiv d a b ty rnd m s
  | .vfMin d a b ty m => Sys2Proof.Machine.execVfMin d a b ty m s
  | .vfMax d a b ty m => Sys2Proof.Machine.execVfMax d a b ty m s
  | .vfAbs d a ty m => Sys2Proof.Machine.execVfAbs d a ty m s
  | .vfNeg d a ty m => Sys2Proof.Machine.execVfNeg d a ty m s
  | .vfSqrt d a ty rnd m => Sys2Proof.Machine.execVfSqrt d a ty rnd m s
  | .vfRsqrt d a ty rnd m => Sys2Proof.Machine.execVfRsqrt d a ty rnd m s
  | .vfCopysign d a b ty m => Sys2Proof.Machine.execVfCopysign d a b ty m s
  | .vfMinnum d a b ty m => Sys2Proof.Machine.execVfMinnum d a b ty m s
  | .vfMaxnum d a b ty m => Sys2Proof.Machine.execVfMaxnum d a b ty m s
  | .vfmaFma d a b c ty rnd m => Sys2Proof.Machine.execVfmaFma d a b c ty rnd m s
  | .vfmaFms d a b c ty rnd m => Sys2Proof.Machine.execVfmaFms d a b c ty rnd m s
  | .vfmaFnma d a b c ty rnd m => Sys2Proof.Machine.execVfmaFnma d a b c ty rnd m s
  | .vfmaFnms d a b c ty rnd m => Sys2Proof.Machine.execVfmaFnms d a b c ty rnd m s
  | .viAdd d a b w m => Sys2Proof.Machine.execViAdd d a b w m s
  | .viSub d a b w m => Sys2Proof.Machine.execViSub d a b w m s
  | .viMul d a b w m => Sys2Proof.Machine.execViMul d a b w m s
  | .viMulh d a b w m => Sys2Proof.Machine.execViMulh d a b w m s
  | .viMulhn d a b w m => Sys2Proof.Machine.execViMulhn d a b w m s
  | .viAnd d a b w m => Sys2Proof.Machine.execViAnd d a b w m s
  | .viOr d a b w m => Sys2Proof.Machine.execViOr d a b w m s
  | .viXor d a b w m => Sys2Proof.Machine.execViXor d a b w m s
  | .viAndn d a b w m => Sys2Proof.Machine.execViAndn d a b w m s
  | .viShl d a b w m => Sys2Proof.Machine.execViShl d a b w m s
  | .viShr d a b w m => Sys2Proof.Machine.execViShr d a b w m s
  | .viSar d a b w m => Sys2Proof.Machine.execViSar d a b w m s
  | .viMin d a b w m => Sys2Proof.Machine.execViMin d a b w m s
  | .viMax d a b w m => Sys2Proof.Machine.execViMax d a b w m s
  | .viMinn d a b w m => Sys2Proof.Machine.execViMinn d a b w m s
  | .viMaxn d a b w m => Sys2Proof.Machine.execViMaxn d a b w m s
  | .viAddsat d a b w m => Sys2Proof.Machine.execViAddsat d a b w m s
  | .viSubsat d a b w m => Sys2Proof.Machine.execViSubsat d a b w m s
  | .viAddsatn d a b w m => Sys2Proof.Machine.execViAddsatn d a b w m s
  | .viSubsatn d a b w m => Sys2Proof.Machine.execViSubsatn d a b w m s
  | .viAbs d a w m => Sys2Proof.Machine.execViAbs d a w m s
  | .vcmpEq md a b ty m => Sys2Proof.Machine.execVcmpEq md a b ty m s
  | .vcmpNe md a b ty m => Sys2Proof.Machine.execVcmpNe md a b ty m s
  | .vcmpLt md a b ty m => Sys2Proof.Machine.execVcmpLt md a b ty m s
  | .vcmpLe md a b ty m => Sys2Proof.Machine.execVcmpLe md a b ty m s
  | .vcmpGt md a b ty m => Sys2Proof.Machine.execVcmpGt md a b ty m s
  | .vcmpGe md a b ty m => Sys2Proof.Machine.execVcmpGe md a b ty m s
  | .vcmpUnord md a b ty m => Sys2Proof.Machine.execVcmpUnord md a b ty m s
  | .vcmpLtn md a b w m => Sys2Proof.Machine.execVcmpLtn md a b w m s
  | .vcmpGen md a b w m => Sys2Proof.Machine.execVcmpGen md a b w m s
  | .vcvt d a src dst rnd m => Sys2Proof.Machine.execVcvt d a src dst rnd m s
  | .vmathExp d a f32 m => Sys2Proof.Machine.execVmathExp d a f32 m s
  | .vmathExp2 d a f32 m => Sys2Proof.Machine.execVmathExp2 d a f32 m s
  | .vmathExp10 d a f32 m => Sys2Proof.Machine.execVmathExp10 d a f32 m s
  | .vmathExpm1 d a f32 m => Sys2Proof.Machine.execVmathExpm1 d a f32 m s
  | .vmathLog d a f32 m => Sys2Proof.Machine.execVmathLog d a f32 m s
  | .vmathLog2 d a f32 m => Sys2Proof.Machine.execVmathLog2 d a f32 m s
  | .vmathLog10 d a f32 m => Sys2Proof.Machine.execVmathLog10 d a f32 m s
  | .vmathLog1p d a f32 m => Sys2Proof.Machine.execVmathLog1p d a f32 m s
  | .vmathSin d a f32 m => Sys2Proof.Machine.execVmathSin d a f32 m s
  | .vmathCos d a f32 m => Sys2Proof.Machine.execVmathCos d a f32 m s
  | .vmathTan d a f32 m => Sys2Proof.Machine.execVmathTan d a f32 m s
  | .vmathAsin d a f32 m => Sys2Proof.Machine.execVmathAsin d a f32 m s
  | .vmathAcos d a f32 m => Sys2Proof.Machine.execVmathAcos d a f32 m s
  | .vmathAtan d a f32 m => Sys2Proof.Machine.execVmathAtan d a f32 m s
  | .vmathAtan2 d a b f32 m => Sys2Proof.Machine.execVmathAtan2 d a b f32 m s
  | .vmathSinh d a f32 m => Sys2Proof.Machine.execVmathSinh d a f32 m s
  | .vmathCosh d a f32 m => Sys2Proof.Machine.execVmathCosh d a f32 m s
  | .vmathTanh d a f32 m => Sys2Proof.Machine.execVmathTanh d a f32 m s
  | .vmathPow d a b f32 m => Sys2Proof.Machine.execVmathPow d a b f32 m s
  | .vmathCbrt d a f32 m => Sys2Proof.Machine.execVmathCbrt d a f32 m s
  | .vmathHypot d a b f32 m => Sys2Proof.Machine.execVmathHypot d a b f32 m s
  | .vmathErf d a f32 m => Sys2Proof.Machine.execVmathErf d a f32 m s
  | .vredSum d a ty rnd m => Sys2Proof.Machine.execVredSum d a ty rnd m s
  | .vredSumx d a ty rnd m => Sys2Proof.Machine.execVredSumx d a ty rnd m s
  | .vredMin d a ty m => Sys2Proof.Machine.execVredMin d a ty m s
  | .vredMax d a ty m => Sys2Proof.Machine.execVredMax d a ty m s
  | .vredIsum d a w m => Sys2Proof.Machine.execVredIsum d a w m s
  | .vredAnd d a w m => Sys2Proof.Machine.execVredAnd d a w m s
  | .vredOr d a w m => Sys2Proof.Machine.execVredOr d a w m s
  | .vredXor d a w m => Sys2Proof.Machine.execVredXor d a w m s
  | .vpermBcast d a w c => Sys2Proof.Machine.execVpermBcast d a w c s
  | .vpermShuf d a b w => Sys2Proof.Machine.execVpermShuf d a b w s
  | .vpermRot d a w c => Sys2Proof.Machine.execVpermRot d a w c s
  | .vpermSlideup d a w c => Sys2Proof.Machine.execVpermSlideup d a w c s
  | .vpermSlidedn d a w c => Sys2Proof.Machine.execVpermSlidedn d a w c s
  | .vpermZiplo d a b w => Sys2Proof.Machine.execVpermZiplo d a b w s
  | .vpermZiphi d a b w => Sys2Proof.Machine.execVpermZiphi d a b w s
  | .vpermUnzipe d a b w => Sys2Proof.Machine.execVpermUnzipe d a b w s
  | .vpermUnzipo d a b w => Sys2Proof.Machine.execVpermUnzipo d a b w s
  | .vpermIns d a b w c => Sys2Proof.Machine.execVpermIns d a b w c s
  | .vpermExt d a w c => Sys2Proof.Machine.execVpermExt d a w c s
  | .vpermSel d a b w m => Sys2Proof.Machine.execVpermSel d a b w m s
  | .vld d a acq off mode stride => Sys2Proof.Machine.execVld d a acq off mode stride s
  | .vst d a rel off mode form => Sys2Proof.Machine.execVst d a rel off mode form s
  | .vgsGather d a b w mode m => Sys2Proof.Machine.execVgsGather d a b w mode m s
  | .vgsScatter d a b w mode m => Sys2Proof.Machine.execVgsScatter d a b w mode m s
  | .vplPlane d a pw => Sys2Proof.Machine.execVplPlane d a pw s
  | .vplUnplane d a pw => Sys2Proof.Machine.execVplUnplane d a pw s
  | .mxCtx busy a c e tag => Sys2Proof.Machine.execMxCtx busy a c e tag s
  | .mxMma busy a c e tag => Sys2Proof.Machine.execMxMma busy a c e tag s
  | .mxMmas busy a b c e tag => Sys2Proof.Machine.execMxMmas busy a b c e tag s
  | .mxZero busy a c e tag => Sys2Proof.Machine.execMxZero busy a c e tag s
  | .mxDrain busy a c e tag => Sys2Proof.Machine.execMxDrain busy a c e tag s
  | .mxLoadc busy a c e tag => Sys2Proof.Machine.execMxLoadc busy a c e tag s
  | .mxOrder busy a c e tag => Sys2Proof.Machine.execMxOrder busy a c e tag s
  | .skMul d a b group => Sys2Proof.Machine.execSkMul d a b group s
  | .skLink d group => Sys2Proof.Machine.execSkLink d group s
  | .resetInput => Sys2Proof.Machine.execResetInput s
  | .bootStage => Sys2Proof.Machine.execBootStage s
  | .islandBringUp => Sys2Proof.Machine.execIslandBringUp s
  | .islandFrequencyChange => Sys2Proof.Machine.execIslandFrequencyChange s
  | .arrival => Sys2Proof.Machine.execArrival s
  | .sendAnswer => Sys2Proof.Machine.execSendAnswer s
  | .sendRetransmit => Sys2Proof.Machine.execSendRetransmit s
  | .selection => Sys2Proof.Machine.execSelection s
  | .admission => Sys2Proof.Machine.execAdmission s
  | .remopAdmission => Sys2Proof.Machine.execRemopAdmission s
  | .stealRequest => Sys2Proof.Machine.execStealRequest s
  | .stealAnswer => Sys2Proof.Machine.execStealAnswer s
  | .stealReceive => Sys2Proof.Machine.execStealReceive s
  | .chanRemote => Sys2Proof.Machine.execChanRemote s
  | .dealerSendSheaf => Sys2Proof.Machine.execDealerSendSheaf s
  | .imageInstall => Sys2Proof.Machine.execImageInstall s
  | .imageFetch => Sys2Proof.Machine.execImageFetch s
  | .tillerAdmission => Sys2Proof.Machine.execTillerAdmission s
  | .joinDecrement => Sys2Proof.Machine.execJoinDecrement s
  | .crownRelease => Sys2Proof.Machine.execCrownRelease s
  | .bankMeeting => Sys2Proof.Machine.execBankMeeting s
  | .rosedata2Write => Sys2Proof.Machine.execRosedata2Write s
  | .outroseSelect => Sys2Proof.Machine.execOutroseSelect s
  | .outroseWrite => Sys2Proof.Machine.execOutroseWrite s
  | .rosectlSwapRequest => Sys2Proof.Machine.execRosectlSwapRequest s
  | .roseSwap => Sys2Proof.Machine.execRoseSwap s
  | .bankroleWrite => Sys2Proof.Machine.execBankroleWrite s
  | .bankroleChange => Sys2Proof.Machine.execBankroleChange s
  | .slicePassComplete => Sys2Proof.Machine.execSlicePassComplete s
  | .idomWrite => Sys2Proof.Machine.execIdomWrite s
  | .domainPassComplete => Sys2Proof.Machine.execDomainPassComplete s
  | .cntWrite => Sys2Proof.Machine.execCntWrite s
  | .twinctlWrite => Sys2Proof.Machine.execTwinctlWrite s
  | .mxstatClear => Sys2Proof.Machine.execMxstatClear s
  | .lineFill => Sys2Proof.Machine.execLineFill s
  | .pageWalk => Sys2Proof.Machine.execPageWalk s
  | .tlbinvRemote => Sys2Proof.Machine.execTlbinvRemote s
  | .homeSliceAccess => Sys2Proof.Machine.execHomeSliceAccess s
  | .rehomeReplay => Sys2Proof.Machine.execRehomeReplay s
  | .tierFill => Sys2Proof.Machine.execTierFill s
  | .tierWriteAck => Sys2Proof.Machine.execTierWriteAck s
  | .copyInvalidation => Sys2Proof.Machine.execCopyInvalidation s
  | .migrantArrival => Sys2Proof.Machine.execMigrantArrival s
  | .migrantQueueAdmit => Sys2Proof.Machine.execMigrantQueueAdmit s
  | .migrationRetry => Sys2Proof.Machine.execMigrationRetry s
  | .ringWaitReread => Sys2Proof.Machine.execRingWaitReread s
  | .copy => Sys2Proof.Machine.execCopy s
  | .copy2d => Sys2Proof.Machine.execCopy2d s
  | .fill => Sys2Proof.Machine.execFill s
  | .mcread => Sys2Proof.Machine.execMcread s
  | .wbr => Sys2Proof.Machine.execWbr s
  | .invr => Sys2Proof.Machine.execInvr s
  | .sqz => Sys2Proof.Machine.execSqz s
  | .xpnd => Sys2Proof.Machine.execXpnd s
  | .tagfreeSet => Sys2Proof.Machine.execTagfreeSet s
  | .tagdoneSet => Sys2Proof.Machine.execTagdoneSet s
  | .mcreadLineRequest => Sys2Proof.Machine.execMcreadLineRequest s
  | .multicastSectorSend => Sys2Proof.Machine.execMulticastSectorSend s
  | .multicastBlockWrite => Sys2Proof.Machine.execMulticastBlockWrite s
  | .matrixAccept => Sys2Proof.Machine.execMatrixAccept s
  | .matrixGrant => Sys2Proof.Machine.execMatrixGrant s
  | .ctx => Sys2Proof.Machine.execCtx s
  | .mma => Sys2Proof.Machine.execMma s
  | .mmas => Sys2Proof.Machine.execMmas s
  | .zero => Sys2Proof.Machine.execZero s
  | .drain => Sys2Proof.Machine.execDrain s
  | .loadc => Sys2Proof.Machine.execLoadc s
  | .order => Sys2Proof.Machine.execOrder s
  | .matrixComplete => Sys2Proof.Machine.execMatrixComplete s
  | .linkValueDelivery => Sys2Proof.Machine.execLinkValueDelivery s
  | .barrierArrival => Sys2Proof.Machine.execBarrierArrival s
  | .barrierInit => Sys2Proof.Machine.execBarrierInit s
  | .phaseNotice => Sys2Proof.Machine.execPhaseNotice s
  | .monitorRegistration => Sys2Proof.Machine.execMonitorRegistration s
  | .watchdogExpiry => Sys2Proof.Machine.execWatchdogExpiry s
  | .reportRetry => Sys2Proof.Machine.execReportRetry s
  | .twinCompare => Sys2Proof.Machine.execTwinCompare s
  | .preempt => Sys2Proof.Machine.execPreempt s
  | .preemptDraining => Sys2Proof.Machine.execPreemptDraining s
  | .preemptSaving => Sys2Proof.Machine.execPreemptSaving s
  | .preemptSaved => Sys2Proof.Machine.execPreemptSaved s
  | .resume => Sys2Proof.Machine.execResume s
  | .restoreComplete => Sys2Proof.Machine.execRestoreComplete s
  | .resumeRunning => Sys2Proof.Machine.execResumeRunning s
  | .spillRetry => Sys2Proof.Machine.execSpillRetry s
  | .packetDelivery => Sys2Proof.Machine.execPacketDelivery s
  | .packetAck => Sys2Proof.Machine.execPacketAck s
  | .linkRetry => Sys2Proof.Machine.execLinkRetry s
  | .linkDead => Sys2Proof.Machine.execLinkDead s
  | .chartInstall => Sys2Proof.Machine.execChartInstall s
  | .editionTurn => Sys2Proof.Machine.execEditionTurn s
  | .ethernetFrameRx => Sys2Proof.Machine.execEthernetFrameRx s
  | .systemEditionTurn => Sys2Proof.Machine.execSystemEditionTurn s
  | .mxRetry => Sys2Proof.Machine.execMxRetry s
  | .fwMatrixCheckCode => Sys2Proof.Machine.execFwMatrixCheckCode s
  | .fwPreemptCore => Sys2Proof.Machine.execFwPreemptCore s
  | .fwResumeCore => Sys2Proof.Machine.execFwResumeCore s
  | .fwIslandFrequency => Sys2Proof.Machine.execFwIslandFrequency s
  | .fwRetireBank => Sys2Proof.Machine.execFwRetireBank s
  | .fwWriteGroup => Sys2Proof.Machine.execFwWriteGroup s
  | .fwCheckpoint => Sys2Proof.Machine.execFwCheckpoint s
  | .fwRestore => Sys2Proof.Machine.execFwRestore s
  | .fwAttestationQuote => Sys2Proof.Machine.execFwAttestationQuote s
  | .fwTenantReset => Sys2Proof.Machine.execFwTenantReset s
  | .illegalEncoding => Sys2Proof.Machine.execIllegalEncoding s
  | .refusedRequestKind => Sys2Proof.Machine.execRefusedRequestKind s
  | .mxAnswer => Sys2Proof.Machine.execMxAnswer s
  | .stackCopyFill => Sys2Proof.Machine.execStackCopyFill s
  | .networkPortAccess => Sys2Proof.Machine.execNetworkPortAccess s
  | .headerRouting => Sys2Proof.Machine.execHeaderRouting s
  | .portFailure => Sys2Proof.Machine.execPortFailure s
  | .powerLimitThrottle => Sys2Proof.Machine.execPowerLimitThrottle s
  | .islandPowerDown => Sys2Proof.Machine.execIslandPowerDown s
  | .keeperChange => Sys2Proof.Machine.execKeeperChange s
  | .tenantAssignment => Sys2Proof.Machine.execTenantAssignment s

end Sys2Proof.Machine
end

