-- ==== Sys2Proof/Machine/Issue.lean ====
section
/-!
DEFINITION. The order of things in one nanosecond: a slot's turn (07_issue R162), the accesses of a column's core ports
(08_access R202, R203), and the agenda of a cycle: what falls due, what units do on their own, and the turns of the slots.
-/
namespace Sys2Proof.Machine

open Sys2Proof

/-! ### A slot's turn -/

/-- What a turn does: it passes empty, or an instruction runs. -/
inductive Turn where
  | pass (s : State)
  | run (i : Instr) (s : State)

/-- A held instruction of the thread may go on while its core drains (20_traps R416). -/
def Thread.drainsOn (th : Thread) : Bool := match th.hold with
  | .walked => true
  | .again => match th.atPc with
    | .op i => drains i
    | _ => false
  | _ => false

/-- The core's slots issue, or its thread's held instruction is one that a drain completes (R415). -/
def State.mayIssue (s : State) (c : Nat) (th : Thread) : Bool := match (s.core c).pre with
  | .running | .stopping => true
  | .draining => th.drainsOn
  | _ => false

/-- The thread's hold lets it issue on this cycle. -/
def Thread.goes (th : Thread) (t : Nat) : Bool := match th.hold with
  | .walked => true
  | .ready | .again => decide (th.issueAt ≤ t)
  | _ => false

/-- Select a slot's thread as the current one. -/
def State.withCurrent (s : State) (c sl : Nat) : State := { s with curCore := c, curSlot := sl, curr := true }

/-- The turn of a slot (R162). A thread without a line copy takes one. -/
def State.turnOf (s : State) (c sl : Nat) : Turn :=
  let x := s.slot c sl
  let th := x.th
  if x.st ≠ .run || !(s.mayIssue c th) || !(th.goes (s.cyc c)) then .pass s
  else if th.line.isNone && th.lineFault.isNone then .pass (s.takeLine c sl)
  else match th.atPc with
    | .op i => match s.twinTurn c sl i with
      | .run s => .run i (s.withCurrent c sl)
      | .pass s => .pass s
    | _ => .run .illegalEncoding (s.withCurrent c sl)

/-- Instructions whose thread, once the wait is over, issues the next one on the turn that ends it (R257, 14_sync R348, R356,
R360, 05_crowns R121, 13_matrix R340). -/
def waitType (i : Instr) : Bool := match i with
  | .waittAny .. | .waittAll .. | .barWait .. | .barSync .. | .monWait .. | .skLink .. | .joinWait ..
  | .fenceFull .. | .fenceRelease .. | .fenceAcquire .. | .fenceXpath .. => true
  | _ => false

/-- After a turn: a wait that had been held and is over gives its turn to the next instruction. -/
def State.afterTurn (s : State) (i : Instr) (c sl : Nat) (held : Bool) : State :=
  let th := s.thread c sl
  let s := { s with curr := false }
  if held && waitType i && th.hold = .ready && !th.entering && decide ((s.slot c sl).st = .run) then
    { s with agenda := .turn c sl :: s.agenda }
  else s

/-! ### The core ports of a column store (R202, R203, R208) -/

/-- Perform an access of a run through a core's port and gather its answer. -/
def State.portPerform (s : State) (a : Access) : State := match a.agent with
  | .thread c sl =>
    let th := s.thread c sl
    match th.hold, th.pend with
    | .answer, some p =>
      if th.uid ≠ a.uid then s
      else
        let (s, r) := s.localNow c sl a
        let s := s.gotAnswer c sl a r 0
        if p.left ≤ 1 then s.threadDone c sl r else s
    | _, _ => s
  | _ => s

/-- The accesses of a column's core port that fall on this cycle: stores, or loads. -/
def State.portMove (s : State) (col src : Nat) (loads : Bool) : State :=
  let t := (s.cluster (col / 8)).t
  let due := (s.column col).port.filter fun p => decide (p.at_ ≤ t) && decide (p.src = src) && (p.acc.op.loads == loads)
  let s := s.onColumn col fun x =>
    { x with port := x.port.filter fun p => !(due.contains p), portUsed := if due.isEmpty then x.portUsed else assign x.portUsed src t }
  due.foldl (fun s p => s.portPerform p.acc) s

/-! ### The agenda of a cycle -/

/-- The instruction at a slot's turn is a LOCAL load, which comes after the stores of its cycle (R203). -/
def State.localLoad (s : State) (c sl : Nat) : Bool := match (s.thread c sl).atPc with
  | .op i => match s.planOf c sl i with
    | some (.ok p) => p.space = .loc && p.need.r && !p.need.w
    | _ => false
  | _ => false

/-- The event is an access through a network port whose cycle has come. -/
def Event.netPort (e : Event) : Bool := e.row = .networkPortAccess && e.subj.sub = 1

/-- The event's access stores, be it an atomic. -/
def State.storesAt (s : State) (e : Event) : Bool := match find s.items e.subj.item with
  | some (.acc a) => match a.op with
    | .load .. => false
    | _ => true
  | _ => false

/-- An event as a move. -/
def Event.move (e : Event) : Move := .dev e.row e.subj

/-- Turns and port accesses of a cluster's cycle, columns and cores ascending (06_wheels R152): the turns, of which a LOCAL load goes
behind (R203), and stores, then loads. -/
def State.turnMoves (s : State) (cl : Nat) (nets : List Event) : List Move :=
  let sl := (s.cluster cl).t % 16
  let cores := (List.range 16).map fun j => 16 * cl + j
  let ports := fun (loads : Bool) (c : Nat) =>
    if (s.column (columnOf c)).port.isEmpty then [] else [Move.port (columnOf c) (c % 2) loads]
  (cores.flatMap fun c => (if (s.slot c sl).st = .run then [Move.turn c sl] else []) ++ ports false c) ++
    (nets.filter fun e => s.storesAt e).map Event.move ++ cores.flatMap (ports true) ++
    (nets.filter fun e => !(s.storesAt e)).map Event.move

/-- What a core does on its own in a cycle: selection and admission (04_channels R92, R93), stealing, dealing, the steps of
pre-emption, and the watchdog. Where several of its crowns deal, the dealer of each crown slot sends one sheaf a cycle: R106
gives the rate for one crown. DESIGN CHOICE (log 96). -/
def State.coreMoves (s : State) (c : Nat) : List Move :=
  let k := s.core c
  let one := fun (b : Bool) (i : Instr) => if b then [Move.dev i { unit := c }] else []
  let work := !k.arrivals.isEmpty || !k.deque.isEmpty
  one work .selection ++ one (work || k.chosen.isSome) .admission ++ one work .tillerAdmission ++
  one (!k.arrivals.isEmpty) .remopAdmission ++ one (stealEn k.stealgrp) .stealRequest ++
  (k.crowns.filter fun p => p.2.dealer.isSome).map (fun p => Move.dev .dealerSendSheaf { unit := c, sub := p.1 }) ++
  one (k.pre = .stopping) .preemptDraining ++ one (k.pre = .draining || k.pre = .saving) .preemptSaving ++
  ((List.range 16).filter fun sl => s.expired c sl).map fun sl => Move.dev .watchdogExpiry { unit := c, sub := sl }

/-- What a cluster's units do in a cycle: its tables, the meetings of the riders, the matrix unit, the engine, queued migrants, then its
cores. -/
def State.unitMoves (s : State) (cl : Nat) : List Move :=
  let k := s.cluster cl
  let cores := (List.range 16).map fun j => 16 * cl + j
  (if k.swap then [Move.dev .roseSwap { unit := cl }] else []) ++
  (k.riders.filter fun p => !p.2.isEmpty).map (fun p => Move.dev .bankMeeting { unit := cl, sub := p.1 }) ++
  (if s.mxReady cl then [Move.dev .matrixGrant { unit := cl }] else []) ++
  (match s.engineTakes cl with
    | some c => match s.offers c with
      | some q => [Move.dev (takeRow q.kind) { unit := c }]
      | none => []
    | none => []) ++
  (((List.range 8).map fun j => 8 * cl + j).filter fun col => !(s.column col).migrants.isEmpty).map
    (fun col => Move.dev .migrantQueueAdmit { unit := col }) ++
  cores.flatMap fun c => s.coreMoves c

/-- The slices of a cluster that send a multicast sector in a cycle. -/
def State.sectorMoves (s : State) (cl : Nat) : List Move :=
  let k := s.cluster cl
  (((List.range 16).map fun j => 16 * cl + j).filter fun c => k.mcast.any fun x => x.home = c && decide (x.readyAt ≤ k.t)).map
    fun c => Move.dev .multicastSectorSend { unit := c }

/-- The clusters whose clock advances in a nanosecond, and the state with their cycles counted (R8, R15, R130). -/
def State.clockClusters (s : State) : List Nat × State :=
  s.clusters.foldl (fun p x =>
    let k := x.2
    if !k.up then p
    else if k.phase + k.mhz < 1000 then (p.1, p.2.onCluster x.1 fun k => { k with phase := k.phase + k.mhz })
    else
      let s := p.2.onCluster x.1 fun k => { k with phase := k.phase + k.mhz - 1000 }
      if 0 < k.stopped then (p.1, s.onCluster x.1 fun k => { k with stopped := k.stopped - 1 })
      else (p.1 ++ [x.1], s.onCluster x.1 fun k => { k with t := k.t + 1 })) ([], s)

/-- The event is due. An event of a cluster that is down waits for its island. -/
def State.isDue (s : State) (e : Event) : Bool := match e.cl with
  | none => decide (e.due ≤ s.now)
  | some cl => (s.cluster cl).up && decide (e.due ≤ (s.cluster cl).t)

/-- A nanosecond passes: clocks advance, and the agenda is made of the events due, the role changes, which precede every swap of tables
(06_wheels R154), the units of the clusters that have a cycle, the turns of their slots, what comes at homes (09_homing R230), and last
the multicast sectors. Hardware updates precede the turns (07_issue R182). -/
def State.tick (s : State) : State :=
  let s := { s with now := s.now + 1 }
  let (cls, s) := s.clockClusters
  let due := s.events.filter fun e => s.isDue e
  let s := { s with events := s.events.filter fun e => !(s.isDue e) }
  let late := due.filter fun e => lateRow e.row
  let nets := due.filter fun e => e.netPort
  let rest := due.filter fun e => !(lateRow e.row) && !e.netPort
  let eth := if s.ethIn.isEmpty then [] else [Move.dev .ethernetFrameRx {}]
  let roles := (cls.filter fun cl => (s.cluster cl).roleChange.isSome).map fun cl => Move.dev .bankroleChange { unit := cl }
  { s with agenda := rest.map Event.move ++ eth ++ roles ++ (cls.flatMap fun cl => s.unitMoves cl) ++
      (cls.flatMap fun cl => s.turnMoves cl (nets.filter fun e => e.subj.unit / 8 = cl)) ++ late.map Event.move ++
      cls.flatMap fun cl => s.sectorMoves cl }

end Sys2Proof.Machine
end

