-- ==== Sys2Proof/Machine/Step.lean ====
section
/-!
DEFINITION. The step of the machine: the next move of the agenda, or, when nothing is left of it, the next nanosecond.
-/
namespace Sys2Proof.Machine

open Sys2Proof

/-- What follows a turn whose instruction has run. -/
def afterRun (i : Instr) (c sl : Nat) (held : Bool) (o : Host.Outcome State Fault Refusal) : Host.Outcome State Fault Refusal :=
  match o with
  | .next s => .next (s.afterTurn i c sl held)
  | .fault f => .fault f
  | .refused r => .refused r

/-- The turn of a slot. -/
def issueTurn (c sl : Nat) (s : State) : Host.Outcome State Fault Refusal := match s.turnOf c sl with
  | .pass s => .next s
  | .run i s' => afterRun i c sl (decide ((s.thread c sl).hold = .again)) (exec i s')

/-- One step. -/
def step (s : State) : Host.Outcome State Fault Refusal :=
  match s.agenda with
  | [] => .next s.tick
  | .dev i subj :: rest => exec i { s with agenda := rest, subj := subj, curr := false }
  | .port col src loads :: rest => .next ({ s with agenda := rest }.portMove col src loads)
  | .turn c sl :: rest =>
    if s.localLoad c sl then .next { s with agenda := rest ++ [.issue c sl] } else issueTurn c sl { s with agenda := rest }
  | .issue c sl :: rest => issueTurn c sl { s with agenda := rest }

/-- The state with an instruction of a table word where the next step fetches: cluster 0 is up, and slot 0 of core 0 holds a
supervisor thread whose line copy begins with it; its turn comes next. -/
def State.withFetchWord (s : State) (_nbits w : Nat) : State :=
  let line := (oneLine (w % 65536) (w / 65536)).flatMap fun h => toBytes 2 h.toNat
  let th : Thread := { pc := 66, limit := 128, sup := true, line := some (64, line) }
  let s := (s.onCluster 0 fun k => { k with up := true }).setSlot 0 0 { st := .run, th := th }
  { s with agenda := [.issue 0 0] }

end Sys2Proof.Machine
end

