-- ==== Sys2Proof/Claims.lean ====
section
/-!
DEFINITION. The words in which statements are made: when an instruction runs past the checks of 02_lines R47, what it writes, and
what it leaves alone.
-/
namespace Sys2Proof.Machine

open Sys2Proof

/-- The turn is slot sl's of core c; the registers that the instruction names lie below the thread's limit, a tiller has
budget and reserved entries for those it writes (02_lines R47, 05_crowns R111, R113), and no error has arisen in an entry that a
source register stands in (20_traps R402); the sources are the registers named, but for one naming of each written. -/
structure Runs (s : State) (c sl : Nat) (names writes : List Nat) : Prop where
  curr : s.curr = true
  core : s.curCore = c
  slot : s.curSlot = sl
  below : ∀ r ∈ names, r < (s.thread c sl).limit
  copies : (s.thread c sl).overBudget writes = false
  room : ∀ t, (s.thread c sl).tiller = some t → (s.thread c sl).newCopies writes ≤ t.spare.length
  sound : ∀ r ∈ writes.foldl List.erase names, ∀ e, (s.thread c sl).entryOf r = some e → find (s.core c).rfErr e = none

/-- The entry of the core's register file in which register d stands when it is written; none for g0 (06_wheels R131, 05_crowns
R110). -/
def State.entryOf (s : State) (c sl d : Nat) : Option Nat :=
  if d = 0 then none else match (s.thread c sl).tiller with
  | none => some ((s.thread c sl).base + d)
  | some t => match find t.priv d with
    | some e => some e
    | none => t.spare.head?

/-- Register d of the slot's thread holds v, bits [511:64] included (g0 reads zero), and no other register does anything:
every other entry of every register file keeps its value and its errors, a plain thread reads its other registers as before, and a tiller's
other registers stand where they stood. -/
structure Gets (s t : State) (c sl d : Nat) (v : VWord) : Prop where
  value : t.reg c sl d = if d = 0 then 0 else v
  entries : ∀ k e, k ≠ c ∨ s.entryOf c sl d ≠ some e →
    look (t.core k).rf e 0 = look (s.core k).rf e 0 ∧ find (t.core k).rfErr e = find (s.core k).rfErr e
  plain : (s.thread c sl).tiller = none → ∀ r, r ≠ d → t.reg c sl r = s.reg c sl r
  places : ∀ x y, (s.thread c sl).tiller = some x → (t.thread c sl).tiller = some y → ∀ r, r ≠ d →
    find y.priv r = find x.priv r

/-- Of registers, only d and the one after it are written: every entry but theirs keeps its value and its errors, a plain thread reads
its other registers as before, and a tiller's stand where they stood. -/
structure PairOnly (s t : State) (c sl d : Nat) : Prop where
  entries : ∀ k e, k ≠ c ∨ (t.entryOf c sl d ≠ some e ∧ t.entryOf c sl (d + 1) ≠ some e) →
    look (t.core k).rf e 0 = look (s.core k).rf e 0 ∧ find (t.core k).rfErr e = find (s.core k).rfErr e
  plain : (s.thread c sl).tiller = none → ∀ r, r ≠ d → r ≠ d + 1 → t.reg c sl r = s.reg c sl r
  places : ∀ x y, (s.thread c sl).tiller = some x → (t.thread c sl).tiller = some y → ∀ r, r ≠ d → r ≠ d + 1 →
    find y.priv r = find x.priv r

/-- No register changes. -/
def SameRegs (s t : State) : Prop := ∀ k, (t.core k).rf = (s.core k).rf ∧ (t.core k).rfErr = (s.core k).rfErr

/-- Every byte of every memory reads as before, with its poison, its errors and its tag: banks, column stores, the two DRAM tiers and the
lines of the slices. -/
structure SameMemory (s t : State) : Prop where
  bank : ∀ a, t.bankMem.read a = s.bankMem.read a
  column : ∀ a, t.colMem.read a = s.colMem.read a
  hbm : ∀ a, t.hbm.read a = s.hbm.read a
  lp : ∀ a, t.lp.read a = s.lp.read a
  bankBad : t.bankBad = s.bankBad
  colBad : t.colBad = s.colBad
  bankErr : t.bankErr = s.bankErr
  colErr : t.colErr = s.colErr
  sectors : t.sectors = s.sectors
  lines : ∀ k, (t.cluster k).lines = (s.cluster k).lines

/-- The slot's thread keeps its masks, flags, THANDLER, template registers, crown, privilege, handles, monitor, records and
counts. -/
structure SameKept (s t : State) (c sl : Nat) : Prop where
  masks : (t.thread c sl).masks = (s.thread c sl).masks
  fflags : (t.thread c sl).fflags = (s.thread c sl).fflags
  thandler : (t.thread c sl).thandler = (s.thread c sl).thandler
  tplbase : (t.thread c sl).tplbase = (s.thread c sl).tplbase
  tplsize : (t.thread c sl).tplsize = (s.thread c sl).tplsize
  lastcrown : (t.thread c sl).lastcrown = (s.thread c sl).lastcrown
  heads : (t.thread c sl).heads = (s.thread c sl).heads
  level : (t.thread c sl).level = (s.thread c sl).level
  world : (t.thread c sl).world = (s.thread c sl).world
  sup : (t.thread c sl).sup = (s.thread c sl).sup
  pri : (t.thread c sl).pri = (s.thread c sl).pri
  tid : (t.thread c sl).tid = (s.thread c sl).tid
  limit : (t.thread c sl).limit = (s.thread c sl).limit
  base : (t.thread c sl).base = (s.thread c sl).base
  handles : (t.thread c sl).handles = (s.thread c sl).handles
  monitor : (t.thread c sl).monitor = (s.thread c sl).monitor
  records : (t.thread c sl).records = (s.thread c sl).records
  heldWait : (t.thread c sl).heldWait = (s.thread c sl).heldWait
  seen : (t.thread c sl).seen = (s.thread c sl).seen
  posted : (t.thread c sl).posted = (s.thread c sl).posted
  engine : (t.thread c sl).engine = (s.thread c sl).engine

/-- It keeps its trap registers as well. -/
structure SameSpecial (s t : State) (c sl : Nat) : Prop extends SameKept s t c sl where
  tepc : (t.thread c sl).tepc = (s.thread c sl).tepc
  tcause : (t.thread c sl).tcause = (s.thread c sl).tcause
  tword : (t.thread c sl).tword = (s.thread c sl).tword
  taddr : (t.thread c sl).taddr = (s.thread c sl).taddr
  tprog : (t.thread c sl).tprog = (s.thread c sl).tprog

/-- Everything outside the slot's thread is as before, but for the register file of its core (of which Gets and SameRegs speak) the fetch of
the thread's next line (07_issue R159) and the note that its core's port has had its block of this cycle (08_access R202): other slots, the
core's own registers and queues, other cores, columns, clusters, quads, stacks, groups and keys. -/
structure SameRest (s t : State) (c sl : Nat) : Prop where
  slots : ∀ k j, k ≠ c ∨ j ≠ sl → t.slot k j = s.slot k j
  status : (t.slot c sl).st = (s.slot c sl).st
  core : { t.core c with rf := [], rfErr := [], slots := [] } = { s.core c with rf := [], rfErr := [], slots := [] }
  cores : ∀ k, k ≠ c → t.core k = s.core k
  columns : ∀ k, { t.column k with filling := [], portUsed := [] } = { s.column k with filling := [], portUsed := [] }
  clusters : t.clusters = s.clusters
  quads : t.quads = s.quads
  dies : t.baseDies = s.baseDies
  routers : t.routers = s.routers
  groups : t.groups = s.groups
  keys : t.keys = s.keys
  now : t.now = s.now

/-- The instruction's only effect on registers and memory is a value in register d; the thread goes on with its next PC
(02_lines R27), on its k-th turn after this one (07_issue R162). -/
def Computes (i : Instr) (s : State) (c sl d k : Nat) (v : VWord) : Prop :=
  ∃ t, exec i s = .next t ∧ Gets s t c sl d v ∧ (t.thread c sl).pc = (s.thread c sl).nextPc ∧
    (t.thread c sl).issueAt = s.cyc c + 16 * k ∧ SameSpecial s t c sl ∧ SameMemory s t ∧ SameRest s t c sl

/-- No register, no memory and no special register changes, nor anything outside the thread: it has only moved on. -/
structure Quiet (s t : State) (c sl : Nat) : Prop where
  regs : SameRegs s t
  tiller : (t.thread c sl).tiller = (s.thread c sl).tiller
  memory : SameMemory s t
  special : SameSpecial s t c sl
  rest : SameRest s t c sl

/-- The instruction's only effect is to move to a PC. -/
def GoesTo (i : Instr) (s : State) (c sl : Nat) (pc : Word) : Prop :=
  ∃ t, exec i s = .next t ∧ (t.thread c sl).pc = pc ∧ Quiet s t c sl

/-- The instruction moves to a PC and leaves a value in register d. -/
def Links (i : Instr) (s : State) (c sl d : Nat) (v : Word) (pc : Word) : Prop :=
  ∃ t, exec i s = .next t ∧ Gets s t c sl d (widen v) ∧ (t.thread c sl).pc = pc ∧ SameSpecial s t c sl ∧ SameMemory s t ∧
    SameRest s t c sl

/-- The instruction's only effect is a value in register d. -/
def Sets (i : Instr) (s : State) (c sl d : Nat) (v : VWord) : Prop :=
  ∃ t, exec i s = .next t ∧ Gets s t c sl d v ∧ (t.thread c sl).pc = (s.thread c sl).nextPc ∧ SameSpecial s t c sl ∧
    SameMemory s t ∧ SameRest s t c sl

/-- The instruction's only effect is a 64-bit value in register d. -/
def Puts (i : Instr) (s : State) (c sl d : Nat) (v : Word) : Prop := Sets i s c sl d (widen v)

/-! ### Traps as 20_traps states them (R401, R406, R410) -/

/-- TEPC of a trap. -/
def trapPc (s : State) (c sl : Nat) (k : Cause) : Word :=
  if k = .usertrap ∨ k = .svc then (s.thread c sl).nextPc else (s.thread c sl).pc

/-- The fault is one of the fetch of an instruction at THANDLER (02_lines R49): PAGE or PERM of its line, of which there are no words,
or a trap of R43 to R46. -/
def inEntry (s : State) (c sl : Nat) (k : Cause) (tword : Word) : Prop :=
  ((k = .page ∨ k = .perm) ∧ tword = 0 ∨ k ∈ [.illine, .illegal, .priv, .reglimit]) ∧
    (s.thread c sl).pc = (s.thread c sl).thandler

/-- SVC and PRIV of a thread that is neither privileged nor in the service slot go to the supervisor. -/
def forSupervisor (s : State) (c sl : Nat) (k : Cause) : Prop := (k = .svc ∨ k = .priv) ∧ (s.thread c sl).sup = false ∧ sl ≠ 15

/-- A trap is taken: the five trap registers are written, once, so that a fault of the fetch by which a handler is entered leaves them
to the trap that entered it (R401). The thread goes on at THANDLER where that is a head address and the trap is not one of the
fetch there; it waits for its supervisor where the cause is the supervisor's and ERRLOG has SEN; else it is parked. Where it goes on or
waits, every register, all memory and everything else the thread holds stay as they are, but that a held BAR.WAIT is over. -/
def TakesTrap (i : Instr) (s : State) (c sl : Nat) (k : Cause) (tword taddr : Word) : Prop :=
  ∃ t, exec i s = .next t ∧
    let inE := inEntry s c sl k tword
    let unheld := s.onThread c sl fun th => { th with heldWait := none }
    (¬ (inE ∧ (s.thread c sl).entering = true) →
      (t.thread c sl).tepc = trapPc s c sl k ∧ (t.thread c sl).tcause = BitVec.ofNat 64 k.code ∧
      (t.thread c sl).tword = tword ∧ (t.thread c sl).taddr = taddr ∧ (t.thread c sl).tprog = 0) ∧
    (inE → (s.thread c sl).entering = true →
      (t.thread c sl).tepc = (s.thread c sl).tepc ∧ (t.thread c sl).tcause = (s.thread c sl).tcause ∧
      (t.thread c sl).tword = (s.thread c sl).tword ∧ (t.thread c sl).taddr = (s.thread c sl).taddr ∧
      (t.thread c sl).tprog = (s.thread c sl).tprog) ∧
    (¬ inE → ¬ forSupervisor s c sl k → headAddress (s.thread c sl).thandler = true →
      (t.thread c sl).pc = (s.thread c sl).thandler ∧ SameRegs s t ∧ SameMemory s t ∧ SameKept unheld t c sl ∧ SameRest s t c sl) ∧
    (¬ inE → forSupervisor s c sl k → errSen (s.core c).errlog = true →
      (t.slot c sl).st = .service ∧ (t.thread c sl).pc = trapPc s c sl k ∧ SameRegs s t ∧ SameMemory s t ∧ SameKept unheld t c sl) ∧
    (inE ∨ (forSupervisor s c sl k ∧ errSen (s.core c).errlog = false) ∨
        (¬ forSupervisor s c sl k ∧ headAddress (s.thread c sl).thandler = false) →
      (t.slot c sl).st = .parked ∧ (t.thread c sl).monitor = .disarmed)

/-- Slot j of core c is free, and may be given away with its register entries from the next turn on (07_issue R164, R189): until then
it keeps what its thread occupied. -/
structure Freed (s t : State) (c j : Nat) : Prop where
  st : (t.slot c j).st = .free
  at_ : (t.slot c j).freeAt = s.cyc c + 16
  base : (t.thread c j).base = (s.thread c j).base
  limit : (t.thread c j).limit = (s.thread c j).limit
  tiller : (t.thread c j).tiller = (s.thread c j).tiller

/-- No stack-copy invalidation is on its way (09_homing R233). -/
def NoInvalidations (s : State) : Prop := ∀ p ∈ s.items, ∀ st l tier g uid, p.2 ≠ .copyInv st l tier g uid

/-! ### The scalar instructions as 07_issue states them (R164, R169 to R175) -/

/-- What a scalar instruction does: the registers it reads, the one it writes, its turns, and the number r that put(r) writes. -/
structure ScalarForm where
  reads : List Nat
  d : Nat
  turns : Nat
  r : Int

/-- sext(v, n) (R165). -/
def sextI (v n : Nat) : Int := if v % 2 ^ n < 2 ^ (n - 1) then (v % 2 ^ n : Nat) else ((v % 2 ^ n : Nat) : Int) - 2 ^ n

/-- The number of bits, from bit 63 or from bit 0 on, before the first that is one. -/
def zerosBefore (x : Word) (at_ : Nat → Nat) : Int := (((List.range 64).find? fun i => x.getLsbD (at_ i)).getD 64 : Nat)

/-- Two source registers. -/
def two (d a b k : Nat) (r : Int) : Option ScalarForm := some { reads := [a, b], d := d, turns := k, r := r }
/-- One source register. -/
def one (d a : Nat) (r : Int) : Option ScalarForm := some { reads := [a], d := d, turns := 1, r := r }
/-- A truth value. -/
def asBit (p : Prop) [Decidable p] : Int := if p then 1 else 0

/-- The effect of each scalar instruction on registers g, as R169 to R175 give it; none for other instructions. -/
def scalarForm (i : Instr) (g : Nat → Word) : Option ScalarForm :=
  let x := fun (r : Nat) => ((g r).toNat : Int)
  let sx := fun (r : Nat) => (g r).toInt
  let lo := fun (r : Nat) => (g r).toNat % 64
  match i with
  | .aluAdd d a b => two d a b 1 (x a + x b)
  | .aluSub d a b => two d a b 1 (x a - x b)
  | .aluAnd d a b => two d a b 1 (g a &&& g b).toNat
  | .aluOr d a b => two d a b 1 (g a ||| g b).toNat
  | .aluXor d a b => two d a b 1 (g a ^^^ g b).toNat
  | .aluAndn d a b => two d a b 1 (g a &&& ~~~(g b)).toNat
  | .aluShl d a b => two d a b 1 (x a * 2 ^ lo b)
  | .aluShr d a b => two d a b 1 (x a / 2 ^ lo b)
  | .aluSar d a b => two d a b 1 (sx a / 2 ^ lo b)
  | .aluRol d a b => two d a b 1 ((g a).rotateLeft (lo b)).toNat
  | .aluMin d a b => two d a b 1 (min (sx a) (sx b))
  | .aluMax d a b => two d a b 1 (max (sx a) (sx b))
  | .aluMinn d a b => two d a b 1 (min (x a) (x b))
  | .aluMaxn d a b => two d a b 1 (max (x a) (x b))
  | .aluMul d a b => two d a b 1 (sx a * sx b)
  | .aluMulh d a b => two d a b 1 (sx a * sx b / 2 ^ 64)
  | .aluMulhn d a b => two d a b 1 (x a * x b / 2 ^ 64)
  | .aluDiv d a b => two d a b 3
      (if x b = 0 then -1 else if sx a = -2 ^ 63 ∧ sx b = -1 then -2 ^ 63 else (sx a).tdiv (sx b))
  | .aluDivn d a b => two d a b 3 (if x b = 0 then -1 else x a / x b)
  | .aluRem d a b => two d a b 3
      (if x b = 0 then x a else if sx a = -2 ^ 63 ∧ sx b = -1 then 0 else sx a - (sx a).tdiv (sx b) * sx b)
  | .aluRemn d a b => two d a b 3 (if x b = 0 then x a else x a % x b)
  | .aluClz d a => one d a (zerosBefore (g a) fun i => 63 - i)
  | .aluCtz d a => one d a (zerosBefore (g a) fun i => i)
  | .aluPopc d a => one d a ((List.range 64).countP fun i => (g a).getLsbD i)
  | .aluBrev d a => one d a (((List.range 64).map fun i => if (g a).getLsbD (63 - i) then 2 ^ i else 0).sum : Nat)
  | .aluBswap d a => one d a (((List.range 8).map fun i => (g a).toNat / 2 ^ (56 - 8 * i) % 256 * 2 ^ (8 * i)).sum : Nat)
  | .aluSel d a b c => some { reads := [a, b, c], d := d, turns := 1, r := if x c ≠ 0 then x a else x b }
  | .aluAddw d a b => two d a b 1 (sextI (((g a).toNat + (g b).toNat) % 2 ^ 32) 32)
  | .aluSubw d a b => two d a b 1 (sextI ((x a - x b) % 2 ^ 32).toNat 32)
  | .aluMulw d a b => two d a b 1 (sextI ((g a).toNat * (g b).toNat % 2 ^ 32) 32)
  | .aluqAdd d a b => two d a b 1 (x a + x b)
  | .aluqSub d a b => two d a b 1 (x a - x b)
  | .aluqAnd d a b => two d a b 1 (g a &&& g b).toNat
  | .aluqOr d a b => two d a b 1 (g a ||| g b).toNat
  | .addi d a k => one d a (x a + k)
  | .liS32 d k => some { reads := [], d := d, turns := 1, r := sextI k 32 }
  | .liZ32 d k => some { reads := [], d := d, turns := 1, r := (k % 2 ^ 32 : Nat) }
  | .liHi d a k => one d a ((k % 2 ^ 32 * 2 ^ 32 + (g a).toNat % 2 ^ 32 : Nat) : Int)
  | .logiAnd d a k => one d a (g a &&& BitVec.ofInt 64 (sextI k 32)).toNat
  | .logiOr d a k => one d a (g a ||| BitVec.ofInt 64 (sextI k 32)).toNat
  | .logiXor d a k => one d a (g a ^^^ BitVec.ofInt 64 (sextI k 32)).toNat
  | .logiSh d a kind n => one d a (match kind with
      | .shl => x a * 2 ^ (n % 64)
      | .shr => x a / 2 ^ (n % 64)
      | .sar => sx a / 2 ^ (n % 64)
      | .rol => ((g a).rotateLeft (n % 64)).toNat)
  | .cmpEq d a b => two d a b 1 (asBit (x a = x b))
  | .cmpNe d a b => two d a b 1 (asBit (x a ≠ x b))
  | .cmpLt d a b => two d a b 1 (asBit (sx a < sx b))
  | .cmpGe d a b => two d a b 1 (asBit (sx b ≤ sx a))
  | .cmpLtn d a b => two d a b 1 (asBit (x a < x b))
  | .cmpGen d a b => two d a b 1 (asBit (x b ≤ x a))
  | .bitExt d a p n sx => one d a
      (if sx then sextI ((g a).toNat / 2 ^ p % 2 ^ n) n else ((g a).toNat / 2 ^ p % 2 ^ n : Nat))
  | .bitIns d a b p n => two d a b 1
      ((g a &&& ~~~(BitVec.ofNat 64 ((2 ^ n - 1) * 2 ^ p))) ||| BitVec.ofNat 64 ((g b).toNat % 2 ^ n * 2 ^ p)).toNat
  | .agen d a b disp sh => two d a b 1 (x a + x b * 2 ^ sh + disp)
  | _ => none

/-! ### Branches as 07_issue states them (R166) and their target (02_lines R29) -/

/-- The register, delta, index and condition of a branch. -/
def branchForm (i : Instr) : Option (Nat × Int × Nat × (Int → Prop)) := match i with
  | .brEqz a delta index => some (a, delta, index, fun x => x = 0)
  | .brNez a delta index => some (a, delta, index, fun x => x ≠ 0)
  | .brLtz a delta index => some (a, delta, index, fun x => x < 0)
  | .brGez a delta index => some (a, delta, index, fun x => 0 ≤ x)
  | .brGtz a delta index => some (a, delta, index, fun x => 0 < x)
  | .brLez a delta index => some (a, delta, index, fun x => x ≤ 0)
  | _ => none

/-- line + 64 * delta + 2 * index, where line is the PC without its low six bits. -/
def targetOf (pc : Word) (delta : Int) (index : Nat) : Int := (pc.toNat / 64 * 64 : Nat) + 64 * delta + 2 * index

/-! ### Control and status registers (07_issue R177 to R180) -/

/-- A pre-emption state's number in PREEMPTST (20_traps R414). -/
def preNumber (p : PreSt) : Nat := match p with
  | .running => 0
  | .stopping => 1
  | .draining => 2
  | .saving => 3
  | .preempted => 4
  | .restoring => 5

/-- The CSRs that only read, by number, with their values (R178; 06_wheels R132 TLIMIT, R156 WHEELPH; 05_crowns R128 MEMB; 20_traps R414
PREEMPTST; 23_retire R448 WORLD, TENANT). -/
def readOnlyCsrs (s : State) (c sl : Nat) : List (Nat × Word) :=
  let w := fun n => BitVec.ofNat 64 n
  let th := s.thread c sl
  let k := s.core c
  let rows := (s.cluster (c / 16)).inner.length
  [(0x000, w th.tid), (0x001, w c), (0x002, w (c / 16)), (0x003, w (c / 2)), (0x004, w sl),
   (0x005, w (th.limit + if th.tiller = none then 2 ^ 8 * th.base else 2 ^ 19)), (0x006, w (s.cyc c)),
   (0x007, w (s.cyc c % rows + 2 ^ 8 * (s.cyc c / rows % (s.quad (c / 64)).outer.length))),
   (0x009, k.tagdone), (0x00A, k.tagfree), (0x00B, 1), (0x00C, th.lastcrown),
   (0x018, look k.memb 0 0), (0x019, look k.memb 1 0), (0x01A, look k.memb 2 0), (0x01B, look k.memb 3 0),
   (0x01C, w (s.cluster (c / 16)).keeper), (0x112, w (2 ^ 32 * k.preCount + 2 ^ 16 * k.spillMax + preNumber k.pre)),
   (0x117, if (s.cluster (c / 16)).world = true then 15 else 0), (0x118, (s.cluster (c / 16)).tenant)]

/-- The thread's own CSRs that can be written, by number, with the bits they keep (R178, R179, R114). -/
def threadCsrs (th : Thread) : List (Nat × Nat × Word) :=
  [(0x008, 0x1F, th.fflags), (0x00D, 0x1FFFFFFF, th.tplbase), (0x00E, 0x1FF, th.tplsize), (0x010, 2 ^ 64 - 1, th.thandler),
   (0x011, 2 ^ 64 - 1, th.tepc), (0x012, 0xFF, th.tcause), (0x013, 2 ^ 64 - 1, th.tword), (0x014, 2 ^ 64 - 1, th.taddr),
   (0x015, 0x3F, th.tprog)]

/-- The core's CSRs that store what is written, with the bits they keep: STEALGRP, SAVEBASE, SPILLBASE, WDOG and PTBASE (R178, R180,
04_channels R94, 20_traps R414, 08_access R198). -/
def coreCsrs (k : Core) : List (Nat × Nat × Word) :=
  [(0x017, 0x1FF, k.stealgrp), (0x110, 0xC000FFFFFFFF0000, k.savebase), (0x111, 0xC000FFFFFFFF0000, k.spillbase),
   (0x114, 2 ^ 64 - 1, k.wdog), (0x116, 0xC00007FFFFFFF800, k.ptbase)]

/-- FACE, ROW and ACT as OUTROSE reads them; zero but in the quad's first cluster, and FACE zero past the active table (06_wheels
R147). -/
def outroseValue (s : State) (cl : Nat) : Nat :=
  let q := s.quad (cl / 4)
  if cl % 4 ≠ 0 then 0 else nth (if q.act = true then q.outer else q.outerShadow) q.row + 2 ^ 8 * q.row + if q.act = true then 2 ^ 12 else 0

/-- Part p of the row that ROSEIDX selects, n banks of five bits, the first met by rider 12 * p; zero past the active table (06_wheels
R146). -/
def rosePart (k : Cluster) (p n : Nat) : Nat :=
  let row := k.roseidx.toNat % 32
  let table := if k.roseidx.getLsbD 8 = true then k.inner else k.innerShadow
  if table.length ≤ row then 0 else ((List.range n).map fun j => nth (table.getD row []) (12 * p + j) % 32 * 32 ^ j).sum

/-- The CSRs that the core, its column, its cluster and its quad share and a program can write, by number, with what they read: MXSTAT
and CNT (R178, 04_channels R90), BANKROLE, ROSECTL, ROSEIDX, ROSEDATA and OUTROSE (06_wheels R136, R146 to R148), the IDOMs (09_homing
R229), TWINCTL (20_traps R412), ERRLOG (R403), PINBYPASS and ORPHANS (09_homing R239), and TTAB (04_channels R70). -/
def sharedCsrs (s : State) (c : Nat) : List (Nat × Word) :=
  let w := fun n => BitVec.ofNat 64 n
  let k := s.core c
  let q := s.cluster (c / 16)
  let quad := s.quad (c / 64)
  let col := s.column (c / 2)
  let b := fun (x : Bool) n => if x = true then 2 ^ n else 0
  [(0x016, k.mxstat), (0x100, q.bankrole),
   (0x101, w (quad.outer.length % 16 * 2 ^ 32 + q.inner.length * 2 ^ 24 + b q.refused 18 + b q.done 17 + b q.swap 16 + quad.sout * 2 ^ 8 +
     q.sin)),
   (0x102, q.roseidx), (0x103, w (rosePart q 0 12)), (0x104, w (rosePart q 1 12)), (0x105, w (rosePart q 2 8)),
   (0x106, w (outroseValue s (c / 16))), (0x113, w (col.miss * 2 ^ 32) ||| col.twinctl), (0x115, k.errlog ||| w (8 * k.errNext)),
   (0x119, w q.pinbypass), (0x11A, w q.orphans)] ++
  (List.range 16).map (fun j => (0x020 + j, w (look k.cnt j 0))) ++
  (List.range 8).map (fun d => (0x108 + d, w ((q.domain d).2 * 2 ^ 16 + (q.domain d).1))) ++
  (List.range 64).map fun j => (0x140 + j, look k.ttab j 0)

/-- The instruction leaves a CSR's old value in d and goes on; no memory and nothing the thread keeps changes. -/
def LeavesOld (i : Instr) (s : State) (c sl d : Nat) (old : Word) (after : State → Prop) : Prop :=
  ∃ t, exec i s = .next t ∧ Gets s t c sl d (widen old) ∧ (t.thread c sl).pc = (s.thread c sl).nextPc ∧ SameSpecial s t c sl ∧
    SameMemory s t ∧ after t

/-- Every other cluster is as before. -/
def OtherClusters (s t : State) (cl : Nat) : Prop := ∀ k, k ≠ cl → t.cluster k = s.cluster k

/-- Nothing that a write of a rose register, of an IDOM or of a counter changes is a core's, a column's or a stack's. -/
structure OnlyClusters (s t : State) (c sl : Nat) : Prop where
  core : { t.core c with rf := [], rfErr := [], slots := [] } = { s.core c with rf := [], rfErr := [], slots := [] }
  cores : ∀ k, k ≠ c → t.core k = s.core k
  slots : ∀ k j, k ≠ c ∨ j ≠ sl → t.slot k j = s.slot k j
  dies : t.baseDies = s.baseDies
  groups : t.groups = s.groups
  keys : t.keys = s.keys

/-- The role that a value of BANKROLE gives bank b: 0 SCRATCH, 1 CACHE, 2 TOB, 3 RETIRED (R136). -/
def roleOf (w : Word) (b : Nat) : Nat := w.toNat / 4 ^ b % 4

/-- A bank may not change to the role that a value of BANKROLE gives it: it would leave the CACHE role with a valid line, or the RETIRED
role while some rider meets it in no active row (06_wheels R153). -/
def MayNotChange (k : Cluster) (v : Word) (b : Nat) : Prop :=
  b < 32 ∧ roleOf v b ≠ roleOf k.bankrole b ∧
    ((roleOf k.bankrole b = 1 ∧ ∃ p ∈ k.lines, p.1 / 512 = b) ∨ (roleOf k.bankrole b = 3 ∧ ∃ i < 32, ∀ r ∈ k.inner, nth r i ≠ b))

/-- A pair bit that a value of TWINCTL would change although a slot of the pair is not free (20_traps R412). -/
def PairInUse (s : State) (col : Nat) (v : Word) (j : Nat) : Prop :=
  j < 15 ∧ (s.column col).twinctl.getLsbD j ≠ v.getLsbD j ∧
    ∃ k ∈ [2 * col, 2 * col + 1], (s.slot k j).st ≠ .free ∨ s.cyc (2 * col) < (s.slot k j).freeAt

/-- No cycle of a pass over a domain of a cluster is this one (09_homing R231). -/
def NoPassNow (k : Cluster) (d : Nat) : Prop := ∀ p ∈ k.passes, p.dom = some d → p.until_ < k.t ∨ k.t + 512 ≤ p.until_

/-- The instruction that writes a CSR, and the value it computes of the old value and of register a. -/
def csrWrites (d a n : Nat) (old x : Word) : List (Instr × Word) :=
  [(.csrWrite d a n, x), (.csrSet d a n, old ||| x), (.csrClear d a n, old &&& ~~~x)]

/-- A supervisor's instruction (02_lines R45, R47). -/
def supervisorOnly (i : Instr) : Bool := match i with
  | .csrRead _ n | .csrWrite _ _ n | .csrSet _ _ n | .csrClear _ _ n => decide (0x100 ≤ n)
  | .sysIdle | .sysTlbinv .. | .sysSavectx .. | .sysLoadctx .. | .sysScrub .. | .chanTtset .. => true
  | _ => false

/-! ### GLOBAL blocks at the core's own home slice (08_access R197 to R200, 09_homing R227, R228) -/

/-- Bytes from a GLOBAL address on that the core can read and write at once in its own slice: PTBASE is enabled, they lie in the
48-bit space, the newest entry of the translation cache maps all of them to a page that is readable and writable, not secure,
NAMED, homed at this core, without tag checks; and the core's first bank has role CACHE. -/
structure OwnSlice (s : State) (c : Nat) (ea : Word) (bytes : Nat) : Prop where
  enabled : (s.core c).ptbase.getLsbD 63 = true
  low : ea.toNat + bytes ≤ 2 ^ 48
  leaf : ∃ l rest, (s.core c).tcache = l :: rest ∧ (∀ i, i < bytes → (ea.toNat + i) / pageSize l.level = l.vpn) ∧
    l.entry.getLsbD 0 = true ∧ l.entry.getLsbD 1 = true ∧ l.entry.getLsbD 61 = false ∧ l.entry.getLsbD 58 = false ∧
    l.entry.getLsbD 60 = false ∧ l.entry.toNat / 2 ^ 44 % 4096 = c
  cacheBank : (s.cluster (c / 16)).bankrole.toNat / 4 ^ (2 * (c % 16)) % 4 = 1

/-- The operations that wait at rider r of a cluster, oldest first. -/
def waitingOps (s : State) (cl r : Nat) : List AccOp := (look (s.cluster cl).riders r []).map fun a => a.op

/-- The slot's thread is held at its instruction until n answers are in, of which none is yet. -/
def HeldFor (t : State) (c sl : Nat) (i : Instr) (n : Nat) : Prop :=
  (t.thread c sl).hold = .answer ∧ ∃ p, (t.thread c sl).pend = some p ∧ p.instr = i ∧ p.left = n ∧ p.got = [] ∧ p.stop = none

/-! ### The thread's own column and its cluster's banks (08_access R192 to R195, R202, R203) -/

/-- Bytes of LOCAL storage in the thread's own column that it may reach: it is no tiller, the cluster is assigned and not of a world
closed to the thread, for a store no frozen window holds their block, and no error has arisen in it. -/
structure OwnColumn (s : State) (c sl : Nat) (ea : Word) (width : Nat) (store : Bool) : Prop where
  plain : (s.thread c sl).tiller = none
  aligned : ea.toNat % width = 0
  low : ea.toNat < 2 ^ 29
  here : ea.toNat / 2 ^ 18 = c / 2
  tenant : s.tenantOf (c / 16) ≠ none
  world : (s.thread c sl).world = true ∨ (s.cluster (c / 16)).world = false
  thawed : store = true → ∀ p ∈ (s.column (c / 2)).frozen,
    ¬ (p.2.1 / 64 ≤ ea.toNat % 2 ^ 18 / 64 ∧ ea.toNat % 2 ^ 18 / 64 < p.2.1 / 64 + p.2.2)
  sound : find s.colErr (ea.toNat / 64) = none

/-- An element of a banked space in the thread's own cluster that it may reach. -/
structure OwnBank (s : State) (c sl : Nat) (mode : Mode) (ea : Word) (width : Nat) : Prop where
  aligned : ea.toNat % width = 0
  here : ea.toNat / 2 ^ 24 = c / 16
  small : c < 4096
  tenant : s.tenantOf (c / 16) ≠ none
  world : (s.thread c sl).world = true ∨ (s.cluster (c / 16)).world = false
  bank : s.mapBank mode ea.toNat ≠ none

/-- The core's port to its column store is free on this cycle: it moves one block a cycle (R202). -/
def PortIsFree (s : State) (c : Nat) : Prop :=
  find (s.column (c / 2)).portUsed (c % 2) ≠ some (s.cyc c) ∧
    ∀ p ∈ (s.column (c / 2)).port, p.src = c % 2 → p.at_ ≠ s.cyc c

/-- Where the port is not free, the instruction's one block has a later cycle of it, and its thread is held for that: no register
and no memory changes yet. That it is the next free cycle is the model's choice (log 91). -/
def WaitsForPort (i : Instr) (s : State) (c sl : Nat) : Prop :=
  ¬ PortIsFree s c → ∃ t, exec i s = .next t ∧ HeldFor t c sl i 1 ∧ (t.thread c sl).pc = (s.thread c sl).pc ∧
    SameRegs s t ∧ SameMemory s t ∧ ∃ p ∈ (t.column (c / 2)).port, p.src = c % 2 ∧ s.cyc c < p.at_ ∧ p.acc.agent = .thread c sl

/-- Byte j of a register. -/
def byteOf (v : VWord) (j : Nat) : Byte := BitVec.ofNat 8 (v.toNat / 256 ^ j)

/-- The number in n bytes of the column stores from an address on, the first least significant (R1). -/
def columnNumber (s : State) (ea n : Nat) : Nat := ofBytes ((List.range n).map fun j => s.colMem.read (ea + j))

/-- What LD makes of the number that its bytes hold (08_access R205). -/
def loaded (w : Width) (n : Nat) : VWord := match w with
  | .b8s => widen (BitVec.ofInt 64 (sextI n 8))
  | .b16s => widen (BitVec.ofInt 64 (sextI n 16))
  | .b32s => widen (BitVec.ofInt 64 (sextI n 32))
  | .b512 => BitVec.ofNat 512 n
  | _ => widen (BitVec.ofNat 64 n)

/-- The instruction's only effect is on bytes of the column stores: f names those that it writes. -/
def Stores (i : Instr) (s : State) (c sl : Nat) (f : Nat → Option Byte) : Prop :=
  ∃ t, exec i s = .next t ∧ (t.thread c sl).pc = (s.thread c sl).nextPc ∧ SameRegs s t ∧
    (∀ x, t.colMem.read x = (f x).getD (s.colMem.read x)) ∧ (∀ x, t.bankMem.read x = s.bankMem.read x) ∧
    (∀ x, t.hbm.read x = s.hbm.read x) ∧ (∀ x, t.lp.read x = s.lp.read x) ∧ t.bankBad = s.bankBad ∧ t.bankErr = s.bankErr ∧
    t.colErr = s.colErr ∧ t.sectors = s.sectors ∧
    (∀ k, (t.cluster k).lines = (s.cluster k).lines) ∧ SameSpecial s t c sl ∧ SameRest s t c sl

/-- Bits of a lane width. -/
def widthOf (w : LaneW) : Nat := match w with
  | .w64 => 64
  | .w32 => 32
  | .w16 => 16
  | .w8 => 8

/-- Lane i of n bits of a register. -/
def partOf (v : VWord) (i n : Nat) : Nat := v.toNat / 2 ^ (i * n) % 2 ^ n

/-- The lanes of a strided access and their addresses (12_vector R309). -/
def strided (s : State) (c sl b : Nat) (ea : Word) (w : LaneW) : List (Nat × Word) :=
  (List.range (512 / widthOf w)).map fun i => (i, ea + s.reg64 c sl b * BitVec.ofNat 64 i)

/-- The active lanes of a gather or scatter and their addresses: g[a] plus the sign-extended index times the bytes of a lane
(12_vector R313). -/
def indexed (s : State) (c sl a b : Nat) (w : LaneW) (m : Nat) : List (Nat × Word) :=
  ((List.range (512 / widthOf w)).filter fun i => ((s.thread c sl).mask m).getLsbD i).map fun i =>
    (i, s.reg64 c sl a + BitVec.ofInt 64 (sextI (partOf (s.reg c sl b) i (widthOf w)) (widthOf w) * (widthOf w / 8 : Nat)))

/-- All lanes lie in one block of the thread's own column. -/
def OneBlock (s : State) (c sl : Nat) (lanes : List (Nat × Word)) (width : Nat) (store : Bool) : Prop :=
  (∀ x ∈ lanes, OwnColumn s c sl x.2 width store) ∧ (∀ x ∈ lanes, ∀ y ∈ lanes, x.2.toNat / 64 = y.2.toNat / 64) ∧ lanes ≠ []

/-- The instruction's only effect is on lanes of register d: those named take the bytes at their addresses, the others stay. -/
def GathersTo (i : Instr) (s : State) (c sl d : Nat) (w : LaneW) (lanes : List (Nat × Word)) : Prop :=
  ∃ v, Sets i s c sl d v ∧ ∀ j, j < 512 / widthOf w → partOf v j (widthOf w) = match find lanes j with
    | some ea => columnNumber s ea.toNat (widthOf w / 8)
    | none => partOf (s.reg c sl d) j (widthOf w)

/-- What lanes of register d write: where lanes overlap, the highest one's bytes stay (R309, R313). -/
def scattered (s : State) (c sl d : Nat) (w : LaneW) (lanes : List (Nat × Word)) (x : Nat) : Option Byte :=
  (lanes.reverse.find? fun l => decide (l.2.toNat ≤ x) && decide (x < l.2.toNat + widthOf w / 8)).map fun l =>
    byteOf (s.reg c sl d) (l.1 * (widthOf w / 8) + (x - l.2.toNat))

/-! ### Accesses that wait for a bank (06_wheels R140, 08_access R207, 14_sync R351) -/

/-- An atomic instruction: its number, d, a, b, the register compared with, width, whether it releases, and its space. -/
def amoForm (i : Instr) : Option (Nat × Nat × Nat × Nat × Nat × Nat × Bool × Mode) :=
  let f := fun (op d a b z : Nat) (w64 : Bool) (o : Order) (spread : Bool) =>
    some (op, d, a, b, z, (if w64 then 8 else 4), decide (o = .rel ∨ o = .acqrel), if spread then Mode.spread else Mode.global)
  match i with
  | .amoAdd d a b w o _ sp => f 0 d a b 0 w o sp
  | .amoAnd d a b w o _ sp => f 1 d a b 0 w o sp
  | .amoOr d a b w o _ sp => f 2 d a b 0 w o sp
  | .amoXor d a b w o _ sp => f 3 d a b 0 w o sp
  | .amoMin d a b w o _ sp => f 4 d a b 0 w o sp
  | .amoMax d a b w o _ sp => f 5 d a b 0 w o sp
  | .amoMinn d a b w o _ sp => f 6 d a b 0 w o sp
  | .amoMaxn d a b w o _ sp => f 7 d a b 0 w o sp
  | .amoSwap d a b w o _ sp => f 8 d a b 0 w o sp
  | .amoCas d a b z w o _ sp => f 9 d a b z w o sp
  | .amoFadd32 d a b o _ sp => f 10 d a b 0 false o sp
  | .amoFadd64 d a b o _ sp => f 11 d a b 0 true o sp
  | _ => none

/-- A memory instruction as it goes to a bank: the registers it names and writes, its space, whether it releases, and each access's
address, width and operation. -/
structure RequestForm where
  names : List Nat
  writes : List Nat
  mode : Mode
  rel : Bool
  els : List (Word × Nat × AccOp)

/-- The requests of a memory instruction whose accesses are whole or lie in one block. -/
def requestForm (s : State) (c sl : Nat) (i : Instr) : Option RequestForm :=
  let g := fun (r : Nat) => s.reg64 c sl r
  let bytes := fun (r n : Nat) => (List.range n).map fun j => byteOf (s.reg c sl r) j
  let regs := fun (d n : Nat) => (List.range n).map fun j => d + j
  let run := fun (ea : Word) (n : Nat) (f : Nat → AccOp) =>
    (List.range n).map fun j => (ea + BitVec.ofNat 64 (64 * j), 64, f j)
  let sp := fun (k : Space) => match k with
    | .spread => Mode.spread
    | .tob => Mode.tob
    | .bank => Mode.bank
  let form := fun (names writes : List Nat) (mode : Mode) (rel : Bool) (els : List (Word × Nat × AccOp)) =>
    some ({ names := names, writes := writes, mode := mode, rel := rel, els := els } : RequestForm)
  match i with
  | .ld d a b acq w mode off => form ([d, b, a]) ([d]) mode false
      ([(g a + g b * BitVec.ofNat 64 (widthBytes w) + BitVec.ofInt 64 off, widthBytes w, .load (widthBytes w) acq)])
  | .st d a b rel w mode off => form ([d, b, a]) ([]) mode rel
      ([(g a + g b * BitVec.ofNat 64 (widthBytes w) + BitVec.ofInt 64 off, widthBytes w, .store (bytes d (widthBytes w)))])
  | .ldm d a n mode off => form (a :: regs d n) (regs d n) mode false
      (run (g a + BitVec.ofInt 64 (64 * off)) n fun _ => .load 64 false)
  | .stm d a n mode off => form (a :: regs d n) ([]) mode false
      (run (g a + BitVec.ofInt 64 (64 * off)) n fun j => .store (bytes (d + j) 64))
  | .sld d a k acq off n => form (a :: regs d n) (regs d n) (sp k) false
      (run (g a + BitVec.ofInt 64 off) n fun _ => .load 64 acq)
  | .sst d a k rel off n => form (a :: regs d n) ([]) (sp k) rel
      (run (g a + BitVec.ofInt 64 off) n fun j => .store (bytes (d + j) 64))
  | .vld d a acq off mode none => form ([d, a]) ([d]) mode false
      ([(g a + BitVec.ofInt 64 off, 64, .load 64 acq)])
  | .vst d a rel off mode (.block 0) => form ([d, a]) ([]) mode rel
      ([(g a + BitVec.ofInt 64 off, 64, .store (bytes d 64))])
  | i => match amoForm i with
    | some (op, d, a, b, z, w, rel, mode) => form (if op = 9 then [d, a, b, z] else [d, a, b]) [d] mode rel
      [(g a, w, .amo op w ((g b).toNat % 2 ^ (8 * w)) ((g z).toNat % 2 ^ (8 * w)))]
    | none => none

/-- One store of one block: relaxed and to GLOBAL storage it goes on before it is performed (08_access R206). -/
def oneStore (i : Instr) : Bool := match i with
  | .st .. | .vst .. => true
  | _ => false

/-- The element can be reached in the thread's own cluster: at its core's own home slice, or in its cluster's banks. -/
def Reaches (s : State) (c sl : Nat) (mode : Mode) (ea : Word) (width : Nat) : Prop := match mode with
  | .global => ea.toNat % width = 0 ∧ OwnSlice s c ea width
  | .spread => OwnBank s c sl .spread ea width
  | .tob => OwnBank s c sl .tob ea width
  | .bank => OwnBank s c sl .bank ea width
  | _ => False

/-- What a form's first access writes to its first register when it is answered with bytes (08_access R205, R208, 14_sync R351). -/
def answerValue (i : Instr) (bs : List Byte) : VWord := match i with
  | .ld _ _ _ _ w _ _ => loaded w (ofBytes bs)
  | .ldm .. | .sld .. | .vld .. => BitVec.ofNat 512 (ofBytes bs)
  | _ => widen (BitVec.ofNat 64 (ofBytes bs))

/-- The new value that an atomic operation gives x, of n bits, with operand y and, for CAS, z; none where it stores nothing (14_sync
R351). The two floating sums round to nearest even. -/
def amoNew (op n x y z : Nat) : Option Nat := match op with
  | 0 => some ((x + y) % 2 ^ n)
  | 1 => some (x &&& y)
  | 2 => some (x ||| y)
  | 3 => some (x ^^^ y)
  | 4 => some (if sextI x n < sextI y n then x else y)
  | 5 => some (if sextI x n < sextI y n then y else x)
  | 6 => some (if x < y then x else y)
  | 7 => some (if x < y then y else x)
  | 8 => some y
  | 9 => if x = z then some y else none
  | 10 => some (specF32.add .rne x y).1
  | _ => some (specF64.add .rne x y).1

/-- Byte x of the banks after an operation at address base + off of a block, given the bytes before. -/
def bankByteAfter (s : State) (base off : Nat) (op : AccOp) (x : Nat) : Byte :=
  let old := s.bankMem.read x
  match op with
  | .store bs => if base + off ≤ x ∧ x < base + off + bs.length then bs.getD (x - (base + off)) 0 else old
  | .storeSome parts =>
    match parts.reverse.find? (fun p => decide (base + off + p.1 ≤ x) && decide (x < base + off + p.1 + p.2.length)) with
    | some p => p.2.getD (x - (base + off + p.1)) 0
    | none => old
  | .amo k w y z =>
    let v := ofBytes ((List.range w).map fun j => s.bankMem.read (base + off + j))
    match amoNew k (8 * w) v y z with
    | some n => if base + off ≤ x ∧ x < base + off + w then BitVec.ofNat 8 (n / 256 ^ (x - (base + off))) else old
    | none => old
  | _ => old

/-- What an operation there returns: the bytes that stood at the address before. -/
def bankReturns (s : State) (base off : Nat) (op : AccOp) : List Byte := match op with
  | .load n _ => (List.range n).map fun j => s.bankMem.read (base + off + j)
  | .amo _ w _ _ => (List.range w).map fun j => s.bankMem.read (base + off + j)
  | _ => []

/-- An operation that lies in its block: a load, a store, parts of a store, or an atomic of its width. -/
def FitsBlock (off : Nat) (op : AccOp) : Prop := match op with
  | .load n _ => off + n ≤ 64
  | .store bs => off + bs.length ≤ 64
  | .storeSome parts => ∀ p ∈ parts, off + p.1 + p.2.length ≤ 64
  | .amo o w y z => off + w ≤ 64 ∧ (w = 4 ∨ w = 8) ∧ o ≤ 11 ∧ (o = 10 → w = 4) ∧ (o = 11 → w = 8) ∧ y < 2 ^ (8 * w) ∧
      z < 2 ^ (8 * w)
  | _ => False

/-- An access at rider i of a cluster passes no earlier one of its agent to its bank that waits at another of the riders 28 to 31
(15_ordering R379). -/
def PassesNone (k : Cluster) (i : Nat) (a : Access) : Prop :=
  28 ≤ i → ∀ p ∈ k.riders, 28 ≤ p.1 → p.1 ≠ i → ∀ b ∈ p.2, b.agent = a.agent → b.uid = a.uid → b.bank = a.bank → b.cl = a.cl →
    ¬ (b.reqT < a.reqT ∨ (b.reqT = a.reqT ∧ b.idx < a.idx))

/-- Register d can be written now: the thread is plain, or d is g0, or the tiller has a copy of it, or an entry to spare (05_crowns
R110, R111). -/
def HasEntry (s : State) (c sl d : Nat) : Prop :=
  ∀ x, (s.thread c sl).tiller = some x → d = 0 ∨ find x.priv d ≠ none ∨ x.spare ≠ []

/-! ### Messages, records and threads (04_channels) -/

/-- A content is on its way. -/
def OnItsWay (t : State) (x : Content) : Prop := ∃ id, find t.items id = some x

/-- The event's subject is this content. -/
def Delivers (s : State) (x : Content) : Prop := find s.items s.subj.item = some x

/-- The thread waits for an answer to its instruction. -/
def WaitsAt (s : State) (c sl : Nat) (i : Instr) : Prop :=
  (s.thread c sl).hold = .answer ∧ ∃ p, (s.thread c sl).pend = some p ∧ p.instr = i

/-- The message of a SEND with address word w and payload registers b on (R73). -/
def messageOf (s : State) (c sl : Nat) (remop : Bool) (w : Word) (dev b count : Nat) : Msg :=
  { remop := remop, srcDev := s.devNo, srcCore := c, srcSlot := sl, world := (s.thread c sl).world, tenant := s.tenantOf (c / 16),
    dstDev := dev, dstCore := w.toNat / 2 ^ 36 % 4096, channel := w.toNat / 2 ^ 30 % 64,
    words := (List.range count).map fun j => s.reg64 c sl (b + j) }

/-- The result is a value in the busy register, where there is one; the thread goes on. -/
def BusyResult (s t : State) (c sl : Nat) (busy : Option Nat) (v : Word) : Prop :=
  (t.thread c sl).pc = (s.thread c sl).nextPc ∧ match busy with
    | some d => Gets s t c sl d (widen v)
    | none => SameRegs s t

/-- A slot's turn is put into the cycle once more, in the place of its core (06_wheels R152): nothing that comes before that place has
changed, and what comes there first is a later core's turn, or its own slot's turn of this cycle, or what comes last in a cycle. -/
def TurnInPlace (s t : State) (c sl : Nat) : Prop :=
  ∃ before after, s.agenda = before ++ after ∧ t.agenda = before ++ Move.turn c sl :: after ∧
    (∀ m ∈ before, m.after c (s.cyc c % 16) = false) ∧ ∀ m rest, after = m :: rest → m.after c (s.cyc c % 16) = true

/-- A core has a slot and entries for a migrant (08_access R220): it runs, a program slot that is no twin's is free, and so are as many
entries in a row as the thread's limit. -/
def FitsCore (s : State) (c limit : Nat) : Prop :=
  (s.core c).pre = .running ∧ (freeBase (s.core c) (s.cyc c) limit).isSome = true ∧
    ∃ j, j < 15 ∧ (s.slot c j).st = .free ∧ (s.slot c j).freeAt ≤ s.cyc c ∧ s.paired c j = false

/-- A candidate among the arrivals (R92): the oldest TASK of a channel whose entry is valid and not blocked. -/
def Candidate (k : Core) (a : Arrival) : Prop :=
  k.arrivals.find? (fun x => !x.msg.remop && decide (x.msg.channel = a.msg.channel)) = some a ∧
    (k.tt a.msg.channel).getLsbD 63 = true ∧ (k.tt a.msg.channel).getLsbD 61 = false

/-- The effective priority (R92): one more for every 4096 cycles of age, 3 at most. -/
def priorityAt (now base entered : Nat) : Nat := min 3 (base + (now - entered) / 4096)

/-- A thread is placed in a slot (R78): it runs from a PC with a register limit, a priority and a world; the words stand in g1 upward
and every other register reads zero; masks, flags, trap registers and handles are clear; it issues two turns later at the
earliest. -/
structure Placed (s t : State) (c sl : Nat) (at_ : Word) (lim pr : Nat) (wd sv : Bool) (ws : List Word) : Prop where
  run : (t.slot c sl).st = .run
  pc : (t.thread c sl).pc = at_
  limit : (t.thread c sl).limit = lim
  pri : (t.thread c sl).pri = pr
  world : (t.thread c sl).world = wd
  sup : (t.thread c sl).sup = sv
  tid : (t.thread c sl).tid = 16 * c + sl
  words : ∀ r, 1 ≤ r → r < lim → t.reg c sl r = match ws[r - 1]? with
    | some w => widen w
    | none => 0
  masks : (t.thread c sl).masks = []
  flags : (t.thread c sl).fflags = 0
  traps : (t.thread c sl).thandler = 0 ∧ (t.thread c sl).tepc = 0 ∧ (t.thread c sl).tcause = 0 ∧ (t.thread c sl).tword = 0 ∧
    (t.thread c sl).taddr = 0 ∧ (t.thread c sl).tprog = 0
  handles : (t.thread c sl).handles = []
  issueAt : (t.thread c sl).issueAt = s.cyc c + 32

/-! ### Context records (20_traps R407, R408) -/

/-- Word j of block b of a record. -/
def recordWord (bs : List Byte) (b j : Nat) : Nat := ofBytes ((bs.drop (64 * b + 8 * j)).take 8)

/-- The record passes the checks for a thread in SERVICE: V, the PC, the fields that are its own, and the zeros of R407. -/
structure FitsThread (th : Thread) (bs : List Byte) : Prop where
  valid : (recordWord bs 0 1).testBit 63 = true
  pc : headAddress (BitVec.ofNat 64 (recordWord bs 0 0)) = true
  tid : recordWord bs 0 2 = th.tid ∧ recordWord bs 0 2 < 65536
  limit : 8 * (recordWord bs 0 1 / 2 ^ 54 % 16 + 1) = th.limit
  tiller : (recordWord bs 0 1).testBit 60 = th.tiller.isSome
  world : (recordWord bs 0 1).testBit 62 = th.world
  heads : (recordWord bs 0 1).testBit 38 = th.heads
  state : recordWord bs 0 1 / 2 ^ 4 % 2 ^ 34 = 0
  lasts : recordWord bs 2 7 = 0 ∧ recordWord bs 3 7 = 0
  plain : th.tiller = none → ∀ j < 4, recordWord bs 3 (2 + j) = 0
  held : recordWord bs 3 6 / 2 ^ 40 % 2 ^ 23 = 0 ∧ recordWord bs 3 6 / 2 ^ 23 % 2 ^ 9 = 0
  handles : ∀ h < 16, recordWord bs (4 + h) 7 = 0 ∧ recordWord bs (4 + h) 6 ≤ 1

/-- The record passes the checks for a free slot: V, no tiller, no crown, ST = 1, and the PC. -/
def FitsFreeSlot (bs : List Byte) : Prop :=
  (recordWord bs 0 1).testBit 63 = true ∧ (recordWord bs 0 1).testBit 60 = false ∧ (recordWord bs 0 1).testBit 38 = false ∧
    recordWord bs 0 1 % 16 = 1 ∧ headAddress (BitVec.ofNat 64 (recordWord bs 0 0)) = true

/-- An arrival record of R344, where its valid bit is set. -/
def recordArrival (w : Nat) : Option BarRec :=
  if w.testBit 16 = true then some { group := w / 2 ^ 24 % 256, bar := w / 2 ^ 17 % 128, phase := w % 2 ^ 16 } else none

/-- A slot's thread runs, with everything that a record gives it. -/
structure Installed (t : State) (c sl : Nat) (bs : List Byte) : Prop where
  run : (t.slot c sl).st = .run
  pc : (t.thread c sl).pc = BitVec.ofNat 64 (recordWord bs 0 0)
  tid : (t.thread c sl).tid = recordWord bs 0 2 % 65536
  limit : (t.thread c sl).limit = 8 * (recordWord bs 0 1 / 2 ^ 54 % 16 + 1)
  world : (t.thread c sl).world = (recordWord bs 0 1).testBit 62
  sup : (t.thread c sl).sup = (recordWord bs 0 1).testBit 61
  pri : (t.thread c sl).pri = recordWord bs 0 1 / 2 ^ 58 % 4
  wo : (t.thread c sl).wo = (recordWord bs 0 1).testBit 53
  level : (t.thread c sl).level = recordWord bs 0 1 / 2 ^ 50 % 8
  fflags : (t.thread c sl).fflags = BitVec.ofNat 64 (recordWord bs 0 3) &&& 0x1F
  traps : (t.thread c sl).thandler = BitVec.ofNat 64 (recordWord bs 0 4) ∧ (t.thread c sl).tepc = BitVec.ofNat 64 (recordWord bs 0 5) ∧
    (t.thread c sl).tcause = BitVec.ofNat 64 (recordWord bs 0 6) &&& 0xFF ∧ (t.thread c sl).taddr = BitVec.ofNat 64 (recordWord bs 0 7) ∧
    (t.thread c sl).tword = BitVec.ofNat 64 (recordWord bs 1 0) ∧ (t.thread c sl).tprog = BitVec.ofNat 64 (recordWord bs 1 1) &&& 0x3F
  template : (t.thread c sl).tplbase = BitVec.ofNat 64 (recordWord bs 1 2) &&& 0x1FFFFFFF ∧
    (t.thread c sl).tplsize = BitVec.ofNat 64 (recordWord bs 1 3) &&& 0x1FF
  lastcrown : (t.thread c sl).lastcrown = BitVec.ofNat 64 (recordWord bs 1 4)
  monitor : match recordWord bs 1 5 / 2 ^ 62 % 4 with
    | 1 => ∃ r, (t.thread c sl).monitor = .armed (recordWord bs 1 5 % 2 ^ 40) r
    | 2 => (t.thread c sl).monitor = .fired (recordWord bs 1 5 / 2 ^ 60 % 4) (recordWord bs 1 5 % 2 ^ 40)
    | _ => (t.thread c sl).monitor = .disarmed
  seen : ∀ m < 4, look (t.thread c sl).seen m 0 = recordWord bs 1 (6 + m / 2) / 2 ^ (32 * (m % 2)) % 2 ^ 32
  masks : ∀ m < 7, look (t.thread c sl).masks (m + 1) 0 = BitVec.ofNat 64 (recordWord bs 2 m)
  arrivals : (t.thread c sl).records =
    ((List.range 4).map fun r => recordArrival (recordWord bs 3 (r / 2) / 2 ^ (32 * (r % 2)) % 2 ^ 32)).filterMap id
  held : (t.thread c sl).heldWait = if (recordWord bs 3 6).testBit 63 = true then
    some { group := recordWord bs 3 6 / 2 ^ 32 % 256, bar := recordWord bs 3 6 / 2 ^ 16 % 128, phase := recordWord bs 3 6 % 2 ^ 16 } else none
  handles : ∀ h < 16, find (t.thread c sl).handles h = if (recordWord bs (4 + h) 6).testBit 0 = true then
    let w := fun j => BitVec.ofNat 64 (recordWord bs (4 + h) j)
    some { desc := w 0, geo := w 1, ccur := w 2, pcur := w 3, seenp := w 4, seenc := w 5 } else none
  registers : ∀ x, 0 < x → x < (t.thread c sl).limit →
    t.reg c sl x = BitVec.ofNat 512 (ofBytes ((bs.drop (64 * (20 + x))).take 64))

/-- The answer that PACKET_DELIVERY takes in is the last to a thread's instruction of n blocks: with it each has its 64 of the bytes,
without a fault. -/
def LastBlock (s : State) (c sl : Nat) (i : Instr) (a : Access) (n : Nat) (bs : List Byte) : Prop :=
  let block := fun j => (bs.drop (64 * j)).take 64
  bs.length = 64 * n ∧ a.idx < n ∧ a.members = [] ∧ a.agent = .thread c sl ∧ a.uid = (s.thread c sl).uid ∧ a.posted = false ∧
    s.subj.sub = 1 ∧ find s.items s.subj.item = some (.accAns a { bytes := block a.idx }) ∧ (s.thread c sl).hold = .answer ∧
    ∃ p, (s.thread c sl).pend = some p ∧ p.instr = i ∧ p.left = 1 ∧ p.stop = none ∧
      p.got = ((List.range n).filter fun j => decide (j ≠ a.idx)).map fun j => (j, ({ bytes := block j } : AccResult))

/-! ### Tables, roles and slices (06_wheels, 09_homing) -/

/-- A list is a permutation of the numbers below n. -/
def Permutes (l : List Nat) (n : Nat) : Prop := l.length = n ∧ ∀ i, i < n → i ∈ l

/-- The groups that an outer row gives the four clusters of a quad (R147). -/
def rowGroups (f : Nat) : List Nat := [f % 4, f / 4 % 4, f / 16 % 4, f / 64 % 4]

/-- The rows of a quad's shadow outer table. -/
def shadowOuter (q : Quad) : List Nat := q.outerShadow.take (if q.sout = 0 then 16 else q.sout)

/-- A swap of a quad's outer table is pending that leaves a table other than the identity (01_device R15). -/
def OuterSwapPending (s : State) (q : Nat) : Prop := (s.cluster (4 * q)).swap = true ∧ shadowOuter (s.quad q) ≠ [0xE4]

/-- One of the six rules on which a swap is refused holds (R150). -/
def SwapIsRefused (s : State) (cl : Nat) : Prop :=
  let k := s.cluster cl
  let q := s.quad (cl / 4)
  let rows := k.innerShadow.take k.sin
  let new := if cl % 4 = 0 then shadowOuter q else q.outer
  (k.sin = 0 ∨ 32 < k.sin) ∨ (∃ r ∈ rows, ¬ Permutes r 32) ∨
  (∃ i b, i < 32 ∧ b < 32 ∧ roleOf k.bankrole b ≠ 3 ∧ ∀ r ∈ rows, r.getD i 0 ≠ b) ∨
  (cl % 4 = 0 ∧ ((∃ f ∈ new, ¬ Permutes (rowGroups f) 4) ∨ ∃ j, j < 4 ∧ ∀ f ∈ new, (rowGroups f).getD j 0 ≠ j)) ∨
  (new ≠ [0xE4] ∧ ∃ j, j < 4 ∧ cl / 4 * 4 + j ≠ cl ∧ (s.cluster (cl / 4 * 4 + j)).inner.length ≠ k.sin) ∨
  (cl % 4 = 0 ∧ q.outer ≠ [0xE4] ∧ new ≠ [0xE4] ∧ ¬ (k.sin * new.length ∣ k.inner.length * q.outer.length))

/-- The cycle on which a pending swap takes effect or is refused (R149). -/
def SwapFallsDue (s : State) (cl : Nat) : Prop :=
  let k := s.cluster cl
  let q := s.quad (cl / 4)
  let lead := s.cluster (cl / 4 * 4)
  let new := shadowOuter q
  k.swap = true ∧ k.swapAt < k.t ∧
  (cl % 4 ≠ 0 → k.t % k.inner.length = 0) ∧
  (cl % 4 = 0 → k.t % (k.inner.length * q.outer.length) = 0 ∧
    (q.outer = [0xE4] → new ≠ [0xE4] → ∀ j, j < 4 → (s.cluster (cl / 4 * 4 + j)).up = true →
      (s.cluster (cl / 4 * 4 + j)).stopped = 0 ∧
        (s.cluster (cl / 4 * 4 + j)).t % max 1 (lead.sin * new.length) = lead.t % max 1 (lead.sin * new.length)) ∧
    ∀ j, j < 4 → ∀ p ∈ (s.cluster (cl / 4 * 4 + j)).riders, ∀ a ∈ p.2, a.held = false → a.cl ≠ cl / 4 * 4 + j →
      a.cl / 4 = cl / 4 ∧ ∃ f ∈ new, (rowGroups f).getD j 0 = a.cl % 4)

/-- Some access to a bank whose role would change, requested before the write, is not yet performed: it waits at a rider of the quad,
or its fill is under way. -/
def RolesAreBusy (s : State) (cl : Nat) (new : Word) : Prop :=
  let moves := fun (b : Nat) => b < 32 ∧ roleOf (s.cluster cl).bankrole b ≠ roleOf new b
  (∃ j, j < 4 ∧ ∃ p ∈ (s.cluster (cl / 4 * 4 + j)).riders, ∃ a ∈ p.2, a.held = false ∧ a.cl = cl ∧ moves a.bank) ∨
  ∃ p ∈ s.items, ∃ a, p.2 = .acc a ∧ a.filled = true ∧ a.homeCore / 16 = cl ∧ ∃ b, s.homeBank a = some b ∧ moves b

/-- A bank that may not change as asked (R153). -/
def RoleIsKept (k : Cluster) (new : Word) (b : Nat) : Prop :=
  b < 32 ∧ roleOf k.bankrole b ≠ roleOf new b ∧
    ((roleOf k.bankrole b = 1 ∧ ∃ p ∈ k.lines, p.1 / 512 = b) ∨
      (roleOf k.bankrole b = 3 ∧ ∃ i, i < 32 ∧ ∀ r ∈ k.inner, r.getD i 0 ≠ b))

/-- A line in way w is homed there: its bank and set, and for a line of a domain its home core, are those of R228. -/
def staysHome (k : Cluster) (w : Nat) (x : Line) : Bool :=
  decide (homeBankSet k.bankrole x.l (w / 1024) = some (w / 512, w % 512 / 8)) && match x.dom with
    | some d => decide ((k.domain d).1 ≠ 0) && decide (homeLocal x.l (k.domain d).1 = w / 1024)
    | none => true

/-- What a pass makes of a line in way w (R231, R232): it stays where it is still homed in that place, and an orphan stays; elsewhere a
clean line goes, and a dirty one becomes an orphan, unpinned. -/
def dealtWith (k : Cluster) (w : Nat) (x : Line) : Option Line :=
  if staysHome k w x = true ∨ x.orphan = true then some x
  else if ∃ y ∈ x.sectors, y.valid = true ∧ y.dirty = true then some { x with orphan := true, pinned := false }
  else none

/-- The number by which a home slice keeps an access's line. -/
def lineNo (a : Access) : Nat := 2 * (a.pa / 192) + if a.tier = true then 1 else 0

/-- A request is accepted by its home and served at once: the island is up, its generation is the domain's, its line is homed there, no
pass and no role change runs there, no earlier access of the line is in progress, the line has not been written on this cycle, it
neither checks a tag nor waits for a stack copy, and it is not another device's. -/
structure AtItsHome (s : State) (a : Access) : Prop where
  up : (s.cluster (a.homeCore / 16)).up = true
  first : a.filled = false
  gen : a.hashed = true → ((s.cluster (a.homeCore / 16)).domain (a.home % 8)).2 = a.gen
  roles : (s.cluster (a.homeCore / 16)).roleChange = none
  passes : (s.cluster (a.homeCore / 16)).passes = []
  untagged : a.tagchk = false
  clean : a.poison = false
  direct : a.stamp = 0
  homed : a.hashed = true → let mask := ((s.cluster (a.homeCore / 16)).domain (a.home % 8)).1
    mask ≠ 0 ∧ homeLocal (a.pa / 192) mask = a.homeCore % 16
  alone : look (s.core a.homeCore).homeQ (lineNo a) [] = []
  fresh : ¬ ((s.core a.homeCore).wroteAt = (s.cluster (a.homeCore / 16)).t ∧ lineNo a ∈ (s.core a.homeCore).wroteNow)
  inside : ∀ d n p c e, a.agent ≠ .device d n p c e
  told : ∀ x ∈ s.devAcks, x.agent ≠ a.agent

/-- No error has arisen in the three blocks of its bank in which a way of a cluster stands (06_wheels R155). -/
def WayIsSound (s : State) (cl w : Nat) : Prop := ∀ j, j < 3 → find s.bankErr (wayAddr cl w / 64 + j) = none

/-- A pass over the slice of the access's home runs on this cycle (R232), which began at most 512 cycles ago. -/
def SlicePassRuns (s : State) (a : Access) (p : Pass) : Prop :=
  let k := s.cluster (a.homeCore / 16)
  p ∈ k.passes ∧ p.dom = none ∧ p.core = a.homeCore % 16 ∧ k.t ≤ p.until_ ∧ p.until_ < k.t + 512

/-- The access as its home has accepted it, with the cycle of that. -/
def accepted (s : State) (a : Access) : Access := { a with filled := true, reqT := (s.cluster (a.homeCore / 16)).t }

/-- Bytes off to off + n of a line meet its sector j (R224). -/
def InSector (off n j : Nat) : Prop := j < 4 ∧ off < 48 * j + 48 ∧ 48 * j < off + n

/-- The event is scheduled: the row, on the item, at the cluster, on the cycle. -/
def Scheduled (t : State) (row : Instr) (cl item due : Nat) : Prop :=
  ∃ e ∈ t.events, e.row = row ∧ e.cl = some cl ∧ e.subj.item = item ∧ e.due = due

/-! ### The copy engine (10_engines) -/

/-- The thread is held at its instruction, to try again on its next turn: its PC, every register and all memory stay. -/
def StaysHeld (i : Instr) (s : State) (c sl : Nat) : Prop :=
  ∃ t, exec i s = .next t ∧ (t.thread c sl).hold = .again ∧ (t.thread c sl).pc = (s.thread c sl).pc ∧ SameRegs s t ∧ SameMemory s t ∧
    SameSpecial s t c sl

/-- The oldest request of core c is q, and the engine takes it on this cycle (R244). -/
structure TakesRequest (s : State) (c : Nat) (q : Req) (rest : List Req) : Prop where
  unit : s.subj.unit = c
  first : s.subj.sub = 0
  fifo : (s.core c).fifo = q :: rest
  own : q.core = c
  free : (s.core c).running = none
  due : q.at_ ≤ s.cyc c ∧ (s.core c).engineAt ≤ s.cyc c

/-- The rows that take requests, with their KIND (R247). -/
def requestKinds : List (Instr × Nat) :=
  [(.copy, 0x01), (.copy2d, 0x02), (.fill, 0x03), (.mcread, 0x04), (.wbr, 0x05), (.invr, 0x06), (.sqz, 0x10), (.xpnd, 0x11)]

/-- Word w0 of a request (R247). -/
def requestWord (kind tag cnt scope ssp dsp aux : Nat) : Nat :=
  kind * 2 ^ 56 + tag * 2 ^ 50 + cnt * 2 ^ 46 + scope * 2 ^ 43 + ssp * 2 ^ 40 + dsp * 2 ^ 37 + aux * 2 ^ 16

/-- A request's tag. -/
def tagOf (q : Req) : Nat := q.w0.toNat / 2 ^ 50 % 64

/-- The request has ended: its TAGDONE bit is set, its TAGFREE bit where that was not set before, and the tag is out of use, its counter is
one less (zero stays zero), and the core's next request may be taken from the next cycle on (R244, R249, R250, R254). -/
structure RequestEnds (s t : State) (c : Nat) (q : Req) (free miss : Bool) : Prop where
  running : (t.core c).running = none
  done : (t.core c).tagdone = (s.core c).tagdone ||| BitVec.ofNat 64 (2 ^ tagOf q)
  freed : (t.core c).tagfree = if free = true then (s.core c).tagfree else (s.core c).tagfree ||| BitVec.ofNat 64 (2 ^ tagOf q)
  unused : ∀ x, x ∈ (t.core c).inUse ↔ x ∈ (s.core c).inUse ∧ x ≠ tagOf q
  mxstat : (t.core c).mxstat = if miss = true then (s.core c).mxstat ||| BitVec.ofNat 64 (2 ^ tagOf q) else (s.core c).mxstat
  counter : let n := q.w0.toNat / 2 ^ 46 % 16
    n ≠ 0 → look (s.core c).cnt n 0 < 65536 → look (t.core c).cnt n 0 = look (s.core c).cnt n 0 - 1
  next : (t.core c).engineAt = s.cyc c + 1

/-- A request runs: it is out of the FIFO, its core's one request in progress, and none of its tag's bits is set by its start. -/
structure RequestRuns (s t : State) (c : Nat) (q : Req) (rest : List Req) : Prop where
  fifo : (t.core c).fifo = rest
  running : ∃ r, (t.core c).running = some r ∧ r.req = q
  done : (t.core c).tagdone = (s.core c).tagdone
  freed : (t.core c).tagfree = (s.core c).tagfree
  inUse : (t.core c).inUse = (s.core c).inUse

/-- A block of LOCAL storage of the pushing core's cluster that the request may reach. -/
structure OwnBlock (s : State) (c : Nat) (q : Req) (ea : Word) : Prop where
  aligned : ea.toNat % 64 = 0
  low : ea.toNat < 2 ^ 29
  here : ea.toNat / 2 ^ 18 / 8 = c / 16
  tenant : s.tenantOf (c / 16) ≠ none ∧ q.tenant = s.tenantOf (c / 16)
  world : q.world = true ∨ (s.cluster (c / 16)).world = false

/-! ### Vector instructions (11_formats, 12_vector) -/

/-- The instruction gives register d a value and the thread its new masks or flags, and goes on; nothing else changes. -/
def Gives (i : Instr) (s : State) (c sl d : Nat) (v : VWord) (f : Thread → Thread) : Prop :=
  ∃ t, exec i s = .next t ∧ Gets s t c sl d v ∧ (t.thread c sl).pc = (s.thread c sl).nextPc ∧
    SameSpecial (s.onThread c sl f) t c sl ∧ SameMemory s t ∧ SameRest s t c sl

/-- FFLAGS joined with the flags of the lanes below n that act names (R293). -/
def withFlags (n : Nat) (act : Nat → Bool) (f : Nat → Nat × Nat) (th : Thread) : Thread :=
  { th with fflags := th.fflags ||| BitVec.ofNat 64 ((((List.range n).filter act).map fun j => (f j).2).foldl (fun x y => x ||| y) 0) }

/-- A lanewise instruction: the registers it reads beside d, its mask, its lane width, and what it gives each active lane: bits and
flags. -/
structure LaneForm where
  reads : List Nat
  d : Nat
  m : Nat
  w : Nat
  f : Nat → Nat × Nat

/-- Active lanes take their results, the others keep their bits, and the active lanes' flags are joined into FFLAGS; nothing else changes
(R292, R293). -/
def ActsOnLanes (i : Instr) (s : State) (c sl : Nat) (q : LaneForm) : Prop :=
  let act := fun (j : Nat) => ((s.thread c sl).mask q.m).getLsbD j
  ∃ v, Gives i s c sl q.d v (withFlags (512 / q.w) act q.f) ∧
    ∀ j, j < 512 / q.w → partOf v j q.w = if act j = true then (q.f j).1 % 2 ^ q.w else partOf (s.reg c sl q.d) j q.w

/-- Width and fraction bits of a lane type (R269). -/
def shapeOf (t : FType) : Nat × Nat := match t with
  | .f64 => (64, 52)
  | .f32 => (32, 23)
  | .bf16 => (16, 7)
  | .f16 => (16, 10)

/-- The bits of an encoding below its sign. -/
def magnitude (w x : Nat) : Nat := x % 2 ^ (w - 1)
/-- The sign bit, in place. -/
def signOf (w x : Nat) : Nat := x / 2 ^ (w - 1) % 2 * 2 ^ (w - 1)
/-- The encoding of +infinity (R270). -/
def infinityOf (w fb : Nat) : Nat := 2 ^ (w - 1) - 2 ^ fb
/-- The canonical NaN (R276). -/
def nanBits (w fb : Nat) : Nat := infinityOf w fb + 2 ^ (fb - 1)
/-- An encoding is a NaN. -/
def isNan (w fb x : Nat) : Bool := decide (infinityOf w fb < magnitude w x)
/-- A NaN whose top fraction bit is clear signals. -/
def signals (w fb x : Nat) : Bool := decide (infinityOf w fb < magnitude w x) && decide (magnitude w x < nanBits w fb)
/-- Numbers by size, both zeros alike. -/
def sizeRank (w x : Nat) : Int := if signOf w x = 0 then (magnitude w x : Int) else -(magnitude w x : Int)
/-- Numbers by size, -0 before +0. -/
def placeRank (w x : Nat) : Int := if signOf w x = 0 then (magnitude w x : Int) else -(magnitude w x : Int) - 1
/-- NV where an operand signals. -/
def nvOf (w fb x y : Nat) : Nat := if (signals w fb x || signals w fb y) = true then 16 else 0

/-- The smaller or the larger of two encodings (R297): NaN with a NaN, or, with number, the other operand; NV where one signals. -/
def leastOf (w fb : Nat) (big number : Bool) (x y : Nat) : Nat × Nat :=
  if (isNan w fb x && isNan w fb y) = true then (nanBits w fb, nvOf w fb x y)
  else if isNan w fb x = true then (if number = true then y else nanBits w fb, nvOf w fb x y)
  else if isNan w fb y = true then (if number = true then x else nanBits w fb, nvOf w fb x y)
  else (if (decide (placeRank w x < placeRank w y) != big) = true then x else y, 0)

/-- VI on two lanes of w bits, as numbers and as signed numbers, before the result is cut to w bits (R301); none for other
instructions. -/
def viForm (i : Instr) : Option (Nat × Nat × Nat × Nat × LaneW × (Nat → Nat → Int → Int → Int)) :=
  let clamp := fun (w : LaneW) (r : Int) => max (-(2 : Int) ^ (widthOf w - 1)) (min r (2 ^ (widthOf w - 1) - 1))
  match i with
  | .viAdd d a b w m => some (d, a, b, m, w, fun x y _ _ => x + y)
  | .viSub d a b w m => some (d, a, b, m, w, fun x y _ _ => x - y)
  | .viMul d a b w m => some (d, a, b, m, w, fun _ _ sx sy => sx * sy)
  | .viMulh d a b w m => some (d, a, b, m, w, fun _ _ sx sy => sx * sy / 2 ^ widthOf w)
  | .viMulhn d a b w m => some (d, a, b, m, w, fun x y _ _ => x * y / 2 ^ widthOf w)
  | .viAnd d a b w m => some (d, a, b, m, w, fun x y _ _ => (x &&& y : Nat))
  | .viOr d a b w m => some (d, a, b, m, w, fun x y _ _ => (x ||| y : Nat))
  | .viXor d a b w m => some (d, a, b, m, w, fun x y _ _ => (x ^^^ y : Nat))
  | .viAndn d a b w m => some (d, a, b, m, w, fun x y _ _ => (x &&& (2 ^ widthOf w - 1 - y) : Nat))
  | .viShl d a b w m => some (d, a, b, m, w, fun x y _ _ => x * 2 ^ (y % widthOf w))
  | .viShr d a b w m => some (d, a, b, m, w, fun x y _ _ => x / 2 ^ (y % widthOf w))
  | .viSar d a b w m => some (d, a, b, m, w, fun _ y sx _ => sx / 2 ^ (y % widthOf w))
  | .viMin d a b w m => some (d, a, b, m, w, fun _ _ sx sy => min sx sy)
  | .viMax d a b w m => some (d, a, b, m, w, fun _ _ sx sy => max sx sy)
  | .viMinn d a b w m => some (d, a, b, m, w, fun x y _ _ => min x y)
  | .viMaxn d a b w m => some (d, a, b, m, w, fun x y _ _ => max x y)
  | .viAddsat d a b w m => some (d, a, b, m, w, fun _ _ sx sy => clamp w (sx + sy))
  | .viSubsat d a b w m => some (d, a, b, m, w, fun _ _ sx sy => clamp w (sx - sy))
  | .viAddsatn d a b w m => some (d, a, b, m, w, fun x y _ _ => min (x + y) (2 ^ widthOf w - 1))
  | .viSubsatn d a b w m => some (d, a, b, m, w, fun x y _ _ => max ((x : Int) - y) 0)
  | .viAbs d a w m => some (d, a, a, m, w, fun _ _ sx _ => sx.natAbs)
  | _ => none

/-- The integer lanewise instructions on registers g. -/
def viLanes (i : Instr) (g : Nat → VWord) : Option LaneForm := (viForm i).map fun (d, a, b, m, w, f) =>
  let n := widthOf w
  { reads := [a, b], d := d, m := m, w := n
    f := fun j =>
      let x := partOf (g a) j n
      let y := partOf (g b) j n
      (BitVec.ofInt n (f x y (sextI x n) (sextI y n))).toNat |> fun r => (r, 0) }

/-- A floating lanewise instruction: type and what it gives the lanes of its registers. -/
def floatForm (i : Instr) : Option (List Nat × Nat × Nat × FType × (Nat → Nat → Nat → Nat × Nat)) :=
  let two := fun (d a b m : Nat) (ty : FType) (f : Nat → Nat → Nat × Nat) =>
    (some ([a, b], d, m, ty, fun x y _ => f x y) : Option (List Nat × Nat × Nat × FType × (Nat → Nat → Nat → Nat × Nat)))
  let one := fun (d a m : Nat) (ty : FType) (f : Nat → Nat × Nat) =>
    (some ([a], d, m, ty, fun x _ _ => f x) : Option (List Nat × Nat × Nat × FType × (Nat → Nat → Nat → Nat × Nat)))
  let least := fun (ty : FType) => leastOf (shapeOf ty).1 (shapeOf ty).2
  let mag := fun (ty : FType) => magnitude (shapeOf ty).1
  let sg := fun (ty : FType) => signOf (shapeOf ty).1
  match i with
  | .vfAdd d a b ty r m => two d a b m ty ((ftSpec ty).add r)
  | .vfSub d a b ty r m => two d a b m ty ((ftSpec ty).sub r)
  | .vfMul d a b ty r m => two d a b m ty ((ftSpec ty).mul r)
  | .vfDiv d a b ty r m => two d a b m ty ((ftSpec ty).div r)
  | .vfSqrt d a ty r m => one d a m ty ((ftSpec ty).sqrt r)
  | .vfRsqrt d a ty r m => one d a m ty ((ftSpec ty).rsqrt r)
  | .vfAbs d a ty m => one d a m ty fun x => (mag ty x, 0)
  | .vfNeg d a ty m => one d a m ty fun x => (mag ty x + (2 ^ ((shapeOf ty).1 - 1) - sg ty x), 0)
  | .vfCopysign d a b ty m => two d a b m ty fun x y => (mag ty x + sg ty y, 0)
  | .vfMin d a b ty m => two d a b m ty (least ty false false)
  | .vfMax d a b ty m => two d a b m ty (least ty true false)
  | .vfMinnum d a b ty m => two d a b m ty (least ty false true)
  | .vfMaxnum d a b ty m => two d a b m ty (least ty true true)
  | .vfmaFma d a b e ty r m => some ([a, b, e], d, m, ty, (ftSpec ty).fma r false false)
  | .vfmaFms d a b e ty r m => some ([a, b, e], d, m, ty, (ftSpec ty).fma r false true)
  | .vfmaFnma d a b e ty r m => some ([a, b, e], d, m, ty, (ftSpec ty).fma r true true)
  | .vfmaFnms d a b e ty r m => some ([a, b, e], d, m, ty, (ftSpec ty).fma r true false)
  | _ => none

/-- The floating lanewise instructions on registers g. -/
def floatLanes (i : Instr) (g : Nat → VWord) : Option LaneForm := (floatForm i).map fun (rs, d, m, ty, f) =>
  let n := (shapeOf ty).1
  { reads := rs, d := d, m := m, w := n
    f := fun j => f (partOf (g (rs.getD 0 0)) j n) (partOf (g (rs.getD 1 0)) j n) (partOf (g (rs.getD 2 0)) j n) }

/-! ### Numbers and their rounding (11_formats R268 to R278) -/

/-- A row of R269: width, bits of the fraction, bias; and whether the all-ones exponent has numbers, as in e4m3 (R270). -/
structure BinaryRow where
  w : Nat
  fb : Nat
  bias : Nat
  saturates : Bool := false

/-- The binary floating formats (R268, R269). -/
def binaryRow (t : Fmt) : Option BinaryRow := match t with
  | .f64 => some { w := 64, fb := 52, bias := 1023 }
  | .f32 => some { w := 32, fb := 23, bias := 127 }
  | .bf16 => some { w := 16, fb := 7, bias := 127 }
  | .f16 => some { w := 16, fb := 10, bias := 15 }
  | .e4m3 => some { w := 8, fb := 3, bias := 7, saturates := true }
  | .e5m2 => some { w := 8, fb := 2, bias := 15 }
  | _ => none

/-- The row of a lane type. -/
def laneRow (t : FType) : BinaryRow := match t with
  | .f64 => { w := 64, fb := 52, bias := 1023 }
  | .f32 => { w := 32, fb := 23, bias := 127 }
  | .bf16 => { w := 16, fb := 7, bias := 127 }
  | .f16 => { w := 16, fb := 10, bias := 15 }

/-- The all-ones exponent. -/
def BinaryRow.ones (g : BinaryRow) : Nat := 2 ^ (g.w - 1 - g.fb) - 1
/-- The sign bit in place. -/
def BinaryRow.top (g : BinaryRow) (neg : Bool) : Nat := if neg = true then 2 ^ (g.w - 1) else 0
/-- The code of an infinity, or of 448 in e4m3 (R270, R277). -/
def BinaryRow.infinite (g : BinaryRow) (neg : Bool) : Nat := g.top neg + g.ones * 2 ^ g.fb + if g.saturates = true then 6 else 0
/-- The code of the largest finite magnitude. -/
def BinaryRow.largest (g : BinaryRow) (neg : Bool) : Nat :=
  g.top neg + if g.saturates = true then g.ones * 2 ^ g.fb + 6 else g.ones * 2 ^ g.fb - 1
/-- The quiet code that conversions give (R276, R277). -/
def BinaryRow.quiet (g : BinaryRow) : Nat := g.ones * 2 ^ g.fb + if g.w = 8 then 2 ^ g.fb - 1 else 2 ^ (g.fb - 1)

/-- A code of a binary format is a number, and v is it (R269, R270). -/
def Denotes (g : BinaryRow) (x : Nat) (v : ℝ) : Prop :=
  let e := x / 2 ^ g.fb % 2 ^ (g.w - 1 - g.fb)
  let f := x % 2 ^ g.fb
  x < 2 ^ g.w ∧ (if g.saturates = true then ¬ (e = g.ones ∧ f = 7) else e ≠ g.ones) ∧
    v = (if x.testBit (g.w - 1) = true then (-1 : ℝ) else 1) *
      if e = 0 then (f : ℝ) * (2 : ℝ) ^ (1 - (g.bias : ℤ) - (g.fb : ℤ))
      else ((2 ^ g.fb + f : ℕ) : ℝ) * (2 : ℝ) ^ ((e : ℤ) - (g.bias : ℤ) - (g.fb : ℤ))

/-- y is m * 2^q with as many digits as a format keeps; its last digit is worth 2^low at least, where low is given. -/
def OnGrid (g : BinaryRow) (low : Option ℤ) (m q : ℤ) (y : ℝ) : Prop :=
  y = (m : ℝ) * (2 : ℝ) ^ q ∧ |m| < 2 ^ (g.fb + 1) ∧ (2 ^ g.fb ≤ |m| ∨ low = some q) ∧ ∀ l, low = some l → l ≤ q

/-- Of the numbers in G, y is the one to which x is rounded (R274); even says which of them has an even last digit. -/
def RoundedAmong (G even : ℝ → Prop) (r : Round) (x y : ℝ) : Prop := G y ∧ match r with
  | .rne => ∀ z, G z → |y - x| ≤ |z - x| ∧ (|y - x| = |z - x| → z = y ∨ even y)
  | .rtz => |y| ≤ |x| ∧ 0 ≤ x * y ∧ ∀ z, G z → |z| ≤ |x| → |z| ≤ |y|
  | .rup => x ≤ y ∧ ∀ z, G z → x ≤ z → y ≤ z
  | .rdn => y ≤ x ∧ ∀ z, G z → z ≤ x → z ≤ y
  | .rmm => ∀ z, G z → |y - x| ≤ |z - x| ∧ (|y - x| = |z - x| → |z| ≤ |y|)

/-- The code and the flags (OF 4, UF 2, NX 1) to which a number other than zero is rounded once (R274, R275): with the exponent unbounded
above it rounds to y; past the largest finite magnitude the mode gives an infinity or that magnitude, else the code is y's, with the sign of
x; it is tiny where its rounding with the exponent unbounded below lies below the smallest normal. -/
def RoundsTo (g : BinaryRow) (r : Round) (x : ℝ) (b fl : Nat) : Prop :=
  let among := fun (low : Option ℤ) =>
    RoundedAmong (fun y => ∃ m q, OnGrid g low m q y) (fun y => ∃ m q, OnGrid g low m q y ∧ m % 2 = 0) r x
  let tiny := ∃ z, among none z ∧ |z| < (2 : ℝ) ^ (1 - (g.bias : ℤ))
  ∃ y big, Denotes g (g.largest false) big ∧ among (some (1 - (g.bias : ℤ) - (g.fb : ℤ))) y ∧
    (big < |y| → fl = 5 ∧
      (0 < x → b = if r = .rtz ∨ r = .rdn then g.largest false else g.infinite false) ∧
      (x < 0 → b = if r = .rtz ∨ r = .rup then g.largest true else g.infinite true)) ∧
    (|y| ≤ big → Denotes g b y ∧ (b.testBit (g.w - 1) = true ↔ x < 0) ∧ (y = x → fl = 0) ∧ (y ≠ x → ¬ tiny → fl = 1) ∧
      (y ≠ x → tiny → fl = 3))

/-- The sign of an exact zero sum of two terms with these signs (12_vector R297, R299). -/
def zeroSumSign (r : Round) (p q : Bool) : Bool := (p && q) || ((p != q) && decide (r = .rdn))

/-- VF and VFMA: type, rounding, the exact value of the operation on numbers, where it has one, and the sign of a zero result from the
operands' signs (R296, R299). -/
def exactForm (i : Instr) : Option (FType × Round × (ℝ → ℝ → ℝ → ℝ → Prop) × (Bool → Bool → Bool → Bool)) := match i with
  | .vfAdd _ _ _ ty r _ => some (ty, r, fun x y _ v => v = x + y, fun p q _ => zeroSumSign r p q)
  | .vfSub _ _ _ ty r _ => some (ty, r, fun x y _ v => v = x - y, fun p q _ => zeroSumSign r p (!q))
  | .vfMul _ _ _ ty r _ => some (ty, r, fun x y _ v => v = x * y, fun p q _ => p != q)
  | .vfDiv _ _ _ ty r _ => some (ty, r, fun x y _ v => y ≠ 0 ∧ v * y = x, fun p q _ => p != q)
  | .vfSqrt _ _ ty r _ => some (ty, r, fun x _ _ v => 0 ≤ v ∧ v * v = x, fun p _ _ => p)
  | .vfRsqrt _ _ ty r _ => some (ty, r, fun x _ _ v => 0 < v ∧ v * v * x = 1, fun _ _ _ => false)
  | .vfmaFma _ _ _ _ ty r _ => some (ty, r, fun x y z v => v = x * y + z, fun p q t => zeroSumSign r (p != q) t)
  | .vfmaFms _ _ _ _ ty r _ => some (ty, r, fun x y z v => v = x * y - z, fun p q t => zeroSumSign r (p != q) (!t))
  | .vfmaFnma _ _ _ _ ty r _ => some (ty, r, fun x y z v => v = -(x * y + z), fun p q t => zeroSumSign r (p == q) (!t))
  | .vfmaFnms _ _ _ _ ty r _ => some (ty, r, fun x y z v => v = -(x * y - z), fun p q t => zeroSumSign r (p == q) t)
  | _ => none

/-- What the table of R297 names, and R299: the result and flags of VF and VFMA where an operand is NaN or infinite, or the operation has no
value. -/
def floatSpecial (i : Instr) (w fb x y z : Nat) : Option (Nat × Nat) :=
  let top := 2 ^ (w - 1)
  let inf := infinityOf w fb
  let nan := nanBits w fb
  let mx := magnitude w x
  let my := magnitude w y
  let turned := fun (a : Nat) => magnitude w a + (top - signOf w a)
  let product := if signOf w x = signOf w y then 0 else top
  let sum := fun (a b : Nat) => if isNan w fb a || isNan w fb b then some (nan, nvOf w fb a b)
    else if magnitude w a = inf then
      some (if magnitude w b = inf ∧ signOf w a ≠ signOf w b then (nan, 16) else (a, 0))
    else if magnitude w b = inf then some (b, 0) else none
  let fused := fun (p c : Nat) =>
    if (mx = 0 ∧ my = inf) ∨ (mx = inf ∧ my = 0) then some (nan, 16)
    else if isNan w fb x || isNan w fb y || isNan w fb z then
      some (nan, if signals w fb x || signals w fb y || signals w fb z then 16 else 0)
    else if mx = inf ∨ my = inf then some (if magnitude w c = inf ∧ signOf w c ≠ p then (nan, 16) else (inf + p, 0))
    else if magnitude w c = inf then some (c, 0) else none
  match i with
  | .vfAdd .. => sum x y
  | .vfSub .. => sum x (turned y)
  | .vfMul .. => if isNan w fb x || isNan w fb y then some (nan, nvOf w fb x y)
      else if (mx = 0 ∧ my = inf) ∨ (mx = inf ∧ my = 0) then some (nan, 16)
      else if mx = inf ∨ my = inf then some (inf + product, 0) else none
  | .vfDiv .. => if isNan w fb x || isNan w fb y then some (nan, nvOf w fb x y)
      else if (mx = 0 ∧ my = 0) ∨ (mx = inf ∧ my = inf) then some (nan, 16)
      else if mx = inf then some (inf + product, 0) else if my = inf then some (product, 0)
      else if my = 0 then some (inf + product, 8) else none
  | .vfSqrt .. => if isNan w fb x then some (nan, nvOf w fb x x) else if mx = 0 then some (x, 0)
      else if signOf w x ≠ 0 then some (nan, 16) else if mx = inf then some (inf, 0) else none
  | .vfRsqrt .. => if isNan w fb x then some (nan, nvOf w fb x x) else if mx = 0 then some (inf + signOf w x, 8)
      else if signOf w x ≠ 0 then some (nan, 16) else if mx = inf then some (0, 0) else none
  | .vfmaFma .. => fused product z
  | .vfmaFms .. => fused product (turned z)
  | .vfmaFnma .. => fused (top - product) (turned z)
  | .vfmaFnms .. => fused (top - product) z
  | _ => none

/-- A code of any format is a number, and v is it: a binary code's, a LOG6 code's by the table T (R273), an integer's. -/
def FmtValue (t : Fmt) (c : Nat) (v : ℝ) : Prop := match t, binaryRow t with
  | _, some g => Denotes g c v
  | .log6, none =>
    let l := c % 32
    c % 64 ≠ 32 ∧ (c % 64 = 0 → v = 0) ∧ (c % 64 ≠ 0 → ∃ x,
      Denotes (laneRow .f32) (match l % 4 with
        | 0 => 0x3F800000
        | 1 => 0x3F9837F0
        | 2 => 0x3FB504F3
        | _ => 0x3FD744FD) x ∧ v = (if c % 64 < 32 then (1 : ℝ) else -1) * x * (2 : ℝ) ^ (((l / 4 : ℕ) : ℤ) - 4))
  | t, none => v = ((if t = .n32 ∨ t = .n16 ∨ t = .n8 then ((c % 2 ^ fmtWidth t : ℕ) : ℤ) else sextI c (fmtWidth t) : ℤ) : ℝ)

/-- A number as a LOG6 code, with its flags (R278): the thresholds below its magnitude are counted, as eighth powers. -/
def LogRounds (v : ℝ) (b fl : Nat) : Prop :=
  (v = 0 → b = 0 ∧ fl = 0) ∧
  (v ≠ 0 → ∃ l, l ≤ 31 ∧ (∀ j : ℕ, j < 31 → ((2 : ℝ) ^ (2 * (j : ℤ) - 31) < |v| ^ 8 ↔ j < l)) ∧
    (l = 0 → b = 0 ∧ fl = 3) ∧ (0 < l → 0 < v → b = l) ∧ (0 < l → v < 0 → b = 32 + l) ∧
    (0 < l → (2 : ℝ) ^ (31 : ℤ) ≤ |v| ^ 8 → fl = 5) ∧
    (0 < l → |v| ^ 8 < (2 : ℝ) ^ (31 : ℤ) → (FmtValue .log6 b v → fl = 0) ∧ (¬ FmtValue .log6 b v → fl = 1)))

/-- The least and the greatest number of an integer format (R268). -/
def intEnds (t : Fmt) : ℤ × ℤ :=
  if t = .n32 ∨ t = .n16 ∨ t = .n8 then (0, 2 ^ fmtWidth t - 1) else (-2 ^ (fmtWidth t - 1), 2 ^ (fmtWidth t - 1) - 1)

/-- An integer held to a format's ends. -/
def heldTo (t : Fmt) (n : ℤ) : ℤ := max (intEnds t).1 (min (intEnds t).2 n)

/-- A number rounded to an integer, held to its format's ends, as a code with its flags (R277). -/
def IntRounds (t : Fmt) (r : Round) (v : ℝ) (b fl : Nat) : Prop := ∃ n : ℤ,
  RoundedAmong (fun y => ∃ k : ℤ, y = k) (fun y => ∃ k : ℤ, y = 2 * k) r v n ∧ (b : ℤ) = heldTo t n % 2 ^ fmtWidth t ∧
    (heldTo t n ≠ n → fl = 16) ∧ (heldTo t n = n → (n : ℝ) = v → fl = 0) ∧ (heldTo t n = n → (n : ℝ) ≠ v → fl = 1)

/-- A number as a code of any format; neg is the sign of a zero. -/
def FmtRounds (t : Fmt) (r : Round) (v : ℝ) (neg : Bool) (b fl : Nat) : Prop := match t, binaryRow t with
  | _, some g => (v ≠ 0 → RoundsTo g r v b fl) ∧ (v = 0 → b = g.top neg ∧ fl = 0)
  | .log6, none => LogRounds v b fl
  | t, none => IntRounds t r v b fl

/-- What a conversion gives a code of a format for one of another (R277): b with the flags fl. -/
def Converts (src dst : Fmt) (r : Round) (c b fl : Nat) : Prop :=
  let isInt := fun (t : Fmt) => binaryRow t = none ∧ t ≠ .log6
  (src = dst → b = (if src = .log6 then c % 64 else c) ∧ fl = 0) ∧
  (src ≠ dst → ∀ v, FmtValue src c v →
    (isInt src → isInt dst → fl = 0 ∧ ∃ n : ℤ, (n : ℝ) = v ∧ (b : ℤ) = heldTo dst n % 2 ^ fmtWidth dst) ∧
    (¬ (isInt src ∧ isInt dst) → FmtRounds dst r v (match binaryRow src with
      | some g => c.testBit (g.w - 1)
      | none => false) b fl)) ∧
  (src ≠ dst → src = .log6 → c % 64 = 32 →
    (∀ h, binaryRow dst = some h → b = h.quiet ∧ fl = 0) ∧ (isInt dst → b = 0 ∧ fl = 16)) ∧
  ∀ g, src ≠ dst → binaryRow src = some g →
    let neg := c.testBit (g.w - 1)
    let f := c % 2 ^ g.fb
    let infinite := g.saturates = false ∧ c = g.infinite neg
    let isNaN := c < 2 ^ g.w ∧ (if g.saturates = true then c = g.top neg + 127 else c = g.infinite neg + f ∧ f ≠ 0)
    (infinite → (∀ h, binaryRow dst = some h → b = h.infinite neg ∧ fl = if h.saturates = true then 16 else 0) ∧
      (dst = .log6 → b = (if neg = true then 63 else 31) ∧ fl = 16) ∧
      (isInt dst → (b : ℤ) = (if neg = true then (intEnds dst).1 else (intEnds dst).2) % 2 ^ fmtWidth dst ∧ fl = 16)) ∧
    (isNaN → (dst = .log6 → b = 32 ∧ fl = 0) ∧ (isInt dst → b = 0 ∧ fl = 16) ∧
      ∀ h, binaryRow dst = some h → fl = 0 ∧
        let kept := if g.fb ≤ h.fb then f * 2 ^ (h.fb - g.fb) else f / 2 ^ (g.fb - h.fb)
        b = if h.saturates = true then h.top neg + 127 else
          if kept = 0 then h.top neg + h.quiet else h.infinite neg + kept)

/-- Elementary functions whose exact value an equation gives: EXP2, EXP10, LOG2 and LOG10 at the powers that are exact, CBRT and HYPOT
(R286). -/
def mathExact (code : Nat) (x y v : ℝ) : Prop := match code with
  | 1 => ∃ n : ℤ, x = n ∧ v = (2 : ℝ) ^ n
  | 2 => ∃ n : ℕ, n ≤ 400 ∧ x = n ∧ v = (10 : ℝ) ^ n
  | 5 => ∃ n : ℤ, x = (2 : ℝ) ^ n ∧ v = n
  | 6 => ∃ n : ℕ, n < 30 ∧ x = (10 : ℝ) ^ n ∧ v = n
  | 19 => v ^ 3 = x
  | 20 => 0 ≤ v ∧ v ^ 2 = x ^ 2 + y ^ 2
  | _ => False

/-- The elementary functions with one operand, by code (R287), and the rows of their table that name values: NaN, the infinities, the
zeros, one, and the domain's ends. The result and its flags. -/
def mathSpecial1 (code w fb x : Nat) : Option (Nat × Nat) :=
  let mag := magnitude w x
  let neg := decide (signOf w x ≠ 0)
  let sg := signOf w x
  let top := 2 ^ (w - 1)
  let inf := infinityOf w fb
  let one := (2 ^ (w - 2 - fb) - 1) * 2 ^ fb
  let nan := nanBits w fb
  let halfPi := if w = 32 then 0x3FC90FDB else 0x3FF921FB54442D18
  let zero := decide (mag = 0)
  let infn := decide (mag = inf)
  if isNan w fb x = true then some (nan, nvOf w fb x x)
  else match code with
    | 0 | 1 | 2 => if zero then some (one, 0) else if infn then some (if neg then 0 else inf, 0) else none
    | 3 => if zero then some (x, 0) else if infn then some (if neg then one + top else inf, 0) else none
    | 4 | 5 | 6 => if zero then some (inf + top, 8) else if neg then some (nan, 16) else if infn then some (inf, 0)
        else if mag = one then some (0, 0) else none
    | 7 => if zero then some (x, 0) else if neg && decide (mag = one) then some (inf + top, 8)
        else if neg && decide (one < mag) then some (nan, 16) else if infn then some (inf, 0) else none
    | 8 | 10 => if zero then some (x, 0) else if infn then some (nan, 16) else none
    | 9 => if zero then some (one, 0) else if infn then some (nan, 16) else none
    | 11 => if zero then some (x, 0) else if one < mag then some (nan, 16) else none
    | 12 => if x = one then some (0, 0) else if one < mag then some (nan, 16) else none
    | 13 => if zero then some (x, 0) else if infn then some (halfPi + sg, 1) else none
    | 15 | 19 => if zero || infn then some (x, 0) else none
    | 16 => if zero then some (one, 0) else if infn then some (inf, 0) else none
    | 17 | 21 => if zero then some (x, 0) else if infn then some (one + sg, 0) else none
    | _ => none

/-- The same for ATAN2 (14), POW (18) and HYPOT (20). -/
def mathSpecial2 (code w fb x y : Nat) : Option (Nat × Nat) :=
  let mx := magnitude w x
  let my := magnitude w y
  let top := 2 ^ (w - 1)
  let inf := infinityOf w fb
  let one := (2 ^ (w - 2 - fb) - 1) * 2 ^ fb
  let nan := nanBits w fb
  let pi := if w = 32 then 0x40490FDB else 0x400921FB54442D18
  let halfPi := if w = 32 then 0x3FC90FDB else 0x3FF921FB54442D18
  let quarterPi := if w = 32 then 0x3F490FDB else 0x3FE921FB54442D18
  let threeQuarters := if w = 32 then 0x4016CBE4 else 0x4002D97C7F3321D2
  let some_ := isNan w fb x || isNan w fb y
  if (signals w fb x || signals w fb y) = true then some (nan, 16)
  else match code with
    | 14 => if some_ then some (nan, 0)
        else if mx = 0 then (if signOf w y = 0 then some (x, 0) else some (pi + signOf w x, 1))
        else if my = 0 then some (halfPi + signOf w x, 1)
        else if mx = inf ∧ my = inf then some ((if signOf w y = 0 then quarterPi else threeQuarters) + signOf w x, 1) else none
    | 18 => if my = 0 ∨ x = one then some (one, 0) else if some_ then some (nan, 0)
        else if mx = 0 ∧ my = inf then some (if signOf w y = 0 then 0 else inf, 0)
        else if x = one + top ∧ my = inf then some (one, 0) else none
    | 20 => if mx = inf ∨ my = inf then some (inf, 0) else if some_ then some (nan, 0)
        else if mx = 0 ∧ my = 0 then some (0, 0) else none
    | _ => none

/-- VMATH: code, d, operands, mask and type. -/
def mathForm (i : Instr) : Option (Nat × Nat × List Nat × Nat × Bool) := match i with
  | .vmathExp d a f m => some (0, d, [a], m, f)
  | .vmathExp2 d a f m => some (1, d, [a], m, f)
  | .vmathExp10 d a f m => some (2, d, [a], m, f)
  | .vmathExpm1 d a f m => some (3, d, [a], m, f)
  | .vmathLog d a f m => some (4, d, [a], m, f)
  | .vmathLog2 d a f m => some (5, d, [a], m, f)
  | .vmathLog10 d a f m => some (6, d, [a], m, f)
  | .vmathLog1p d a f m => some (7, d, [a], m, f)
  | .vmathSin d a f m => some (8, d, [a], m, f)
  | .vmathCos d a f m => some (9, d, [a], m, f)
  | .vmathTan d a f m => some (10, d, [a], m, f)
  | .vmathAsin d a f m => some (11, d, [a], m, f)
  | .vmathAcos d a f m => some (12, d, [a], m, f)
  | .vmathAtan d a f m => some (13, d, [a], m, f)
  | .vmathAtan2 d a b f m => some (14, d, [a, b], m, f)
  | .vmathSinh d a f m => some (15, d, [a], m, f)
  | .vmathCosh d a f m => some (16, d, [a], m, f)
  | .vmathTanh d a f m => some (17, d, [a], m, f)
  | .vmathPow d a b f m => some (18, d, [a, b], m, f)
  | .vmathCbrt d a f m => some (19, d, [a], m, f)
  | .vmathHypot d a b f m => some (20, d, [a, b], m, f)
  | .vmathErf d a f m => some (21, d, [a], m, f)
  | _ => none

/-- The named value of an elementary function at a lane's operands, where its table names one. -/
def mathSpecial (code : Nat) (f32 : Bool) (x y : Nat) : Option (Nat × Nat) :=
  let w := if f32 = true then 32 else 64
  let fb := if f32 = true then 23 else 52
  if code = 14 ∨ code = 18 ∨ code = 20 then mathSpecial2 code w fb x y else mathSpecial1 code w fb x

/-- A relation of VCMP on two lanes: its mask register, operands, source mask, lane width, the bit and its flags (R303). -/
def cmpForm (i : Instr) : Option (Nat × Nat × Nat × Nat × Nat × (Nat → Nat → Bool × Nat)) :=
  let of := fun (md a b m : Nat) (ty : CmpT) (ordering unlike : Bool) (rel : Int → Int → Bool) => match ty with
    | .int w => some (md, a, b, m, widthOf w, fun x y => (rel (sextI x (widthOf w)) (sextI y (widthOf w)), 0))
    | .flt t =>
      let w := (shapeOf t).1
      let fb := (shapeOf t).2
      some (md, a, b, m, w, fun x y =>
        if (isNan w fb x || isNan w fb y) = true then (unlike, if ordering = true then 16 else nvOf w fb x y)
        else (rel (sizeRank w x) (sizeRank w y), 0))
  match i with
  | .vcmpEq md a b ty m => of md a b m ty false false fun x y => decide (x = y)
  | .vcmpNe md a b ty m => of md a b m ty false true fun x y => decide (x ≠ y)
  | .vcmpLt md a b ty m => of md a b m ty true false fun x y => decide (x < y)
  | .vcmpLe md a b ty m => of md a b m ty true false fun x y => decide (x ≤ y)
  | .vcmpGt md a b ty m => of md a b m ty true false fun x y => decide (y < x)
  | .vcmpGe md a b ty m => of md a b m ty true false fun x y => decide (y ≤ x)
  | .vcmpUnord md a b t m => of md a b m (.flt t) false true fun _ _ => false
  | .vcmpLtn md a b w m => some (md, a, b, m, widthOf w, fun x y => (decide (x < y), 0))
  | .vcmpGen md a b w m => some (md, a, b, m, widthOf w, fun x y => (decide (y ≤ x), 0))
  | _ => none

/-- VPERM: registers read, d, lane width, and each lane of the result from the lanes of a, b and d before (R307). -/
def permForm (i : Instr) (act : Nat → Nat → Bool) :
    Option (List Nat × Nat × LaneW × ((Nat → Nat) → (Nat → Nat) → (Nat → Nat) → Nat → Nat)) :=
  let n := fun (w : LaneW) => 512 / widthOf w
  match i with
  | .vpermBcast d a w k => if k < n w then some ([a], d, w, fun A _ _ _ => A k) else none
  | .vpermShuf d a b w => some ([a, b], d, w, fun A B _ j => A (B j % n w))
  | .vpermRot d a w k => if k < n w then some ([a], d, w, fun A _ _ j => A ((j + n w - k) % n w)) else none
  | .vpermSlideup d a w k => if k < n w then some ([a], d, w, fun A _ D j => if k ≤ j then A (j - k) else D j) else none
  | .vpermSlidedn d a w k => if k < n w then some ([a], d, w, fun A _ D j => if j + k < n w then A (j + k) else D j) else none
  | .vpermZiplo d a b w => some ([a, b], d, w, fun A B _ j => if j % 2 = 0 then A (j / 2) else B (j / 2))
  | .vpermZiphi d a b w => some ([a, b], d, w, fun A B _ j => if j % 2 = 0 then A (n w / 2 + j / 2) else B (n w / 2 + j / 2))
  | .vpermUnzipe d a b w => some ([a, b], d, w, fun A B _ j => if j < n w / 2 then A (2 * j) else B (2 * (j - n w / 2)))
  | .vpermUnzipo d a b w => some ([a, b], d, w, fun A B _ j => if j < n w / 2 then A (2 * j + 1) else B (2 * (j - n w / 2) + 1))
  | .vpermIns d a b w k => if k < n w then some ([a, b], d, w, fun A B _ j => if j = k then B 0 else A j) else none
  | .vpermExt d a w k => if k < n w then some ([a], d, w, fun A _ _ j => if j = 0 then A k else 0) else none
  | .vpermSel d a b w m => some ([a, b], d, w, fun A B _ j => if act m j = true then A j else B j)
  | _ => none

/-- The active lanes of register a, in order. -/
def activeParts (s : State) (c sl a m w : Nat) : List Nat :=
  ((List.range (512 / w)).filter fun j => ((s.thread c sl).mask m).getLsbD j).map fun j => partOf (s.reg c sl a) j w

/-- VRED: d, a, and the result with its flags (R305). SUM is the tree of R280, SUMX the exact sum of R281. -/
def redForm (i : Instr) (s : State) (c sl : Nat) : Option (Nat × Nat × Nat × Nat) :=
  let least := fun (d a m : Nat) (ty : FType) (big : Bool) =>
    let w := (shapeOf ty).1
    let fb := (shapeOf ty).2
    let l := activeParts s c sl a m w
    let start := infinityOf w fb + if big = true then 2 ^ (w - 1) else 0
    some (d, a, l.foldl (fun x y => (leastOf w fb big false x y).1) start,
      if (l.any fun x => signals w fb x) = true then 16 else 0)
  match i with
  | .vredSum d a ty r m =>
    let q := sumTree (ftSpec ty) r (Nat.log2 (512 / (shapeOf ty).1)) ((List.range (512 / (shapeOf ty).1)).map fun j =>
      if ((s.thread c sl).mask m).getLsbD j = true then some (partOf (s.reg c sl a) j (shapeOf ty).1) else none)
    some (d, a, q.1, q.2)
  | .vredSumx d a ty r m =>
    let q := sumExact (ftSpec ty) r ((activeParts s c sl a m (shapeOf ty).1).map (ftSpec ty).val)
    some (d, a, q.1, q.2)
  | .vredMin d a ty m => least d a m ty false
  | .vredMax d a ty m => least d a m ty true
  | .vredIsum d a w m =>
    some (d, a, (BitVec.ofInt 64 ((activeParts s c sl a m (widthOf w)).map fun x => sextI x (widthOf w)).sum).toNat, 0)
  | .vredAnd d a w m => some (d, a, (activeParts s c sl a m (widthOf w)).foldr (fun x y => x &&& y) (2 ^ widthOf w - 1), 0)
  | .vredOr d a w m => some (d, a, (activeParts s c sl a m (widthOf w)).foldr (fun x y => x ||| y) 0, 0)
  | .vredXor d a w m => some (d, a, (activeParts s c sl a m (widthOf w)).foldr (fun x y => x ^^^ y) 0, 0)
  | _ => none

/-- Planes and the bits between elements of a plane width (R315). -/
def planeShape (pw : PlaneW) : Nat × Nat := match pw with
  | .w4 => (4, 4)
  | .w8 => (8, 8)
  | .w16 => (16, 16)
  | .w6 => (6, 8)

/-- The registers of a VPL operand, and the number they hold: one, or a pair for W16. -/
def planeRegs (pw : PlaneW) (r : Nat) : List Nat := if pw = .w16 then [r, r + 1] else [r]
/-- That number. -/
def planeNumber (s : State) (c sl r : Nat) (pw : PlaneW) : Nat :=
  (s.reg c sl r).toNat + if pw = .w16 then 2 ^ 512 * (s.reg c sl (r + 1)).toNat else 0

/-! ### The matrix unit (13_matrix) -/

/-- An MX instruction: its op, busy register, the registers of w0, w1, the capability and the target, and its tag (R323). -/
structure CommandForm where
  op : Nat
  busy : Option Nat
  a : Nat
  b : Option Nat
  k : Nat
  e : Nat
  tag : Option Nat

/-- The seven MX instructions. -/
def commandForm (i : Instr) : Option CommandForm := match i with
  | .mxCtx q a c e g => some ⟨0, q, a, none, c, e, g⟩
  | .mxMma q a c e g => some ⟨1, q, a, none, c, e, g⟩
  | .mxMmas q a b c e g => some ⟨2, q, a, some b, c, e, g⟩
  | .mxZero q a c e g => some ⟨3, q, a, none, c, e, g⟩
  | .mxDrain q a c e g => some ⟨4, q, a, none, c, e, g⟩
  | .mxLoadc q a c e g => some ⟨5, q, a, none, c, e, g⟩
  | .mxOrder q a c e g => some ⟨6, q, a, none, c, e, g⟩
  | _ => none

/-- The row of each op. -/
def commandRow (op : Nat) : Instr := match op with
  | 0 => .ctx
  | 1 => .mma
  | 2 => .mmas
  | 3 => .zero
  | 4 => .drain
  | 5 => .loadc
  | _ => .order

/-- The command of an MX (R324, R325). -/
structure CommandOf (s : State) (c sl : Nat) (q : CommandForm) (m : MxCmd) : Prop where
  core : m.core = c
  slot : m.slot = sl
  op : m.op = q.op
  w0 : m.w0 = s.reg64 c sl q.a
  w1 : m.w1 = match q.b with
    | some b => s.reg64 c sl b
    | none => 0
  cap : m.cap.toNat = (s.reg64 c sl q.k).toNat % 2 ^ 32
  cl : m.cl = (s.reg64 c sl q.e).toNat / 2 ^ 8 % 256
  channel : m.channel = (s.reg64 c sl q.e).toNat % 4
  tag : m.tag = q.tag
  world : m.world = (s.thread c sl).world
  tenant : m.tenant = s.tenantOf (c / 16)

/-- Blocks of a space of a cluster from an offset on, all in range (R137, R329). -/
def BlocksInRange (s : State) (cl : Nat) (space : Mode) (off n : Nat) : Prop :=
  off % 64 = 0 ∧ ∀ j, j < n → off + 64 * j < 2 ^ 24 ∧ s.mapBank space (cl * 2 ^ 24 + off + 64 * j) ≠ none

/-- A capability passes for a command (R321, R322). -/
def CapabilityPasses (s : State) (m : MxCmd) : Prop :=
  let cap := m.cap.toNat
  let tn := cap / 2 ^ 24 % 256
  m.tenant = some tn ∧ s.tenantOf m.cl = some tn ∧ cap / 2 ^ 20 % 16 = 0 ∧ (m.world = true ∨ (s.cluster m.cl).world = false) ∧
  (m.op = 0 → cap.testBit 16 = true) ∧ (m.op = 1 ∨ m.op = 2 ∨ m.op = 3 → cap.testBit 17 = true) ∧
  (m.op = 4 ∨ m.op = 5 → cap.testBit 18 = true) ∧ (m.dev ≠ s.devNo ∨ m.core / 16 ≠ m.cl → cap.testBit 19 = true) ∧
  ∃ key, find s.keys tn = some key ∧
    let d := hmac512 key [BitVec.ofNat 8 tn, BitVec.ofNat 8 (cap / 2 ^ 16 % 256), BitVec.ofNat 8 m.cl]
    cap % 2 ^ 16 = 256 * (d.getD 62 0).toNat + (d.getD 63 0).toNat

/-- Planes of a context's operands (R318). -/
def planesOf (x : MxCtx) : Nat := match x.fmt with
  | 2 | 3 => 16
  | 4 | 5 => 8
  | 6 => 6
  | _ => x.prec

/-- Bytes of an element that DRAIN writes and LOADC reads (R329). -/
def outBytes (x : MxCtx) (fmt : Nat) : Nat := if x.int32 = true ∨ fmt = 1 then 4 else 2

/-- A granted command passes its checks (R329). -/
def CommandPasses (s : State) (i : Nat) (m : MxCmd) : Prop :=
  let u := (s.cluster m.cl).matrix
  let x := u.ctx i
  let w := m.w0.toNat
  let owned := x.tmask.testBit (w / 2 ^ 5 % 8) = true
  CapabilityPasses s m ∧ (m.op ≠ 0 → m.op ≠ 6 → x.valid = true) ∧ match m.op with
  | 0 =>
    let f := w / 2 ^ 60
    let p := w / 2 ^ 52 % 16
    let acc := w / 2 ^ 48 % 16
    ((f ∈ [2, 3, 4, 5, 6] ∧ p = 0 ∧ acc = 0) ∨ (f = 10 ∧ 1 ≤ p ∧ p ≤ 8 ∧ acc = 1) ∨ (f = 14 ∧ 1 ≤ p ∧ p ≤ 4 ∧ acc = 1)) ∧
      w / 2 ^ 56 % 16 = f ∧ w % 2 ^ 40 = 0 ∧ ∀ j, j < 20 → j ≠ i → (u.ctx j).tmask &&& (w / 2 ^ 40 % 256) = 0
  | 1 | 2 =>
    let n := 4 * planesOf x * (w / 2 ^ 8 % 256)
    w % 32 = 0 ∧ w / 2 ^ 8 % 256 ≠ 0 ∧ owned ∧ BlocksInRange s m.cl .tob (w / 2 ^ 40) n ∧
      BlocksInRange s m.cl .tob (w / 2 ^ 16 % 2 ^ 24) n ∧ (m.op = 2 → x.int32 = false ∧ m.w1.toNat % 2 ^ 32 = 0)
  | 3 => w / 2 ^ 8 = 0 ∧ w % 32 = 0 ∧ owned
  | 6 => w = 0
  | _ =>
    let f := w / 2 ^ 12 % 16
    w / 2 ^ 16 % 2 ^ 24 = 0 ∧ w / 2 ^ 8 % 16 = 0 ∧ w % 32 = 0 ∧ owned ∧
      (if x.int32 = true then f = 8 else f = 1 ∨ f = 2 ∨ f = 3) ∧
      BlocksInRange s m.cl .spread (w / 2 ^ 40) (64 * outBytes x f)

/-- The unit executes a command, which has not ended. -/
structure Executes (s : State) (cl : Nat) (r : MxRun) (op : Nat) : Prop where
  run : (s.cluster cl).matrix.run = some r
  op : r.cmd.op = op
  goes : r.ending = false
  good : r.bad = []

/-- The command will be over on the cycle after next to come. -/
def EndsSoon (s t : State) (cl : Nat) : Prop :=
  (∃ r, (t.cluster cl).matrix.run = some r ∧ r.ending = true) ∧
  ∃ e ∈ t.events, e.row = .matrixComplete ∧ e.cl = some cl ∧ e.subj.unit = cl ∧ e.due = (s.cluster cl).t + 1

/-- A block of the cluster is requested from one of the unit's twelve ports (R334). -/
def PortAsks (t : State) (cl idx : Nat) (space : Mode) (off : Nat) (op : AccOp) : Prop :=
  ∃ p a, 16 ≤ p ∧ p < 28 ∧ a ∈ look (t.cluster cl).riders p [] ∧ a.agent = .matrix cl ∧ a.idx = idx ∧ a.space = space ∧
    a.va = cl * 2 ^ 24 + off ∧ a.op = op

/-- Element (i, k) of an operand's chunk, from the blocks that were read (R317): bit p of the code is bit i of plane word k * P + p. -/
def planeCode (got : List (Nat × List Byte)) (first planes i k : Nat) : Nat :=
  ((List.range planes).map fun p =>
    let q := k * planes + p
    if ((look got (first + q / 8) []).getD (8 * (q % 8) + i / 8) 0).getLsbD (i % 8) = true then 2 ^ p else 0).sum

/-- Element (i, j) of a tile after a chunk (R332): the sum of 32 products, exactly, onto the old element, modulo 2^32 for INT32; for
FP32 rounded as R332 and R333 say. -/
def afterChunk (x : MxCtx) (m : MxCmd) (old : Nat) (row col : List Nat) : Nat :=
  if x.int32 = true then
    (((old : Int) + ((List.range 32).map fun k => sextI (row.getD k 0) x.prec * sextI (col.getD k 0) x.prec).sum) % 2 ^ 32).toNat
  else
    let sum := chunkSum ((List.range 32).map fun k => mxProduct x.fmt (row.getD k 0) (col.getD k 0))
    (specF32.add .rne old
      (if m.op = 2 then rne32 (mulVal (specF32.val (m.w1.toNat / 2 ^ 32)) sum).1 else rne32 sum)).1

/-- An element as DRAIN writes it (R331). -/
def drained (fmt v : Nat) : Nat := if fmt = 2 then (convert .f32 .bf16 .rne v).1 else if fmt = 3 then (convert .f32 .f16 .rne v).1 else v

/-! ### Link values and MEMOP (13_matrix, 09_homing) -/

/-- The scale a link value may carry: positive, normal and finite (R339). -/
def GoodScale (x : Nat) : Prop := 2 ^ 23 ≤ x ∧ x < 255 * 2 ^ 23

/-- rne32(x * y) of two such scales (R339): the exact product of the significands, in units of the last place that the format has
there, rounded to nearest even. A number of 255 * 2^23 or more is infinite, one under 2^23 below 2^-126. -/
def linkProduct (x y : Nat) : Nat :=
  let m := (2 ^ 23 + x % 2 ^ 23) * (2 ^ 23 + y % 2 ^ 23)
  let e := x / 2 ^ 23 + y / 2 ^ 23
  let sh := max (if m < 2 ^ 47 then 23 else 24) (151 - e)
  let q := m / 2 ^ sh
  let r := m % 2 ^ sh
  (sh + e - 151) * 2 ^ 23 + q + if 2 ^ sh < 2 * r ∨ (2 ^ sh = 2 * r ∧ q % 2 = 1) then 1 else 0

/-- The instruction asks the core's own home slice for an operation on a line, and holds its thread for the answer; nothing else
changes yet. -/
def Asks (i : Instr) (s : State) (c sl : Nat) (op : AccOp) : Prop :=
  ∃ t, exec i s = .next t ∧ HeldFor t c sl i 1 ∧ (t.thread c sl).pc = (s.thread c sl).pc ∧
    waitingOps t (c / 16) (c % 16) = waitingOps s (c / 16) (c % 16) ++ [op] ∧ SameRegs s t ∧ SameMemory s t

/-- A GLOBAL address without its allocation tag (R192). -/
def untagged (ea : Word) : Word := BitVec.ofNat 64 (ea.toNat % 2 ^ 48)

/-! ### Error records and pre-emption (20_traps) -/

/-- The number in eight bytes of a tier. -/
def tierWord (s : State) (lp : Bool) (pa : Nat) : Nat := ofBytes (s.tierRead lp pa 8)

/-- An error record of core c (R403, R409): where ERRLOG has LV its eight words stand in the log at NEXT, and NEXT and SEQ advance; else
neither does. Word 0 is KIND, CAUSE, CORE, SLOT and SEQ. -/
def Recorded (s t : State) (c kind cause sl : Nat) (words : List Nat) : Prop :=
  let k := s.core c
  let pa := k.errlog.toNat / 2 ^ 13 % 2 ^ 25 * 65536 + 64 * k.errNext
  if k.errlog.getLsbD 2 = true then
    (t.core c).errNext = (k.errNext + 1) % 1024 ∧ (t.core c).errSeq = (k.errSeq + 1) % 2 ^ 32 ∧
    ∀ j, j < 8 → tierWord t (k.errlog.getLsbD 38) (pa + 8 * j) =
      ((kind * 2 ^ 56 + cause * 2 ^ 48 + c * 2 ^ 36 + sl * 2 ^ 32 + k.errSeq % 2 ^ 32) :: words).getD j 0 % 2 ^ 64
  else (t.core c).errNext = k.errNext ∧ (t.core c).errSeq = k.errSeq

/-- Line of halfwords: halfword i, the number of heads, the tail sizes together, and the four conditions of 02_lines R26. -/
def halfword (th : Thread) (i : Nat) : Nat := (th.lineCopy.getD i 0).toNat

/-- Halfwords of all tails of the line. -/
def tailsOf (th : Thread) : Nat := ((List.range (halfword th 0 / 2 ^ 11)).map fun j => halfword th (j + 1) / 2 ^ 8 % 4).sum

/-- A line that breaks one of the four conditions of 02_lines R26. -/
def Malformed (th : Thread) : Prop :=
  let n := halfword th 0 / 2 ^ 11
  n = 0 ∨ halfword th 0 % 2 ^ 11 ≠ 0 ∨ 32 < 1 + n + tailsOf th ∨ ∃ i, n < i ∧ i < 32 - tailsOf th ∧ halfword th i ≠ 0

/-- There is no instruction at the thread's PC, and what the fetch traps with: the fault of a line that could not be fetched, with the PC
(02_lines R48), of the causes that enter a handler (20_traps R402); ILLINE of a malformed line or a head it does not have, with the halfword
at the head, the header, and the line (R26, R43); ILLEGAL of words that no row of the tables has, with the words (R44). -/
def FetchFault (th : Thread) (cause : Cause) (tword taddr : Word) : Prop :=
  let k := th.pc.toNat % 64 / 2
  let n := halfword th 0 / 2 ^ 11
  (th.lineFault = some cause ∧ cause ∉ [.poison, .copyfault, .shadowfull, .twinmismatch] ∧ tword = 0 ∧ taddr = th.pc) ∨
  (th.lineFault = none ∧ (Malformed th ∨ n < k ∨ k = 0) ∧ cause = .illine ∧
    tword = BitVec.ofNat 64 (halfword th k * 2 ^ 16 + halfword th 0) ∧ taddr = BitVec.ofNat 64 (th.pc.toNat / 64 * 64)) ∨
  (th.lineFault = none ∧ ¬ Malformed th ∧ 1 ≤ k ∧ k ≤ n ∧ decode (halfword th k) (tailOf th.lineCopy k) = none ∧ cause = .illegal ∧
    tword = BitVec.ofNat 64 (tailOf th.lineCopy k * 2 ^ 16 + halfword th k) ∧ taddr = 0)

/-- Where block b of a core's save area stands, and in which tier (R414, R418). -/
def savePlace (k : Core) (b : Nat) : Bool × Nat := (k.savebase.getLsbD 62, k.savebase.toNat / 2 ^ 16 % 2 ^ 32 * 65536 + 64 * b)

/-- Word j of a core's save area as it stands in memory. -/
def savedWord (s : State) (c j : Nat) : Nat := tierWord s (savePlace (s.core c) 0).1 ((savePlace (s.core c) 0).2 + 8 * j)

/-- The 64 bytes of block b of it. -/
def savedBlock (s : State) (c b : Nat) : Nat := ofBytes (s.tierRead (savePlace (s.core c) b).1 (savePlace (s.core c) b).2 64)

/-- Word j of the blocks of a save area that have been read. -/
def readWord (blocks : List (List Byte)) (j : Nat) : Nat := ofBytes (slice (blocks.getD (j / 8) []) (8 * (j % 8)) 8)

/-- Core c owes nothing when a drain is done (R415, R416): no request, no matrix command and no steal is under way, and no thread waits for
anything. Each slot stands once in the list of slots. -/
def Settled (s : State) (c : Nat) : Prop :=
  let k := s.core c
  k.fifo = [] ∧ k.running = none ∧ k.mxOut = 0 ∧ k.stealOut = false ∧ (k.slots.map fun p => p.1).Nodup ∧
  ∀ sl, (s.thread c sl).hold = .ready ∧ ((s.slot c sl).st = .run → (s.thread c sl).posted = 0 ∧ (s.thread c sl).invals = 0)

/-! ### The fabric, the platform and its firmware (21_fabric, 23_retire) -/

/-- An event of the fabric's clock: a row for an item, due exactly at a nanosecond (R8). -/
def DueAt (t : State) (row : Instr) (item due : Nat) : Prop :=
  ∃ e ∈ t.events, e.row = row ∧ e.cl = none ∧ e.subj.item = item ∧ e.due = due

/-- The output of the dimension-ordered route, x before y (R425). -/
def orderedOut (cl d : Nat) : Nat :=
  if meshX cl < meshX d then 0 else if meshX d < meshX cl then 1 else if meshY cl < meshY d then 2 else 3

/-- That route to a cluster uses no dead link. -/
inductive OrderedRoute (dead : List Nat) (d : Nat) : Nat → Prop where
  | there : OrderedRoute dead d d
  | hop (cl n : Nat) : 4 * cl + orderedOut cl d ∉ dead → neighbour cl (orderedOut cl d) = some n → OrderedRoute dead d n →
      OrderedRoute dead d cl

/-- What a packet brings to its endpoint is taken in at once: a base-die unit has the fabric's clock, and a cluster's own endpoint takes it
in on a cycle that begins when, or after, the packet's time is up (R8, R423); an island that is down has no cycles. -/
def TakenAtOnce (s : State) (p : Packet) : Prop :=
  let k := s.cluster p.dcl
  10 ≤ p.dep ∨ k.up = false ∨ (k.stopped = 0 ∧ k.phase * p.ago.2 ≤ p.ago.1 * k.mhz)

/-- The packet is acknowledged: to its source in the module, or by a frame to the device that sent it, where a port reaches it (R426,
R435). -/
def Acknowledged (s t : State) (p : Packet) : Prop :=
  (p.far = none → ∃ e ∈ t.events, e.row = .packetAck ∧ e.cl = none ∧ e.subj.unit = p.scl ∧ e.subj.item = p.seq ∧
    e.subj.val = p.stream.word) ∧
  ∀ dev cls, p.far = some (dev, cls) → (∃ port ∈ look s.sysChart dev [], port ∉ s.portsDown ∧ (dev, port) ∉ s.pathsDown) →
    ∃ f ∈ t.ethOut, f.dst = dev ∧ ∃ q, f.packets = [(q, .farAck p.scl p.sep p.dcl p.dep cls p.seq)]

/-- A request of thread m's core to the firmware (R450): reply core of the sender's tenant, no earlier request of the tenant, g1 with a
code and no reserved bit. The item was numbered before the next number. -/
structure FwRequest (s : State) (m : Msg) (tn : Nat) : Prop where
  delivered : Delivers s (.msg m)
  older : s.subj.item < s.nextId
  tenant : m.tenant = some tn
  first : s.subj.sub = 0
  reply : s.tenantOf ((m.words.getD 0 0).toNat / 2 ^ 36 % 4096 / 16) = some tn
  idle : tn ∉ s.fwBusy
  reserved : (m.words.getD 0 0).toNat / 2 ^ 48 = 0 ∧ (m.words.getD 0 0).toNat / 2 ^ 8 % 2 ^ 22 = 0
  code : 1 ≤ (m.words.getD 0 0).toNat % 2 ^ 8 ∧ (m.words.getD 0 0).toNat % 2 ^ 8 ≤ 8

/-- A later stage of a request that the firmware is serving. -/
structure FwStage (s : State) (m : Msg) (tn : Nat) : Prop where
  delivered : Delivers s (.msg m)
  older : s.subj.item < s.nextId
  tenant : m.tenant = some tn
  later : s.subj.sub = 1

/-- The firmware's answer: one TASK message of two words, CODE and a status, and a result, to the reply core's channel (R450). -/
def fwAnswer (s : State) (m : Msg) (status result : Nat) : Msg :=
  let g1 := (m.words.getD 0 0).toNat
  { remop := false, srcDev := 0xFFFE, srcCore := 0, srcSlot := 0, world := true, tenant := none, dstDev := s.devNo
    dstCore := g1 / 2 ^ 36 % 4096, channel := g1 / 2 ^ 30 % 64
    words := [BitVec.ofNat 64 (g1 % 2 ^ 8 + 2 ^ 8 * status), BitVec.ofNat 64 result] }

/-- The request has its answer, which is on its way, and the tenant's next may come. -/
def FwAnswers (s t : State) (m : Msg) (tn status result : Nat) : Prop :=
  OnItsWay t (.msg (fwAnswer s m status result)) ∧ tn ∉ t.fwBusy

/-- The request is answered at once, and the SEND that brought it is answered accepted. -/
def FwDone (i : Instr) (s : State) (m : Msg) (tn status : Nat) : Prop :=
  ∃ t, exec i s = .next t ∧ FwAnswers s t m tn status 0 ∧ OnItsWay t (.sendAns m.srcCore m.srcSlot .done)

/-- The state once the SEND of a request is answered and the request taken. -/
def State.fwTaken (s : State) (m : Msg) (tn : Nat) : State :=
  let u := s.ship (mgmtCluster (clusterOf m.srcCore)) 12 (clusterOf m.srcCore) (epOf m.srcCore) 1 1 (.sendAns m.srcCore m.srcSlot .done)
  { u with fwBusy := tn :: u.fwBusy }

/-- Every core of the tenant is pre-empted, and the request's stage is at the last of them. -/
def AllPreempted (s : State) (tn : Nat) : Prop :=
  (s.coresOf tn).length = s.subj.val.toNat % 4096 + 1 ∧ ∀ c ∈ s.coresOf tn, (s.core c).pre = .preempted

/-- The cluster of a partition's list, of n' in ascending order, to which the i-th saved cluster goes (R444). -/
def mappedCluster (img : CkImage) (cls : List Nat) (cl : Nat) : Option Nat :=
  ((img.clusters.map fun x => x.cl).findIdx? fun x => decide (x = cl)).bind fun i => cls[i % cls.length]?

/-! ### The machine as a whole -/

/-- CSRs of a core and its cluster by number, with what they read after reset (R181; BANKROLE by R136, ROSECTL by R148, the IDOMs by R229,
PINBYPASS and ORPHANS by R239, the rose rows by R138, R146 and R147; CYCLE counts from 0 and MATHREV is 1, R178). -/
def resetCsrs (c : Nat) : List (Nat × Nat) :=
  [(0x006, 0), (0x009, 0), (0x00A, 0), (0x00B, 1), (0x016, 0), (0x017, 0), (0x01C, c / 16 * 16), (0x100, 0),
   (0x101, 2 ^ 32 + 32 * 2 ^ 24 + 2 ^ 17 + 2 ^ 8 + 32), (0x102, 0), (0x106, if c / 16 % 4 = 0 then 0xE4 else 0),
   (0x110, 0), (0x111, 0), (0x112, 0), (0x113, 0), (0x114, 0), (0x115, 0), (0x116, 0), (0x117, 0), (0x118, 0), (0x119, 0), (0x11A, 0)] ++
  (List.range 4).map (fun j => (0x018 + j, 0)) ++ (List.range 16).map (fun j => (0x020 + j, 0)) ++
  (List.range 3).map (fun p => (0x103 + p, ((List.range 12).map fun j => if 12 * p + j < 32 then (12 * p + j) * 32 ^ j else 0).sum)) ++
  (List.range 8).map (fun d => (0x108 + d, 0xFFFF)) ++ (List.range 64).map fun j => (0x140 + j, 0)

/-- The four byte memories are in canonical form. -/
def MemoriesAreCanonical (s : State) : Prop :=
  s.bankMem.wf = true ∧ s.colMem.wf = true ∧ s.hbm.wf = true ∧ s.lp.wf = true

end Sys2Proof.Machine
end

