-- ==== Sys2Proof/Machine/Odx.lean ====
section
/-!
DEFINITION. What programs are made of before they run (03_odx): constant expressions, the packing of instructions into
lines, data directives, the ODX file with its relocations and configuration records, read and written, and what aralld refuses. A
source file as a whole is assembled in Assemble.lean.
-/
namespace Sys2Proof.Machine

open Sys2Proof

/-! ### Expressions (R52) -/

/-- The binary operators. -/
inductive BinOp where
  | mul | div | mod | add | sub | shl | shr | and | xor | or
deriving DecidableEq, Repr

/-- An expression; symbols are numbered. -/
inductive Expr where
  | lit (n : Nat)
  | sym (k : Nat)
  | neg (a : Expr)
  | compl (a : Expr)
  | bin (o : BinOp) (a b : Expr)
  | lo32 (a : Expr)
  | hi32 (a : Expr)
deriving DecidableEq, Repr

/-- What is known of a symbol while a file is assembled: a constant, a place in a section, or nothing. -/
inductive SymInfo where
  | const (v : Int)
  | label (sec off : Nat)
  | unknown
deriving DecidableEq, Repr

/-- A signed 64-bit number; beyond it the expression overflows, which is an error. -/
def inRange64 (v : Int) : Option Int := if -(2 : Int) ^ 63 ≤ v ∧ v < (2 : Int) ^ 63 then some v else none

/-- An operation of the bits of two 64-bit numbers. -/
def bitwise64 (f : Word → Word → Word) (a b : Int) : Int := (f (BitVec.ofInt 64 a) (BitVec.ofInt 64 b)).toInt

/-- One operator: a division by zero, a shift beyond 63 and an overflow are errors. -/
def BinOp.eval (o : BinOp) (a b : Int) : Option Int := match o with
  | .mul => inRange64 (a * b)
  | .div => if b = 0 then none else inRange64 (a.tdiv b)
  | .mod => if b = 0 then none else inRange64 (a.tmod b)
  | .add => inRange64 (a + b)
  | .sub => inRange64 (a - b)
  | .shl => if 0 ≤ b ∧ b ≤ 63 then inRange64 (a * 2 ^ b.toNat) else none
  | .shr => if 0 ≤ b ∧ b ≤ 63 then inRange64 (a / 2 ^ b.toNat) else none
  | .and => some (bitwise64 (· &&& ·) a b)
  | .xor => some (bitwise64 (· ^^^ ·) a b)
  | .or => some (bitwise64 (· ||| ·) a b)

/-- The difference of two labels of one section. -/
def labelDiff (a b : SymInfo) : Option Int := match a, b with
  | .label s x, .label t y => if s = t then some ((x : Int) - (y : Int)) else none
  | _, _ => none

/-- The value of a constant expression; none is an error or a value not known yet. -/
def Expr.eval (env : Nat → SymInfo) (e : Expr) : Option Int := match e with
  | .lit n => inRange64 n
  | .sym k => match env k with
    | .const v => some v
    | _ => none
  | .neg a => (a.eval env).bind fun x => inRange64 (-x)
  | .compl a => (a.eval env).map fun x => -x - 1
  | .lo32 a => (a.eval env).map fun x => x % 2 ^ 32
  | .hi32 a => (a.eval env).map fun x => x / 2 ^ 32 % 2 ^ 32
  | .bin o a b =>
    let diff := match o, a, b with
      | .sub, .sym x, .sym y => labelDiff (env x) (env y)
      | _, _, _ => none
    match diff with
    | some v => some v
    | none => (a.eval env).bind fun x => (b.eval env).bind fun y => o.eval x y

/-- The part of a symbol's value that a relocation takes. -/
inductive SymPart where
  | whole | lo | hi
deriving DecidableEq, Repr

/-- An operand: a number, or a relocation against a symbol with an addend. -/
inductive OperandVal where
  | number (v : Int)
  | reloc (sym : Nat) (addend : Int) (part : SymPart)
deriving DecidableEq, Repr

/-- A symbol alone, or with a constant added or taken away. -/
def Expr.symPlus (env : Nat → SymInfo) (e : Expr) : Option (Nat × Int) := match e with
  | .sym k => some (k, 0)
  | .bin .add (.sym k) c => (c.eval env).map fun v => (k, v)
  | .bin .sub (.sym k) c => (c.eval env).map fun v => (k, -v)
  | _ => none

/-- That, against a symbol whose value is not known while the file is assembled: a constant one has no relocation. -/
def Expr.affine (env : Nat → SymInfo) (e : Expr) (part : SymPart) : Option OperandVal :=
  (e.symPlus env).bind fun p => match env p.1 with
    | .const _ => none
    | _ => some (.reloc p.1 p.2 part)

/-- An operand: constant where it can be, else in one of the places where a symbol may still be unknown; none is an error. -/
def Expr.operand (env : Nat → SymInfo) (e : Expr) : Option OperandVal := match e.eval env with
  | some v => some (.number v)
  | none => match e with
    | .lo32 a => a.affine env .lo
    | .hi32 a => a.affine env .hi
    | _ => e.affine env .whole

/-! ### Packing lines (R57 to R59) -/

/-- A head and its tail. -/
abbrev Part := Nat × Nat

/-- The halfwords of the tails of heads. -/
def tailTotal (ps : List Part) : Nat := match ps with
  | [] => 0
  | p :: r => fld p.1 8 2 + tailTotal r

/-- An instruction joins the open line: at most 31 heads, and header, heads and tails fill at most 32 halfwords. -/
def joins (ps : List Part) (p : Part) : Bool :=
  decide (ps.length + 1 ≤ 31) && decide (1 + (ps.length + 1) + (tailTotal ps + fld p.1 8 2) ≤ 32)

/-- The halfwords of one tail, the lowest first. -/
def tailWords (p : Part) : List HWord := (List.range (fld p.1 8 2)).map fun i => BitVec.ofNat 16 (p.2 / 2 ^ (16 * i))

/-- A closed line: header, heads, zero padding, and the tails, the first head's at the top (R22, R25). -/
def layLine (ps : List Part) : List HWord :=
  BitVec.ofNat 16 (ps.length * 2048) :: (ps.map fun p => BitVec.ofNat 16 p.1) ++
    List.replicate (31 - ps.length - tailTotal ps) 0 ++ ps.reverse.flatMap tailWords

/-- Lines of instructions placed one after another from an open line on. -/
def packFrom (ps : List Part) (rest : List Part) : List (List HWord) := match rest with
  | [] => if ps.isEmpty then [] else [layLine ps]
  | p :: r => if joins ps p then packFrom (ps ++ [p]) r else layLine ps :: packFrom [p] r

/-- The lines of a run of instructions, none where one has no encoding. -/
def packLines (is : List Instr) : Option (List (List HWord)) :=
  (is.mapM fun (i : Instr) => if i.wf then encode i else none).map (packFrom [])

/-- A statement of a text section: an instruction, or a directive that closes the line. .proc, .endproc, a change of
section and the end of the source close it as .line does. -/
inductive TextItem where
  | op (i : Instr)
  | line
  | raw (ws : List HWord)
  | align (b : Nat)
deriving DecidableEq, Repr

/-- A text section while it is assembled: its closed lines, the open line, the place of each instruction from the
section's start, and whether it holds a .raw line. -/
structure Text where
  lines : List (List HWord) := []
  openLine : List Part := []
  places : List Nat := []
  raw : Bool := false
deriving DecidableEq, Repr

/-- Close the open line. -/
def Text.close (t : Text) : Text :=
  if t.openLine.isEmpty then t else { t with lines := t.lines ++ [layLine t.openLine], openLine := [] }

/-- A power of two. -/
def isPow2 (b : Nat) : Bool := decide (b = 2 ^ Nat.log2 b) && decide (b ≠ 0)

/-- Place an instruction: it joins the open line or begins the next. -/
def Text.place (t : Text) (p : Part) : Text :=
  let t := if joins t.openLine p then t else t.close
  { t with openLine := t.openLine ++ [p], places := t.places ++ [64 * t.lines.length + 2 * (t.openLine.length + 1)] }

/-- One statement of a text section; none is an assembly error (R56, R58). -/
def Text.item (t : Text) (x : TextItem) : Option Text := match x with
  | .op i => if i.wf then (encode i).map t.place else none
  | .line => some t.close
  | .raw ws => if ws.length = 32 then
      let t := t.close
      some { t with lines := t.lines ++ [ws], raw := true }
    else none
  | .align b =>
    if isPow2 b && decide (64 ≤ b) then
      let t := t.close
      let n := (b / 64 - t.lines.length % (b / 64)) % (b / 64)
      some { t with lines := t.lines ++ List.replicate n (List.replicate 32 0) }
    else none

/-- A text section from its statements. -/
def assembleText (xs : List TextItem) : Option Text := (xs.foldlM (fun (t : Text) x => t.item x) ({} : Text)).map Text.close

/-- The place that a label gets which stands before a statement: that of the next instruction; none when no instruction
follows (R58). -/
def labelPlace (xs : List TextItem) (before : Nat) : Option Nat :=
  (assembleText xs).bind fun t =>
    t.places[((xs.take before).filter fun x => match x with
      | .op _ => true
      | _ => false).length]?

/-- The line delta and the head index by which a branch at a place reaches a target (R29, R59, R65); none when the target
is no head address or too far. -/
def branchTo (place target : Nat) : Option (Int × Nat) :=
  let delta : Int := ((target / 64 : Nat) : Int) - ((place / 64 : Nat) : Int)
  if target % 2 = 1 || decide (headOf target = 0) then none
  else if -(2 : Int) ^ 19 ≤ delta ∧ delta < (2 : Int) ^ 19 then some (delta, headOf target) else none

/-- The bytes of lines, little-endian. -/
def lineBytes (ls : List (List HWord)) : List Byte := ls.flatMap fun l => l.flatMap fun h => toBytes 2 h.toNat

/-! ### Data directives (R60 to R62) -/

/-- A floating-point list item: num / den with a sign, an infinity, a NaN, or bits(x). DESIGN CHOICE (log 84): the sign of a NaN,
which R61 allows and gives no meaning, is ignored. -/
inductive Lit where
  | num (neg : Bool) (n d : Nat)
  | inf (neg : Bool)
  | nan (neg : Bool)
  | bits (x : Nat)
deriving DecidableEq, Repr

/-- n / d > 2^((2j-31)/8), by the eighth power of both sides (R278). -/
def aboveThetaQ (n d j : Nat) : Bool :=
  if 2 * j ≤ 31 then decide (d ^ 8 < n ^ 8 * 2 ^ (31 - 2 * j)) else decide (d ^ 8 * 2 ^ (2 * j - 31) < n ^ 8)

/-- An item in a format: the exact value rounded once with RNE, a LOG6 value in the log domain. -/
def Lit.encode (t : Fmt) (x : Lit) : Option Nat := match fmtSpec t, x with
  | some f, .num neg n d =>
    if d = 0 then none
    else if n = 0 then some (f.zero neg)
    else
      let k := Nat.log2 d + f.fbits + 4
      some (f.round .rne neg (n * 2 ^ k / d) (-(k : Int)) (n * 2 ^ k % d != 0)).1
  | some f, .inf neg => some (f.inf neg)
  | some f, .nan _ => some f.nan
  | some f, .bits x => if x < 2 ^ f.width then some x else none
  | none, x => if t = .log6 then (match x with
      | .num neg n d =>
        if d = 0 then none
        else
          let l := ((List.range 31).filter fun j => aboveThetaQ n d j).length
          some (if l = 0 then 0 else (if neg then 32 else 0) + l)
      | .inf neg => some ((if neg then 32 else 0) + 31)
      | .nan _ => some 0x20
      | .bits x => if x < 64 then some x else none)
    else none

/-- An integer in a field of n bits, signed or unsigned. -/
def intFits (n : Nat) (v : Int) : Option Nat :=
  if -(2 : Int) ^ (n - 1) ≤ v ∧ v < (2 : Int) ^ n then some (wrapN n v) else none

/-- An integer in n bits as two's complement. -/
def signedFits (n : Nat) (v : Int) : Option Nat :=
  if -(2 : Int) ^ (n - 1) ≤ v ∧ v < (2 : Int) ^ (n - 1) then some (wrapN n v) else none

/-- The planes of 64 encoded values: bit i of word p is bit p of value i (R62). -/
def planeWords (p : Nat) (vs : List Nat) : List Word :=
  (List.range p).map fun k => BitVec.ofNat 64 (((List.range 64).filter fun i => bit (nth vs i) k).foldl (fun a i => a + 2 ^ i) 0)

/-- The planes of a float or LOG6 format (13_matrix R318). -/
def planeCount (t : Fmt) : Option Nat := match t with
  | .bf16 | .f16 => some 16
  | .e4m3 | .e5m2 => some 8
  | .log6 => some 6
  | _ => none

/-- A data directive. -/
inductive DataItem where
  | ints (size : Nat) (vs : List Int)
  | int8 (vs : List Int)
  | floats (t : Fmt) (ls : List Lit)
  | planes (t : Fmt) (ls : List Lit)
  | planesInt (p : Nat) (vs : List Int)
  | fill (n size : Nat) (v : Int)
  | space (n : Nat)
  | align (b : Nat)
deriving DecidableEq, Repr

/-- The bytes a data directive adds at an offset of its section; none is an assembly error. -/
def DataItem.bytes (off : Nat) (x : DataItem) : Option (List Byte) := match x with
  | .ints k vs => if [1, 2, 4, 8].contains k then
      (vs.mapM (intFits (8 * k))).map fun ns => ns.flatMap (toBytes k) else none
  | .int8 vs => (vs.mapM (signedFits 8)).map fun ns => ns.flatMap (toBytes 1)
  | .floats t ls => if (fmtSpec t).isSome || t = .log6 then
      (ls.mapM (Lit.encode t)).map fun ns => ns.flatMap (toBytes (fmtWidth t / 8)) else none
  | .planes t ls => match planeCount t with
    | some p => if ls.length = 64 then
        (ls.mapM (Lit.encode t)).map fun ns => (planeWords p ns).flatMap fun w => toBytes 8 w.toNat else none
    | none => none
  | .planesInt p vs => if decide (1 ≤ p) && decide (p ≤ 8) && decide (vs.length = 64) then
      (vs.mapM (signedFits p)).map fun ns => (planeWords p ns).flatMap fun w => toBytes 8 w.toNat else none
  | .fill n k v => if [1, 2, 4, 8].contains k then
      (intFits (8 * k) v).map fun x => (List.replicate n (toBytes k x)).flatten else none
  | .space n => some (List.replicate n 0)
  | .align b => if isPow2 b then some (List.replicate ((b - off % b) % b) 0) else none

/-- A data section from its directives. -/
def assembleData (xs : List DataItem) : Option (List Byte) :=
  xs.foldlM (fun bs x => (x.bytes bs.length).map fun n => bs ++ n) []

/-! ### The ODX file (R64) -/

/-- The kinds of a section. -/
inductive SecKind where
  | text | data | loc | spread | tob
deriving DecidableEq, Repr

/-- A relocation entry (R65). -/
structure Reloc where
  place : Nat
  addend : Int
  sym : Nat
  type : Nat
deriving DecidableEq, Repr

/-- A section: target none is `all`. -/
structure OdxSection where
  name : List Byte
  kind : SecKind
  align : Nat
  writable : Bool
  executable : Bool
  addr : Nat
  contents : List Byte
  relocs : List Reloc
  target : Option Nat
deriving DecidableEq, Repr

/-- Where a symbol is defined. -/
inductive SymHome where
  | extern
  | absolute
  | within (section_ : Nat)
deriving DecidableEq, Repr

/-- A symbol: type 0 label, 1 procedure, 2 data, 3 constant. -/
structure OdxSymbol where
  name : List Byte
  home : SymHome
  isGlobal : Bool
  type : Nat
  value : Nat
  size : Nat
deriving DecidableEq, Repr

/-- A reference: a value, or a symbol with a value added. -/
structure Ref where
  sym : Option Nat
  val : Nat
deriving DecidableEq, Repr

/-- A configuration record (R66 to R69). -/
inductive OdxRecord where
  | task (first last channel pri limit : Nat) (secure blocked : Bool) (entry : Ref)
  | group (g size : Nat) (members : List Nat)
  | inner (cl row : Nat) (banks : List Nat)
  | outer (quad row : Nat) (groups : List Nat)
  | launch (dev core channel : Nat) (words : List Ref)
deriving DecidableEq, Repr

/-- An ODX file. -/
structure Odx where
  linked : Bool
  raw : Bool
  sections : List OdxSection
  symbols : List OdxSymbol
  records : List OdxRecord
deriving DecidableEq, Repr

/-- n bytes of a file at an offset. -/
def chunkAt (bs : List Byte) (off n : Nat) : Option (List Byte) :=
  if off + n ≤ bs.length then some ((bs.drop off).take n) else none

/-- A little-endian number of a file. -/
def numAt (bs : List Byte) (off n : Nat) : Option Nat := (chunkAt bs off n).map ofBytes

/-- A string of the string table: the bytes before its NUL, at offset 0 the empty string; none beyond the table. -/
def stringAt (tbl : List Byte) (off : Nat) : Option (List Byte) :=
  if off = 0 then some [] else
  let r := tbl.drop off
  if r.contains 0 then some (r.takeWhile fun b => b != 0) else none

/-- Continue when a condition holds. -/
def given (c : Bool) : Option Unit := if c then some () else none

/-- A relocation entry. -/
def readReloc (bs : List Byte) (off : Nat) : Option Reloc := do
  let place ← numAt bs off 8
  let a ← numAt bs (off + 8) 8
  let y ← numAt bs (off + 16) 4
  let t ← numAt bs (off + 20) 2
  let z ← numAt bs (off + 22) 2
  given (z = 0 && decide (1 ≤ t) && decide (t ≤ 6))
  return { place := place, addend := sext a 64, sym := y, type := t }

/-- The kind of a section's code. -/
def secKind (n : Nat) : Option SecKind := match n with
  | 1 => some .text
  | 2 => some .data
  | 3 => some .loc
  | 4 => some .spread
  | 5 => some .tob
  | _ => none

/-- A section entry. In a linked image it has no relocations; TEXT is aligned to lines, and TEXT and DATA have no target. -/
def readSection (bs strs : List Byte) (linked : Bool) (off : Nat) : Option OdxSection := do
  let name ← (numAt bs off 4).bind (stringAt strs)
  let kind ← (numAt bs (off + 4) 2).bind secKind
  let align ← numAt bs (off + 6) 1
  let flags ← numAt bs (off + 7) 1
  let addr ← numAt bs (off + 8) 8
  let size ← numAt bs (off + 16) 8
  let contents ← (numAt bs (off + 24) 8).bind fun at_ => chunkAt bs at_ size
  let relAt ← numAt bs (off + 32) 8
  let relN ← numAt bs (off + 40) 4
  let target ← numAt bs (off + 44) 4
  given (decide (align ≤ 30) && decide (flags < 4) && (!linked || decide (relN = 0)) && (linked || decide (addr = 0)))
  given (kind != .text || (decide (6 ≤ align) && decide (size % 64 = 0)))
  given (!(kind == .text || kind == .data) || decide (target = 0))
  let relocs ← (List.range relN).mapM fun i => readReloc bs (relAt + 24 * i)
  return { name := name, kind := kind, align := align, writable := bit flags 0, executable := bit flags 1, addr := addr
           contents := contents, relocs := relocs, target := if target = 0xFFFFFFFF then none else some target }

/-- A symbol entry. -/
def readSymbol (bs strs : List Byte) (sections off : Nat) : Option OdxSymbol := do
  let name ← (numAt bs off 4).bind (stringAt strs)
  let sec ← numAt bs (off + 4) 2
  let bind_ ← numAt bs (off + 6) 1
  let type ← numAt bs (off + 7) 1
  let value ← numAt bs (off + 8) 8
  let size ← numAt bs (off + 16) 8
  given (decide (bind_ ≤ 1) && decide (type ≤ 3) && (decide (sec ≤ sections) || decide (sec = 0xFFFF)))
  return { name := name, home := if sec = 0xFFFF then .absolute else if sec = 0 then .extern else .within (sec - 1)
           isGlobal := decide (bind_ = 1), type := type, value := value, size := size }

/-- A reference; in a linked image it names no symbol. -/
def readRef (bs : List Byte) (linked : Bool) (off : Nat) : Option Ref := do
  let i ← numAt bs off 4
  let v ← numAt bs (off + 4) 8
  given (!linked || decide (i = 0xFFFFFFFF))
  return { sym := if i = 0xFFFFFFFF then none else some i, val := v }

/-- A record and its length: every record begins with its kind, two zero bytes and its length. -/
def readRecord (bs : List Byte) (linked : Bool) (off : Nat) : Option (OdxRecord × Nat) := do
  let kind ← numAt bs off 2
  let z ← numAt bs (off + 2) 2
  let len ← numAt bs (off + 4) 4
  given (decide (z = 0) && decide (len = match kind with
    | 1 => 32
    | 2 => 528
    | 3 => 48
    | 4 => 16
    | 5 => 112
    | _ => 0))
  let n := fun i k => numAt bs (off + i) k
  match kind with
  | 1 =>
    let first ← n 8 2
    let last ← n 10 2
    let ch ← n 12 1
    let pri ← n 13 1
    let lim ← n 14 1
    let world ← n 15 1
    let blk ← n 16 1
    let z ← n 17 3
    let e ← readRef bs linked (off + 20)
    given (decide (last ≤ 4095) && decide (first ≤ last) && decide (ch ≤ 63) && decide (pri ≤ 3) && decide (lim ≤ 15) &&
      decide (world ≤ 1) && decide (blk ≤ 1) && decide (z = 0))
    return (.task first last ch pri lim (decide (world = 1)) (decide (blk = 1)) e, len)
  | 2 =>
    let g ← n 8 1
    let z ← n 9 3
    let size ← n 12 4
    let map ← chunkAt bs (off + 16) 512
    given (decide (z = 0) && decide (1 ≤ size) && decide (size ≤ 4096))
    return (.group g size (mapMembers map), len)
  | 3 =>
    let cl ← n 8 1
    let row ← n 9 1
    let z ← n 10 6
    let banks ← chunkAt bs (off + 16) 32
    given (decide (z = 0))
    return (.inner cl row (banks.map fun b => b.toNat), len)
  | 4 =>
    let q ← n 8 1
    let row ← n 9 1
    let z ← n 10 2
    let gs ← chunkAt bs (off + 12) 4
    given (decide (z = 0))
    return (.outer q row (gs.map fun b => b.toNat), len)
  | _ =>
    let dev ← n 8 2
    let core ← n 10 2
    let ch ← n 12 1
    let count ← n 13 1
    let z ← n 14 2
    let ws ← (List.range 8).mapM fun i => readRef bs linked (off + 16 + 12 * i)
    given (decide (core ≤ 4095) && decide (ch ≤ 63) && decide (1 ≤ count) && decide (count ≤ 8) && decide (z = 0) &&
      (ws.drop count).all fun r => r.val = 0)
    return (.launch dev core ch (ws.take count), len)

/-- Records one after another. -/
def readRecords (bs : List Byte) (linked : Bool) (off n : Nat) : Option (List OdxRecord) := match n with
  | 0 => some []
  | n + 1 => (readRecord bs linked off).bind fun p => (readRecords bs linked (off + p.2) n).map fun r => p.1 :: r

/-- Read an ODX file: another magic or version, a value outside its field's, and a table beyond the file are refused. -/
def readOdx (bs : List Byte) : Option Odx := do
  let magic ← numAt bs 0 4
  let version ← numAt bs 4 2
  let kind ← numAt bs 6 2
  let flags ← numAt bs 8 4
  let secN ← numAt bs 0x0C 4
  let secAt ← numAt bs 0x10 8
  let symAt ← numAt bs 0x18 8
  let symN ← numAt bs 0x20 4
  let strN ← numAt bs 0x24 4
  let strAt ← numAt bs 0x28 8
  let recAt ← numAt bs 0x30 8
  let recN ← numAt bs 0x38 4
  let z ← numAt bs 0x3C 4
  given (decide (magic = 0x58444F51) && decide (version = 1) && (decide (kind = 1) || decide (kind = 2)) && decide (flags ≤ 1) &&
    decide (secN ≤ 65534) && decide (z = 0))
  let linked := decide (kind = 2)
  let strs ← chunkAt bs strAt strN
  let secs ← (List.range secN).mapM fun i => readSection bs strs linked (secAt + 48 * i)
  let syms ← (List.range symN).mapM fun i => readSymbol bs strs secN (symAt + 24 * i)
  let recs ← readRecords bs linked recAt recN
  return { linked := linked, raw := decide (flags = 1), sections := secs, symbols := syms, records := recs }

/-! ### Writing records (R66 to R69) -/

/-- A reference as bytes. -/
def Ref.bytes (r : Ref) : List Byte := toBytes 4 (r.sym.getD 0xFFFFFFFF) ++ toBytes 8 r.val

/-- A member map (R67). -/
def coreMap (ms : List Nat) : List Byte :=
  (List.range 512).map fun i => BitVec.ofNat 8 (((List.range 8).filter fun j => ms.contains (8 * i + j)).foldl (fun a j => a + 2 ^ j) 0)

/-- A record's header: kind, two zero bytes, length. -/
def recHead (kind len : Nat) : List Byte := toBytes 2 kind ++ toBytes 2 0 ++ toBytes 4 len

/-- Every number below a bound. -/
def allBelow (n : Nat) (l : List Nat) : Bool := l.all fun x => decide (x < n)

/-- A reference that fits its fields. -/
def Ref.fits (r : Ref) : Bool := decide (r.sym.getD 0 < 2 ^ 32 - 1) && decide (r.val < 2 ^ 64)

/-- The fields of a record hold the values that R66 to R69 give them; any other value is an assembly error (R56). -/
def OdxRecord.fits (r : OdxRecord) : Bool := match r with
  | .task first last ch pri lim _ _ e =>
    decide (last < 4096) && decide (first ≤ last) && decide (ch < 64) && decide (pri < 4) && decide (lim < 16) && e.fits
  | .group g size ms => decide (g < 256) && decide (1 ≤ size) && decide (size ≤ 4096) && allBelow 4096 ms
  | .inner cl row banks => decide (cl < 256) && decide (row < 32) && decide (banks.length = 32) && allBelow 32 banks
  | .outer q row gs => decide (q < 64) && decide (row < 16) && decide (gs.length = 4) && allBelow 4 gs
  | .launch dev core ch ws =>
    decide (dev < 65536) && decide (core < 4096) && decide (ch < 64) && decide (1 ≤ ws.length) && decide (ws.length ≤ 8) && ws.all Ref.fits

/-- A record as aralas writes it; none is an error. -/
def OdxRecord.bytes (r : OdxRecord) : Option (List Byte) := if !r.fits then none else match r with
  | .task first last ch pri lim secure blocked e =>
    some (recHead 1 32 ++ toBytes 2 first ++ toBytes 2 last ++ toBytes 1 ch ++ toBytes 1 pri ++ toBytes 1 lim ++
      toBytes 1 secure.toNat ++ toBytes 1 blocked.toNat ++ toBytes 3 0 ++ e.bytes)
  | .group g size ms => some (recHead 2 528 ++ toBytes 1 g ++ toBytes 3 0 ++ toBytes 4 size ++ coreMap ms)
  | .inner cl row banks => some (recHead 3 48 ++ toBytes 1 cl ++ toBytes 1 row ++ toBytes 6 0 ++ banks.flatMap (toBytes 1))
  | .outer q row gs => some (recHead 4 16 ++ toBytes 1 q ++ toBytes 1 row ++ toBytes 2 0 ++ gs.flatMap (toBytes 1))
  | .launch dev core ch ws =>
    some (recHead 5 112 ++ toBytes 2 dev ++ toBytes 2 core ++ toBytes 1 ch ++ toBytes 1 ws.length ++ toBytes 2 0 ++
      (ws ++ List.replicate (8 - ws.length) ({ sym := none, val := 0 } : Ref)).flatMap Ref.bytes)

/-- The rows that `.rose inner, cl, default` writes (R68). -/
def defaultRose (cl : Nat) : List OdxRecord :=
  (List.range 32).map fun r => .inner cl r ((List.range 32).map fun i => (i + r) % 32)

/-! ### Writing a file (R64, R65) -/

/-- The code of a section's kind. -/
def SecKind.code (k : SecKind) : Nat := match k with
  | .text => 1
  | .data => 2
  | .loc => 3
  | .spread => 4
  | .tob => 5

/-- A relocation entry as bytes. -/
def Reloc.bytes (r : Reloc) : List Byte :=
  toBytes 8 r.place ++ toBytes 8 (wrapN 64 r.addend) ++ toBytes 4 r.sym ++ toBytes 2 r.type ++ toBytes 2 0

/-- A section entry as bytes: its name's place in the string table, and the places of its contents and relocations in the file. -/
def OdxSection.bytes (x : OdxSection) (name at_ rel : Nat) : List Byte :=
  toBytes 4 name ++ toBytes 2 x.kind.code ++ toBytes 1 x.align ++ toBytes 1 (x.writable.toNat + 2 * x.executable.toNat) ++
    toBytes 8 x.addr ++ toBytes 8 x.contents.length ++ toBytes 8 at_ ++ toBytes 8 rel ++ toBytes 4 x.relocs.length ++
    toBytes 4 (x.target.getD 0xFFFFFFFF)

/-- A symbol entry as bytes. -/
def OdxSymbol.bytes (y : OdxSymbol) (name : Nat) : List Byte :=
  toBytes 4 name ++ toBytes 2 (match y.home with
    | .extern => 0
    | .absolute => 0xFFFF
    | .within k => k + 1) ++
    toBytes 1 y.isGlobal.toNat ++ toBytes 1 y.type ++ toBytes 8 y.value ++ toBytes 8 y.size

/-- Names one after another, each with its NUL, and where each begins; the empty name is at 0. -/
def layNames (at_ : Nat) (ns : List (List Byte)) : List Byte × List Nat := match ns with
  | [] => ([], [])
  | n :: r =>
    if n.isEmpty then let (bs, ps) := layNames at_ r; (bs, 0 :: ps)
    else
      let (bs, ps) := layNames (at_ + n.length + 1) r
      (n ++ [0] ++ bs, at_ :: ps)

/-- Where parts of given sizes begin that follow one another from a place on. -/
def layParts (at_ : Nat) (sizes : List Nat) : List Nat := match sizes with
  | [] => []
  | n :: r => at_ :: layParts (at_ + n) r

/-- A section, symbol or relocation that fits its fields. -/
def OdxSection.fits (x : OdxSection) (linked : Bool) : Bool :=
  !(x.name.contains 0) && decide (x.align ≤ 30) && (x.kind != .text || (decide (6 ≤ x.align) && decide (x.contents.length % 64 = 0))) &&
  decide (x.addr < 2 ^ 64) && (linked || decide (x.addr = 0)) && (!linked || x.relocs.isEmpty) &&
  (if x.kind = .text ∨ x.kind = .data then decide (x.target = some 0) else decide (x.target.getD 0 < 0xFFFFFFFF)) &&
  x.relocs.all fun r => decide (r.place < 2 ^ 64) && decide (r.sym < 2 ^ 32) && decide (1 ≤ r.type) && decide (r.type ≤ 6) &&
    decide (-(2 : Int) ^ 63 ≤ r.addend) && decide (r.addend < (2 : Int) ^ 63)

/-- A symbol that fits its fields. -/
def OdxSymbol.fits (y : OdxSymbol) (sections : Nat) : Bool :=
  !(y.name.contains 0) && decide (y.type ≤ 3) && decide (y.value < 2 ^ 64) && decide (y.size < 2 ^ 64) && (match y.home with
    | .within k => decide (k < sections)
    | _ => true)

/-- An ODX file as bytes: the header, the section, symbol and string tables, the records, then contents and relocations. -/
def Odx.write (o : Odx) : Option (List Byte) := do
  let recs ← o.records.mapM OdxRecord.bytes
  let ns := o.sections.length
  let ys := o.symbols.length
  given (decide (ns ≤ 65534) && (o.sections.all fun x => x.fits o.linked) && (o.symbols.all fun y => y.fits ns))
  let (strs, places) := layNames 1 ((o.sections.map fun x => x.name) ++ o.symbols.map fun y => y.name)
  let strs := (0 : Byte) :: strs
  let secAt := 64
  let symAt := secAt + 48 * ns
  let strAt := symAt + 24 * ys
  let recAt := strAt + strs.length
  let body := recAt + recs.flatten.length
  let sizes := o.sections.map fun x => x.contents.length
  let contents := layParts body sizes
  let relBase := body + sizes.sum
  let rels := layParts relBase (o.sections.map fun x => 24 * x.relocs.length)
  let secs := ((o.sections.zip places).zip (contents.zip rels)).flatMap fun p => p.1.1.bytes p.1.2 p.2.1 p.2.2
  let syms := (o.symbols.zip (places.drop ns)).flatMap fun p => p.1.bytes p.2
  return toBytes 4 0x58444F51 ++ toBytes 2 1 ++ toBytes 2 (if o.linked then 2 else 1) ++ toBytes 4 o.raw.toNat ++ toBytes 4 ns ++
    toBytes 8 secAt ++ toBytes 8 symAt ++ toBytes 4 ys ++ toBytes 4 strs.length ++ toBytes 8 strAt ++ toBytes 8 recAt ++
    toBytes 4 recs.length ++ toBytes 4 0 ++ secs ++ syms ++ strs ++ recs.flatten ++
    (o.sections.flatMap fun x => x.contents) ++ o.sections.flatMap fun x => x.relocs.flatMap Reloc.bytes

/-! ### Relocations (R65) -/

/-- The halfwords of the line at an offset of a section. -/
def lineAt (bs : List Byte) (off : Nat) : List HWord := halfwords ((bs.drop (off / 64 * 64)).take 64)

/-- Replace the low n bits of the tail of the head at an offset; every other bit stays. -/
def patchTail (bs : List Byte) (off n k : Nat) : List Byte :=
  let l := lineAt bs off
  let j := headOf off
  let t := tailOf l j
  let t := t / 2 ^ n * 2 ^ n + k % 2 ^ n
  let at_ := off / 64 * 64 + 2 * (32 - tailSum l j)
  let new := toBytes (2 * tailLen l j) t
  bs.take at_ ++ new ++ bs.drop (at_ + new.length)

/-- Replace bytes of a section. -/
def patchBytes (bs : List Byte) (off : Nat) (new : List Byte) : List Byte :=
  bs.take off ++ new ++ bs.drop (off + new.length)

/-- Apply a relocation to a section at its address, the symbol's value given; none is a link error. -/
def Reloc.apply (r : Reloc) (addr : Nat) (bs : List Byte) (s : Int) : Option (List Byte) :=
  let v := s + r.addend
  let inLine := decide (r.place % 2 = 0) && decide (headOf r.place ≠ 0) && decide (r.place / 64 * 64 + 64 ≤ bs.length)
  match r.type with
  | 1 => if r.place + 8 ≤ bs.length then some (patchBytes bs r.place (toBytes 8 (wrapN 64 v))) else none
  | 2 => if r.place + 4 ≤ bs.length && decide (0 ≤ v) && decide (v < (2 : Int) ^ 32) then
      some (patchBytes bs r.place (toBytes 4 v.toNat)) else none
  | 3 => if inLine && decide (0 ≤ v) then
      (branchTo (addr + r.place) v.toNat).map fun p => patchTail bs r.place 25 (target p.1 p.2) else none
  | 4 => if inLine then some (patchTail bs r.place 32 (wrapN 64 v)) else none
  | 5 => if inLine then some (patchTail bs r.place 32 (wrapN 64 v / 2 ^ 32)) else none
  | 6 => if inLine && decide (-(2 : Int) ^ 24 ≤ v) && decide (v < (2 : Int) ^ 24) then
      some (patchTail bs r.place 25 (wrapN 25 v)) else none
  | _ => none

/-! ### What aralld refuses in records (R66 to R68) -/

/-- Two task records name the same core and channel. -/
def taskClash (a b : OdxRecord) : Bool := match a, b with
  | .task f l ch _ _ _ _ _, .task f' l' ch' _ _ _ _ _ => decide (ch = ch') && decide (f ≤ l') && decide (f' ≤ l)
  | _, _ => false

/-- Two records name one group with different maps. -/
def groupClash (a b : OdxRecord) : Bool := match a, b with
  | .group g _ ms, .group g' _ ms' => decide (g = g') && decide (ms ≠ ms')
  | _, _ => false

/-- No two entries of a list stand in a relation. -/
def noneClash (f : OdxRecord → OdxRecord → Bool) (rs : List OdxRecord) : Bool := match rs with
  | [] => true
  | r :: t => (t.all fun x => !(f r x)) && noneClash f t

/-- Rows run 0 to L - 1 with L from 1 to a limit. -/
def rowsRun (rows : List Nat) (limit : Nat) : Bool :=
  decide (1 ≤ rows.length) && decide (rows.length ≤ limit) && isPerm rows rows.length

/-- The groups that the records give a core. -/
def groupsIn (rs : List OdxRecord) (c : Nat) : List Nat :=
  (rs.filterMap fun r => match r with
    | .group g _ ms => if ms.contains c then some g else none
    | _ => none).eraseDups

/-- The rows of a cluster's inner table among records, with their banks. -/
def innerRows (rs : List OdxRecord) (cl : Nat) : List (Nat × List Nat) := rs.filterMap fun r => match r with
  | .inner c row banks => if c = cl then some (row, banks) else none
  | _ => none

/-- The rows of a quad's outer table among records, with their groups. -/
def outerRows (rs : List OdxRecord) (q : Nat) : List (Nat × List Nat) := rs.filterMap fun r => match r with
  | .outer k row gs => if k = q then some (row, gs) else none
  | _ => none

/-- A record of a linked image that stands alone in order: its entry is a head address, its size that of its map, its row a
permutation. -/
def OdxRecord.ok (rs : List OdxRecord) (r : OdxRecord) : Bool := match r with
  | .task _ _ _ _ _ _ _ e => e.sym.isNone && headAddress (BitVec.ofNat 64 e.val)
  | .group _ size ms => decide (size = ms.length) && ms.all fun c => decide ((groupsIn rs c).length ≤ 4)
  | .inner cl _ banks => isPerm banks 32 && rowsRun ((innerRows rs cl).map fun x => x.1) 32
  | .outer q _ gs => decide (q < 64) && isPerm gs 4 && rowsRun ((outerRows rs q).map fun x => x.1) 16
  | .launch _ _ _ ws => ws.all fun w => w.sym.isNone

/-- aralld accepts the records of an image. -/
def recordsOk (rs : List OdxRecord) : Bool :=
  noneClash taskClash rs && noneClash groupClash rs && rs.all fun r => r.ok rs

/-! ### Linking -/

/-- An object and the addresses aralld gives its sections. -/
abbrev PlacedObj := Odx × List Nat

/-- The value a defined symbol has in the image. -/
def symbolIn (p : PlacedObj) (y : OdxSymbol) : Option Int := match y.home with
  | .extern => none
  | .absolute => some (sext y.value 64)
  | .within k => (p.2[k]?).map fun a => ((a + y.value : Nat) : Int)

/-- The value of symbol k of an object: its own, or that of a global symbol of its name in another object. -/
def symbolValue (ps : List PlacedObj) (p : PlacedObj) (k : Nat) : Option Int := (p.1.symbols[k]?).bind fun y => match y.home with
  | .extern => (ps.findSome? fun (q : PlacedObj) => (q.1.symbols.find? fun x => x.isGlobal && x.name == y.name && x.home != .extern).bind (symbolIn q))
  | _ => symbolIn p y

/-- A section in the image: placed as its alignment allows, its relocations applied. -/
def linkSection (ps : List PlacedObj) (p : PlacedObj) (k : Nat) (x : OdxSection) : Option OdxSection := do
  let addr ← p.2[k]?
  given (decide (addr % 2 ^ x.align = 0))
  let bs ← x.relocs.foldlM (fun bs r => (symbolValue ps p r.sym).bind (r.apply addr bs)) x.contents
  return { x with addr := addr, contents := bs, relocs := [] }

/-- A reference in the image: the value itself. -/
def linkRef (ps : List PlacedObj) (p : PlacedObj) (r : Ref) : Option Ref := match r.sym with
  | none => some r
  | some k => (symbolValue ps p k).map fun v => ({ sym := none, val := wrapN 64 (v + (r.val : Int)) } : Ref)

/-- A record in the image. -/
def linkRecord (ps : List PlacedObj) (p : PlacedObj) (r : OdxRecord) : Option OdxRecord := match r with
  | .task f l ch pri lim w b e => (linkRef ps p e).map fun e => .task f l ch pri lim w b e
  | .launch d c ch ws => (ws.mapM (linkRef ps p)).map fun ws => .launch d c ch ws
  | r => some r

/-- Join objects into one image, which aralld may refuse. DESIGN CHOICE (log 84): the image keeps no symbol table. -/
def link (ps : List PlacedObj) : Option Odx := do
  given (ps.all fun p => !p.1.linked)
  let secs ← ps.mapM fun (p : PlacedObj) => (List.range p.1.sections.length).mapM fun k => (p.1.sections[k]?).bind (linkSection ps p k)
  let recs ← ps.mapM fun (p : PlacedObj) => p.1.records.mapM (linkRecord ps p)
  given (recordsOk recs.flatten)
  return { linked := true, raw := ps.any (fun p => p.1.raw), sections := secs.flatten, symbols := [], records := recs.flatten }

end Sys2Proof.Machine
end

