-- ==== Sys2Proof/Safety.lean ====
section
/-!
DEFINITION. What counts as a safe run: no step of it ends in a fault or a refusal.
-/
namespace Sys2Proof.Machine

/-- A run of n steps from a state goes through next states only. -/
def runsSafely (n : Nat) (s : State) : Prop := match n with
  | 0 => True
  | n + 1 => ∃ t, step s = .next t ∧ runsSafely n t

end Sys2Proof.Machine
end

