-- ==== Sys2Proof/Certificates/Slice0/Obligations.lean ====
section
/-!
DEFINITION. The statements about this model, for the provers.
-/

open Sys2Proof Sys2Proof.Machine

/-! ### Scalar and control instructions (07_issue) -/

/-- R164, R165, R169 to R175: each of the 52 scalar instructions, in every state in which it runs, writes the 64-bit result that
its rule gives to register d with bits [511:64] cleared, discards it for g0, takes its turns, goes on at the next PC, and changes
nothing else. -/
def Obligations.ScalarResults : Prop :=
  ∀ (i : Instr) (s : State) (c sl : Nat) (q : ScalarForm), scalarForm i (s.reg64 c sl) = some q → Runs s c sl (q.d :: q.reads) [q.d] →
    Computes i s c sl q.d q.turns (widen (BitVec.ofInt 64 q.r))

/-- R166, R29: a branch whose condition fails goes on; one whose condition holds goes to line + 64 * delta + 2 * index, or traps PAGE
where that lies outside 0 to 2^48 - 1. -/
def Clause.BranchesGoOrTrap : Prop :=
  ∀ (i : Instr) (s : State) (c sl a : Nat) (delta : Int) (index : Nat) (p : Int → Prop), branchForm i = some (a, delta, index, p) →
    Runs s c sl [a] [] →
    let x := (s.reg64 c sl a).toInt
    let target := targetOf (s.thread c sl).pc delta index
    (¬ p x → GoesTo i s c sl (s.thread c sl).nextPc) ∧
    (p x → 0 ≤ target → target < 2 ^ 48 → GoesTo i s c sl (BitVec.ofInt 64 target)) ∧
    (p x → target < 0 ∨ 2 ^ 48 ≤ target → TakesTrap i s c sl .page (s.thread c sl).instrWord (BitVec.ofInt 64 target))

/-- R167, R29, R30: JMP and JR write the next PC to d, unless it is g0, and go to their target; JR checks it first, with the value a
had before. -/
def Clause.JumpsLinkOrTrap : Prop :=
  (∀ (s : State) (c sl d : Nat) (delta : Int) (index : Nat), Runs s c sl [d] [d] →
    let target := targetOf (s.thread c sl).pc delta index
    (0 ≤ target → target < 2 ^ 48 → Links (.jmp d delta index) s c sl d (s.thread c sl).nextPc (BitVec.ofInt 64 target)) ∧
    (target < 0 ∨ 2 ^ 48 ≤ target →
      TakesTrap (.jmp d delta index) s c sl .page (s.thread c sl).instrWord (BitVec.ofInt 64 target))) ∧
  ∀ (s : State) (c sl d a : Nat), Runs s c sl [d, a] [d] →
    let x := s.reg64 c sl a
    (headAddress x = true → Links (.jr d a) s c sl d (s.thread c sl).nextPc x) ∧
    (x.toNat % 2 = 1 ∨ x.toNat % 64 / 2 = 0 → TakesTrap (.jr d a) s c sl .misalign (s.thread c sl).instrWord x) ∧
    (x.toNat % 2 = 0 → x.toNat % 64 / 2 ≠ 0 → 2 ^ 48 ≤ x.toNat → TakesTrap (.jr d a) s c sl .page (s.thread c sl).instrWord x)

/-- R188, R190: NOP only goes on. ERET goes to TEPC where that is a head address, and changes no other state; else it traps with
TADDR = TEPC. -/
def Clause.NopAndEret : Prop :=
  ∀ (s : State) (c sl : Nat), Runs s c sl [] [] →
    GoesTo .sysqNop s c sl (s.thread c sl).nextPc ∧
    let x := (s.thread c sl).tepc
    (headAddress x = true → GoesTo .sysqEret s c sl x) ∧
    (x.toNat % 2 = 1 ∨ x.toNat % 64 / 2 = 0 → TakesTrap .sysqEret s c sl .misalign (s.thread c sl).instrWord x) ∧
    (x.toNat % 2 = 0 → x.toNat % 64 / 2 ≠ 0 → 2 ^ 48 ≤ x.toNat → TakesTrap .sysqEret s c sl .page (s.thread c sl).instrWord x)

/-- BranchesGoOrTrap, JumpsLinkOrTrap and NopAndEret, together. -/
def Obligations.BranchesJumpsAndReturns : Prop := Clause.BranchesGoOrTrap ∧ Clause.JumpsLinkOrTrap ∧ Clause.NopAndEret

/-- R184, R401: TRAP raises USERTRAP and SVC raises SVC; TADDR is the code, TEPC the next PC, TWORD the instruction. -/
def Clause.TrapAndSvcEnter : Prop :=
  ∀ (s : State) (c sl code : Nat), Runs s c sl [] [] →
    TakesTrap (.sysTrap code) s c sl .usertrap (s.thread c sl).instrWord (BitVec.ofNat 64 code) ∧
    TakesTrap (.sysSvc code) s c sl .svc (s.thread c sl).instrWord (BitVec.ofNat 64 code)

/-- R164, R189, R118, R122: EXIT frees the slot from the next turn on; a tiller, once its posted stores are performed, also sends its
decrement to its crown's home. No register, no memory and no other slot changes. -/
def Clause.ExitFreesTheSlot : Prop :=
  ∀ (s : State) (c sl : Nat), Runs s c sl [] [] →
    ((s.thread c sl).tiller ≠ none → (s.thread c sl).posted = 0 ∧ (s.thread c sl).invals = 0 ∧ NoInvalidations s) →
    ∃ t, exec .sysqExit s = .next t ∧ Freed s t c sl ∧ SameRegs s t ∧ SameMemory s t ∧
      (∀ k j, k ≠ c ∨ j ≠ sl → t.slot k j = s.slot k j) ∧
      ∀ x, (s.thread c sl).tiller = some x → (s.column (c / 2)).twinctl.getLsbD sl = false →
        OnItsWay t (.joinDec x.handle false c)

/-- TrapAndSvcEnter and ExitFreesTheSlot, together. -/
def Obligations.TrapSvcAndExit : Prop := Clause.TrapAndSvcEnter ∧ Clause.ExitFreesTheSlot

/-! ### Checks, CSRs and SYS (02_lines, 07_issue, 20_traps) -/

/-- R45, R47, R401, R406: a supervisor's instruction in a thread without supervisor privilege traps PRIV, whatever its operands. -/
def Clause.PrivilegeTraps : Prop :=
  ∀ (i : Instr) (s : State) (c sl : Nat), supervisorOnly i = true → s.curr = true → s.curCore = c → s.curSlot = sl →
    (s.thread c sl).sup = false → TakesTrap i s c sl .priv (s.thread c sl).instrWord 0

/-- R46, R47, R48: a scalar instruction that names a register at or above the thread's limit traps REGLIMIT; TADDR is the lowest such
register. -/
def Clause.RegisterLimitTraps : Prop :=
  ∀ (i : Instr) (s : State) (c sl r : Nat) (q : ScalarForm), scalarForm i (s.reg64 c sl) = some q → s.curr = true → s.curCore = c →
    s.curSlot = sl → r ∈ q.d :: q.reads → (s.thread c sl).limit ≤ r →
    (∀ x ∈ q.d :: q.reads, (s.thread c sl).limit ≤ x → r ≤ x) →
    TakesTrap i s c sl .reglimit (s.thread c sl).instrWord (BitVec.ofNat 64 r)

/-- R113, R118: a tiller whose write would pass its budget ends as failed, once its posted stores are performed: its slot is free, its
crown's home is sent the decrement, and nothing is written. -/
def Clause.CopyFaultEndsTiller : Prop :=
  ∀ (i : Instr) (s : State) (c sl : Nat) (q : ScalarForm) (x : Tiller), scalarForm i (s.reg64 c sl) = some q → s.curr = true →
    s.curCore = c → s.curSlot = sl → (∀ r ∈ q.d :: q.reads, r < (s.thread c sl).limit) → (s.thread c sl).tiller = some x →
    q.d ≠ 0 → find x.priv q.d = none → x.budget ≤ x.taken → (s.thread c sl).posted = 0 → (s.thread c sl).invals = 0 →
    NoInvalidations s → (s.column (c / 2)).twinctl.getLsbD sl = false →
    ∃ t, exec i s = .next t ∧ Freed s t c sl ∧ SameRegs s t ∧ OnItsWay t (.joinDec x.handle true c)

/-- R402, R409, R410: an instruction that reads a register in whose entry an uncorrectable error has arisen does nothing: its thread is
parked with a record of kind 1, cause 8 and storage code 3. An error that the entry's code corrects is recorded, kind 7, and the
instruction has its effect. -/
def Clause.RegisterErrorsAreFound : Prop :=
  ∀ (i : Instr) (s : State) (c sl a e : Nat) (q : ScalarForm), scalarForm i (s.reg64 c sl) = some q → s.curr = true →
    s.curCore = c → s.curSlot = sl → (∀ r ∈ q.d :: q.reads, r < (s.thread c sl).limit) → (s.thread c sl).tiller = none →
    a ∈ q.reads → a ≠ 0 → e = (s.thread c sl).base + a → (∀ x, find (s.core c).rfErr x ≠ none → x = e) →
    (find (s.core c).rfErr e = some true → ∃ t, exec i s = .next t ∧ (t.slot c sl).st = .parked ∧
      SameMemory { s with hbm := t.hbm, lp := t.lp } t ∧
      Recorded s t c 1 8 sl [(s.thread c sl).pc.toNat, 0, (s.thread c sl).tid % 65536, 3, e, 2, 0]) ∧
    (find (s.core c).rfErr e = some false → ∃ t, exec i s = .next t ∧ (t.thread c sl).pc = (s.thread c sl).nextPc ∧
      t.reg c sl q.d = (if q.d = 0 then 0 else widen (BitVec.ofInt 64 q.r)) ∧ find (t.core c).rfErr e = none ∧
      Recorded s t c 7 0 sl [(s.thread c sl).pc.toNat, 0, (s.thread c sl).tid % 65536, 3, e, 1, 0])

/-- PrivilegeTraps, RegisterLimitTraps, CopyFaultEndsTiller and RegisterErrorsAreFound, together. -/
def Obligations.ChecksComeBeforeEffects : Prop :=
  Clause.PrivilegeTraps ∧ Clause.RegisterLimitTraps ∧ Clause.CopyFaultEndsTiller ∧ Clause.RegisterErrorsAreFound

/-- R177, R178: CSR.READ writes the CSR's value to d and changes nothing else; a write, a set and a clear of a CSR that only reads do
just that too. -/
def Clause.ReadOnlyCsrs : Prop :=
  ∀ (s : State) (c sl d a n : Nat) (v : Word), (n, v) ∈ readOnlyCsrs s c sl → Runs s c sl [d, a] [d] →
    (0x100 ≤ n → (s.thread c sl).sup = true) →
    Puts (.csrRead d n) s c sl d v ∧ Puts (.csrWrite d a n) s c sl d v ∧ Puts (.csrSet d a n) s c sl d v ∧
      Puts (.csrClear d a n) s c sl d v

/-- R177, R178, R179, R114: READ of a CSR of the thread writes it to d. WRITE, SET and CLEAR write its old value to d, and store the
operand, the union or the difference in the bits the CSR keeps; no other CSR of the thread changes, and no memory. -/
def Clause.ThreadCsrsReadAndWrite : Prop :=
  ∀ (s : State) (c sl d a n m : Nat) (old : Word), (n, m, old) ∈ threadCsrs (s.thread c sl) → Runs s c sl [d, a] [d] →
    Puts (.csrRead d n) s c sl d old ∧
    ∀ i v, (i, v) ∈ csrWrites d a n old (s.reg64 c sl a) →
      ∃ t, exec i s = .next t ∧ Gets s t c sl d (widen old) ∧ (t.thread c sl).pc = (s.thread c sl).nextPc ∧
        (n, m, v &&& BitVec.ofNat 64 m) ∈ threadCsrs (t.thread c sl) ∧
        (∀ x ∈ threadCsrs (t.thread c sl), x.1 ≠ n → x ∈ threadCsrs (s.thread c sl)) ∧
        SameMemory s t ∧ SameRest s t c sl

/-- R177, R178, R180: the same for CSRs of the core; those from 0x100 on need supervisor privilege. No CSR of the thread and no other of
these changes. -/
def Clause.CoreCsrsReadAndWrite : Prop :=
  ∀ (s : State) (c sl d a n m : Nat) (old : Word), (n, m, old) ∈ coreCsrs (s.core c) → Runs s c sl [d, a] [d] →
    (0x100 ≤ n → (s.thread c sl).sup = true) →
    Puts (.csrRead d n) s c sl d old ∧
    ∀ i v, (i, v) ∈ csrWrites d a n old (s.reg64 c sl a) →
      ∃ t, exec i s = .next t ∧ Gets s t c sl d (widen old) ∧ (t.thread c sl).pc = (s.thread c sl).nextPc ∧
        (n, m, v &&& BitVec.ofNat 64 m) ∈ coreCsrs (t.core c) ∧
        (∀ x ∈ coreCsrs (t.core c), x.1 ≠ n → x ∈ coreCsrs (s.core c)) ∧ SameSpecial s t c sl ∧ SameMemory s t

/-- R177, R178: READ of the CSRs that the core, its column, its cluster and its quad share. -/
def Clause.SharedCsrsRead : Prop :=
  ∀ (s : State) (c sl d n : Nat) (v : Word), (n, v) ∈ sharedCsrs s c → Runs s c sl [d] [d] → (0x100 ≤ n → (s.thread c sl).sup = true) →
    Puts (.csrRead d n) s c sl d v

/-- R177, R178, R71, R90, R403, R412, R239: a write of MXSTAT clears the bits that CLEAR names and does nothing else; a counter takes the
low 16 bits, and at zero its records are parked no more; a TTAB entry takes all but its reserved bits, and no V with a PC that is no head
address; ERRLOG keeps all but NEXT; TWINCTL traps PERM with the lowest pair of which a slot is not free, else takes the pairs and empties
the queues of those that change; PINBYPASS and ORPHANS take the low 32 bits. The core's other registers stay. -/
def Clause.CountersAndLogsWrite : Prop :=
  ∀ (s : State) (c sl d a n : Nat) (old : Word), (n, old) ∈ sharedCsrs s c → Runs s c sl [d, a] [d] →
    (0x100 ≤ n → (s.thread c sl).sup = true) → ∀ i v, (i, v) ∈ csrWrites d a n old (s.reg64 c sl a) →
    (n = 0x016 → LeavesOld i s c sl d old fun t =>
      { t.core c with rf := [], rfErr := [], slots := [] } =
        { s.core c with rf := [], rfErr := [], slots := [], mxstat := if i = .csrClear d a n then v else old } ∧ t.clusters = s.clusters) ∧
    (∀ j < 16, n = 0x020 + j → LeavesOld i s c sl d old fun t =>
      (∀ m, look (t.core c).cnt m 0 = if m = j then v.toNat % 65536 else look (s.core c).cnt m 0) ∧
      (if v.toNat % 65536 = 0 then ∀ r ∈ (t.core c).deque, r.parked ≠ some j else (t.core c).deque = (s.core c).deque) ∧
      { t.core c with rf := [], rfErr := [], slots := [], cnt := [], deque := [] } =
        { s.core c with rf := [], rfErr := [], slots := [], cnt := [], deque := [] } ∧ t.clusters = s.clusters) ∧
    (∀ j < 64, n = 0x140 + j → LeavesOld i s c sl d old fun t =>
      let x := v &&& ~~~(BitVec.ofNat 64 (0x7F * 2 ^ 48))
      (∀ m, look (t.core c).ttab m 0 = if m ≠ j then look (s.core c).ttab m 0 else
        if x.toNat % 2 = 1 ∨ x.toNat % 64 / 2 = 0 then x &&& ~~~(BitVec.ofNat 64 (2 ^ 63)) else x) ∧
      { t.core c with rf := [], rfErr := [], slots := [], ttab := [], chosen := none } =
        { s.core c with rf := [], rfErr := [], slots := [], ttab := [], chosen := none } ∧ t.clusters = s.clusters) ∧
    (n = 0x115 → LeavesOld i s c sl d old fun t =>
      { t.core c with rf := [], rfErr := [], slots := [] } =
        { s.core c with rf := [], rfErr := [], slots := [], errlog := v &&& BitVec.ofNat 64 (2 ^ 64 - 2 ^ 13 + 2 ^ 2) } ∧
      t.clusters = s.clusters) ∧
    (∀ j, n = 0x113 → PairInUse s (c / 2) v j → (∀ m < j, ¬ PairInUse s (c / 2) v m) →
      TakesTrap i s c sl .perm (s.thread c sl).instrWord (BitVec.ofNat 64 j)) ∧
    (n = 0x113 → (∀ j, ¬ PairInUse s (c / 2) v j) → LeavesOld i s c sl d old fun t =>
      (t.column (c / 2)).twinctl = v &&& BitVec.ofNat 64 (2 ^ 15 - 1) ∧ (t.column (c / 2)).miss = (s.column (c / 2)).miss ∧
      (∀ p, p ∈ (t.column (c / 2)).twins ↔
        p ∈ (s.column (c / 2)).twins ∧ (s.column (c / 2)).twinctl.getLsbD p.1 = v.getLsbD p.1) ∧ t.clusters = s.clusters) ∧
    (n = 0x119 → LeavesOld i s c sl d old fun t => t.cluster (c / 16) = { s.cluster (c / 16) with pinbypass := v.toNat % 2 ^ 32 } ∧
      OtherClusters s t (c / 16) ∧ OnlyClusters s t c sl) ∧
    (n = 0x11A → LeavesOld i s c sl d old fun t => t.cluster (c / 16) = { s.cluster (c / 16) with orphans := v.toNat % 2 ^ 32 } ∧
      OtherClusters s t (c / 16) ∧ OnlyClusters s t c sl)

/-- R146, R147, R148: while a swap is pending every write of a rose register is ignored. Else ROSECTL takes SIN, in the quad's first
cluster SOUT, and SWAP, which clears DONE and REFUSED; ROSEIDX its fields; ROSEDATA0 and 1 are staged, and ROSEDATA2 fills the shadow row
and advances ROW; OUTROSE takes ACT and ROW and, but for SEL, a FACE, after which ROW advances; outside the quad's first cluster it is
ignored. -/
def Clause.RoseCsrsWrite : Prop :=
  ∀ (s : State) (c sl d a n : Nat) (old : Word), (n, old) ∈ sharedCsrs s c → Runs s c sl [d, a] [d] → (s.thread c sl).sup = true →
    ∀ i v, (i, v) ∈ csrWrites d a n old (s.reg64 c sl a) →
    let cl := c / 16
    let k := s.cluster cl
    (0x101 ≤ n → n ≤ 0x106 → k.swap = true → Puts i s c sl d old) ∧ (n = 0x106 → cl % 4 ≠ 0 → Puts i s c sl d old) ∧
    (k.swap = false →
      (n = 0x101 → LeavesOld i s c sl d old fun t =>
        (t.cluster cl).sin = v.toNat % 64 ∧ (t.quad (cl / 4)).sout = (if cl % 4 = 0 then v.toNat / 2 ^ 8 % 16 else (s.quad (cl / 4)).sout) ∧
        (t.cluster cl).swap = v.getLsbD 16 ∧ (t.cluster cl).done = (k.done && !(v.getLsbD 16)) ∧
        (t.cluster cl).refused = (k.refused && !(v.getLsbD 16)) ∧
        (v.getLsbD 16 = false → t.cluster cl = { k with sin := v.toNat % 64 } ∧ OtherClusters s t cl) ∧ OnlyClusters s t c sl) ∧
      (n = 0x102 → LeavesOld i s c sl d old fun t => t.cluster cl = { k with roseidx := v &&& BitVec.ofNat 64 0x11F } ∧
        t.quads = s.quads ∧ OtherClusters s t cl ∧ OnlyClusters s t c sl) ∧
      (n = 0x103 → LeavesOld i s c sl d old fun t => t.cluster cl = { k with stage0 := v } ∧ t.quads = s.quads ∧ OtherClusters s t cl ∧
        OnlyClusters s t c sl) ∧
      (n = 0x104 → LeavesOld i s c sl d old fun t => t.cluster cl = { k with stage1 := v } ∧ t.quads = s.quads ∧ OtherClusters s t cl ∧
        OnlyClusters s t c sl) ∧
      (n = 0x105 → LeavesOld i s c sl d old fun t =>
        let row := k.roseidx.toNat % 32
        (∀ r, r ≠ row → (t.cluster cl).innerShadow.getD r [] = k.innerShadow.getD r []) ∧
        (row < k.innerShadow.length → ∀ x < 32, nth ((t.cluster cl).innerShadow.getD row []) x =
          (if x < 12 then k.stage0.toNat / 32 ^ x else if x < 24 then k.stage1.toNat / 32 ^ (x - 12) else v.toNat / 32 ^ (x - 24)) % 32) ∧
        (t.cluster cl).roseidx.toNat % 32 = (row + 1) % 32 ∧ (t.cluster cl).roseidx.getLsbD 8 = k.roseidx.getLsbD 8 ∧
        (t.cluster cl).inner = k.inner ∧ t.quads = s.quads ∧ OtherClusters s t cl ∧ OnlyClusters s t c sl) ∧
      (n = 0x106 → cl % 4 = 0 → LeavesOld i s c sl d old fun t =>
        let q := s.quad (cl / 4)
        let row := v.toNat / 2 ^ 8 % 16
        t.quad (cl / 4) = (if v.getLsbD 13 = true then { q with act := v.getLsbD 12, row := row } else
          { q with act := v.getLsbD 12, row := (row + 1) % 16, outerShadow := q.outerShadow.set row (v.toNat % 256) }) ∧
        t.clusters = s.clusters ∧ OnlyClusters s t c sl))

/-- R229, R231, R399: a write of an IDOM that leaves MASK as it is changes nothing. One that changes it takes MASK at once, advances GEN
and starts a pass of the domain to the 512th cycle after; while a pass of the domain runs, the thread is held and nothing changes. -/
def Clause.DomainCsrsWrite : Prop :=
  ∀ (s : State) (c sl d a j : Nat) (old : Word), j < 8 → (0x108 + j, old) ∈ sharedCsrs s c → Runs s c sl [d, a] [d] →
    (s.thread c sl).sup = true → ∀ i v, (i, v) ∈ csrWrites d a (0x108 + j) old (s.reg64 c sl a) →
    let cl := c / 16
    let k := s.cluster cl
    let mask := v.toNat % 65536
    ((k.domain j).1 = mask → NoPassNow k j → Puts i s c sl d old) ∧
    ((k.domain j).1 ≠ mask → NoPassNow k j → LeavesOld i s c sl d old fun t =>
      (t.cluster cl).domain j = (mask, ((k.domain j).2 + 1) % 256) ∧ (∀ m, m ≠ j → (t.cluster cl).domain m = k.domain m) ∧
      (∃ p ∈ (t.cluster cl).passes, p.dom = some j ∧ p.until_ = k.t + 512) ∧
      { t.cluster cl with idom := [], passes := [] } = { k with idom := [], passes := [] } ∧ OtherClusters s t cl ∧
      OnlyClusters s t c sl) ∧
    ((k.domain j).1 ≠ mask → ¬ NoPassNow k j → ∃ t, exec i s = .next t ∧ HeldFor t c sl i 1 ∧
      (t.thread c sl).pc = (s.thread c sl).pc ∧ SameRegs s t ∧ SameMemory s t ∧ t.clusters = s.clusters ∧ OnlyClusters s t c sl)

/-- R153, R152: a write of BANKROLE traps PERM with the lowest bank that may not change, and no role changes. Else the thread is held with
the old value and the roles are asked for; of two writes of one cycle the second is computed from what the first asked for, which is its
old value. One that changes no role completes at once, which is the model's choice (log 81: R153 does not say that its change waits). -/
def Clause.BankRolesWrite : Prop :=
  ∀ (s : State) (c sl d a : Nat), Runs s c sl [d, a] [d] → (s.thread c sl).sup = true →
    let k := s.cluster (c / 16)
    ∀ old, (k.roleChange = none ∧ old = k.bankrole ∨ ∃ rc, k.roleChange = some rc ∧ rc.reqT = k.t ∧ old = rc.new) →
    ∀ i v, (i, v) ∈ csrWrites d a 0x100 old (s.reg64 c sl a) →
    (∀ b, MayNotChange k v b → (∀ m < b, ¬ MayNotChange k v m) → TakesTrap i s c sl .perm (s.thread c sl).instrWord (BitVec.ofNat 64 b)) ∧
    ((∀ b, ¬ MayNotChange k v b) → (k.roleChange = none → v = k.bankrole → Puts i s c sl d old) ∧
      (k.roleChange ≠ none ∨ v ≠ k.bankrole → ∃ t rc, exec i s = .next t ∧ HeldFor t c sl i 1 ∧
        (t.thread c sl).pc = (s.thread c sl).pc ∧ SameRegs s t ∧ SameMemory s t ∧ (t.cluster (c / 16)).bankrole = k.bankrole ∧
        (t.cluster (c / 16)).roleChange = some rc ∧ rc.new = v ∧ rc.reqT = k.t ∧ rc.writers.getLast? = some (c, sl, old)))

/-- ReadOnlyCsrs, ThreadCsrsReadAndWrite, CoreCsrsReadAndWrite, SharedCsrsRead, CountersAndLogsWrite, RoseCsrsWrite, DomainCsrsWrite and
BankRolesWrite, together. -/
def Obligations.CsrsReadAndWrite : Prop :=
  Clause.ReadOnlyCsrs ∧ Clause.ThreadCsrsReadAndWrite ∧ Clause.CoreCsrsReadAndWrite ∧ Clause.SharedCsrsRead ∧ Clause.CountersAndLogsWrite ∧
  Clause.RoseCsrsWrite ∧ Clause.DomainCsrsWrite ∧ Clause.BankRolesWrite

/-- R185, R186: IDLE holds the thread and changes nothing else. TLBINV removes the page's entries from the core's translation cache
and its lines from the column's instruction cache, at every page size; scope COLUMN also from the column's other core, after which
the thread goes on, two turns later; a wider scope holds it for an answer from every other core it reaches, and lets it go on
where there is none; a scope beyond the cluster holds it for the round trip to the farthest cluster of those cores at least. That every
line of a 3 GiB page goes at once, and which clusters count for the round trip, are the model's readings (log 14, 82). -/
def Obligations.IdleAndTlbinv : Prop :=
  ∀ (s : State) (c sl : Nat), (s.thread c sl).sup = true →
    (Runs s c sl [] [] → ∃ t, exec .sysIdle s = .next t ∧ HeldFor t c sl .sysIdle 1 ∧ (t.thread c sl).pc = (s.thread c sl).pc ∧
      Quiet s t c sl) ∧
    ∀ (a : Nat) (scope : Scope), Runs s c sl [a] [] →
      let va := (s.reg64 c sl a).toNat % 2 ^ 48
      let others := s.tlbCores c scope
      ∃ t, exec (.sysTlbinv a scope) s = .next t ∧
        (∀ l ∈ (t.core c).tcache, va / pageSize l.level ≠ l.vpn) ∧
        (∀ e ∈ (t.column (c / 2)).icache, e.1 % 2 ^ 48 / 3221225472 ≠ va / 3221225472) ∧
        (scope = .column → ∀ l ∈ (t.core (if c % 2 = 0 then c + 1 else c - 1)).tcache, va / pageSize l.level ≠ l.vpn) ∧
        (scope = .core ∨ scope = .column →
          (t.thread c sl).pc = (s.thread c sl).nextPc ∧ (t.thread c sl).issueAt = s.cyc c + 32) ∧
        (scope ≠ .core → scope ≠ .column → others = [] → (t.thread c sl).pc = (s.thread c sl).nextPc) ∧
        (scope ≠ .core → scope ≠ .column → others ≠ [] →
          (t.thread c sl).pc = (s.thread c sl).pc ∧ (t.thread c sl).hold = .answer ∧ (t.thread c sl).acks = others.length) ∧
        (∀ far, scope ∈ [.stack, .device, .system] → far ∈ others →
          (∀ k ∈ others, hops (c / 16) (k / 16) ≤ hops (c / 16) (far / 16)) → (t.thread c sl).issueAt =
            s.cyc c + (2 * (20 + 3 * hops (c / 16) (far / 16)) * (s.cluster (c / 16)).mhz + 999) / 1000 + 1) ∧
        SameRegs s t ∧ SameMemory s t

/-- R187, R408, R189, R410: SCRUB of another slot that is parked or waits for service, with no tiller and no twin in it, frees it from the
next turn on and zeroes its register entries and no others; of any other slot number it traps PERM with the number in TADDR. -/
def Clause.ScrubFreesASlot : Prop :=
  ∀ (s : State) (c sl a : Nat), Runs s c sl [a] [] → (s.thread c sl).sup = true →
    let x := s.reg64 c sl a
    let n := x.toNat
    (n ≤ 15 → n ≠ sl → (s.slot c n).st = .parked ∨ (s.slot c n).st = .service → (s.thread c n).tiller = none →
      (s.column (c / 2)).twinctl.getLsbD n = false →
      ∃ t, exec (.sysScrub a) s = .next t ∧ Freed s t c n ∧ (t.thread c sl).pc = (s.thread c sl).nextPc ∧
        (∀ e, look (t.core c).rf e 0 =
          if (s.thread c n).base ≤ e ∧ e < (s.thread c n).base + (s.thread c n).limit then 0 else look (s.core c).rf e 0) ∧
        SameSpecial s t c sl ∧ SameMemory s t) ∧
    (15 < n ∨ n = sl ∨ ((s.slot c n).st ≠ .parked ∧ (s.slot c n).st ≠ .service) →
      TakesTrap (.sysScrub a) s c sl .perm (s.thread c sl).instrWord x)

/-- R187, R407, R408: SAVECTX of a slot that is parked or waits for service stores the slot's context record, block by block, and is held
until all 20 + limit blocks are answered; LOADCTX of a slot that waits for service, or of a free one, which it reserves, first reads block
0 of the record. Both here at the core's own home slice. SAVECTX of a slot in another state, a free one too, and LOADCTX of one that is
parked or runs, trap PERM; of an address off a block both trap MISALIGN. -/
def Clause.ContextRecordsMove : Prop :=
  ∀ (s : State) (c sl a b : Nat), Runs s c sl [a, b] [] → (s.thread c sl).sup = true → (s.thread c sl).hold = .ready →
    let x := s.reg64 c sl a
    let n := x.toNat
    let ea := s.reg64 c sl b
    (n ≤ 15 → n ≠ sl → (s.slot c n).st = .parked ∨ (s.slot c n).st = .service → ea.toNat % 64 = 0 →
      OwnSlice s c ea (64 * (20 + (s.thread c n).limit)) →
      ∃ t, exec (.sysSavectx a b) s = .next t ∧ HeldFor t c sl (.sysSavectx a b) (20 + (s.thread c n).limit) ∧
        waitingOps t (c / 16) (c % 16) = waitingOps s (c / 16) (c % 16) ++
          (List.range (20 + (s.thread c n).limit)).map fun i => .store (((s.ctxRecord c n).drop (64 * i)).take 64)) ∧
    (n ≤ 15 → n ≠ sl → (s.slot c n).st = .service ∨ ((s.slot c n).st = .free ∧ (s.slot c n).freeAt ≤ s.cyc c ∧
        (s.column (c / 2)).twinctl.getLsbD n = false) → ea.toNat % 64 = 0 → OwnSlice s c ea 64 → (s.thread c sl).pend = none →
      ∃ t, exec (.sysLoadctx a b) s = .next t ∧ HeldFor t c sl (.sysLoadctx a b) 1 ∧
        waitingOps t (c / 16) (c % 16) = waitingOps s (c / 16) (c % 16) ++ [.load 64 false] ∧
        (t.slot c n).st = if (s.slot c n).st = .free then .reserved else .service) ∧
    (15 < n ∨ n = sl ∨ ((s.slot c n).st ≠ .service ∧ (s.slot c n).st ≠ .parked) →
      TakesTrap (.sysSavectx a b) s c sl .perm (s.thread c sl).instrWord x) ∧
    (15 < n ∨ n = sl ∨ ((s.slot c n).st ≠ .service ∧ (s.slot c n).st ≠ .free) →
      TakesTrap (.sysLoadctx a b) s c sl .perm (s.thread c sl).instrWord x) ∧
    (n ≤ 15 → n ≠ sl → (s.slot c n).st = .service → ea.toNat % 64 ≠ 0 →
      TakesTrap (.sysSavectx a b) s c sl .misalign (s.thread c sl).instrWord ea ∧
      TakesTrap (.sysLoadctx a b) s c sl .misalign (s.thread c sl).instrWord ea)

/-- R187, R407, R408: with block 0 in, LOADCTX reads the record's 20 + limit blocks. With them all in, a record that fits gives a thread
in SERVICE all that it holds, and the slot runs at its PC; one that does not traps PERM, and the slot stays. A record for a slot kept free
starts its thread there, at the lowest base or at the service slot's entries; one that fails its checks traps PERM, and the slot is free
again. Which zeros a record must keep, and that a free slot's is not held to them, is the model's reading (log 15). Here of a thread that
is no tiller, in a slot that is not paired. -/
def Clause.ContextRecordsAreInstalled : Prop :=
  ∀ (s : State) (c sl a b : Nat) (x : Access) (bs : List Byte), let i := Instr.sysLoadctx a b
    let n := (s.reg64 c sl a).toNat
    let limit := 8 * (recordWord bs 0 1 / 2 ^ 54 % 16 + 1)
    let moves := fun (t : State) => exec .packetDelivery s = .next t ∧ SameMemory s t
    let traps := fun (t : State) => moves t ∧ (t.thread c sl).pc = (s.thread c sl).thandler ∧ (t.thread c sl).tepc = (s.thread c sl).pc ∧
      (t.thread c sl).tcause = BitVec.ofNat 64 Cause.perm.code ∧ (t.thread c sl).taddr = s.reg64 c sl a ∧ SameRegs s t
    let handles := headAddress (s.thread c sl).thandler = true ∧ ¬ inEntry s c sl .perm (s.thread c sl).instrWord
    n ≤ 15 → n ≠ sl → (s.column (c / 2)).twinctl.getLsbD n = false →
    (LastBlock s c sl i x 1 bs → (s.slot c n).st = .service ∨ (s.slot c n).st = .reserved → (s.core c).behind = [] →
      OwnSlice s c (s.reg64 c sl b) (64 * (20 + limit)) →
      ∃ t, moves t ∧ SameRegs s t ∧ t.slot c n = s.slot c n ∧ HeldFor t c sl i (20 + limit) ∧
        waitingOps t (c / 16) (c % 16) = waitingOps s (c / 16) (c % 16) ++ List.replicate (20 + limit) (.load 64 false)) ∧
    (LastBlock s c sl i x (20 + limit) bs → (s.slot c n).st = .service → (s.thread c n).tiller = none → FitsThread (s.thread c n) bs →
      ∃ t, moves t ∧ Installed t c n bs ∧ (t.thread c n).base = (s.thread c n).base ∧ (t.thread c sl).pc = (s.thread c sl).nextPc ∧
        (∀ e, ¬ ((s.thread c n).base ≤ e ∧ e < (s.thread c n).base + limit) → look (t.core c).rf e 0 = look (s.core c).rf e 0)) ∧
    (LastBlock s c sl i x (20 + limit) bs → (s.slot c n).st = .service → ¬ FitsThread (s.thread c n) bs →
      handles → ∃ t, traps t ∧ t.slot c n = s.slot c n) ∧
    (∀ base, LastBlock s c sl i x (20 + limit) bs → (s.slot c n).st = .reserved → FitsFreeSlot bs →
      (if n = 15 then base = 1920 else freeBase (s.core c) (s.cyc c) limit = some base) →
      ∃ t, moves t ∧ Installed t c n bs ∧ (t.thread c n).base = base ∧ (t.thread c n).tiller = none ∧
        (t.thread c sl).pc = (s.thread c sl).nextPc ∧
        (∀ e, ¬ (base ≤ e ∧ e < base + limit) → look (t.core c).rf e 0 = look (s.core c).rf e 0)) ∧
    (LastBlock s c sl i x (20 + limit) bs → (s.slot c n).st = .reserved → FitsFreeSlot bs → n ≠ 15 →
      freeBase (s.core c) (s.cyc c) limit = none → ∃ t, moves t ∧ SameRegs s t ∧ t.slot c n = s.slot c n ∧
        (t.thread c sl).hold = .again ∧ (t.thread c sl).pc = (s.thread c sl).pc) ∧
    (LastBlock s c sl i x (20 + limit) bs → (s.slot c n).st = .reserved → ¬ FitsFreeSlot bs →
      handles → ∃ t, traps t ∧ (t.slot c n).st = .free)

/-- ScrubFreesASlot, ContextRecordsMove and ContextRecordsAreInstalled, together. -/
def Obligations.ScrubAndContextRecords : Prop :=
  Clause.ScrubFreesASlot ∧ Clause.ContextRecordsMove ∧ Clause.ContextRecordsAreInstalled

/-! ### Loads, stores and atomics (08_access, 12_vector, 14_sync) -/

/-- R202, R205, R207, R208, R309, R313: in its own column a thread's loads write the bytes at their addresses to registers, at once, and
nothing else: LD as its width says, LDM of one block and VLD 64 bytes, a strided VLD and a gather their lanes, the others kept. Where the
core's port has another block on this cycle, the load is held for a later one (log 91). -/
def Obligations.LocalLoads : Prop :=
  ∀ (s : State) (c sl d a b : Nat) (acq : Bool) (off : Int),
    (∀ w, let ea := s.reg64 c sl a + s.reg64 c sl b * BitVec.ofNat 64 (widthBytes w) + BitVec.ofInt 64 off;
      Runs s c sl [d, b, a] [d] → OwnColumn s c sl ea (widthBytes w) false → ea.toNat / 64 ∉ s.colBad →
      (PortIsFree s c → Sets (.ld d a b acq w .loc off) s c sl d (loaded w (columnNumber s ea.toNat (widthBytes w)))) ∧
        WaitsForPort (.ld d a b acq w .loc off) s c sl) ∧
    (let ea := s.reg64 c sl a + BitVec.ofInt 64 (64 * off);
      Runs s c sl [a, d] [d] → OwnColumn s c sl ea 64 false → ea.toNat / 64 ∉ s.colBad → (s.thread c sl).tprog = 0 →
      (PortIsFree s c → Sets (.ldm d a 1 .loc off) s c sl d (BitVec.ofNat 512 (columnNumber s ea.toNat 64))) ∧
        WaitsForPort (.ldm d a 1 .loc off) s c sl) ∧
    (let ea := s.reg64 c sl a + BitVec.ofInt 64 off;
      Runs s c sl [d, a] [d] → OwnColumn s c sl ea 64 false → ea.toNat / 64 ∉ s.colBad →
      (PortIsFree s c → Sets (.vld d a acq off .loc none) s c sl d (BitVec.ofNat 512 (columnNumber s ea.toNat 64))) ∧
        WaitsForPort (.vld d a acq off .loc none) s c sl) ∧
    (∀ w, let lanes := strided s c sl b (s.reg64 c sl a + BitVec.ofInt 64 off) w;
      Runs s c sl [d, a, b] [d] → OneBlock s c sl lanes (widthOf w / 8) false → (∀ x ∈ lanes, x.2.toNat / 64 ∉ s.colBad) →
      (PortIsFree s c → GathersTo (.vld d a acq off .loc (some (b, w))) s c sl d w lanes) ∧
        WaitsForPort (.vld d a acq off .loc (some (b, w))) s c sl) ∧
    ∀ w m, let lanes := indexed s c sl a b w m;
      Runs s c sl [d, a, b] [d] → OneBlock s c sl lanes (widthOf w / 8) false → (∀ x ∈ lanes, x.2.toNat / 64 ∉ s.colBad) →
      (PortIsFree s c → GathersTo (.vgsGather d a b w .loc m) s c sl d w lanes) ∧
        WaitsForPort (.vgsGather d a b w .loc m) s c sl

/-- R202, R205, R207, R208, R309, R313: in its own column a thread's stores write their bytes, at once, and no other byte of any memory, no
register and nothing else; where the core's port has another block on this cycle, the store is held for a later one (log 91). A release
waits for earlier stores; here there is none. -/
def Obligations.LocalStores : Prop :=
  ∀ (s : State) (c sl d a b : Nat) (rel : Bool) (off : Int), (rel = true → (s.thread c sl).posted = 0) →
    (∀ w, let ea := s.reg64 c sl a + s.reg64 c sl b * BitVec.ofNat 64 (widthBytes w) + BitVec.ofInt 64 off;
      Runs s c sl [d, b, a] [] → OwnColumn s c sl ea (widthBytes w) true →
      (PortIsFree s c → Stores (.st d a b rel w .loc off) s c sl fun x =>
        if ea.toNat ≤ x ∧ x < ea.toNat + widthBytes w then some (byteOf (s.reg c sl d) (x - ea.toNat)) else none) ∧
        WaitsForPort (.st d a b rel w .loc off) s c sl) ∧
    (let ea := s.reg64 c sl a + BitVec.ofInt 64 (64 * off);
      Runs s c sl [a, d] [] → OwnColumn s c sl ea 64 true → (s.thread c sl).tprog = 0 →
      (PortIsFree s c → Stores (.stm d a 1 .loc off) s c sl fun x =>
        if ea.toNat ≤ x ∧ x < ea.toNat + 64 then some (byteOf (s.reg c sl d) (x - ea.toNat)) else none) ∧
        WaitsForPort (.stm d a 1 .loc off) s c sl) ∧
    (∀ m, let ea := s.reg64 c sl a + BitVec.ofInt 64 off;
      Runs s c sl [d, a] [] → OwnColumn s c sl ea 64 true →
      (PortIsFree s c → Stores (.vst d a rel off .loc (.block m)) s c sl fun x =>
        if ea.toNat ≤ x ∧ x < ea.toNat + 64 ∧ ((s.thread c sl).mask m).getLsbD (x - ea.toNat) = true then
          some (byteOf (s.reg c sl d) (x - ea.toNat)) else none) ∧
        WaitsForPort (.vst d a rel off .loc (.block m)) s c sl) ∧
    (∀ w, let lanes := strided s c sl b (s.reg64 c sl a + BitVec.ofInt 64 off) w;
      Runs s c sl [d, a, b] [] → OneBlock s c sl lanes (widthOf w / 8) true →
      (PortIsFree s c → Stores (.vst d a rel off .loc (.strided b w)) s c sl (scattered s c sl d w lanes)) ∧
        WaitsForPort (.vst d a rel off .loc (.strided b w)) s c sl) ∧
    ∀ w m, let lanes := indexed s c sl a b w m;
      Runs s c sl [d, a, b] [] → OneBlock s c sl lanes (widthOf w / 8) true →
      (PortIsFree s c → Stores (.vgsScatter d a b w .loc m) s c sl (scattered s c sl d w lanes)) ∧
        WaitsForPort (.vgsScatter d a b w .loc m) s c sl

/-- R140, R195, R206, R207, R227, R351: a memory instruction whose elements lie at its core's own home slice or in its cluster's banks is
held until each is answered, and its accesses wait in order at its core's rider; no register and no memory changes yet. Only a
relaxed GLOBAL store goes on at once, with one more store outstanding. -/
def Obligations.RequestsWaitAtTheRider : Prop :=
  ∀ (i : Instr) (s : State) (c sl : Nat) (q : RequestForm), requestForm s c sl i = some q → Runs s c sl q.names q.writes →
    q.els ≠ [] → (∀ e ∈ q.els, Reaches s c sl q.mode e.1 e.2.1) → (s.thread c sl).tprog = 0 →
    (q.rel = true → (s.thread c sl).posted = 0 ∧ (s.thread c sl).invals = 0 ∧ NoInvalidations s) →
    (∀ x, (s.thread c sl).tiller = some x → x.shadows.length ≤ x.shadowMax) →
    ∃ t, exec i s = .next t ∧ waitingOps t (c / 16) (c % 16) = waitingOps s (c / 16) (c % 16) ++ q.els.map (fun e => e.2.2) ∧
      SameRegs s t ∧ SameMemory s t ∧
      if q.mode = .global ∧ q.rel = false ∧ oneStore i = true then
        (t.thread c sl).posted = (s.thread c sl).posted + 1 ∧ (t.thread c sl).pc = (s.thread c sl).nextPc
      else HeldFor t c sl i q.els.length ∧ (t.thread c sl).pc = (s.thread c sl).pc

/-- R135, R138 to R142, R144, R351: BANK_MEETING. A rider's first request for the bank it meets on this cycle, of the group its cluster
faces, two cycles old at least and none of its others older, is performed on its block as one step: a store writes its bytes, an atomic of
any of the twelve operations the value its operation gives of the value before, and a load of any width, acquire or not, none; no other byte
changes, and the bytes from before go back to the requester. No earlier access of its agent to that bank is passed (R379). -/
def Clause.MeetingPerformsAnAccess : Prop :=
  ∀ (s : State) (a : Access) (rest : List Access),
    let cl := s.subj.unit
    let k := s.cluster cl
    let base := bankAddr a.cl a.bank a.row
    look k.riders s.subj.sub [] = a :: rest → a.held = false → a.bank = innerBank k.inner k.t s.subj.sub → a.cl = s.faces cl k.t →
    a.since + 2 ≤ k.t → (∀ b ∈ rest, a.reqT ≤ b.reqT) → PassesNone k s.subj.sub a → a.space ≠ .global → base / 64 ∉ s.bankBad →
    find s.bankErr (base / 64) = none → a.poison = false → FitsBlock a.off a.op →
    ∃ t, exec .bankMeeting s = .next t ∧ (∀ x, t.bankMem.read x = bankByteAfter s base a.off a.op x) ∧
      (∀ x, t.colMem.read x = s.colMem.read x) ∧ look (t.cluster cl).riders s.subj.sub [] = rest ∧
      ∃ id r, find t.items id = some (.accAns a r) ∧ r.bytes = bankReturns s base a.off a.op ∧ r.poison = false ∧ r.fault = none

/-- R142, R205, R208, R351: the last answer completes a held memory instruction of one access: a load or an atomic writes the bytes it
brings to its register, a store nothing, and the thread goes on. PACKET_DELIVERY takes the answer in. -/
def Clause.AnswersWriteResults : Prop :=
  ∀ (i : Instr) (s : State) (c sl : Nat) (q : RequestForm) (e : Word × Nat × AccOp) (a : Access) (bs : List Byte),
    requestForm s c sl i = some q → q.els = [e] → q.mode ≠ .ring → s.subj.sub = 1 →
      find s.items s.subj.item = some (.accAns a { bytes := bs }) →
    a.agent = .thread c sl → a.uid = (s.thread c sl).uid → a.posted = false → a.idx = 0 → HeldFor s c sl i 1 →
    (∀ d ∈ q.writes, HasEntry s c sl d) → (s.thread c sl).tprog = 0 →
    ∃ t, exec .packetDelivery s = .next t ∧ (t.thread c sl).pc = (s.thread c sl).nextPc ∧ SameSpecial s t c sl ∧ SameMemory s t ∧
      match q.writes with
      | d :: _ => Gets s t c sl d (answerValue i bs)
      | [] => SameRegs s t

/-- MeetingPerformsAnAccess and AnswersWriteResults, together. -/
def Obligations.MeetingsAndAnswers : Prop := Clause.MeetingPerformsAnAccess ∧ Clause.AnswersWriteResults

/-- R216 to R222, R371, R382: MIGR.HOME writes the thread's column to d. MIGR.GOTO to its own column goes on; to another column that its
tenant and world reach, a thread that may move, with nothing outstanding and, to another stack, no invalidation of a stack copy on its way,
is on its way there as a migrant with its PC and registers; a column number above 2047 traps RANGE, and a thread of more than 16 registers,
a tiller, or one in slot 15 traps NOMIGRATE. -/
def Clause.MigrationMovesThreads : Prop :=
  ∀ (s : State) (c sl d a : Nat), (Runs s c sl [d] [d] → Puts (.migrHome d) s c sl d (BitVec.ofNat 64 (c / 2))) ∧
    (Runs s c sl [a] [] →
      let x := s.reg64 c sl a
      let col := x.toNat
      (2047 < col → TakesTrap (.migrGoto a) s c sl .range (s.thread c sl).instrWord x) ∧
      (c / 2 ≤ 2047 → col = c / 2 → GoesTo (.migrGoto a) s c sl (s.thread c sl).nextPc) ∧
      (col ≤ 2047 → col ≠ c / 2 → s.tenantOf (col / 8) = s.tenantOf (c / 16) → s.tenantOf (col / 8) ≠ none →
        (s.thread c sl).world = true ∨ (s.cluster (col / 8)).world = false →
        (16 < (s.thread c sl).limit ∨ (s.thread c sl).tiller ≠ none ∨ sl = 15 →
          TakesTrap (.migrGoto a) s c sl .nomigrate (s.thread c sl).instrWord x) ∧
        ((s.thread c sl).limit ≤ 16 → (s.thread c sl).tiller = none → sl ≠ 15 → (s.column (c / 2)).twinctl.getLsbD sl = false →
          (s.thread c sl).posted = 0 → (s.thread c sl).invals = 0 → (s.thread c sl).engine = [] →
          NoInvalidations s ∨ col / 512 = c / 1024 →
          ∃ t m id, exec (.migrGoto a) s = .next t ∧ (t.thread c sl).hold = .migrating col ∧ find t.items id = some (.migrant m) ∧
            m.col = col ∧ m.th.pc = (s.thread c sl).pc ∧ (∀ r, 1 ≤ r → r < (s.thread c sl).limit → look m.regs r 0 = s.reg c sl r))))

/-- R211, R212, R214, R215, R217: the RING instructions on a ring whose descriptor lies in the thread's own column. INIT binds the handle,
with both cursors and the seen count of the producer at the descriptor's first word and the seen count of the consumer at its second. WFILL
and WFREE of a window that holds n slots go on; else they read the descriptor's word, and go on if the window then does, or wait and read it
again. ACONS and APROD add n to a word of the descriptor and to their cursor. STAT writes both windows to d. The windows are exact integers
(log 21). While the core's port is not free, the access of any of them waits (R202, log 91). -/
def Clause.RingInstructions : Prop :=
  ∀ (s : State) (c sl a b d h n : Nat),
    (Runs s c sl [a, b] [] → geoBad (s.reg64 c sl b) = false → geoMode (s.reg64 c sl b) = .loc →
      OwnColumn s c sl (s.reg64 c sl a) 64 false →
      OwnColumn s c sl (s.reg64 c sl a +
        BitVec.ofNat 64 (64 + geoSlots (s.reg64 c sl b) * geoBytes (s.reg64 c sl b) - 1)) 1 false →
      (s.reg64 c sl a).toNat / 64 ∉ s.colBad →
      let w := fun k => BitVec.ofNat 64 (columnNumber s ((s.reg64 c sl a).toNat + 8 * k) 8)
      WaitsForPort (.ringInit a b h) s c sl ∧ (PortIsFree s c →
        ∃ t, exec (.ringInit a b h) s = .next t ∧ (t.thread c sl).pc = (s.thread c sl).nextPc ∧ SameRegs s t ∧ SameMemory s t ∧
          find (t.thread c sl).handles h = some { desc := s.reg64 c sl a, geo := s.reg64 c sl b, ccur := w 0, pcur := w 0,
                                                  seenp := w 0, seenc := w 1 })) ∧
    ∀ x, find (s.thread c sl).handles h = some x → geoMode x.geo = .loc → x.desc.toNat % 64 = 0 →
      OwnColumn s c sl x.desc 8 true → x.desc.toNat / 64 ∉ s.colBad → (s.thread c sl).posted = 0 → Runs s c sl [d] [d] →
      let w := fun k => BitVec.ofNat 64 (columnNumber s (x.desc.toNat + 8 * k) 8)
      let keeps := fun (t : State) (y : Handle) => find (t.thread c sl).handles h = some y ∧ SameRegs s t
      let goesOn := fun (t : State) => (t.thread c sl).pc = (s.thread c sl).nextPc
      (n ≤ geoSlots x.geo → (n : Int) ≤ x.avc → ∃ t, exec (.ringWfill h n) s = .next t ∧ goesOn t ∧ keeps t x ∧ SameMemory s t) ∧
      (n ≤ geoSlots x.geo → x.avc < (n : Int) → WaitsForPort (.ringWfill h n) s c sl) ∧
      (n ≤ geoSlots x.geo → x.avp < (n : Int) → WaitsForPort (.ringWfree h n) s c sl) ∧
      ((n : Int) ≤ x.avc → WaitsForPort (.ringAcons h n) s c sl) ∧ ((n : Int) ≤ x.avp → WaitsForPort (.ringAprod h n) s c sl) ∧
      WaitsForPort (.ringStat d h) s c sl ∧
      (n ≤ geoSlots x.geo → x.avc < (n : Int) → PortIsFree s c → ∃ t, exec (.ringWfill h n) s = .next t ∧ keeps t { x with seenp := w 0 } ∧
        SameMemory s t ∧ if (n : Int) ≤ ((w 0).toNat : Int) - x.ccur.toNat then goesOn t else (t.thread c sl).hold = .retry) ∧
      (n ≤ geoSlots x.geo → (n : Int) ≤ x.avp → ∃ t, exec (.ringWfree h n) s = .next t ∧ goesOn t ∧ keeps t x ∧ SameMemory s t) ∧
      (n ≤ geoSlots x.geo → x.avp < (n : Int) → PortIsFree s c → ∃ t, exec (.ringWfree h n) s = .next t ∧ keeps t { x with seenc := w 1 } ∧
        SameMemory s t ∧ if (n : Int) ≤ (geoSlots x.geo : Int) - (x.pcur.toNat - ((w 1).toNat : Int)) then goesOn t
          else (t.thread c sl).hold = .retry) ∧
      ((n : Int) ≤ x.avc → PortIsFree s c → ∃ t, exec (.ringAcons h n) s = .next t ∧ goesOn t ∧
        keeps t { x with ccur := x.ccur + BitVec.ofNat 64 n } ∧
        columnNumber t (x.desc.toNat + 8) 8 = ((w 1).toNat + n) % 2 ^ 64 ∧
        ∀ y, y < x.desc.toNat + 8 ∨ x.desc.toNat + 16 ≤ y → t.colMem.read y = s.colMem.read y) ∧
      ((n : Int) ≤ x.avp → PortIsFree s c → ∃ t, exec (.ringAprod h n) s = .next t ∧ goesOn t ∧
        keeps t { x with pcur := x.pcur + BitVec.ofNat 64 n } ∧
        columnNumber t x.desc.toNat 8 = ((w 0).toNat + n) % 2 ^ 64 ∧
        ∀ y, y < x.desc.toNat ∨ x.desc.toNat + 8 ≤ y → t.colMem.read y = s.colMem.read y) ∧
      (PortIsFree s c → let y : Handle := { x with seenp := w 0, seenc := w 1 }
        ∃ t, exec (.ringStat d h) s = .next t ∧ goesOn t ∧ find (t.thread c sl).handles h = some y ∧ SameMemory s t ∧
          Gets s t c sl d (widen ((BitVec.ofInt 64 (min y.avc (2 ^ 32 - 1)) <<< 32) ||| BitVec.ofInt 64 (min y.avp (2 ^ 32 - 1)))))

/-- R216: LD.LAST in the thread's own column. Its load, of a slot that the fill window holds, writes the bytes to d, and the thread goes on
in the next cycle to the second half, which adds 1 to the descriptor's consumer count and to the handle's cursor and completes the
instruction. -/
def Clause.LoadLastConsumesASlot : Prop :=
  ∀ (s : State) (c sl d h b : Nat) (acq : Bool) (w : Width) (off : Int) (x : Handle),
    find (s.thread c sl).handles h = some x → h < 16 → geoMode x.geo = .loc → Runs s c sl [d, b] [d] →
    ((s.thread c sl).result ≠ 1 →
      let pos := (s.reg64 c sl b * BitVec.ofNat 64 (widthBytes w) + BitVec.ofInt 64 off).toNat
      let ea := x.desc + BitVec.ofNat 64 (64 + x.ccur.toNat % geoSlots x.geo * geoBytes x.geo + pos)
      pos < geoBytes x.geo → 0 < x.avc → OwnColumn s c sl ea (widthBytes w) false → ea.toNat / 64 ∉ s.colBad →
      WaitsForPort (.ldLast d h b acq w off) s c sl ∧ (PortIsFree s c → ∃ t, exec (.ldLast d h b acq w off) s = .next t ∧
        Gets s t c sl d (loaded w (columnNumber s ea.toNat (widthBytes w))) ∧ (t.thread c sl).hold = .retry ∧ (t.thread c sl).result = 1 ∧
          SameMemory s t ∧
        ∃ e ∈ t.events, e.row = .ringWaitReread ∧ e.cl = some (c / 16) ∧ e.subj = { unit := 16 * c + sl } ∧ e.due = s.cyc c + 1)) ∧
    ((s.thread c sl).result = 1 → x.desc.toNat % 64 = 0 → OwnColumn s c sl x.desc 8 true → x.desc.toNat / 64 ∉ s.colBad →
      (s.thread c sl).posted = 0 →
      WaitsForPort (.ldLast d h b acq w off) s c sl ∧ (PortIsFree s c →
        ∃ t, exec (.ldLast d h b acq w off) s = .next t ∧ (t.thread c sl).pc = (s.thread c sl).nextPc ∧ SameRegs s t ∧
          find (t.thread c sl).handles h = some { x with ccur := x.ccur + 1 } ∧
          columnNumber t (x.desc.toNat + 8) 8 = (columnNumber s (x.desc.toNat + 8) 8 + 1) % 2 ^ 64))

/-- RingInstructions and LoadLastConsumesASlot, together. -/
def Obligations.RingsAndLastReads : Prop := Clause.RingInstructions ∧ Clause.LoadLastConsumesASlot

/-! ### Launch by message (04_channels) -/

/-- R72 to R76: SEND with no earlier store outstanding puts its message on its way and holds the thread until the answer: to a core of
the module, or, as a REMOP of a supervisor, to the firmware, which refuses any other. SEND_ANSWER gives the answer: accepted, full or
refused is 0, 1 or 2 in the busy register; without one, full sends again later and refused traps PERM. SEND_RETRANSMIT sends
again while its core runs. -/
def Obligations.SendsAreAnswered : Prop :=
  (∀ (remop : Bool) (busy : Option Nat) (a b n : Nat) (s : State) (c sl : Nat),
    let i : Instr := if remop then .sendRemop busy a b n else .sendTask busy a b n
    let w := s.reg64 c sl a
    Runs s c sl (a :: busy.toList ++ (List.range n).map (b + ·)) busy.toList → (s.thread c sl).posted = 0 → (s.thread c sl).invals = 0 →
    NoInvalidations s → s.devNo ≠ 0xFFFE →
    (w.toNat / 2 ^ 48 = 0xFFFF → ∃ t, exec i s = .next t ∧ HeldFor t c sl i 1 ∧ SameRegs s t ∧ SameMemory s t ∧
      OnItsWay t (.msg (messageOf s c sl remop w s.devNo b n))) ∧
    (w.toNat / 2 ^ 48 = 0xFFFE → ∃ t, exec i s = .next t ∧ HeldFor t c sl i 1 ∧ SameRegs s t ∧ SameMemory s t ∧
      OnItsWay t (if remop = true ∧ (s.thread c sl).sup = true then .msg (messageOf s c sl remop w 0xFFFE b n)
        else .sendAns c sl .refused))) ∧
  (∀ (remop : Bool) (busy : Option Nat) (a b n : Nat) (s : State) (c sl : Nat) (x : Ans),
    let i : Instr := if remop then .sendRemop busy a b n else .sendTask busy a b n
    Delivers s (.sendAns c sl x) → WaitsAt s c sl i → (∀ d, busy = some d → HasEntry s c sl d) →
    (x = .done → ∃ t, exec .sendAnswer s = .next t ∧ BusyResult s t c sl busy 0) ∧
    (x = .full → busy ≠ none → ∃ t, exec .sendAnswer s = .next t ∧ BusyResult s t c sl busy 1) ∧
    (x = .refused → busy ≠ none → ∃ t, exec .sendAnswer s = .next t ∧ BusyResult s t c sl busy 2) ∧
    (x = .full → busy = none → ∃ t, exec .sendAnswer s = .next t ∧ (t.thread c sl).hold = .retry) ∧
    (x = .refused → busy = none → TakesTrap .sendAnswer s c sl .perm (s.thread c sl).instrWord (s.reg64 c sl a))) ∧
  ∀ (remop : Bool) (busy : Option Nat) (a b n : Nat) (s : State) (c sl : Nat) (p : Pending),
    let w := s.reg64 c sl a
    sl < 16 → s.subj.unit = 16 * c + sl → (s.slot c sl).st = .run → (s.core c).pre = .running → (s.thread c sl).hold = .retry →
    (s.thread c sl).pend = some p → p.instr = (if remop then .sendRemop busy a b n else .sendTask busy a b n) → s.devNo ≠ 0xFFFE →
      w.toNat / 2 ^ 48 = 0xFFFF →
    ∃ t, exec .sendRetransmit s = .next t ∧ (t.thread c sl).hold = .answer ∧
      OnItsWay t (.msg (messageOf s c sl remop w s.devNo b n))

/-- R86, R89, R91: SPAWN pushes a record at the bottom of the deque, parked on its counter where that is not zero, and tells 0; while 64
entries are in use it tells 1, or waits where it has no busy register. It traps MISALIGN or PAGE for a PC that is no head address. -/
def Clause.SpawnPushesARecord : Prop :=
  ∀ (busy : Option Nat) (a b x pri : Nat) (park : Option Nat) (lim : Nat) (s : State) (c sl : Nat),
    let i : Instr := .spawn busy a b x pri park lim
    let pc := s.reg64 c sl a
    let used := (s.core c).deque.length + if (s.core c).stealOut = true then 1 else 0
    Runs s c sl (a :: b :: x :: busy.toList) busy.toList →
    let waits := match park with
      | some n => if look (s.core c).cnt n 0 = 0 then none else some n
      | none => none
    let r : Rec := { k := false, w := (s.thread c sl).world, pri := pri, lim := lim, w0 := pc, arg0 := s.reg64 c sl b,
                     arg1 := s.reg64 c sl x, entered := s.cyc c, parked := waits }
    (headAddress pc = true → used < 64 → ∃ t uid, exec i s = .next t ∧ BusyResult s t c sl busy 0 ∧
      (t.core c).deque = (s.core c).deque ++ [{ r with uid := uid }]) ∧
    (headAddress pc = true → 64 ≤ used → busy ≠ none →
      ∃ t, exec i s = .next t ∧ BusyResult s t c sl busy 1 ∧ (t.core c).deque = (s.core c).deque) ∧
    (headAddress pc = true → 64 ≤ used → busy = none →
      ∃ t, exec i s = .next t ∧ (t.thread c sl).hold = .again ∧ (t.thread c sl).pc = (s.thread c sl).pc) ∧
    (pc.toNat % 2 = 1 ∨ pc.toNat % 64 / 2 = 0 → TakesTrap i s c sl .misalign (s.thread c sl).instrWord pc) ∧
    (pc.toNat % 2 = 0 → pc.toNat % 64 / 2 ≠ 0 → 2 ^ 48 ≤ pc.toNat → TakesTrap i s c sl .page (s.thread c sl).instrWord pc)

/-- R71, R83, R84: CHAN on the thread's own core. BLOCK and UNBLOCK set and clear B of the channel's entry, QUERY writes its word to d, and
TTSET stores an entry, reserved bits zero and V clear where the PC is no head address. A CHAN to another core of the tenant is on
its way and holds the thread; CHAN_REMOTE does the same there and answers. A word that names another device traps PERM, as does a
core of another tenant. -/
def Obligations.ChannelsAreOperated : Prop :=
  (∀ (s : State) (c sl d a b : Nat),
    let w := s.reg64 c sl a
    let dst := w.toNat / 2 ^ 36 % 4096
    let ch := w.toNat / 2 ^ 30 % 64
    let e := look (s.core c).ttab ch 0
    let all := fun (p : Instr → Prop) => p (.chanBlock a) ∧ p (.chanUnblock a) ∧ p (.chanQuery d a) ∧ p (.chanTtset a b)
    Runs s c sl [d, a, b] [d] → (s.thread c sl).sup = true → (s.thread c sl).world = true →
    (w.toNat / 2 ^ 48 = 0xFFFF → dst = c → s.undeliverable = [] →
      (∃ t, exec (.chanBlock a) s = .next t ∧ look (t.core c).ttab ch 0 = e ||| BitVec.ofNat 64 (2 ^ 61) ∧
        (t.thread c sl).pc = (s.thread c sl).nextPc ∧ SameRegs s t) ∧
      (∃ t, exec (.chanUnblock a) s = .next t ∧ look (t.core c).ttab ch 0 = e &&& ~~~(BitVec.ofNat 64 (2 ^ 61)) ∧
        (t.thread c sl).pc = (s.thread c sl).nextPc ∧ SameRegs s t) ∧
      Puts (.chanQuery d a) s c sl d (s.queryWord c ch) ∧
      ∃ t, exec (.chanTtset a b) s = .next t ∧ (t.thread c sl).pc = (s.thread c sl).nextPc ∧ SameRegs s t ∧
        let v := s.reg64 c sl b &&& ~~~(BitVec.ofNat 64 (0x7F * 2 ^ 48))
        look (t.core c).ttab ch 0 = if v.toNat % 2 = 1 ∨ v.toNat % 64 / 2 = 0 then v &&& ~~~(BitVec.ofNat 64 (2 ^ 63)) else v) ∧
    (w.toNat / 2 ^ 48 = 0xFFFF → dst ≠ c → s.tenantOf (dst / 16) = s.tenantOf (c / 16) →
      ∀ op i, (op, i) ∈ [(0, Instr.chanBlock a), (1, .chanUnblock a), (2, .chanQuery d a), (3, .chanTtset a b)] →
        ∃ t, exec i s = .next t ∧ HeldFor t c sl i 1 ∧
          OnItsWay t (.chanOp op dst ch (if op = 3 then s.reg64 c sl b else 0) c sl true)) ∧
    (w.toNat / 2 ^ 48 ≠ 0xFFFF → w.toNat / 2 ^ 48 ≠ s.devNo → all fun i => TakesTrap i s c sl .perm (s.thread c sl).instrWord w) ∧
    (w.toNat / 2 ^ 48 = 0xFFFF → s.tenantOf (dst / 16) ≠ s.tenantOf (c / 16) →
      all fun i => TakesTrap i s c sl .perm (s.thread c sl).instrWord w)) ∧
  ∀ (s : State) (c ch rc rs : Nat) (w : Word), (s.core c).pre = .running → (s.core c).refused = [] → s.undeliverable = [] →
    (Delivers s (.chanOp 0 c ch w rc rs true) → ∃ t, exec .chanRemote s = .next t ∧
      look (t.core c).ttab ch 0 = look (s.core c).ttab ch 0 ||| BitVec.ofNat 64 (2 ^ 61) ∧ OnItsWay t (.thrAns rc rs .done)) ∧
    (Delivers s (.chanOp 1 c ch w rc rs true) → ∃ t, exec .chanRemote s = .next t ∧
      look (t.core c).ttab ch 0 = look (s.core c).ttab ch 0 &&& ~~~(BitVec.ofNat 64 (2 ^ 61)) ∧ OnItsWay t (.thrAns rc rs .done)) ∧
    (Delivers s (.chanOp 2 c ch w rc rs true) → ∃ t, exec .chanRemote s = .next t ∧ OnItsWay t (.thrAns rc rs (.value (s.queryWord c ch))))

/-- R20, R74, R77: ARRIVAL. A message of the core's own tenant enters the arrival queue at its end, with its acceptance cycle, and is answered
accepted; with 64 in the queue it is answered full, and one of another tenant refused, and the queue stays. While the island is
down it is held and counted. -/
def Clause.ArrivalsQueueOrTurnAway : Prop :=
  ∀ (s : State) (m : Msg), Delivers s (.msg m) → m.report = false → m.taken = none → m.srcDev = s.devNo → s.devNo ≠ 0xFFFE →
    let c := m.dstCore
    ((s.cluster (c / 16)).up = false → ∃ t, exec .arrival s = .next t ∧ t.undeliverable = s.undeliverable ++ [s.subj.item] ∧
      look t.fwCounts 3 0 = look s.fwCounts 3 0 + 1 ∧ t.items = s.items) ∧
    ((s.cluster (c / 16)).up = true → s.tenantOf (c / 16) ≠ none → m.tenant = s.tenantOf (c / 16) → (s.core c).pre = .running →
      (s.core c).spill = [] →
      ((s.core c).arrivals.length < 64 → ∃ t, exec .arrival s = .next t ∧
        (t.core c).arrivals = (s.core c).arrivals ++ [{ msg := m, entered := s.cyc c }] ∧
        OnItsWay t (.sendAns m.srcCore m.srcSlot .done)) ∧
      (64 ≤ (s.core c).arrivals.length → ∃ t, exec .arrival s = .next t ∧ (t.core c).arrivals = (s.core c).arrivals ∧
        OnItsWay t (.sendAns m.srcCore m.srcSlot .full))) ∧
    ((s.cluster (c / 16)).up = true → m.tenant ≠ none → m.tenant ≠ s.tenantOf (c / 16) → ∃ t, exec .arrival s = .next t ∧
      (t.core c).arrivals = (s.core c).arrivals ∧ OnItsWay t (.sendAns m.srcCore m.srcSlot .refused))

/-- R92: SELECTION, at a core that runs, has chosen nothing and has a slot to admit into, picks a candidate than which none has a higher
effective priority, an arrival before a record of the same one; none where there is none. -/
def Clause.SelectionPicksTheHighest : Prop :=
  ∀ (s : State), let c := s.subj.unit
    let k := s.core c
    let p := fun (a : Arrival) => priorityAt (s.cyc c) ((k.tt a.msg.channel).toNat / 2 ^ 59 % 4) a.entered
    let q := fun (r : Rec) => priorityAt (s.cyc c) r.pri r.entered
    k.pre = .running → k.chosen = none → (s.admitSlot c).isSome = true →
    ∃ t, exec .selection s = .next t ∧ match (t.core c).chosen with
      | some (.arrival ch) => ∃ a, Candidate k a ∧ a.msg.channel = ch ∧ (∀ b, Candidate k b → p b ≤ p a) ∧
          ∀ r ∈ k.deque, r.parked = none → q r ≤ p a
      | some (.record uid) => ∃ r ∈ k.deque, r.parked = none ∧ r.uid = uid ∧ (∀ b, Candidate k b → p b < q r) ∧
          ∀ r' ∈ k.deque, r'.parked = none → q r' ≤ q r
      | none => (∀ b, ¬ Candidate k b) ∧ ∀ r ∈ k.deque, r.parked ≠ none

/-- ArrivalsQueueOrTurnAway and SelectionPicksTheHighest, together. -/
def Obligations.ArrivalsAndSelection : Prop := Clause.ArrivalsQueueOrTurnAway ∧ Clause.SelectionPicksTheHighest

/-- R78 to R80, R404: ADMISSION starts the chosen arrival in a free slot from its channel's entry, with its payload in g1 upward, or the
chosen plain record with its two arguments; REMOP_ADMISSION starts the first REMOP in the service slot. -/
def Obligations.AdmissionStartsThreads : Prop :=
  ∀ (s : State), let c := s.subj.unit
    let k := s.core c
    k.pre = .running →
    (∀ sl a b, let e := k.tt a.msg.channel
      let limit := 8 * (e.toNat / 2 ^ 55 % 16 + 1)
      s.admitSlot c = some sl → s.paired c sl = false → k.chosen = some (.arrival a.msg.channel) → Candidate k a →
      a.msg.words.length < limit → e.getLsbD 62 = false ∨ a.msg.world = true → freeBase k (s.cyc c) limit = some b → k.spill = [] →
        k.svcWait = [] →
      ∃ t, exec .admission s = .next t ∧ (t.core c).arrivals = k.arrivals.erase a ∧ (t.core c).chosen = none ∧
        Placed s t c sl (BitVec.ofNat 64 (e.toNat % 2 ^ 48)) limit (e.toNat / 2 ^ 59 % 4) (e.getLsbD 62)
          (k.errlog.getLsbD 63 && decide (k.errlog.toNat / 2 ^ 57 % 64 = a.msg.channel)) a.msg.words) ∧
    (∀ sl r b, s.admitSlot c = some sl → s.paired c sl = false → k.chosen = some (.record r.uid) → r.k = false → r.lim < 16 →
      (k.deque.filter fun x => x.parked.isNone).find? (fun x => decide (x.uid = r.uid)) = some r →
      freeBase k (s.cyc c) (8 * (r.lim + 1)) = some b →
      ∃ t, exec .admission s = .next t ∧ (t.core c).deque = k.deque.filter (fun x => x.uid != r.uid) ∧ (t.core c).chosen = none ∧
        Placed s t c sl r.w0 (8 * (r.lim + 1)) r.pri r.w false [r.arg0, r.arg1]) ∧
    ∀ a, let e := k.tt a.msg.channel
      let limit := 8 * (e.toNat / 2 ^ 55 % 16 + 1)
      (s.slot c 15).st = .free → (s.slot c 15).freeAt ≤ s.cyc c →
        k.arrivals.find? (fun x => x.msg.remop && ttOpen (k.tt x.msg.channel)) = some a →
      a.msg.words.length < limit → e.getLsbD 62 = false ∨ a.msg.world = true → k.spill = [] → k.svcWait = [] →
      ∃ t, exec .remopAdmission s = .next t ∧ (t.core c).arrivals = k.arrivals.erase a ∧
        Placed s t c 15 (BitVec.ofNat 64 (e.toNat % 2 ^ 48)) limit (e.toNat / 2 ^ 59 % 4) (e.getLsbD 62)
          (k.errlog.getLsbD 63 && decide (k.errlog.toNat / 2 ^ 57 % 64 = a.msg.channel)) a.msg.words

/-- R94 to R97: STEAL_REQUEST of a core of a steal group that has nothing to run asks the member after it for a record, in the name of its
group; STEAL_ANSWER, of a victim of that group, gives its poppable record nearest the top, of plain ones the whole record, which leaves its
deque; STEAL_RECEIVE pushes it at the bottom of the asking core's deque, or, where none came, waits 64 cycles. That the group compared is
the one asked in is the model's choice (log 77). -/
def Clause.StealingMovesRecords : Prop :=
  (∀ (s : State) (v : Nat), let c := s.subj.unit
    let k := s.core c
    let g := k.stealgrp.toNat % 256
    k.pre = .running → k.stealgrp.getLsbD 8 = true → (k.membOf g).isSome = true → (s.admitSlot c).isSome = true → k.deque = [] →
    k.arrivals = [] → k.stealOut = false → k.stealWait ≤ s.cyc c → k.stealAsked = 0 → s.members g = some [c, v] → v ≠ c →
    ∃ t, exec .stealRequest s = .next t ∧ (t.core c).stealOut = true ∧
      OnItsWay t (.stealReq c v g (k.crowns.map fun p => p.2.handle) (decide (k.crowns.length < 4)))) ∧
  (∀ (s : State) (thief v g : Nat) (hs : List Nat) (room : Bool), let k := s.core v
    Delivers s (.stealReq thief v g hs room) → k.pre = .running → k.stealgrp.getLsbD 8 = true →
    k.stealgrp.toNat % 256 = g → (s.cluster (v / 16)).world = (s.cluster (thief / 16)).world →
    ((k.deque.filter fun r => r.parked.isNone && !r.hl) = [] →
      ∃ t, exec .stealAnswer s = .next t ∧ (t.core v).deque = k.deque ∧ OnItsWay t (.stealAns thief none)) ∧
    ∀ r, (k.deque.filter fun r => r.parked.isNone && !r.hl).head? = some r → r.k = false →
      ∃ t, exec .stealAnswer s = .next t ∧ (t.core v).deque = k.deque.filter (fun x => x.uid != r.uid) ∧
        OnItsWay t (.stealAns thief (some r))) ∧
  ∀ (s : State) (c : Nat), (Delivers s (.stealAns c none) → ∃ t, exec .stealReceive s = .next t ∧ (t.core c).stealOut = false ∧
      (t.core c).stealWait = s.cyc c + 64) ∧
    ∀ r, Delivers s (.stealAns c (some r)) → r.k = false → ∃ t uid, exec .stealReceive s = .next t ∧ (t.core c).stealOut = false ∧
      (t.core c).deque = (s.core c).deque ++ [{ r with hl := false, entered := s.cyc c, uid := uid }]

/-- SpawnPushesARecord and StealingMovesRecords, together. -/
def Obligations.RecordsArePushedAndStolen : Prop := Clause.SpawnPushesARecord ∧ Clause.StealingMovesRecords

/-- R90, R91, R411, R417: CNT_WRITE sets a counter; at zero the records parked on it move to the bottom of the deque in their order, held
local, before which the others keep theirs. REPORT_RETRY sends the oldest report again as a REMOP to the supervisor's channel. SPILL_RETRY
offers its item to its core once more, as the next thing that happens, where there is room and no earlier item of its sender waits; else it
tries again 64 cycles later. -/
def Obligations.CountersReleaseRecords : Prop :=
  (∀ (s : State), let c := s.subj.unit
    let n := s.subj.sub
    let v := s.subj.val.toNat % 65536
    let on := fun (r : Rec) => decide (r.parked = some n)
    ∃ t, exec .cntWrite s = .next t ∧ look (t.core c).cnt n 0 = v ∧
      (v ≠ 0 → (t.core c).deque = (s.core c).deque) ∧
      (v = 0 → (t.core c).deque = ((s.core c).deque.filter fun r => !(on r)) ++
        ((s.core c).deque.filter on).map fun r => { r with parked := none, hl := true, entered := s.cyc c })) ∧
  (∀ (s : State) (r : Report) (rest : List Report), let c := s.subj.unit
    let k := s.core c
    k.reports = r :: rest → ∃ t m, exec .reportRetry s = .next t ∧ OnItsWay t (.msg m) ∧ m.remop = true ∧ m.srcCore = c ∧
      m.dstCore = k.errlog.toNat / 2 ^ 45 % 4096 ∧ m.channel = k.errlog.toNat / 2 ^ 39 % 64 ∧
      m.words = [r.addr, r.w0, BitVec.ofNat 64 k.dropped]) ∧
  ∀ (s : State) (x : Content), Delivers s x → let c := s.subj.unit
    let id := s.subj.item
    let k := s.core c
    let first := (k.refused.find? fun p => decide (p.1 = s.spillSender x)).map (fun p => p.2) = some id
    let fits := k.pre = .running ∨ k.spill.length < 4096
    (fits → first → ∃ t, exec .spillRetry s = .next t ∧ t.agenda = .dev (rowOf x).1 { subjOf x id with val := 1 } :: s.agenda ∧
      (t.core c).refused = k.refused.filter fun p => p.2 != id) ∧
    (¬ (fits ∧ first) → ∃ t, exec .spillRetry s = .next t ∧ t.agenda = s.agenda ∧ (t.core c).refused = k.refused ∧
      ∃ e ∈ t.events, e.row = .spillRetry ∧ e.cl = some (c / 16) ∧ e.subj = s.subj ∧ e.due = s.cyc c + 64)

/-! ### Crowns and tillers (05_crowns) -/

/-- R99 to R105: FREEZE of a thread that heads no crown and is no tiller, with no template window, of its tenant's group, with a crown slot
free. The slot holds the handle, the count n and the image: PC the next one, the registers, masks and THANDLER of the thread, and
BUDGET, sheaf and SHADOW of the parameter word. Where no other member need hold it, the thread goes on with all ones in d, LASTCROWN the
handle; else the image is on its way to each and the thread is held. A group not its tenant's traps PERM, a thread that heads a
crown FREEZEDEPTH. -/
def Obligations.FreezeMakesACrown : Prop :=
  ∀ (s : State) (c sl d a b cs : Nat),
    let th := s.thread c sl
    let k := s.core c
    let w := (s.reg64 c sl b).toNat
    let n := (s.reg64 c sl a).toNat % 2 ^ 32
    let g := w / 2 ^ 8 % 256
    let h := c * 2 ^ 20 + cs * 2 ^ 18 + k.serial
    let others := ((s.members g).getD []).filter fun m => m != c
    Runs s c sl [d, a, b] [d] → sl ≠ 15 → th.tplsize = 0 → th.tiller = none → c < 4096 → k.serial < 2 ^ 18 →
    (s.ownGroup c g = true → th.heads = false → th.posted = 0 → th.invals = 0 → NoInvalidations s → k.freeCrown = some cs →
      ∃ t x img, exec (.freeze d a b) s = .next t ∧ find (t.core c).crowns cs = some x ∧ x.handle = h ∧ x.home = true ∧ x.join = n ∧
        x.failed = 0 ∧ x.image = some img ∧ img.pc = th.nextPc ∧ img.limit = th.limit ∧ img.masks = th.masks ∧
        img.thandler = th.thandler ∧ img.n = n ∧ img.dreg = d ∧ img.level = 1 ∧ img.shadow = w / 2 ^ 24 % 256 ∧
        img.budget = min (w % 256) (th.limit - 1 - (if d = 0 then 0 else 1)) ∧
        img.sheaf = (if 1 ≤ w / 2 ^ 16 % 256 ∧ w / 2 ^ 16 % 256 ≤ 64 then w / 2 ^ 16 % 256 else 64) ∧
        (∀ r, 1 ≤ r → r < th.limit → look img.regs r 0 = s.reg c sl r) ∧
        (n = 0 ∨ others = [] → Gets s t c sl d (widen (BitVec.allOnes 64)) ∧ (t.thread c sl).pc = th.nextPc ∧
          (t.thread c sl).lastcrown = BitVec.ofNat 64 h ∧ (t.thread c sl).heads = true) ∧
        (n ≠ 0 → others ≠ [] → HeldFor t c sl (.freeze d a b) 1 ∧ (t.thread c sl).result = BitVec.ofNat 64 h ∧
          ∀ m ∈ others, OnItsWay t (.imgInstall m h img))) ∧
    (s.ownGroup c g = false → TakesTrap (.freeze d a b) s c sl .perm th.instrWord (BitVec.ofNat 64 g)) ∧
    (s.ownGroup c g = true → th.heads = true → TakesTrap (.freeze d a b) s c sl .freezedepth th.instrWord 0)

/-- R104, R118, R120, R121, R123: JOIN of the thread's own live crown. On its home core, a count of zero retires the crown, whose slot is free
again, and writes the number of failed tillers to d, with bit 63 for TEST; another count is TEST's result, and WAIT waits. Elsewhere the
question is on its way and the thread is held. A handle that is not LASTCROWN of a thread that heads a crown traps PERM. -/
def Clause.JoinsAnswer : Prop :=
  ∀ (s : State) (c sl d a : Nat) (k : CrownSlot),
    let th := s.thread c sl
    let x := s.reg64 c sl a
    let h := x.toNat
    let cs := h / 2 ^ 18 % 4
    Runs s c sl [d, a] [d] →
    (h < 2 ^ 32 → th.heads = true → th.lastcrown = x → h / 2 ^ 20 = c → find (s.core c).crowns cs = some k → k.home = true → k.handle = h →
      k.join < 2 ^ 63 → k.failed < 2 ^ 63 →
      (k.join = 0 → (∃ t, exec (.joinWait d a) s = .next t ∧ BusyResult s t c sl (some d) (BitVec.ofNat 64 k.failed) ∧
          (t.thread c sl).heads = false ∧ find (t.core c).crowns cs = none) ∧
        ∃ t, exec (.joinTest d a) s = .next t ∧ BusyResult s t c sl (some d) (BitVec.ofNat 64 (k.failed + 2 ^ 63)) ∧
          (t.thread c sl).heads = false ∧ find (t.core c).crowns cs = none) ∧
      (k.join ≠ 0 → (∃ t, exec (.joinWait d a) s = .next t ∧ (t.thread c sl).hold = .again ∧ (t.thread c sl).pc = th.pc) ∧
        Puts (.joinTest d a) s c sl d (BitVec.ofNat 64 k.join))) ∧
    (h < 2 ^ 32 → th.heads = true → th.lastcrown = x → h / 2 ^ 20 ≠ c →
      (∃ t, exec (.joinWait d a) s = .next t ∧ HeldFor t c sl (.joinWait d a) 1 ∧ OnItsWay t (.joinOp h false c sl)) ∧
      ∃ t, exec (.joinTest d a) s = .next t ∧ HeldFor t c sl (.joinTest d a) 1 ∧ OnItsWay t (.joinOp h true c sl)) ∧
    (2 ^ 32 ≤ h ∨ th.heads = false ∨ th.lastcrown ≠ x →
      TakesTrap (.joinWait d a) s c sl .perm th.instrWord x ∧ TakesTrap (.joinTest d a) s c sl .perm th.instrWord x)

/-- R103, R109, R118, R123: IMAGE_INSTALL gives a running member's lowest free crown slot to the image and confirms it to the home; where
none is free it takes the image up again on the next cycle. IMAGE_FETCH sends a thief the image from the home, which counts it among the
holders. JOIN_DECREMENT counts the end of a tiller, and a failed one as failed; the last one's retires a crown whose thread has ended.
CROWN_RELEASE frees the slot at a holder. -/
def Clause.CrownsAreKept : Prop :=
  (∀ (s : State) (m h : Nat) (img : Image), Delivers s (.imgInstall m h img) → (s.core m).pre = .running → (s.core m).refused = [] →
    (∀ j, (s.core m).freeCrown = some j → ∃ t, exec .imageInstall s = .next t ∧
      find (t.core m).crowns j = some { handle := h, image := some img } ∧ OnItsWay t (.imgDone (h / 2 ^ 20 % 4096) h m false)) ∧
    ((s.core m).freeCrown = none → ∃ t, exec .imageInstall s = .next t ∧ (t.core m).crowns = (s.core m).crowns ∧
      t.items = s.items ∧ ∃ e, t.events = s.events ++ [e] ∧ e.row = .imageInstall ∧ e.subj.item = s.subj.item ∧ e.subj.unit = m ∧
        e.cl = some (m / 16) ∧ e.due = s.cyc m + 1)) ∧
  (∀ (s : State) (thief h : Nat) (k : CrownSlot), let c := h / 2 ^ 20 % 4096
    let cs := h / 2 ^ 18 % 4
    find (s.core c).crowns cs = some k → k.home = true → k.handle = h → (s.core c).pre = .running →
    (s.core c).refused = [] → (Delivers s (.imgFetch thief h) → ∃ t x, exec .imageFetch s = .next t ∧ OnItsWay t (.imgData thief h k.image) ∧
      find (t.core c).crowns cs = some x ∧ thief ∈ x.holders) ∧
    ∀ fail src, Delivers s (.joinDec h fail src) →
      (¬ (k.join ≤ 1 ∧ k.crownEnded = true) → ∃ t x, exec .joinDecrement s = .next t ∧ find (t.core c).crowns cs = some x ∧
        x.join = k.join - 1 ∧ x.failed = k.failed + if fail = true then 1 else 0) ∧
      (k.join ≤ 1 → k.crownEnded = true → ∃ t, exec .joinDecrement s = .next t ∧ find (t.core c).crowns cs = none ∧
        ∀ m ∈ k.holders, OnItsWay t (.crownRel m h))) ∧
  ∀ (s : State) (c h : Nat), Delivers s (.crownRel c h) → (s.core c).pre = .running →
    ∃ t, exec .crownRelease s = .next t ∧ (t.core c).crowns = (s.core c).crowns.filter fun p => p.2.home || p.2.handle != h

/-- JoinsAnswer and CrownsAreKept, together. -/
def Obligations.CrownsAndJoins : Prop := Clause.JoinsAnswer ∧ Clause.CrownsAreKept

/-- R106, R107: the dealer of a crown sends its next sheaf, of at most the sheaf size and of what is left, to the member whose turn it is,
unless that member's deque has no room; after the last it stops. -/
def Clause.DealerSendsSheaves : Prop :=
  ∀ (s : State) (k : CrownSlot) (i : Nat) (img : Image), let c := s.subj.unit
    let cs := s.subj.sub
    let m := img.members.getD (i % img.members.length) 0
    find (s.core c).crowns cs = some k → k.dealer = some i → k.image = some img → (s.core c).pre = .running → k.dealAt ≤ s.cyc c →
    (i * img.sheaf < img.n → (s.core m).dequeUsed + look k.onWay m 0 < 64 →
      ∃ t x, exec .dealerSendSheaf s = .next t ∧ find (t.core c).crowns cs = some x ∧ x.dealer = some (i + 1) ∧
        OnItsWay t (.sheaf m { k := true, w := img.world, pri := img.pri, lim := img.limit / 8 - 1, crown := k.handle,
                               cnt := min img.sheaf (img.n - i * img.sheaf) - 1, w0 := BitVec.ofNat 64 (i * img.sheaf) } c)) ∧
    (i * img.sheaf < img.n → 64 ≤ (s.core m).dequeUsed + look k.onWay m 0 → exec .dealerSendSheaf s = .next s) ∧
    (img.n ≤ i * img.sheaf →
      ∃ t x, exec .dealerSendSheaf s = .next t ∧ find (t.core c).crowns cs = some x ∧ x.dealer = none)

/-- R108, R110 to R112: TILLER_ADMISSION of a chosen sheaf, its image at hand, its entries and shadow blocks free: the first index runs as a
tiller in the free slot, at the image's PC, with its limit, masks and THANDLER, LASTCROWN the handle. It reads the index in the index
register and the image's value in every other, and the sheaf keeps its other indices. -/
def Clause.TillersStartFromTheImage : Prop :=
  ∀ (s : State) (sl : Nat) (r : Rec) (img : Image) (es : List Nat), let c := s.subj.unit
    let k := s.core c
    k.pre = .running → k.chosen = some (.record r.uid) → s.admitSlot c = some sl → s.paired c sl = false → r.k = true →
    (k.deque.filter fun x => x.parked.isNone).find? (fun x => decide (x.uid = r.uid)) = some r → k.image r.crown = some img →
    freeEntries k (s.cyc c) (img.budget + if img.dreg = 0 then 0 else 1) = some es → (s.column (c / 2)).shadowUsed + img.shadow ≤ 1024 →
    ∃ t, exec .tillerAdmission s = .next t ∧ (t.slot c sl).st = .run ∧ (t.thread c sl).pc = img.pc ∧
      (t.thread c sl).limit = img.limit ∧ (t.thread c sl).masks = img.masks ∧ (t.thread c sl).thandler = img.thandler ∧
      (t.thread c sl).lastcrown = BitVec.ofNat 64 r.crown ∧ (t.thread c sl).level = img.level ∧
      (∀ x, t.reg c sl x = if x = 0 then 0 else if x = img.dreg then widen r.w0 else look img.regs x 0) ∧
      (t.core c).chosen = none ∧
      (r.cnt ≠ 0 → { r with w0 := r.w0 + 1, cnt := r.cnt - 1 } ∈ (t.core c).deque) ∧
      (r.cnt = 0 → (∀ y ∈ k.deque, y.uid = r.uid → y = r) → ∀ y ∈ (t.core c).deque, y.uid ≠ r.uid)

/-- DealerSendsSheaves and TillersStartFromTheImage, together. -/
def Obligations.SheavesBecomeTillers : Prop := Clause.DealerSendsSheaves ∧ Clause.TillersStartFromTheImage

/-! ### Wheels, roles and slices (06_wheels, 09_homing) -/

/-- R146 to R148: while no swap is pending, a write of ROSEDATA2 sets the shadow row ROW from the three staged values and advances ROW; a
write of OUTROSE in the quad's first cluster sets ACT and ROW, and with SEL = 0 also the shadow row's FACE and the next ROW, and is
ignored in the others; a write of ROSECTL that sets SWAP clears DONE and REFUSED. While a swap is pending, all of them change
nothing. -/
def Clause.RoseTablesAreWritten : Prop :=
  ∀ (s : State), let cl := s.subj.unit
    let v := s.subj.val.toNat
    let k := s.cluster cl
    let q := s.quad (cl / 4)
    let part := fun (w : Nat) (n : Nat) => (List.range n).map fun i => w / 32 ^ i % 32
    let row := k.roseidx.toNat % 32
    let orow := v / 2 ^ 8 % 16
    (k.swap = true → exec .rosedata2Write s = .next s ∧ exec .outroseSelect s = .next s ∧ exec .outroseWrite s = .next s ∧
      exec .rosectlSwapRequest s = .next s) ∧
    (k.swap = false → k.roseidx.toNat < 512 →
      (∃ t, exec .rosedata2Write s = .next t ∧ (t.cluster cl).inner = k.inner ∧
        (t.cluster cl).innerShadow = k.innerShadow.set row (part k.stage0.toNat 12 ++ part k.stage1.toNat 12 ++ part v 8) ∧
        (t.cluster cl).roseidx.toNat % 256 = (row + 1) % 32 ∧ (t.cluster cl).roseidx.toNat / 256 = k.roseidx.toNat / 256) ∧
      (cl % 4 ≠ 0 → exec .outroseSelect s = .next s ∧ exec .outroseWrite s = .next s) ∧
      (cl % 4 = 0 →
        (∃ t, exec .outroseSelect s = .next t ∧ t.quad (cl / 4) = { q with act := s.subj.val.getLsbD 12, row := orow }) ∧
        ∃ t, exec .outroseWrite s = .next t ∧ t.quad (cl / 4) =
          { q with act := s.subj.val.getLsbD 12, row := (orow + 1) % 16, outerShadow := q.outerShadow.set orow (v % 256) }) ∧
      ∃ t, exec .rosectlSwapRequest s = .next t ∧ (t.cluster cl).swap = true ∧ (t.cluster cl).done = false ∧
        (t.cluster cl).refused = false ∧ (t.cluster cl).sin = v % 64 ∧ (t.cluster cl).inner = k.inner ∧
        (t.cluster cl).innerShadow = k.innerShadow ∧ (t.quad (cl / 4)).outer = q.outer ∧
        (t.quad (cl / 4)).sout = if cl % 4 = 0 then v / 2 ^ 8 % 16 else q.sout)

/-- R149, R150: at the cycle on which a pending swap falls due it is refused where one of the six rules holds: no table changes and
REFUSED is set; else the shadow inner table, and in cluster 4q with it the shadow outer table, become active, and the shadow tables
keep their contents. Either way SWAP is 0 and DONE is 1. Before that cycle nothing happens. -/
def Clause.RoseTablesSwap : Prop :=
  ∀ (s : State), let cl := s.subj.unit
    let k := s.cluster cl
    let q := s.quad (cl / 4)
    (¬ SwapFallsDue s cl → exec .roseSwap s = .next s) ∧
    (SwapFallsDue s cl → ∃ t, exec .roseSwap s = .next t ∧ (t.cluster cl).swap = false ∧ (t.cluster cl).done = true ∧
      (t.cluster cl).innerShadow = k.innerShadow ∧ (t.quad (cl / 4)).outerShadow = q.outerShadow ∧
      (SwapIsRefused s cl → (t.cluster cl).refused = true ∧ (t.cluster cl).inner = k.inner ∧ (t.quad (cl / 4)).outer = q.outer) ∧
      (¬ SwapIsRefused s cl → (t.cluster cl).refused = k.refused ∧ (t.cluster cl).inner = k.innerShadow.take k.sin ∧
        (t.quad (cl / 4)).outer = if cl % 4 = 0 then shadowOuter q else q.outer))

/-- RoseTablesAreWritten and RoseTablesSwap, together. -/
def Obligations.RoseTablesAreWrittenAndSwap : Prop := Clause.RoseTablesAreWritten ∧ Clause.RoseTablesSwap

/-- R153, R154: a write of BANKROLE that may not be made changes nothing; another is held as a change to come. At the first inner period
boundary at which no access to a changing bank still waits, the roles are the new ones, the lines of changing banks are gone, every bank
keeps the bits of its array, those of the lines it held among them, and the thread that wrote goes on with the old value. What waits for a
change is the model's reading (log 23), and where a way stands in its array its choice (log 74). -/
def Clause.BankRolesChange : Prop :=
  ∀ (s : State), let cl := s.subj.unit
    let k := s.cluster cl
    ((∃ b, RoleIsKept k s.subj.val b) → exec .bankroleWrite s = .next s) ∧
    ((∀ b, ¬ RoleIsKept k s.subj.val b) → k.roleChange = none →
      ∃ t, exec .bankroleWrite s = .next t ∧ (t.cluster cl).bankrole = k.bankrole ∧
        (t.cluster cl).roleChange = some { writers := [], new := s.subj.val, reqT := k.t }) ∧
    ∀ rc, k.roleChange = some rc →
      (k.t ≤ rc.reqT ∨ k.t % k.inner.length ≠ 0 ∨ RolesAreBusy s cl rc.new → exec .bankroleChange s = .next s) ∧
      (rc.reqT < k.t → k.t % k.inner.length = 0 → ¬ RolesAreBusy s cl rc.new →
        ∃ t, exec .bankroleChange s = .next t ∧ (t.cluster cl).bankrole = rc.new ∧ (t.cluster cl).roleChange = none ∧
          (t.cluster cl).lines = k.lines.filter (fun p =>
            !(decide (p.1 / 512 < 32) && decide (roleOf k.bankrole (p.1 / 512) ≠ roleOf rc.new (p.1 / 512)))) ∧
          (let leaving := k.lines.filter (fun p =>
              decide (p.1 / 512 < 32) && decide (roleOf k.bankrole (p.1 / 512) ≠ roleOf rc.new (p.1 / 512)))
            let stands := fun (p : Nat × Line) (j x : Nat) => (∃ y, p.2.sectors[j]? = some y ∧ y.valid = true) ∧
              wayAddr cl p.1 + 48 * j ≤ x ∧ x < wayAddr cl p.1 + 48 * j + 48
            (∀ x, (∀ p ∈ leaving, ∀ j, ¬ stands p j x) → t.bankMem.read x = s.bankMem.read x) ∧
            ((leaving.map fun p => p.1).Nodup → (∀ p ∈ leaving, p.2.data.length = 192 ∧ p.2.sectors.length = 4) →
              ∀ p ∈ leaving, ∀ j x, stands p j x → t.bankMem.read x = p.2.data.getD (x - wayAddr cl p.1) 0)) ∧
          ∀ c sl d a, rc.writers = [(c, sl, k.bankrole)] → WaitsAt s c sl (.csrWrite d a 0x100) → HasEntry s c sl d →
            (t.thread c sl).pc = (s.thread c sl).nextPc ∧ t.reg c sl d = if d = 0 then 0 else widen k.bankrole)

/-- R229, R231, R232: a write of an IDOM that leaves MASK does nothing; another, with no pass of the domain under way, sets MASK, advances
GEN, and starts a pass, which is over after 512 cycles. When the pass ends each line of the domain, and when the pass of a role change ends
each line of the core, stays where it is homed; a clean one that is not goes, a dirty one becomes an orphan. Other lines stay. A thread that
waited for the pass executes its write. Lines of a bank that leaves its role are written back (log 24). -/
def Clause.PassesDealWithLines : Prop :=
  ∀ (s : State), let cl := s.subj.unit
    let d := s.subj.sub % 8
    let k := s.cluster cl
    let mask := s.subj.val.toNat % 65536
    (s.subj.item = 0 → (∀ p ∈ k.passes, p.dom = some d → p.until_ < k.t) →
      (mask = (k.domain d).1 → exec .idomWrite s = .next s) ∧
      (mask ≠ (k.domain d).1 → ∃ t, exec .idomWrite s = .next t ∧
        (t.cluster cl).domain d = (mask, ((k.domain d).2 + 1) % 256) ∧
        (∀ e, e ≠ d → (t.cluster cl).domain e = k.domain e) ∧
        (t.cluster cl).passes = k.passes ++ [{ dom := some d, core := 0, until_ := k.t + 512 }] ∧
        t.events = s.events ++ [{ cl := some cl, due := k.t + 513, row := .domainPassComplete, subj := { unit := cl, sub := d } }])) ∧
    (∀ c sl, s.subj.item = 1 + 16 * c + sl → sl < 16 → ∃ t, exec .idomWrite s = .next t ∧ TurnInPlace s t c sl ∧
      (t.thread c sl).hold = .walked ∧ (t.thread c sl).pc = (s.thread c sl).pc) ∧
    (∃ t, exec .domainPassComplete s = .next t ∧ (∀ w x, (w, x) ∈ (t.cluster cl).lines ↔ ∃ y, (w, y) ∈ k.lines ∧
      (if y.dom = some s.subj.sub then dealtWith k w y else some y) = some x)) ∧
    ∃ t, exec .slicePassComplete s = .next t ∧ (∀ w x, (w, x) ∈ (t.cluster cl).lines ↔ ∃ y, (w, y) ∈ k.lines ∧
      (if w / 1024 = s.subj.sub then dealtWith k w y else some y) = some x)

/-- BankRolesChange and PassesDealWithLines, together. -/
def Obligations.RolesChangeAndPassesDealWithLines : Prop := Clause.BankRolesChange ∧ Clause.PassesDealWithLines

/-- R155, R224, R225, R230, R232, R235, R237: at its home a load that hits returns the line's bytes, with poison where a sector it touches
has it; a store that hits writes its bytes, and the sectors it touches are valid and dirty. A load that misses waits for its tier, 180 or
320 cycles at 1 GHz (R8, R396, R398); TIER_FILL then takes a way for the line, with the tier's bytes and tags, and the access is performed.
A request of another generation is answered REHOME, and nothing is performed; while a pass over the home's slice runs every request waits
for the cycle after it, whatever its generation. A load of a block in which the bank's ECC finds an uncorrectable error returns poison (log
92). That a tier takes no longer is the model's reading (log 2). -/
def Obligations.HomesPerformAccesses : Prop :=
  ∀ (s : State) (a : Access), let h := a.homeCore
    let k := s.cluster (h / 16)
    let l := a.pa / 192
    let off := a.pa % 192
    Delivers s (.acc a) →
    (∀ b st w x, AtItsHome s a → homeBankSet k.bankrole l (h % 16) = some (b, st) → k.hitWay b st l a.tier = some w →
      find k.lines w = some x → x.data.length = 192 → x.sectors.length = 4 →
      (∀ n acq, a.op = .load n acq → 0 < n → off % 64 + n ≤ 64 → (∀ j, InSector off n j → ∃ y, x.sectors[j]? = some y ∧ y.valid = true) →
        find s.bankErr (wayAddr (h / 16) w / 64 + off / 64) = some true →
        ∃ t r, exec .homeSliceAccess s = .next t ∧ OnItsWay t (.accAns (accepted s a) r) ∧ r.poison = true ∧
          find t.bankErr (wayAddr (h / 16) w / 64 + off / 64) = none) ∧
      (WayIsSound s (h / 16) w → ∀ n acq, a.op = .load n acq → (∀ j, InSector off n j → ∃ y, x.sectors[j]? = some y ∧ y.valid = true) →
        ∃ t r, exec .homeSliceAccess s = .next t ∧ OnItsWay t (.accAns (accepted s a) r) ∧ r.fault = none ∧
          r.bytes = (x.data.drop off).take n ∧
          (r.poison = true ↔ ∃ j y, InSector off n j ∧ x.sectors[j]? = some y ∧ y.poison = true)) ∧
      (WayIsSound s (h / 16) w → ∀ bs, a.op = .store bs → off + bs.length ≤ 192 → (∀ j, InSector off bs.length j →
        ∃ y, x.sectors[j]? = some y ∧ y.valid = true) →
        ∃ t y r, exec .homeSliceAccess s = .next t ∧ find (t.cluster (h / 16)).lines w = some y ∧
          OnItsWay t (.accAns (accepted s a) r) ∧ r.fault = none ∧ y.l = x.l ∧ y.tier = x.tier ∧
          (∀ i, y.data[i]? = if off ≤ i ∧ i < off + bs.length then bs[i - off]? else x.data[i]?) ∧
          ∀ j z, y.sectors[j]? = some z → (InSector off bs.length j → z.valid = true ∧ z.dirty = true) ∧
            (¬ InSector off bs.length j → x.sectors[j]? = some z))) ∧
    (∀ b st n acq, AtItsHome s a → homeBankSet k.bankrole l (h % 16) = some (b, st) → k.hitWay b st l a.tier = none →
      a.op = .load n acq → 0 < n → 0 < k.mhz →
      ∃ t, exec .homeSliceAccess s = .next t ∧
        Scheduled t .tierFill (h / 16) s.subj.item (k.t + ((if a.tier = true then 320 else 180) * k.mhz + 999) / 1000)) ∧
    (∀ b st w n acq, homeBankSet k.bankrole l (h % 16) = some (b, st) → k.hitWay b st l a.tier = none → k.victim b st = some w →
      (a.hashed = true → k.passes = [] ∧ (k.domain (a.home % 8)).1 ≠ 0 ∧ homeLocal l (k.domain (a.home % 8)).1 = h % 16) →
      a.op = .load n acq → a.tagchk = false → (∀ j, InSector off n j → (s.sectorAt a.tier l j).err = .good) →
      ∃ t y, exec .tierFill s = .next t ∧ find (t.cluster (h / 16)).lines w = some y ∧ y.l = l ∧ y.tier = a.tier ∧
        (∀ j, InSector off n j → y.sectors[j]? = some { valid := true, tag := (s.sectorAt a.tier l j).tag } ∧
          (y.data.drop (48 * j)).take 48 = s.tierRead a.tier (192 * l + 48 * j) 48) ∧
        t.agenda = s.agenda ++ [.dev .homeSliceAccess { unit := h, item := s.subj.item }]) ∧
    (a.filled = false → k.up = true → (∃ p, SlicePassRuns s a p) → ∃ t p, exec .homeSliceAccess s = .next t ∧ SlicePassRuns s a p ∧
      t.items = s.items ∧ (t.cluster (h / 16)).lines = k.lines ∧
      Scheduled t .homeSliceAccess (h / 16) s.subj.item (p.until_ + 1)) ∧
    (a.filled = false → k.up = true → a.hashed = true → (k.domain (a.home % 8)).2 ≠ a.gen → (∀ p, ¬ SlicePassRuns s a p) →
      (∀ d n p c e, a.agent ≠ .device d n p c e) → ∃ t, exec .homeSliceAccess s = .next t ∧ (t.cluster (h / 16)).lines = k.lines ∧
        OnItsWay t (.rehome a (k.domain (a.home % 8)).1 (k.domain (a.home % 8)).2))

/-- R230, R233, R235, R354, R355: a REHOME answer is kept in the core's domain cache and the access goes to the home that its MASK names; with
MASK zero it faults PAGE. TIER_WRITE_ACK answers the access that waited. A directory drops a copy that is invalidated and acknowledges;
it takes a fill in and hands on its data, unless an invalidation crossed it, when the load goes to its home once more. A registration enters
the home's watch table, a full one's oldest being told that its line is lost; of a line that has been written on this cycle its thread is told
of the write at once. -/
def Obligations.HomesKeepTrack : Prop :=
  ∀ (s : State) (a : Access),
    (∀ c sl mask gen, a.agent = .thread c sl → Delivers s (.rehome a mask gen) →
      (mask = 0 → ∃ t, exec .rehomeReplay s = .next t ∧ OnItsWay t (.accAns a { fault := some .page })) ∧
      (mask ≠ 0 → (∀ o, a.op ≠ .mcast o) → a.home / 16 ≠ c / 16 → a.copyOk = false → ∃ t b, exec .rehomeReplay s = .next t ∧
        find (t.core c).domCache (a.home / 16 * 8 + a.home % 8) = some (mask, gen) ∧ OnItsWay t (.acc b) ∧ b.gen = gen ∧
        b.homeCore = a.home / 16 * 16 + homeLocal (a.pa / 192) mask ∧ b.op = a.op ∧ b.pa = a.pa ∧ b.agent = a.agent)) ∧
    (Delivers s (.acc a) → a.stamp = 0 → (∀ x ∈ s.devAcks, x.agent ≠ a.agent) → ∃ t, exec .tierWriteAck s = .next t ∧
      OnItsWay t (.accAns a {})) ∧
    (∀ st l tier g uid, Delivers s (.copyInv st l tier g uid) → ∃ t, exec .copyInvalidation s = .next t ∧
      (∀ y ∈ (t.stack st).copies, ¬ (y.l = l ∧ y.tier = tier)) ∧ OnItsWay t (.copyInvAck g uid)) ∧
    (∀ st r copy, Delivers s (.copyFill st a r copy) →
      let crossed := ∃ x ∈ (s.stack st).filling, x.stamp + 1 = a.stamp ∧ x.crossed = true
      (¬ crossed → ∃ t, exec .stackCopyFill s = .next t ∧ (∀ y, copy = some y → y ∈ (t.stack st).copies) ∧
        OnItsWay t (.accAns a r)) ∧
      (crossed → r.fault = none → ∃ t n, exec .stackCopyFill s = .next t ∧ (t.stack st).copies = (s.stack st).copies ∧
        OnItsWay t (.acc { a with stamp := n + 1, filled := false }))) ∧
    ∀ c sl, Delivers s (.acc a) → a.agent = .thread c sl → a.stamp = 0 → (∀ x ∈ s.devAcks, x.agent ≠ a.agent) →
      (a.hashed = true → ((s.cluster (a.homeCore / 16)).domain (a.home % 8)).2 = a.gen) →
      (s.cluster (a.homeCore / 16)).roleChange = none → (s.cluster (a.homeCore / 16)).passes = [] →
      let written := (s.core a.homeCore).wroteAt = (s.cluster (a.homeCore / 16)).t ∧ lineNo a ∈ (s.core a.homeCore).wroteNow
      let w : Watch := { core := c, slot := sl, line := a.pa / 192, tier := a.tier
                         dom := if a.hashed = true then some (a.home % 8) else none, reg := a.row }
      (written → ∃ t, exec .monitorRegistration s = .next t ∧ (t.core a.homeCore).watch = (s.core a.homeCore).watch ∧
        OnItsWay t (.monFire c sl a.row 1) ∧ OnItsWay t (.accAns a {})) ∧
      (¬ written → (s.core a.homeCore).watch.length < 64 → ∃ t, exec .monitorRegistration s = .next t ∧
        (t.core a.homeCore).watch = (s.core a.homeCore).watch ++ [w] ∧ OnItsWay t (.accAns a {})) ∧
      ∀ x rest, ¬ written → (s.core a.homeCore).watch = x :: rest → 64 ≤ (x :: rest).length → ∃ t, exec .monitorRegistration s = .next t ∧
        (t.core a.homeCore).watch = rest ++ [w] ∧ OnItsWay t (.monFire x.core x.slot x.reg 2) ∧ OnItsWay t (.accAns a {})

/-- R158, R159, R186, R201, R202: a miss joins the stack's walk of its page, of whatever size that is; else a walker of its quadrant, of
which sixteen are at work at most, takes its tier's time for each entry it reads, and then every miss that has joined is answered with the
leaf that the tables give. A line's bytes enter the column's instruction cache, and each slot that waits for it takes its copy and may issue
from the next cycle on. A remote TLBINV removes the page's entries and acknowledges. An access at a column's network port takes the first
free cycle, and is then performed on the column store. -/
def Obligations.PagesAndLinesArrive : Prop :=
  ∀ (s : State),
    (∀ g c ptbase va, Delivers s (.walk g c ptbase va) →
      let st := c / 1024
      let quadrant := walkerCluster (c / 16)
      let walks := (s.stack st).walks
      let size := match s.walk ptbase va with
        | some x => pageSize x.level
        | none => 49152
      let same := fun (w : Walk) => w.tables = tablesKey ptbase ∧ w.page * 49152 / size = va / size
      let reads := s.walkReads ptbase va
      (∀ x, s.walk ptbase va = some x → reads = x.level + 1) ∧
      (s.subj.sub ≠ 1 → (∃ w ∈ walks, same w) → ∃ t, exec .pageWalk s = .next t ∧ t.events = s.events ∧ t.items = s.items ∧
        ∀ w ∈ walks, same w → { w with ids := w.ids ++ [s.subj.item] } ∈ (t.stack st).walks) ∧
      (s.subj.sub ≠ 1 → (∀ w ∈ walks, ¬ same w) → (∀ w ∈ walks, w.quadrant = quadrant → w.running = true) →
        ((walks.filter fun w => decide (w.quadrant = quadrant)).length < 16 → ∃ t e, exec .pageWalk s = .next t ∧ e ∈ t.events ∧
          e.row = .pageWalk ∧ e.subj.item = s.subj.item ∧ e.subj.sub = 1 ∧
          e.due = s.now + reads * (if ptbase.getLsbD 62 = true then 320 else 180)) ∧
        (16 ≤ (walks.filter fun w => decide (w.quadrant = quadrant)).length → ∃ t, exec .pageWalk s = .next t ∧ t.events = s.events ∧
          (t.stack st).walks = walks ++ [{ tables := tablesKey ptbase, page := va / 49152, quadrant := quadrant
                                           ids := [s.subj.item] }])) ∧
      ∀ w, s.subj.sub = 1 → (walks.find? fun w => w.ids.contains s.subj.item) = some w → (∀ i ∈ w.ids, i < s.nextId) →
        ∃ t, exec .pageWalk s = .next t ∧ ∀ i ∈ w.ids, ∀ g' c' pt' va', find s.items i = some (.walk g' c' pt' va') →
          OnItsWay t (.walkAns g' c' pt' va' (s.walk pt' va'))) ∧
    (∀ a r col, Delivers s (.accAns a r) → a.agent = .fetch col → a.uid ∉ (s.column col).refill → r.fault = none →
      ∃ t, exec .lineFill s = .next t ∧ find (t.column col).icache a.uid = some (BitVec.ofNat 64 a.row, r.bytes) ∧
        ∀ c sl, sl < 16 → 16 * c + sl ∈ look (s.column col).filling a.uid [] → (s.thread c sl).hold = .fetch →
          fetchKey (s.core c).ptbase (s.thread c sl).pc.toNat = a.uid →
          (t.thread c sl).line = some ((s.thread c sl).pc.toNat / 64 * 64, r.bytes) ∧ (t.thread c sl).hold = .ready ∧
          s.cyc c + 1 ≤ (t.thread c sl).issueAt) ∧
    (∀ c va w rc rs, Delivers s (.tlbInv c va w rc rs) → ∃ t, exec .tlbinvRemote s = .next t ∧
      (∀ l ∈ (t.core c).tcache, va / pageSize l.level ≠ l.vpn) ∧
      (∀ e ∈ (t.cluster (c / 16)).engineTc, va / pageSize e.2.level ≠ e.2.vpn) ∧ OnItsWay t (.thrAns rc rs .done)) ∧
    ∀ a, Delivers s (.acc a) → let col := a.va / 2 ^ 18
      let cl := col / 8
      let base := a.va % 2 ^ 29 / 64 * 64
      (s.subj.sub ≠ 1 → (s.cluster cl).up = true → ∃ t, exec .networkPortAccess s = .next t ∧
        Scheduled t .networkPortAccess cl s.subj.item (max ((s.cluster cl).t + 1) (s.column col).netNext) ∧
        (t.column col).netNext = max ((s.cluster cl).t + 1) (s.column col).netNext + 1) ∧
      (s.subj.sub = 1 → (∀ n acq, a.op = .load n acq → a.off + n ≤ 64 → ∃ t r, exec .networkPortAccess s = .next t ∧
          t.colMem = s.colMem ∧ OnItsWay t (.accAns a r) ∧ r.fault = none ∧
          r.bytes = (List.range n).map (fun j => s.colMem.read (base + a.off + j)) ∧
          (r.poison = true ↔ base / 64 ∈ s.colBad ∨ find s.colErr (base / 64) = some true)) ∧
        ∀ bs, a.op = .store bs → a.off + bs.length ≤ 64 → ∃ t r, exec .networkPortAccess s = .next t ∧ r.fault = none ∧
          OnItsWay t (.accAns a r) ∧ ∀ x, t.colMem.read x =
            if base + a.off ≤ x ∧ x < base + a.off + bs.length then bs.getD (x - (base + a.off)) 0 else s.colMem.read x)

/-- R217, R219 to R221: a migrant that finds no other waiting in its column takes a slot with entries free, the upper core's, or the lower
core's where the upper has none, with its PC, registers and state; where neither has one it waits in the column's queue of 16. That a
migrant which finds others waiting joins the queue behind them, or is answered FULL where it is full, even while a slot is free, is the
model's reading (log 69); R220 names a free slot first. The oldest of the queue takes a slot once there is one. A thread that was answered
FULL is sent again. A held WFILL or WFREE reads its descriptor again. -/
def Clause.MigrantsAreTakenIn : Prop :=
  (∀ (s : State) (m : Migrant) (c sl b : Nat), let rest := (s.column m.col).migrants
    let placed := fun (t : State) => (t.slot c sl).st = .run ∧ (t.thread c sl).pc = m.th.pc ∧ (t.thread c sl).limit = m.th.limit ∧
      (t.thread c sl).masks = m.th.masks ∧ (t.thread c sl).fflags = m.th.fflags ∧ (t.thread c sl).thandler = m.th.thandler ∧
      (t.thread c sl).handles = m.th.handles ∧ (t.thread c sl).lastcrown = m.th.lastcrown ∧
      ∀ r, 1 ≤ r → r < m.th.limit → t.reg c sl r = look m.regs r 0
    c = 2 * m.col ∨ (c = 2 * m.col + 1 ∧ ¬ FitsCore s (2 * m.col) m.th.limit) →
    (s.core c).pre = .running → (List.range 15).find? (fun j =>
      decide ((s.slot c j).st = .free) && decide ((s.slot c j).freeAt ≤ s.cyc c) && !(s.paired c j)) = some sl →
    freeBase (s.core c) (s.cyc c) m.th.limit = some b → m.th.tiller = none → (m.regs.map fun p => p.1).Nodup →
    (Delivers s (.migrant m) → rest = [] → ∃ t, exec .migrantArrival s = .next t ∧ placed t ∧
      OnItsWay t (.migAns m.fromCore m.fromSlot true)) ∧
    ∀ later, rest = m :: later → s.subj.unit = m.col → ∃ t, exec .migrantQueueAdmit s = .next t ∧ placed t ∧
      (t.column m.col).migrants = later) ∧
  (∀ (s : State) (m : Migrant), Delivers s (.migrant m) → (s.column m.col).migrants = [] → ¬ FitsCore s (2 * m.col) m.th.limit →
    ¬ FitsCore s (2 * m.col + 1) m.th.limit → ∃ t, exec .migrantArrival s = .next t ∧ (t.column m.col).migrants = [m] ∧
      OnItsWay t (.migAns m.fromCore m.fromSlot true)) ∧
  (∀ (s : State) (m : Migrant), Delivers s (.migrant m) → let rest := (s.column m.col).migrants
    rest ≠ [] →
    (rest.length < 16 → ∃ t, exec .migrantArrival s = .next t ∧ (t.column m.col).migrants = rest ++ [m] ∧
      OnItsWay t (.migAns m.fromCore m.fromSlot true)) ∧
    (16 ≤ rest.length → ∃ t, exec .migrantArrival s = .next t ∧ (t.column m.col).migrants = rest ∧
      OnItsWay t (.migAns m.fromCore m.fromSlot false))) ∧
  ∀ (s : State), let c := s.subj.unit / 16
    let sl := s.subj.unit % 16
    (s.slot c sl).st = .run →
    (∀ col p, (s.thread c sl).hold = .migrate col → (s.thread c sl).pend = some p → (s.core c).pre = .running →
      (s.thread c sl).posted = 0 → (s.thread c sl).invals = 0 → (s.thread c sl).engine = [] →
      NoInvalidations s ∨ col / 512 = c / 1024 →
      ∃ t m, exec .migrationRetry s = .next t ∧ (t.thread c sl).hold = .migrating col ∧ OnItsWay t (.migrant m) ∧ m.col = col ∧
        m.th.pc = (s.thread c sl).pc ∧ m.fromCore = c ∧ m.fromSlot = sl) ∧
    ((s.thread c sl).hold = .retry → (s.core c).pre = .running ∨ (s.thread c sl).result = 1 →
      ∃ t, exec .ringWaitReread s = .next t ∧ TurnInPlace s t c sl ∧ (t.thread c sl).hold = .walked)

/-- MigrationMovesThreads and MigrantsAreTakenIn, together. -/
def Obligations.MigrationMovesThreadsAndMigrants : Prop := Clause.MigrationMovesThreads ∧ Clause.MigrantsAreTakenIn

/-! ### The copy engine (10_engines) -/

/-- R252: CPQ pushes its four words with the world and tenant of the thread and the core's PTBASE where the FIFO has room and the tag is not
in use: the tag is in use from then on, and its two bits are clear. Else the busy form gives 1 or 2 and pushes nothing, and the other is
held. -/
def Clause.CpqPushes : Prop :=
  ∀ (s : State) (c sl a b d e : Nat) (busy : Option Nat), Runs s c sl (a :: b :: d :: e :: busy.toList) busy.toList →
    let k := s.core c
    let tag := (s.reg64 c sl a).toNat / 2 ^ 50 % 64
    let bit := BitVec.ofNat 64 (2 ^ tag)
    (k.fifo.length < 16 → tag ∉ k.inUse → ∃ t q, exec (.cpq busy a b d e) s = .next t ∧ (t.core c).fifo = k.fifo ++ [q] ∧
      q.w0 = s.reg64 c sl a ∧ q.w1 = s.reg64 c sl b ∧ q.w2 = s.reg64 c sl d ∧ q.w3 = s.reg64 c sl e ∧
      q.world = (s.thread c sl).world ∧ q.tenant = s.tenantOf (c / 16) ∧ q.ptbase = k.ptbase ∧ q.core = c ∧
      (∀ x, x ∈ (t.core c).inUse ↔ x = tag ∨ x ∈ k.inUse) ∧ (t.core c).tagdone = k.tagdone &&& ~~~bit ∧
      (t.core c).tagfree = k.tagfree &&& ~~~bit ∧ (t.core c).mxstat = k.mxstat ∧ BusyResult s t c sl busy 0 ∧ SameMemory s t) ∧
    (16 ≤ k.fifo.length ∨ tag ∈ k.inUse →
      (busy = none → StaysHeld (.cpq busy a b d e) s c sl) ∧
      ∀ r, busy = some r → Puts (.cpq busy a b d e) s c sl r (if 16 ≤ k.fifo.length then 1 else 2))

/-- R256, R257: WAITT on TAGDONE or TAGFREE of the core, by a thread not yet held. ANY writes the bits of the mask that are set, once one is
or the mask is zero; ALL goes on once all are; FFR writes the lowest one's index, or 64; CLR clears the mask's bits in that bitmap and
nothing else; TEST writes the bits that are set. -/
def Clause.WaittLooksAtTags : Prop :=
  ∀ (s : State) (c sl d a : Nat) (free : Bool), Runs s c sl [d, a] [d] → (s.thread c sl).holding = none →
    let k := s.core c
    let m := s.reg64 c sl a
    let bm := if free = true then k.tagfree else k.tagdone
    let v := bm &&& m
    (m = 0 ∨ v ≠ 0 → Puts (.waittAny free d a) s c sl d v) ∧ (m ≠ 0 → v = 0 → StaysHeld (.waittAny free d a) s c sl) ∧
    (v = m → GoesTo (.waittAll free a) s c sl (s.thread c sl).nextPc) ∧ (v ≠ m → StaysHeld (.waittAll free a) s c sl) ∧
    (v = 0 → Puts (.waittFfr free d a) s c sl d 64) ∧
    (∀ n, n < 64 → v.getLsbD n = true → (∀ j, j < n → v.getLsbD j = false) →
      Puts (.waittFfr free d a) s c sl d (BitVec.ofNat 64 n)) ∧
    Puts (.waittTest free d a) s c sl d v ∧
    ∃ t, exec (.waittClr free a) s = .next t ∧ (t.thread c sl).pc = (s.thread c sl).nextPc ∧ SameRegs s t ∧ SameMemory s t ∧
      (t.core c).tagfree = (if free = true then k.tagfree &&& ~~~m else k.tagfree) ∧
      (t.core c).tagdone = (if free = true then k.tagdone else k.tagdone &&& ~~~m) ∧ (t.core c).mxstat = k.mxstat ∧
      (t.core c).inUse = k.inUse

/-- R244, R246 to R250, R258, R259: the engine takes a core's oldest request. One with a reserved field, a refused scope or space, or a KIND
that no row has is refused: it makes no access, its tag's bits and MXSTAT are set and its counter goes down. A well-formed one runs: COPY,
COPY2D, SQZ and XPND read their first source block, FILL writes the first block of its pattern, WBR and INVR ask for the translation of
their first line, and MCREAD sends its lines from two cycles later on. Which reserved fields refuse an MCREAD is in part the model's
reading (log 34). -/
def Obligations.EngineTakesRequests : Prop :=
  ∀ (s : State) (c : Nat) (q : Req) (rest : List Req), TakesRequest s c q rest →
    let kind := q.w0.toNat / 2 ^ 56
    let refused := q.w0.toNat % 2 ^ 16 ≠ 0 ∨ q.w0.toNat / 2 ^ 32 % 32 ≠ 0 ∨ 5 < q.w0.toNat / 2 ^ 43 % 8 ∨
      4 < q.w0.toNat / 2 ^ 40 % 8 ∨ 4 < q.w0.toNat / 2 ^ 37 % 8
    (∀ p ∈ requestKinds, p.2 = kind → refused → ∃ t, exec p.1 s = .next t ∧ (t.core c).fifo = rest ∧ RequestEnds s t c q false true ∧
      t.items = s.items ∧ SameMemory s t) ∧
    ((∀ p ∈ requestKinds, p.2 ≠ kind) → ∃ t, exec .refusedRequestKind s = .next t ∧ (t.core c).fifo = rest ∧
      RequestEnds s t c q false true ∧ t.items = s.items ∧ SameMemory s t) ∧
    ∀ tag cnt scope aux, tag < 64 → cnt < 16 → scope ≤ 5 → aux < 2 ^ 16 →
      let word := fun (k ssp dsp aux : Nat) => requestWord k tag cnt scope ssp dsp aux
      let len := q.w3.toNat / 2 ^ 32
      let low := q.w3.toNat % 2 ^ 32
      let reads := fun (t : State) => ∃ x, OnItsWay t (.acc x) ∧ x.agent = .engine c ∧ x.space = .loc ∧ x.va = q.w1.toNat ∧
        x.op = .load 64 false
      let walks := fun (t : State) => OnItsWay t (.walk (.engine c) c q.ptbase (q.w1.toNat % 2 ^ 48))
      (OwnBlock s c q q.w1 → q.w2.toNat % 64 = 0 →
        (q.w0.toNat = word 0x01 1 2 0 → low = 0 → len % 64 = 0 → 0 < len → ∃ t, exec .copy s = .next t ∧ RequestRuns s t c q rest ∧ reads t) ∧
        (q.w0.toNat = word 0x02 1 2 aux → 0 < aux → 0 < len → ∃ t, exec .copy2d s = .next t ∧ RequestRuns s t c q rest ∧ reads t) ∧
        (∀ ty ord exp, q.w0.toNat = word 0x10 1 2 0 → ty < 2 → ord < 3 → exp < 4096 →
          low = ty * 2 ^ 30 + ord * 2 ^ 28 + exp * 2 ^ 16 → len % (4 * (ty + 1)) = 0 → 0 < len →
          ∃ t, exec .sqz s = .next t ∧ RequestRuns s t c q rest ∧ reads t) ∧
        (q.w0.toNat = word 0x11 1 2 0 → low = 0 → ∃ t, exec .xpnd s = .next t ∧ RequestRuns s t c q rest ∧ reads t)) ∧
      (OwnBlock s c q q.w2 → (∀ k, (s.column k).frozen = []) → q.w0.toNat = word 0x03 0 1 0 → low = 0 → len % 64 = 0 → 0 < len →
        ∃ t x, exec .fill s = .next t ∧ RequestRuns s t c q rest ∧ OnItsWay t (.acc x) ∧ x.agent = .engine c ∧ x.space = .loc ∧
          x.va = q.w2.toNat ∧ x.op = .store ((List.range 64).map fun j => BitVec.ofNat 8 (q.w1.toNat / 256 ^ (j % 8)))) ∧
      ((s.cluster (c / 16)).engineTc = [] → q.ptbase.getLsbD 63 = true → q.w1.toNat < 2 ^ 48 → 0 < len → low = 0 →
        (q.w2 = 0 → q.w0.toNat = word 0x05 0 0 0 → ∃ t, exec .wbr s = .next t ∧ RequestRuns s t c q rest ∧ walks t) ∧
        (q.w2 = 0 → q.w0.toNat = word 0x06 0 0 0 → ∃ t, exec .invr s = .next t ∧ RequestRuns s t c q rest ∧ walks t)) ∧
      (q.w0.toNat = word 0x04 0 2 aux → 0 < aux → low = 0 → len % 64 = 0 → 0 < len → q.w1.toNat % 64 = 0 → q.w2.toNat % 64 = 0 →
        q.w2.toNat < 2 ^ 32 → q.w2.toNat / 2 ^ 20 % 16 = 0 → q.w2.toNat % 2 ^ 20 + len ≤ 2 ^ 20 →
        ∃ t r, exec .mcread s = .next t ∧ RequestRuns s t c q rest ∧ (t.core c).running = some r ∧
          (r.later = none → ∃ e ∈ t.events, e.row = .mcread ∧ e.cl = some (c / 16) ∧ e.subj.unit = c ∧ e.subj.sub = 1 ∧
            e.due = s.cyc c + 2))

/-- R250, R254: once every source read is performed TAGFREE of the tag is set, and nothing else of the core's tags changes. When the request
ends, its TAGDONE is set, and TAGFREE where that was not set before, its tag is out of use and its counter goes down; MXSTAT is set where it
failed. -/
def Clause.TagsAreSet : Prop :=
  ∀ (s : State) (r : Running), let c := s.subj.unit
    (s.core c).running = some r →
    (r.freed = false → r.reads = [] → ∃ t, exec .tagfreeSet s = .next t ∧
      (t.core c).tagfree = (s.core c).tagfree ||| BitVec.ofNat 64 (2 ^ tagOf r.req) ∧ (t.core c).tagdone = (s.core c).tagdone ∧
      (t.core c).inUse = (s.core c).inUse ∧ (t.core c).mxstat = (s.core c).mxstat ∧
      (t.core c).running = some { r with freed := true } ∧ SameMemory s t) ∧
    (r.ending = true → ∃ t, exec .tagdoneSet s = .next t ∧ RequestEnds s t c r.req r.freed r.failed.isSome)

/-- CpqPushes, WaittLooksAtTags and TagsAreSet, together. -/
def Obligations.TagsAndCopyRequests : Prop := Clause.CpqPushes ∧ Clause.WaittLooksAtTags ∧ Clause.TagsAreSet

/-- R260, R261: a line request at its home, its line valid there and no multicast of it under way, starts one: its sectors from the first it
asks for to the last, to its cluster and cores. Where the line is missing it is filled first, in its tier's time (R396). The next sector
leaves for every destination cluster, for each of its columns where the destination is LOCAL, and the entry moves on. At the destinations a
block whose two sectors are there is written whole. -/
def Obligations.MulticastsServeLines : Prop :=
  (∀ (s : State) (r : McReq), let h := r.access.homeCore
    let k := s.cluster (h / 16)
    Delivers s (.mcLine r) → s.subj.sub ≠ 1 → k.up = true → k.passes = [] → k.roleChange = none → k.mcast = [] → r.access.tagchk = false →
      r.dsp = 2 →
    (r.access.hashed = true → (k.domain (r.access.home % 8)).2 = r.access.gen) →
    (∀ x, s.mcLine h r = some x → ∃ t y, exec .mcreadLineRequest s = .next t ∧ (t.cluster (h / 16)).mcast = [y] ∧ y.home = h ∧
      y.reqs = [r] ∧ y.data = x.data ∧ y.next = r.lo / 48 ∧ y.last = (r.lo + r.len - 1) / 48 ∧ y.dests = [(r.cl, r.mask)] ∧
      y.isTail = false) ∧
    (s.mcLine h r = none → ∃ t, exec .mcreadLineRequest s = .next t ∧ (t.cluster (h / 16)).mcast = [] ∧
      Scheduled t .mcreadLineRequest (h / 16) s.subj.item
        (k.t + ((if r.access.tier = true then 320 else 180) * k.mhz + 999) / 1000))) ∧
  (∀ (s : State) (x : McSend) (r : McReq) (rs : List McReq), let h := s.subj.unit
    let k := s.cluster (h / 16)
    let j := x.next
    k.mcast = [x] → x.home = h → x.readyAt ≤ k.t → x.reqs = r :: rs → x.isTail = false → j < x.last →
    ∃ t, exec .multicastSectorSend s = .next t ∧ (t.cluster (h / 16)).mcast = [{ x with next := j + 1 }] ∧
      ∀ p ∈ x.dests,
        let leaves := fun (m : Nat) => OnItsWay t (.mcSector x.id r j ((x.data.drop (48 * j)).take 48) (x.bad.contains j) p.1 m)
        (r.dsp ≠ 1 → p.2 ≠ 0 → leaves p.2) ∧ (r.dsp = 1 → ∀ i, i < 16 → p.2.testBit i = true → leaves (2 ^ i))) ∧
  ∀ (s : State) (id cl core : Nat) (r : McReq) (bs b0 : List Byte) (bad p0 : Bool), core < 16 → core % 2 = 0 →
    Delivers s (.mcSector id r 1 bs bad cl (2 ^ core)) → r.dsp = 1 → r.lo = 0 → 64 ≤ r.len →
    find (s.cluster cl).mcParts (mcKey id core 0) = some (b0, p0) → b0.length = 48 → bs.length = 48 →
    ∃ t x, exec .multicastBlockWrite s = .next t ∧ find (t.cluster cl).mcParts (mcKey id core 1) = some (bs, bad) ∧
      OnItsWay t (.acc x) ∧ x.op = .store ((b0 ++ bs).take 64) ∧ x.space = .loc ∧
      x.va = (cl * 8 + core / 2) * 2 ^ 18 + r.off ∧ x.poison = (p0 || bad)

/-! ### Vector instructions (11_formats, 12_vector) -/

/-- R290 to R293, R301: each of the 21 VI instructions gives every active lane the low bits of its result and keeps the others; it changes
nothing else, and sets no flag. -/
def Obligations.VectorIntegerLanes : Prop :=
  ∀ (i : Instr) (s : State) (c sl : Nat) (q : LaneForm), viLanes i (s.reg c sl) = some q → Runs s c sl (q.d :: q.reads) [q.d] →
    ActsOnLanes i s c sl q

/-- R293, R296 to R299: each VF and VFMA gives every active lane its result under its rounding, with its flags joined into FFLAGS,
and keeps the other lanes; nothing else changes. ABS, NEG and COPYSIGN change the sign bit alone; the minimums and maximums return
an operand, or NaN. -/
def Clause.FloatsActOnLanes : Prop :=
  ∀ (i : Instr) (s : State) (c sl : Nat) (q : LaneForm), floatLanes i (s.reg c sl) = some q → Runs s c sl (q.d :: q.reads) [q.d] →
    ActsOnLanes i s c sl q

/-- R274, R275, R296, R299: those results are right: of numbers, the exact sum, difference, product, quotient, root, reciprocal root, or
product and sum, rounded once to the lane's type, with the flags of that one rounding; where it is zero, a zero with the sign of the table. -/
def Clause.FloatLanesAreRounded : Prop :=
  ∀ (i : Instr) (g : Nat → VWord) (q : LaneForm) (ty : FType) (r : Round) (exact : ℝ → ℝ → ℝ → ℝ → Prop)
    (sign : Bool → Bool → Bool → Bool) (j : Nat) (x : Nat → ℝ) (v : ℝ),
    exactForm i = some (ty, r, exact, sign) → floatLanes i g = some q → j < 512 / q.w →
    let row := laneRow ty
    let o := fun (k : Nat) => partOf (g (q.reads.getD k 0)) j q.w
    let neg := fun (k : Nat) => (o k).testBit (q.w - 1)
    (∀ k, k < q.reads.length → Denotes row (o k) (x k)) → exact (x 0) (x 1) (x 2) v →
    (v ≠ 0 → RoundsTo row r v (q.f j).1 (q.f j).2) ∧ (v = 0 → q.f j = (row.top (sign (neg 0) (neg 1) (neg 2)), 0))

/-- R276, R297, R299: and of NaNs and infinities, and of operations without a value, they are the tables'. -/
def Clause.FloatSpecialsAreNamed : Prop :=
  ∀ (i : Instr) (g : Nat → VWord) (q : LaneForm) (ty : FType) (j : Nat) (y : Nat × Nat), floatLanes i g = some q → q.w = (shapeOf ty).1 →
    (∃ r exact sign, exactForm i = some (ty, r, exact, sign)) → j < 512 / q.w →
    let o := fun (k : Nat) => partOf (g (q.reads.getD k 0)) j q.w
    floatSpecial i q.w (shapeOf ty).2 (o 0) (o 1) (o 2) = some y → q.f j = y

/-- FloatsActOnLanes, FloatLanesAreRounded and FloatSpecialsAreNamed, together. -/
def Obligations.VectorFloatLanes : Prop := Clause.FloatsActOnLanes ∧ Clause.FloatLanesAreRounded ∧ Clause.FloatSpecialsAreNamed

/-- R286, R287: each VMATH function gives every active lane a result with its flags, and keeps the others. At the operands that its table
names, that result is the table's; where an equation gives the exact value (CBRT, HYPOT, and the exact powers and logarithms to base 2 and
10) it is that value rounded once to nearest, with its flags. At other operands this says nothing of the result. -/
def Obligations.VmathNamedValues : Prop :=
  ∀ (i : Instr) (s : State) (c sl code d m : Nat) (rs : List Nat) (f32 : Bool), mathForm i = some (code, d, rs, m, f32) →
    Runs s c sl (d :: rs) [d] →
    let w := if f32 = true then 32 else 64
    ∃ f : Nat → Nat × Nat, ActsOnLanes i s c sl { reads := rs, d := d, m := m, w := w, f := f } ∧
      (∀ j, j < 512 / w → ∀ r, mathSpecial code f32 (partOf (s.reg c sl (rs.getD 0 0)) j w) (partOf (s.reg c sl (rs.getD 1 0)) j w) =
        some r → f j = r) ∧
      ∀ j, j < 512 / w → ∀ x y v, let row := laneRow (if f32 = true then .f32 else .f64)
        Denotes row (partOf (s.reg c sl (rs.getD 0 0)) j w) x → (code = 20 → Denotes row (partOf (s.reg c sl (rs.getD 1 0)) j w) y) →
        mathExact code x y v → v ≠ 0 → RoundsTo row .rne v (f j).1 (f j).2

/-- R303: each VCMP writes one mask: an active lane's bit is the relation's, an inactive one keeps the mask's bit, and bits above the lanes
are clear; NV is set as its table says. No register and nothing else changes. -/
def Obligations.VectorComparesWriteMasks : Prop :=
  ∀ (i : Instr) (s : State) (c sl md a b m w : Nat) (rel : Nat → Nat → Bool × Nat), cmpForm i = some (md, a, b, m, w, rel) →
    Runs s c sl [a, b] [] →
    let act := fun (j : Nat) => ((s.thread c sl).mask m).getLsbD j
    let r := fun (j : Nat) => rel (partOf (s.reg c sl a) j w) (partOf (s.reg c sl b) j w)
    ∃ t v, exec i s = .next t ∧ (t.thread c sl).pc = (s.thread c sl).nextPc ∧ SameRegs s t ∧ SameMemory s t ∧ SameRest s t c sl ∧
      SameSpecial (s.onThread c sl fun th => withFlags (512 / w) act (fun j => (0, (r j).2))
        { th with masks := assign th.masks md v }) t c sl ∧
      ∀ j, j < 64 → v.getLsbD j = (decide (j < 512 / w) && if act j = true then (r j).1 else ((s.thread c sl).mask md).getLsbD j)

/-- R284: VCVT gives element j of the result the conversion of element j of the source, where its mask bit is set (one bit for two elements
of i4 to i4), joins the flags, keeps the other elements, and clears the bits above. -/
def Clause.ConversionsPackElements : Prop :=
  ∀ (s : State) (c sl d a m : Nat) (src dst : Fmt) (r : Round), Runs s c sl [d, a] [d] →
    let wf := fmtWidth src
    let wt := fmtWidth dst
    let n := 512 / max wf wt
    let act := fun (j : Nat) => ((s.thread c sl).mask m).getLsbD (if n = 128 then j / 2 else j)
    let f := fun (j : Nat) => convert src dst r (partOf (s.reg c sl a) j wf)
    ∃ v, Gives (.vcvt d a src dst r m) s c sl d v (withFlags n act f) ∧ v.toNat < 2 ^ (n * wt) ∧
      ∀ j, j < n → partOf v j wt = if act j = true then (f j).1 % 2 ^ wt else partOf (s.reg c sl d) j wt

/-- R274, R275, R277, R278: those conversions are right: the number that the source code is, rounded once by the rounding code or counted
against LOG6's thresholds, or to an integer held to its format; NaNs and infinities as the table says. -/
def Clause.ConversionsAreRounded : Prop :=
  ∀ (src dst : Fmt) (r : Round) (c : Nat), c < 2 ^ fmtWidth src → Converts src dst r c (convert src dst r c).1 (convert src dst r c).2

/-- R281: of numbers alone, VRED.SUMX gives their exact sum rounded once, with its flags; a zero sum is -0 where every lane is -0, and under
RDN where some lane is negative, else +0. -/
def Clause.ExactSumsAreRounded : Prop :=
  ∀ (s : State) (c sl d a m res fl : Nat) (ty : FType) (r : Round) (vs : List ℝ),
    redForm (.vredSumx d a ty r m) s c sl = some (d, a, res, fl) →
    let l := activeParts s c sl a m (shapeOf ty).1
    let neg := fun (x : Nat) => x.testBit ((shapeOf ty).1 - 1)
    List.Forall₂ (Denotes (laneRow ty)) l vs →
    (vs.sum ≠ 0 → RoundsTo (laneRow ty) r vs.sum res fl) ∧
    (vs.sum = 0 → fl = 0 ∧ res = (laneRow ty).top (!l.isEmpty && (l.all neg || (decide (r = .rdn) && l.any neg))))

/-- R280, R281, R305: each VRED writes its result over the active lanes to the low bits of d, clears the others, and joins its flags. -/
def Clause.ReductionsWriteOneValue : Prop :=
  ∀ (i : Instr) (s : State) (c sl d a r fl : Nat), redForm i s c sl = some (d, a, r, fl) → Runs s c sl [d, a] [d] →
    Gives i s c sl d (BitVec.ofNat 512 r) fun th => { th with fflags := th.fflags ||| BitVec.ofNat 64 (fl % 32) }

/-- ConversionsPackElements, ConversionsAreRounded, ReductionsWriteOneValue and ExactSumsAreRounded, together. -/
def Obligations.ConversionsAndReductions : Prop :=
  Clause.ConversionsPackElements ∧ Clause.ConversionsAreRounded ∧ Clause.ReductionsWriteOneValue ∧ Clause.ExactSumsAreRounded

/-- R307, R315: each VPERM writes every lane of d from the lanes of a, b and d before. VPL.PLANE gathers bit p of each of 64 elements into
word p, UNPLANE spreads them again, and every other bit of the register or pair is zero. Nothing else changes. -/
def Obligations.LanesMove : Prop :=
  ∀ (s : State) (c sl : Nat),
    (∀ (i : Instr) (rs : List Nat) (d : Nat) (w : LaneW) (f : (Nat → Nat) → (Nat → Nat) → (Nat → Nat) → Nat → Nat),
      permForm i (fun m j => ((s.thread c sl).mask m).getLsbD j) = some (rs, d, w, f) → Runs s c sl (d :: rs) [d] →
      let part := fun (r j : Nat) => partOf (s.reg c sl r) j (widthOf w)
      ∃ v, Sets i s c sl d v ∧ ∀ j, j < 512 / widthOf w →
        partOf v j (widthOf w) = f (part (rs.getD 0 0)) (part (rs.getD 1 0)) (part d) j) ∧
    ∀ (d a : Nat) (pw : PlaneW), Runs s c sl (planeRegs pw d ++ planeRegs pw a) (planeRegs pw d) →
      let x := planeNumber s c sl a pw
      let planes := (planeShape pw).1
      let gap := (planeShape pw).2
      let writes := fun (i : Instr) (v : Nat) =>
        (pw ≠ .w16 → Sets i s c sl d (BitVec.ofNat 512 v)) ∧
        (pw = .w16 → ∃ t, exec i s = .next t ∧ t.reg c sl d = (if d = 0 then 0 else BitVec.ofNat 512 v) ∧
          t.reg c sl (d + 1) = BitVec.ofNat 512 (v / 2 ^ 512) ∧ PairOnly s t c sl d ∧ (t.thread c sl).pc = (s.thread c sl).nextPc ∧
          SameSpecial s t c sl ∧ SameMemory s t ∧ SameRest s t c sl)
      (∃ v, writes (.vplPlane d a pw) v ∧ ∀ j, v.testBit j = (decide (j < 64 * planes) && x.testBit (gap * (j % 64) + j / 64))) ∧
      ∃ v, writes (.vplUnplane d a pw) v ∧
        ∀ j, v.testBit j = (decide (j < 64 * gap) && decide (j % gap < planes) && x.testBit (64 * (j % gap) + j / gap))

/-! ### The matrix unit (13_matrix) -/

/-- R324 to R326: an MX whose tag is in use gives 2 or is held; else, with no earlier store outstanding, its command is on its way to its
unit and the thread is held. The unit queues it behind its context's earlier commands and accepts, or is full with 32. ACCEPT takes
the tag into use with its bits clear and gives 0; FULL gives 1, or the command is sent again 64 cycles later; a refusal gives 3, or PERM
with the target. -/
def Obligations.MatrixCommandsAreSent : Prop :=
  (∀ (s : State) (c sl : Nat) (i : Instr) (q : CommandForm), commandForm i = some q →
    Runs s c sl (q.a :: q.k :: q.e :: (q.b.toList ++ q.busy.toList)) q.busy.toList →
    let used := ∃ g, q.tag = some g ∧ g ∈ (s.core c).inUse
    let dev := (s.reg64 c sl q.e).toNat / 2 ^ 48
    (used → (q.busy = none → StaysHeld i s c sl) ∧ ∀ d, q.busy = some d → Puts i s c sl d 2) ∧
    (¬ used → dev = 0xFFFF ∨ dev = s.devNo → (s.thread c sl).posted = 0 → (s.thread c sl).invals = 0 → NoInvalidations s →
      ∃ t m, exec i s = .next t ∧ HeldFor t c sl i 1 ∧ OnItsWay t (.mxCmd m) ∧ CommandOf s c sl q m ∧
        (t.thread c sl).pc = (s.thread c sl).pc ∧ SameRegs s t ∧ SameMemory s t)) ∧
  (∀ (s : State) (i : Instr) (q : CommandForm) (p : Pending), let c := s.subj.unit / 16
    let sl := s.subj.unit % 16
    let dev := (s.reg64 c sl q.e).toNat / 2 ^ 48
    (s.slot c sl).st = .run → (s.core c).pre = .running → (s.thread c sl).hold = .retry → (s.thread c sl).pend = some p →
    p.instr = i → commandForm i = some q → (∀ g, q.tag = some g → g ∉ (s.core c).inUse) → dev = 0xFFFF ∨ dev = s.devNo →
      (s.thread c sl).posted = 0 →
    (s.thread c sl).invals = 0 → NoInvalidations s →
    ∃ t m, exec .mxRetry s = .next t ∧ HeldFor t c sl i 1 ∧ OnItsWay t (.mxCmd m) ∧ CommandOf s c sl q m) ∧
  (∀ (s : State) (m : MxCmd) (i : Instr) (q : CommandForm), let c := m.core
    let sl := m.slot
    WaitsAt s c sl i → commandForm i = some q → (∀ d, q.busy = some d → HasEntry s c sl d) →
    (Delivers s (.mxAns m .done) → ∃ t, exec .mxAnswer s = .next t ∧ BusyResult s t c sl q.busy 0 ∧
      ∀ g, m.tag = some g → g < 64 →
        g ∈ (t.core c).inUse ∧ (t.core c).tagdone.getLsbD g = false ∧ (t.core c).tagfree.getLsbD g = false) ∧
    (Delivers s (.mxAns m .full) → (∀ d, q.busy = some d → ∃ t, exec .mxAnswer s = .next t ∧ BusyResult s t c sl q.busy 1) ∧
      (q.busy = none → ∃ t, exec .mxAnswer s = .next t ∧ (t.thread c sl).hold = .retry ∧ (t.thread c sl).pc = (s.thread c sl).pc ∧
        ∃ e ∈ t.events, e.row = .mxRetry ∧ e.cl = some (c / 16) ∧ e.subj.unit = 16 * c + sl ∧ e.due = s.cyc c + 64)) ∧
    (Delivers s (.mxAns m .refused) → (∀ d, q.busy = some d → ∃ t, exec .mxAnswer s = .next t ∧ BusyResult s t c sl q.busy 3) ∧
      (q.busy = none → TakesTrap .mxAnswer s c sl .perm (s.thread c sl).instrWord (s.reg64 c sl q.e)))) ∧
  ∀ (s : State) (m : MxCmd), Delivers s (.mxCmd m) → m.dev = s.devNo →
    let u := (s.cluster m.cl).matrix
    let x := u.ctx (m.core % 16)
    (m.core / 16 = m.cl → x.queue.length < 32 → ∃ t y, exec .matrixAccept s = .next t ∧ OnItsWay t (.mxAns m .done) ∧
      (t.cluster m.cl).matrix.ctx (m.core % 16) = { x with queue := x.queue ++ [y] } ∧
      { y with seq := m.seq, okAt := m.okAt } = m ∧ (t.cluster m.cl).matrix.tiles = u.tiles) ∧
    (m.core / 16 = m.cl → 32 ≤ x.queue.length → ∃ t, exec .matrixAccept s = .next t ∧ OnItsWay t (.mxAns m .full) ∧
      (t.cluster m.cl).matrix = u) ∧
    (m.core / 16 ≠ m.cl → (∀ j, 16 ≤ j → j < 20 → (u.ctx j).bound ≠ none ∧ (u.ctx j).bound ≠ some (4096 * m.dev + m.core)) →
      ∃ t, exec .matrixAccept s = .next t ∧ OnItsWay t (.mxAns m .full) ∧ (t.cluster m.cl).matrix = u)

/-- R319, R322, R327 to R332, R334, R335: the unit grants its only queued command: it runs where it passes its checks, and is refused where
not; an ORDER waits until every earlier command of its context has completed (R331). CTX sets its context, ZERO clears its tile, ORDER does
nothing; each is over a cycle later. DRAIN and LOADC ask their ports for every block of the tile at once, MMA and MMAS for chunk 0; at the
end of a chunk's compute each element of the tile takes its 32 products. A completed command sets its tag's bits, MXSTAT too where it was
refused, and the tag leaves use. That commands run one at a time is the model's reading (log 37). -/
def Obligations.MatrixCommandsRun : Prop :=
  ∀ (s : State), let cl := s.subj.unit
    let u := (s.cluster cl).matrix
    (∀ (i : Nat) (x : MxCtx) (m : MxCmd), i < 20 → m.channel < 4 → m.op ≤ 6 → m.cl = cl → u.run = none → u.ctxs = [(i, x)] →
      x.queue = [m] → (m.op = 6 → x.lateAt ≤ (s.cluster cl).t) → ∃ t r, exec .matrixGrant s = .next t ∧ (t.cluster cl).matrix.run = some r ∧
        r.cmd = m ∧ r.ctx = i ∧
        ((t.cluster cl).matrix.ctx i).queue = [] ∧ (t.cluster cl).matrix.tiles = u.tiles ∧
        (CommandPasses s i m → r.check = none ∧ t.agenda = .dev (commandRow m.op) { unit := cl } :: s.agenda) ∧
        (¬ CommandPasses s i m → r.check ≠ none ∧ t.agenda = s.agenda ∧ EndsSoon s t cl)) ∧
    (∀ r : MxRun, let m := r.cmd
      let w := m.w0.toNat
      let x := u.ctx r.ctx
      let tile := w / 2 ^ 5 % 8
      let f := w / 2 ^ 12 % 16
      let n := outBytes x f
      let b := 4 * planesOf x
      (Executes s cl r 0 → ∃ t y, exec .ctx s = .next t ∧ EndsSoon s t cl ∧ (t.cluster cl).matrix.ctx r.ctx = y ∧ y.fmt = w / 2 ^ 60 ∧
        y.prec = w / 2 ^ 52 % 16 ∧ (y.int32 = true ↔ w / 2 ^ 48 % 16 = 1) ∧ y.tmask = w / 2 ^ 40 % 256 ∧
        (y.valid = true ↔ y.tmask ≠ 0) ∧ y.queue = x.queue ∧ (t.cluster cl).matrix.tiles = u.tiles ∧
        ∀ j, j ≠ r.ctx → (t.cluster cl).matrix.ctx j = u.ctx j) ∧
      (Executes s cl r 3 → ∃ t, exec .zero s = .next t ∧ EndsSoon s t cl ∧ (t.cluster cl).matrix.ctxs = u.ctxs ∧
        (∀ e, e < 4096 → (t.cluster cl).matrix.tile tile e = 0) ∧
        ∀ y e, y ≠ tile → e < 4096 → (t.cluster cl).matrix.tile y e = u.tile y e) ∧
      (Executes s cl r 6 → ∃ t, exec .order s = .next t ∧ EndsSoon s t cl ∧ (t.cluster cl).matrix.ctxs = u.ctxs ∧
        (t.cluster cl).matrix.tiles = u.tiles) ∧
      (Executes s cl r 4 → BlocksInRange s cl .spread (w / 2 ^ 40) (64 * n) → f = 1 ∨ f = 2 ∨ f = 3 ∨ f = 8 → (x.int32 = true ↔ f = 8) →
        ∃ t, exec .drain s = .next t ∧ (t.cluster cl).matrix.tiles = u.tiles ∧ ∀ j, j < 64 * n →
          PortAsks t cl j .spread (w / 2 ^ 40 + 64 * j) (.store ((List.range 64).map fun k =>
            BitVec.ofNat 8 (drained f (u.tile tile ((64 * j + k) / n)) / 256 ^ (k % n))))) ∧
      (Executes s cl r 5 → BlocksInRange s cl .spread (w / 2 ^ 40) (64 * n) → f = 1 ∨ f = 2 ∨ f = 3 ∨ f = 8 → (x.int32 = true ↔ f = 8) →
        ∃ t, exec .loadc s = .next t ∧ (t.cluster cl).matrix.tiles = u.tiles ∧ ∀ j, j < 64 * n →
          PortAsks t cl j .spread (w / 2 ^ 40 + 64 * j) (.load 64 false)) ∧
      ∀ row op, (row, op) ∈ [(Instr.mma, 1), (Instr.mmas, 2)] → Executes s cl r op → 0 < b → b ≤ 64 →
        (s.subj.sub ≠ 1 → BlocksInRange s cl .tob (w / 2 ^ 40) b → BlocksInRange s cl .tob (w / 2 ^ 16 % 2 ^ 24) b →
          ∃ t, exec row s = .next t ∧ (t.cluster cl).matrix.tiles = u.tiles ∧ ∀ j, j < b →
            PortAsks t cl j .tob (w / 2 ^ 40 + 64 * j) (.load 64 false) ∧
            PortAsks t cl (b + j) .tob (w / 2 ^ 16 % 2 ^ 24 + 64 * j) (.load 64 false)) ∧
        (s.subj.sub = 1 → r.computing = true → (∀ j, j < 2 * b → (look r.got (128 * r.chunk + j) []).length = 64) →
          ∃ t, exec row s = .next t ∧
            (∀ i j, i < 64 → j < 64 → (t.cluster cl).matrix.tile tile (64 * i + j) = afterChunk x m (u.tile tile (64 * i + j))
              ((List.range 32).map fun k => planeCode r.got (128 * r.chunk) (planesOf x) i k)
              ((List.range 32).map fun k => planeCode r.got (128 * r.chunk + b) (planesOf x) j k)) ∧
            ∀ y e, y ≠ tile → e < 4096 → (t.cluster cl).matrix.tile y e = u.tile y e)) ∧
    ∀ (r : MxRun) (g : Nat), let m := r.cmd
      let c := m.core
      s.subj.sub ≠ 1 → u.run = some r → r.ending = true → m.okAt ≤ (s.cluster cl).t → u.doneAt ≤ (s.cluster cl).t → m.dev = s.devNo →
        c / 16 = cl → m.tag = some g → g < 64 →
      ∃ t, exec .matrixComplete s = .next t ∧ (t.cluster cl).matrix.run = none ∧ (t.cluster cl).matrix.tiles = u.tiles ∧
        (t.core c).tagdone = (s.core c).tagdone ||| BitVec.ofNat 64 (2 ^ g) ∧
        (t.core c).tagfree = (s.core c).tagfree ||| BitVec.ofNat 64 (2 ^ g) ∧
        (t.core c).mxstat = (if r.check = none then (s.core c).mxstat else (s.core c).mxstat ||| BitVec.ofNat 64 (2 ^ g)) ∧
        ∀ y, y ∈ (t.core c).inUse ↔ y ∈ (s.core c).inUse ∧ y ≠ g

/-! ### Barriers, link values, monitors, fences and MEMOP (14_sync, 13_matrix, 09_homing) -/

/-- R343, R346, R348: BAR in a member of its group. A number above 127 traps RANGE, a group of which the core is no member PERM. INIT sends
its count to the member of rank 0, and traps RANGE for a count of 0 or above 65535. ARRIVE and SYNC, with nothing outstanding, send their
arrival there, trap PERM while the thread holds four records of other barriers, and wait for earlier stores. WAIT, and SYNC once its arrival
is answered, takes the record out; it goes on once the core's mirror differs from the phase awaited, and is held till then. A held one sees
a notice from the cycle after it on (R348). -/
def Clause.BarriersHoldThreads : Prop :=
  ∀ (s : State) (c sl a g : Nat) (b : BarSel),
    let th := s.thread c sl
    let n := (s.barNum c sl b).toNat
    let all := fun (p : Instr → Prop) => p (.barInit a b g) ∧ p (.barArrive b g) ∧ p (.barWait b g) ∧ p (.barSync b g)
    let others := th.records.filter fun r => !(decide (r.group = g) && decide (r.bar = n))
    Runs s c sl (a :: barRegs b) [] →
    (127 < n → all fun i => TakesTrap i s c sl .range th.instrWord (s.barNum c sl b)) ∧
    (n ≤ 127 → (∀ j, j < 4 → (look (s.core c).memb j 0).getLsbD 32 = true → (look (s.core c).memb j 0).toNat % 256 ≠ g) →
      all fun i => TakesTrap i s c sl .perm th.instrWord (BitVec.ofNat 64 g)) ∧
    ∀ j home ms, n ≤ 127 → (s.core c).membOf g = some j → s.members g = some (home :: ms) →
      let e := (s.reg64 c sl a).toNat
      let now := look (s.core c).mirrors (128 * j + n) 0
      let m := if th.hold = .again ∧ (s.core c).mirrorAt = s.cyc c then look (s.core c).mirrorWas (128 * j + n) now else now
      (1 ≤ e → e ≤ 65535 → ∃ t, exec (.barInit a b g) s = .next t ∧ HeldFor t c sl (.barInit a b g) 1 ∧
        OnItsWay t (.barInit g n home e c sl)) ∧
      (e = 0 ∨ 65535 < e → TakesTrap (.barInit a b g) s c sl .range th.instrWord (s.reg64 c sl a)) ∧
      (∀ i, i = .barArrive b g ∨ (i = .barSync b g ∧ th.wo = false) →
        (th.records.length < 4 ∨ others ≠ th.records → th.posted = 0 → th.invals = 0 → NoInvalidations s →
          ∃ t, exec i s = .next t ∧ HeldFor t c sl i 1 ∧ OnItsWay t (.barArrive g n home c sl) ∧ SameRegs s t ∧ SameMemory s t) ∧
        (th.records.length < 4 → 0 < th.posted → StaysHeld i s c sl) ∧
        (4 ≤ th.records.length → others = th.records → TakesTrap i s c sl .perm th.instrWord (BitVec.ofNat 64 n))) ∧
      ∀ i, i = .barWait b g ∨ (i = .barSync b g ∧ th.wo = true) →
        let named := fun (r : BarRec) => decide (r.group = g) && decide (r.bar = n)
        let ph := match th.heldWait.toList.find? named, th.records.find? named with
          | some r, _ => r.phase
          | none, some r => r.phase
          | none, none => m
        (m ≠ ph → ∃ t, exec i s = .next t ∧ (t.thread c sl).pc = th.nextPc ∧ (t.thread c sl).records = others ∧
          (t.thread c sl).heldWait = none ∧ (t.thread c sl).wo = false ∧ SameRegs s t ∧ SameMemory s t) ∧
        (m = ph → ∃ t, exec i s = .next t ∧ (t.thread c sl).hold = .again ∧ (t.thread c sl).pc = th.pc ∧
          (t.thread c sl).records = others ∧ (t.thread c sl).heldWait = some { group := g, bar := n, phase := ph } ∧
          SameRegs s t ∧ SameMemory s t)

/-- R343, R346, R349: at the home an INIT binds a cell whose count is zero and sends its phase to every member; an arrival counts, and
the one that makes the count E sets it to zero, advances the phase and sends it to every member; an INIT of a cell in use and an arrival of
another group are answered PERM. Of arrivals that reach a cell on one cycle one is applied, and each other waits for the next cycle
(R349); that an INIT counts among them, and that any request after one already applied on the cycle waits, is the model's reading (log 86).
A phase reaches the member's mirror. ARRIVE's answer leaves a record of the phase and the thread goes on; SYNC's leaves the phase as the
one awaited, and the wait part follows. -/
def Clause.BarrierCellsCount : Prop :=
  (∀ (s : State) (g n home rc rs : Nat), let x := look (s.core home).cells n {}
    let cells := fun (t : State) (y : Cell) => look (t.core home).cells n {} = y ∧
      ∀ k, k ≠ n → look (t.core home).cells k {} = look (s.core home).cells k {}
    let told := fun (t : State) (ph : Nat) => ∀ ms, s.members g = some ms → ∀ m ∈ ms, OnItsWay t (.phase m g n ph)
    let later := fun (i : Instr) => ∃ t, exec i s = .next t ∧ cells t x ∧ t.items = s.items ∧
      ∃ e ∈ t.events, e.row = i ∧ e.cl = some (home / 16) ∧ e.subj.item = s.subj.item ∧ e.due = s.cyc home + 1
    let z := { x with nextAt := s.cyc home + 1 }
    (s.core home).pre = .running → (s.core home).refused = [] →
    (s.cyc home < x.nextAt → (Delivers s (.barArrive g n home rc rs) → later .barrierArrival) ∧
      ∀ e, Delivers s (.barInit g n home e rc rs) → later .barrierInit) ∧
    (x.nextAt ≤ s.cyc home → (∀ i y, .dev i y ∈ s.agenda → i ≠ .barrierArrival ∧ i ≠ .barrierInit) →
    (Delivers s (.barArrive g n home rc rs) →
      (x.group ≠ some g → ∃ t, exec .barrierArrival s = .next t ∧ cells t z ∧
        OnItsWay t (.barAns rc rs (.trap .perm (BitVec.ofNat 64 n)))) ∧
      (x.group = some g → x.count + 1 ≠ x.expected → ∃ t, exec .barrierArrival s = .next t ∧
        cells t { z with count := x.count + 1 } ∧ OnItsWay t (.barAns rc rs (.value (BitVec.ofNat 64 x.phase)))) ∧
      (x.group = some g → x.count + 1 = x.expected → ∃ t, exec .barrierArrival s = .next t ∧
        cells t { z with count := 0, phase := (x.phase + 1) % 2 ^ 16 } ∧ told t ((x.phase + 1) % 2 ^ 16) ∧
        OnItsWay t (.barAns rc rs (.value (BitVec.ofNat 64 x.phase))))) ∧
    ∀ e, Delivers s (.barInit g n home e rc rs) →
      (x.count ≠ 0 → ∃ t, exec .barrierInit s = .next t ∧ cells t z ∧
        OnItsWay t (.barAns rc rs (.trap .perm (BitVec.ofNat 64 n)))) ∧
      (x.count = 0 → ∃ t, exec .barrierInit s = .next t ∧ cells t { z with group := some g, expected := e } ∧ told t x.phase ∧
        OnItsWay t (.barAns rc rs .done)))) ∧
  (∀ (s : State) (c g n ph j : Nat), Delivers s (.phase c g n ph) → (s.core c).pre = .running → (s.core c).refused = [] →
    (s.core c).membOf g = some j →
    ∃ t, exec .phaseNotice s = .next t ∧ look (t.core c).mirrors (128 * j + n) 0 = ph ∧
      ∀ k, k ≠ 128 * j + n → look (t.core c).mirrors k 0 = look (s.core c).mirrors k 0) ∧
  ∀ (s : State) (c sl a g : Nat) (b : BarSel) (x : Ans), Delivers s (.barAns c sl x) → s.subj.sub = 1 →
    let n := (s.barNum c sl b).toNat
    let others := (s.thread c sl).records.filter fun r => !(decide (r.group = g) && decide (r.bar = n))
    let recorded := fun (t : State) (ph : Nat) => (t.thread c sl).records = others ++ [{ group := g, bar := n, phase := ph }]
    (∀ ph, x = .value ph → WaitsAt s c sl (.barArrive b g) → ∃ t, exec .packetDelivery s = .next t ∧ recorded t ph.toNat ∧
      (t.thread c sl).pc = (s.thread c sl).nextPc) ∧
    (∀ ph, x = .value ph → WaitsAt s c sl (.barSync b g) → ∃ t, exec .packetDelivery s = .next t ∧
      (t.thread c sl).records = others ∧ (t.thread c sl).heldWait = some { group := g, bar := n, phase := ph.toNat } ∧
      (t.thread c sl).pc = (s.thread c sl).pc ∧ (t.thread c sl).wo = true ∧ (t.thread c sl).hold = .again ∧ t.agenda = s.agenda) ∧
    (x = .done → WaitsAt s c sl (.barInit a b g) → ∃ t, exec .packetDelivery s = .next t ∧
      (t.thread c sl).pc = (s.thread c sl).nextPc) ∧
    ∀ addr, x = .trap .perm addr → WaitsAt s c sl (.barInit a b g) ∨ WaitsAt s c sl (.barArrive b g) ∨ WaitsAt s c sl (.barSync b g) →
      TakesTrap .packetDelivery s c sl .perm (s.thread c sl).instrWord addr

/-- BarriersHoldThreads and BarrierCellsCount, together. -/
def Obligations.BarriersCountAndHold : Prop := Clause.BarriersHoldThreads ∧ Clause.BarrierCellsCount

/-- R337, R339, R340: SK.MUL on the keeper sends the product of two scales, rounded once to nearest even, to the group's keeping copy, which
gives it the next number and sends both to every member; the last acknowledgement writes them to d. On another core, and for a group
that is not the tenant's or whose count is at its end, it traps PERM; for a scale or a product that no link value carries, BADSCALE. A
value enters a member's link queue, whose oldest of 16 goes. SK.LINK writes the oldest value the thread has not seen to d, and waits
where there is none. -/
def Obligations.LinkValuesReachMembers : Prop :=
  (∀ (s : State) (c sl d a b g : Nat), Runs s c sl [d, a, b] [d] →
    let th := s.thread c sl
    let i : Instr := .skMul d a b g
    let keeper := (s.cluster (c / 16)).keeper
    let x := (s.reg64 c sl a).toNat % 2 ^ 32
    let y := (s.reg64 c sl b).toNat % 2 ^ 32
    let p := linkProduct x y
    (c ≠ keeper → TakesTrap i s c sl .perm th.instrWord (BitVec.ofNat 64 keeper)) ∧
    (c = keeper → (∀ e, find s.groups g = some e → s.tenantOf (c / 16) ≠ some e.tenant ∨ e.seq = 2 ^ 32 - 1) →
      TakesTrap i s c sl .perm th.instrWord (BitVec.ofNat 64 g)) ∧
    (∀ e, c = keeper → find s.groups g = some e → s.tenantOf (c / 16) = some e.tenant → e.seq ≠ 2 ^ 32 - 1 →
      (¬ (GoodScale x ∧ GoodScale y ∧ GoodScale p) → TakesTrap i s c sl .badscale th.instrWord (BitVec.ofNat 64 (y * 2 ^ 32 + x))) ∧
      (GoodScale x → GoodScale y → GoodScale p → th.posted = 0 → th.invals = 0 → NoInvalidations s →
        ∃ t, exec i s = .next t ∧ HeldFor t c sl i 1 ∧ OnItsWay t (.skReq c sl g (BitVec.ofNat 64 p)) ∧ SameRegs s t ∧
          SameMemory s t))) ∧
  (∀ (s : State) (c sl d a b g : Nat) (v : Word), Delivers s (.linkAck c sl v) → s.subj.sub = 1 → WaitsAt s c sl (.skMul d a b g) →
    let th := s.thread c sl
    (th.acks ≤ 1 → HasEntry s c sl d → ∃ t, exec .packetDelivery s = .next t ∧ BusyResult s t c sl (some d) v) ∧
    (1 < th.acks → ∃ t, exec .packetDelivery s = .next t ∧ (t.thread c sl).acks = th.acks - 1 ∧ (t.thread c sl).pc = th.pc)) ∧
  (∀ (s : State) (kc ks g : Nat) (p : Word) (e : Group), Delivers s (.skReq kc ks g p) → s.subj.sub = 1 → find s.groups g = some e →
    e.seq ≠ 2 ^ 32 - 1 → ∃ t, exec .packetDelivery s = .next t ∧ find t.groups g = some { e with seq := e.seq + 1 } ∧
      ∀ m ∈ e.members, OnItsWay t (.linkVal m g (BitVec.ofNat 64 ((e.seq + 1) * 2 ^ 32 + p.toNat)) kc ks)) ∧
  (∀ (s : State) (c g j kc ks : Nat) (v : Word), Delivers s (.linkVal c g v kc ks) → (s.core c).pre = .running →
    (s.core c).refused = [] → (s.core c).membOf g = some j → let q := look (s.core c).links j []
    ∃ t, exec .linkValueDelivery s = .next t ∧ OnItsWay t (.linkAck kc ks v) ∧
      look (t.core c).links j [] = (if q.length < 16 then q else q.drop 1) ++ [v]) ∧
  ∀ (s : State) (c sl d g : Nat), Runs s c sl [d] [d] →
    ((∀ j, j < 4 → (look (s.core c).memb j 0).getLsbD 32 = true → (look (s.core c).memb j 0).toNat % 256 ≠ g) →
      TakesTrap (.skLink d g) s c sl .perm (s.thread c sl).instrWord (BitVec.ofNat 64 g)) ∧
    ∀ j, (s.core c).membOf g = some j →
      let unseen := (look (s.core c).links j []).filter fun v => decide (look (s.thread c sl).seen j 0 < v.toNat / 2 ^ 32)
      (∀ v rest, unseen = v :: rest → ∃ t, exec (.skLink d g) s = .next t ∧ BusyResult s t c sl (some d) v ∧
        look (t.thread c sl).seen j 0 = v.toNat / 2 ^ 32 ∧ (t.core c).links = (s.core c).links ∧ SameMemory s t) ∧
      (unseen = [] → StaysHeld (.skLink d g) s c sl)

/-- R354 to R356, R358, R360, R383: MON.ARM of a line homed at the thread's own core arms the monitor on it, and is held until the home
answers, whereupon every other registration of the thread is dropped; a fault leaves the monitor as it was, and a notice of a registration
fires the monitor that is armed by it, and no other: that a faulting ARM keeps the earlier monitor, and that events go by the number of a
registration, is the model's reading (log 87). MON.WAIT of a fired monitor writes the cause to d and disarms it, of a disarmed one writes
LOST, and of an armed one is held. MON.DISARM disarms and drops the registration. FENCE of any kind but ACQUIRE is held while a store of the
thread is outstanding, at device scope also while an invalidation of the thread's own stores is (R360). That it there waits for every
invalidation of a stack copy that was sent before it was first executed, another thread's too, is the model's reading (log 25); FULL waits at
any scope for one on its way to the thread's own stack (R383). Else it, and ACQUIRE at once, goes on and changes nothing. -/
def Obligations.MonitorsAndFences : Prop :=
  (∀ (s : State) (c sl d a : Nat), Runs s c sl [d, a] [d] →
    let th := s.thread c sl
    let ea := s.reg64 c sl a
    let unwatched := fun (t : State) => ∀ k, ∀ w ∈ (t.core k).watch, ¬ (w.core = c ∧ w.slot = sl)
    (OwnSlice s c (untagged ea) 1 → globalLayout ea.toNat = true →
      ∃ t, Asks (.monArm a) s c sl .watch ∧ exec (.monArm a) s = .next t ∧ (∀ k, (t.core k).watch = (s.core k).watch) ∧
        (t.thread c sl).monBefore = some th.monitor ∧
        ∃ l rest, (s.core c).tcache = l :: rest ∧ (t.thread c sl).monitor = .armed (l.pa (ea.toNat % 2 ^ 48) / 192) s.nextId) ∧
    (globalLayout ea.toNat = false → TakesTrap (.monArm a) s c sl .page th.instrWord ea) ∧
    (∀ x l, th.monitor = .fired x l → ∃ t, exec (.monWait d) s = .next t ∧ BusyResult s t c sl (some d) (BitVec.ofNat 64 x) ∧
      (t.thread c sl).monitor = .disarmed ∧ SameMemory s t) ∧
    (th.monitor = .disarmed → Puts (.monWait d) s c sl d 2) ∧
    (∀ l r, th.monitor = .armed l r → StaysHeld (.monWait d) s c sl) ∧
    ∃ t, exec .monDisarm s = .next t ∧ (t.thread c sl).pc = th.nextPc ∧ (t.thread c sl).monitor = .disarmed ∧ unwatched t ∧
      SameRegs s t ∧ SameMemory s t) ∧
  (∀ (s : State) (c sl a l reg : Nat) (x : Access) (r : AccResult), Delivers s (.accAns x r) → s.subj.sub = 1 → x.agent = .thread c sl →
    x.uid = (s.thread c sl).uid → x.posted = false → HeldFor s c sl (.monArm a) 1 → (s.thread c sl).monitor = .armed l reg →
    (r.fault = none → ∃ t, exec .packetDelivery s = .next t ∧ (t.thread c sl).pc = (s.thread c sl).nextPc ∧ SameRegs s t ∧
      (t.thread c sl).monitor = .armed l reg ∧ ∀ k, ∀ w ∈ (t.core k).watch, w.core = c → w.slot = sl → w.reg = reg) ∧
    ∀ k m, r.fault = some k → (s.thread c sl).monBefore = some m → ∃ t, exec .packetDelivery s = .next t ∧
      (t.thread c sl).tcause = BitVec.ofNat 64 k.code ∧ ((t.slot c sl).st = .run → (t.thread c sl).monitor = m) ∧
      ∀ j, ∀ w ∈ (t.core j).watch, ¬ (w.core = c ∧ w.slot = sl ∧ w.reg = reg)) ∧
  (∀ (s : State) (c sl reg x : Nat), Delivers s (.monFire c sl reg x) → s.subj.sub = 1 → (s.core c).pre = .running →
    ∃ t, exec .packetDelivery s = .next t ∧ (∀ l, (s.thread c sl).monitor = .armed l reg → (t.thread c sl).monitor = .fired x l) ∧
      ((∀ l, (s.thread c sl).monitor ≠ .armed l reg) → (t.thread c sl).monitor = (s.thread c sl).monitor)) ∧
  ∀ (s : State) (c sl : Nat) (scope : Scope), Runs s c sl [] [] →
    let th := s.thread c sl
    let far := scope = .device ∨ scope = .system
    GoesTo (.fenceAcquire scope) s c sl th.nextPc ∧
    ∀ i ∈ [Instr.fenceFull scope, .fenceRelease scope, .fenceXpath scope],
      let awaits := fun (p : Nat × Content) => ∃ st l tier g uid, p.2 = .copyInv st l tier g uid ∧
        ((i = .fenceFull scope ∧ st = c / 1024) ∨ (far ∧ (th.mark = 0 ∨ p.1 < th.mark)))
      (0 < th.posted ∨ (far ∧ 0 < th.invals) → StaysHeld i s c sl) ∧ (∀ p ∈ s.items, awaits p → StaysHeld i s c sl) ∧
      (th.posted = 0 → (far → th.invals = 0) → (∀ p ∈ s.items, ¬ awaits p) → GoesTo i s c sl th.nextPc)

/-- R241, R242: MEMOP on lines homed at the thread's own core. STAG, LTAG, WBL, and PIN and UNPIN line by line, ask the home and hold the
thread; PF asks and goes on. An address off the GLOBAL layout traps PAGE: of PF too, which R241 says never traps, by the model's reading
(log 66). A STAG off a sector MISALIGN, a length above 2^24 RANGE; a length
of 0 does nothing. -/
def Clause.MemopsAskTheHome : Prop :=
  ∀ (s : State) (c sl d a b : Nat), Runs s c sl [d, a, b] [d] →
    let th := s.thread c sl
    let ea := s.reg64 c sl a
    let va := ea.toNat % 2 ^ 48
    let v := s.reg64 c sl b
    let pins : List (Instr × AccOp) := [(.memopPin a b, .pin), (.memopUnpin a b, .unpin)]
    (globalLayout ea.toNat = false → ∀ i ∈ [Instr.memopStag a b, .memopLtag d a, .memopPin a b, .memopUnpin a b, .memopWbl a, .memopPf a],
      TakesTrap i s c sl .page th.instrWord ea) ∧
    (globalLayout ea.toNat = true → va % 48 ≠ 0 → TakesTrap (.memopStag a b) s c sl .misalign th.instrWord ea) ∧
    (globalLayout ea.toNat = true → 2 ^ 24 < v.toNat → ∀ p ∈ pins, TakesTrap p.1 s c sl .range th.instrWord ea) ∧
    (globalLayout ea.toNat = true → OwnSlice s c (untagged ea) 1 →
      (va % 48 = 0 → Asks (.memopStag a b) s c sl (.stag (v.toNat % 16))) ∧
      Asks (.memopLtag d a) s c sl .ltag ∧ Asks (.memopWbl a) s c sl .wbl ∧
      ∃ t, exec (.memopPf a) s = .next t ∧ (t.thread c sl).pc = th.nextPc ∧ SameRegs s t ∧ SameMemory s t ∧
        waitingOps t (c / 16) (c % 16) = waitingOps s (c / 16) (c % 16) ++ [.pf]) ∧
    (globalLayout ea.toNat = true → v.toNat ≤ 2 ^ 24 → let line := va / 192 + th.result.toNat
      ∀ p ∈ pins,
        (v.toNat ≠ 0 → 192 * line < va + v.toNat → OwnSlice s c (BitVec.ofNat 64 (192 * line)) 1 → Asks p.1 s c sl p.2) ∧
        (v.toNat = 0 ∨ va + v.toNat ≤ 192 * line → ∃ t, exec p.1 s = .next t ∧ (t.thread c sl).pc = th.nextPc ∧ SameRegs s t ∧
          SameMemory s t))

/-- R241: at the home, on a line whose sector is valid there, STAG sets the tag of its sector, which is dirty, and keeps the others, LTAG
answers the tag, or 2^63 of a poisoned sector, PIN and UNPIN set and clear the pin, and WBL leaves the line clean and waits for
the tier. An answer completes the instruction: LTAG's writes d; PIN's and UNPIN's goes on to the next line. -/
def Clause.MemopsChangeTheLine : Prop :=
  (∀ (s : State) (a : Access) (b st w : Nat) (x : Line) (z : LineSector), let cl := a.homeCore / 16
    let l := a.pa / 192
    let j := a.pa % 192 / 48
    Delivers s (.acc a) → AtItsHome s a → homeBankSet (s.cluster cl).bankrole l (a.homeCore % 16) = some (b, st) →
    (s.cluster cl).hitWay b st l a.tier = some w → find (s.cluster cl).lines w = some x → x.sectors.length = 4 →
    x.sectors[j]? = some z →
    (∀ tag, a.op = .stag tag → z.valid = true → ∃ t y, exec .homeSliceAccess s = .next t ∧ find (t.cluster cl).lines w = some y ∧
      y.data = x.data ∧ y.sectors = x.sectors.set j { z with tag := tag, dirty := true } ∧ OnItsWay t (.accAns (accepted s a) {})) ∧
    (a.op = .ltag → z.valid = true → ∃ t r, exec .homeSliceAccess s = .next t ∧ OnItsWay t (.accAns (accepted s a) r) ∧ r.fault = none ∧
      ofBytes r.bytes = (if z.poison = true then 2 ^ 63 else z.tag % 2 ^ 64)) ∧
    (a.op = .pin → (∀ y ∈ x.sectors, y.valid = true) → ∃ t y, exec .homeSliceAccess s = .next t ∧
      find (t.cluster cl).lines w = some y ∧ y.pinned = true ∧ y.data = x.data ∧ y.sectors = x.sectors ∧
      OnItsWay t (.accAns (accepted s a) {})) ∧
    (a.op = .unpin → ∃ t y, exec .homeSliceAccess s = .next t ∧ find (t.cluster cl).lines w = some y ∧ y.pinned = false ∧
      y.data = x.data ∧ OnItsWay t (.accAns (accepted s a) {})) ∧
    (a.op = .wbl → (∃ y ∈ x.sectors, y.valid = true ∧ y.dirty = true) → ∃ t y, exec .homeSliceAccess s = .next t ∧
      find (t.cluster cl).lines w = some y ∧ (∀ q ∈ y.sectors, q.dirty = false) ∧ y.data = x.data ∧
      ∃ e ∈ t.events, e.row = .tierWriteAck ∧ e.cl = some cl ∧
        e.due = (s.cluster cl).t + ((if a.tier = true then 270 else 150) * (s.cluster cl).mhz + 999) / 1000 ∧
        find t.items e.subj.item = some (.acc { accepted s a with filled := false }))) ∧
  ∀ (s : State) (c sl d a b : Nat) (x : Access) (r : AccResult), Delivers s (.accAns x r) → s.subj.sub = 1 → x.agent = .thread c sl →
    x.uid = (s.thread c sl).uid → x.posted = false → r.fault = none →
    (∀ i ∈ [Instr.memopStag a b, .memopWbl a], HeldFor s c sl i 1 → ∃ t, exec .packetDelivery s = .next t ∧
      (t.thread c sl).pc = (s.thread c sl).nextPc ∧ SameRegs s t) ∧
    (HeldFor s c sl (.memopLtag d a) 1 → HasEntry s c sl d → ∃ t, exec .packetDelivery s = .next t ∧
      BusyResult s t c sl (some d) (BitVec.ofNat 64 (ofBytes r.bytes))) ∧
    ∀ i ∈ [Instr.memopPin a b, .memopUnpin a b], HeldFor s c sl i 1 → ∃ t, exec .packetDelivery s = .next t ∧
      (t.thread c sl).result = (s.thread c sl).result + 1 ∧ (t.thread c sl).pc = (s.thread c sl).pc ∧ TurnInPlace s t c sl

/-- MemopsAskTheHome and MemopsChangeTheLine, together. -/
def Obligations.MemopsActAtTheHome : Prop := Clause.MemopsAskTheHome ∧ Clause.MemopsChangeTheLine

/-! ### Traps of the fetch, twins, watchdog and pre-emption (02_lines, 20_traps) -/

/-- R26, R43, R44, R48: a fetch from a malformed line, or of a head that the line does not have, traps ILLINE with the halfword there and the
header in TWORD and the line's address in TADDR; words that no row of the tables has trap ILLEGAL with the instruction in TWORD and TADDR
zero; a line that could not be fetched traps with its fault, the PC in TADDR. -/
def Clause.EachFetchFaultTraps : Prop :=
  ∀ (s : State) (c sl : Nat) (k : Cause) (tword taddr : Word), s.curr = true → s.curCore = c → s.curSlot = sl →
    FetchFault (s.thread c sl) k tword taddr → TakesTrap .illegalEncoding s c sl k tword taddr

/-- R43, R44, R48: where there is no instruction at the PC, the exception is what is executed, and it completes: in every state whose
thread has a handler, and is not at that handler itself, the thread goes on at THANDLER with the fault's cause, words and address and its own
PC (TEPC as R401 gives it) in the trap registers, and nothing else is changed. -/
def Clause.IllegalEncodingCompletes : Prop :=
  ∀ (s : State) (c sl : Nat) (k : Cause) (tword taddr : Word), s.curr = true → s.curCore = c → s.curSlot = sl →
    FetchFault (s.thread c sl) k tword taddr → headAddress (s.thread c sl).thandler = true → ¬ forSupervisor s c sl k →
    (s.thread c sl).pc ≠ (s.thread c sl).thandler →
    ∃ t, exec .illegalEncoding s = .next t ∧ (t.thread c sl).pc = (s.thread c sl).thandler ∧
      (t.thread c sl).tepc = trapPc s c sl k ∧ (t.thread c sl).tcause = BitVec.ofNat 64 k.code ∧
      (t.thread c sl).tword = tword ∧ (t.thread c sl).taddr = taddr ∧ (t.thread c sl).tprog = 0 ∧
      SameRegs s t ∧ SameMemory s t ∧ SameRest s t c sl

/-- R402, R410: where the fault of the line is POISON, which never enters a handler, the thread is parked with a record of kind 1 and cause
8, and goes on nowhere. That a fetch raises it nowhere, since it consumes no poison, and where the address stands are the model's
reading (log 13). -/
def Clause.PoisonedFetchParks : Prop :=
  ∀ (s : State) (c sl : Nat), s.curr = true → s.curCore = c → s.curSlot = sl → (s.thread c sl).lineFault = some .poison →
    ∃ t, exec .illegalEncoding s = .next t ∧ (t.slot c sl).st = .parked ∧ (t.thread c sl).monitor = .disarmed ∧
      (t.thread c sl).tcause = (s.thread c sl).tcause ∧ (t.thread c sl).pc = (s.thread c sl).pc ∧
      Recorded s t c 1 8 sl [(s.thread c sl).pc.toNat, (s.thread c sl).pc.toNat, (s.thread c sl).tid % 65536, 0, 0, 0, 0]

/-- EachFetchFaultTraps, IllegalEncodingCompletes and PoisonedFetchParks, together. -/
def Obligations.FetchFaultsTrap : Prop :=
  Clause.EachFetchFaultTraps ∧ Clause.IllegalEncodingCompletes ∧ Clause.PoisonedFetchParks

/-- R178, R361, R409, R412, R413: a write of TWINCTL that changes the bit of a slot in use changes nothing, another stores the pair bits. A
clear of MXSTAT clears the bits named. A pair whose two entries agree goes on, both on their next turns; one whose entries differ is
parked on both cores, counted in MISS, with one record of kind 9. A hold that has lasted longer than its class's limit, which is not
zero, and is not yet reported, is recorded once as kind 6, and the thread stays held. The number of the first word that differs counts
the model's own layout of an entry (log 48). -/
def Obligations.TwinsAndWatchdog : Prop :=
  (∀ (s : State), let col := s.subj.unit
    let v := s.subj.val
    let changed := fun (j : Nat) => j < 15 ∧ (s.column col).twinctl.getLsbD j ≠ v.getLsbD j
    let free := fun (j : Nat) => ∀ c ∈ [2 * col, 2 * col + 1], (s.slot c j).st = .free ∧ (s.slot c j).freeAt ≤ s.cyc (2 * col)
    ((∃ j, changed j ∧ ¬ free j) → exec .twinctlWrite s = .next s) ∧
    ((∀ j, changed j → free j) → ∃ t, exec .twinctlWrite s = .next t ∧ (t.column col).twinctl = v &&& 0x7FFF ∧
      (t.column col).miss = (s.column col).miss ∧ t.cores = s.cores ∧ ∀ k, k ≠ col → t.column k = s.column k)) ∧
  (∀ (s : State), let c := s.subj.unit
    ∃ t, exec .mxstatClear s = .next t ∧ t.core c = { s.core c with mxstat := (s.core c).mxstat &&& ~~~s.subj.val } ∧
      ∀ k, k ≠ c → t.core k = s.core k) ∧
  (∀ (s : State) (a b : List Word), let col := s.subj.unit
    let sl := s.subj.sub
    let up := 2 * col
    (s.pair col sl).lead = some a → (s.pair col sl).trail = some b →
    (a = b → ∃ t, exec .twinCompare s = .next t ∧ (t.pair col sl).lead = none ∧ (t.pair col sl).trail = none ∧ SameRegs s t ∧
      SameMemory s t ∧ ∀ c, c = up ∨ c = up + 1 → (t.thread c sl).hold = .ready ∧ (t.thread c sl).twinGo = true ∧
        (t.thread c sl).pc = (s.thread c sl).pc) ∧
    ∀ pre x y as bs, a = pre ++ x :: as → b = pre ++ y :: bs → x ≠ y → ∃ t, exec .twinCompare s = .next t ∧
      (t.slot up sl).st = .parked ∧ (t.slot (up + 1) sl).st = .parked ∧
      (t.column col).miss = min ((s.column col).miss + 1) (2 ^ 32 - 1) ∧
      Recorded s t up 9 19 sl [(s.thread up sl).pc.toNat, 0, (s.thread up sl).tid % 65536, x.toNat, y.toNat, pre.length, 0]) ∧
  ∀ (s : State) (cls : HoldClass) (start : Nat) (told : Bool), let c := s.subj.unit
    let sl := s.subj.sub
    let code := match cls with
      | .send => 0
      | .waitt => 1
      | .bar => 2
      | .mon => 3
    let limit := 1024 * ((s.core c).wdog.toNat / 2 ^ (16 * code) % 2 ^ 16)
    (s.slot c sl).st = .run → (s.core c).pre = .running → (s.thread c sl).holding = some (cls, start, told) →
    (told = false → limit ≠ 0 → start + limit < s.cyc c → ∃ t, exec .watchdogExpiry s = .next t ∧
      (t.thread c sl).holding = some (cls, start, true) ∧ (t.thread c sl).hold = (s.thread c sl).hold ∧
      (t.thread c sl).pc = (s.thread c sl).pc ∧ (t.slot c sl).st = .run ∧ SameRegs s t ∧
      Recorded s t c 6 0 sl [(s.thread c sl).pc.toNat, 0, (s.thread c sl).tid % 65536, code, s.cyc c - start, 0, 0]) ∧
    (told = true ∨ limit = 0 ∨ s.cyc c ≤ start + limit → exec .watchdogExpiry s = .next s)

/-- R414, R415, R418: PREEMPT of a running core with both areas valid begins STOPPING, else the firmware is told and nothing changes. At the
next rotation boundary DRAINING begins, and once the core owes nothing SAVING. On each turn of the service slot a block's write goes out,
three cycles later it is performed: the header, a register of a thread at its place in its slot's context record. After the last, the
register file is empty, COUNT advances, and the firmware is told. The pace of the writes is the model's reading (log 45). -/
def Clause.PreemptionSavesTheCore : Prop :=
  (∀ (s : State) (c : Nat), Delivers s (.preempt c) → let k := s.core c
    (k.pre = .running → k.savebase.getLsbD 63 = true → k.spillbase.getLsbD 63 = true → ∃ t, exec .preempt s = .next t ∧
      t.core c = { k with pre := .stopping, stopAt := s.cyc c, spillMax := k.spill.length } ∧ t.fwNotes = s.fwNotes) ∧
    (k.pre = .running → k.savebase.getLsbD 63 = false ∨ k.spillbase.getLsbD 63 = false → ∃ t n, exec .preempt s = .next t ∧
      (t.core c).pre = .running ∧ t.fwNotes = s.fwNotes ++ [n]) ∧
    (k.pre ≠ .running → ∃ t n, exec .preempt s = .next t ∧ t.core c = k ∧ t.fwNotes = s.fwNotes ++ [n])) ∧
  ∀ (s : State), let c := s.subj.unit
    let k := s.core c
    (k.pre = .stopping → s.cyc c % 16 = 0 → k.stopAt < s.cyc c → ∃ t, exec .preemptDraining s = .next t ∧
      t.core c = { k with pre := .draining }) ∧
    (k.pre ≠ .stopping ∨ s.cyc c % 16 ≠ 0 ∨ s.cyc c ≤ k.stopAt → exec .preemptDraining s = .next s) ∧
    (s.subj.sub ≠ 1 → k.pre = .draining → Settled s c → ∃ t, exec .preemptSaving s = .next t ∧ (t.core c).pre = .saving ∧
      (t.core c).saveNext = 0 ∧ SameRegs s t) ∧
    (s.subj.sub ≠ 1 → k.pre = .draining → k.fifo ≠ [] ∨ k.running ≠ none ∨ k.mxOut ≠ 0 → ∃ t, exec .preemptSaving s = .next t ∧
      (t.core c).pre = .draining) ∧
    (s.subj.sub ≠ 1 → k.pre = .saving → s.cyc c % 16 = 15 → k.saveNext < 4096 → ∃ t, exec .preemptSaving s = .next t ∧
      (t.core c).saveNext = k.saveNext + 1 ∧ ∃ e ∈ t.events, e.row = .preemptSaving ∧ e.cl = some (c / 16) ∧
        e.due = s.cyc c + 3 ∧ e.subj.unit = c ∧ e.subj.sub = 1 ∧ e.subj.item = k.saveNext) ∧
    (s.subj.sub = 1 → ∃ t, exec .preemptSaving s = .next t ∧ t.core c = k ∧
      (s.subj.item = 0 → savedWord t c 0 = 1 ∧ savedWord t c 1 = c % 2 ^ 64 ∧ savedWord t c 2 = k.stopAt % 2 ^ 64) ∧
      (∀ sl r, sl < 16 → (s.slot c sl).st = .run → r < (s.thread c sl).limit → r < 128 → s.subj.item = 1024 + 148 * sl + 20 + r →
        savedBlock t c s.subj.item = (s.reg c sl r).toNat) ∧
      (s.subj.item = 4095 → t.agenda = .dev .preemptSaved { unit := c } :: s.agenda)) ∧
    (k.pre = .saving → ∃ t n, exec .preemptSaved s = .next t ∧ (t.core c).pre = .preempted ∧ (∀ e, look (t.core c).rf e 0 = 0) ∧
      (t.core c).preCount = (k.preCount + 1) % 2 ^ 32 ∧ t.fwNotes = s.fwNotes ++ [n])

/-- R355, R414, R415, R417, R418: RESUME of a pre-empted core begins RESTORING, and of another tells the firmware. Each cycle a block of the
area is read, and what is whole with it is installed: TAGDONE, TAGFREE and the counters with the last block of the core's own parts, a plain
slot's PC and registers with the last of its record; a slot whose record is empty is free. Then the spill queue is applied, a message to the
arrival queue first, one entry a cycle; when none is left the core runs again from the next rotation boundary, its armed monitors fired
SPURIOUS, but what came into the spill queue meanwhile is applied first. Which block installs what is the model's reading (log 44). -/
def Clause.ResumptionRestoresTheCore : Prop :=
  (∀ (s : State) (c : Nat), Delivers s (.resume c) → let k := s.core c
    (k.pre = .preempted → ∃ t, exec .resume s = .next t ∧ t.core c = { k with pre := .restoring, saveNext := 0, areaIn := [] } ∧
      ∃ e ∈ t.events, e.row = .restoreComplete ∧ e.cl = some (c / 16) ∧ e.due = s.cyc c + 1 ∧ e.subj = { unit := c }) ∧
    (k.pre ≠ .preempted → ∃ t n, exec .resume s = .next t ∧ (t.core c).pre = k.pre ∧ t.fwNotes = s.fwNotes ++ [n])) ∧
  (∀ (s : State), let c := s.subj.unit
    let k := s.core c
    let b := s.subj.item
    let blocks := k.areaIn ++ [s.tierRead (savePlace k b).1 (savePlace k b).2 64]
    k.pre = .restoring →
    (s.subj.sub = 0 → (∃ t, exec .restoreComplete s = .next t ∧ (t.core c).areaIn = blocks ∧ (t.core c).pre = .restoring ∧
        ∃ e ∈ t.events, e.row = .restoreComplete ∧ e.cl = some (c / 16) ∧ e.due = s.cyc c + 1 ∧
          e.subj = (if b < 4095 then { unit := c, item := b + 1 } else { unit := c, sub := 1 })) ∧
      (b = 831 → ∃ t, exec .restoreComplete s = .next t ∧ (t.core c).tagdone.toNat = readWord blocks 8 ∧
        (t.core c).tagfree.toNat = readWord blocks 9 ∧ ∀ n, n < 16 → look (t.core c).cnt n 0 = readWord blocks (12 + n) % 65536) ∧
      ∀ sl, sl < 16 → b = 1024 + 148 * sl + 147 → k.areaIn.length = b → (∀ x ∈ k.areaIn, x.length = 64) →
        let w := 8192 + 1184 * sl
        let st := readWord blocks (w + 1)
        (st = 0 → ∃ t, exec .restoreComplete s = .next t ∧ t.slot c sl = {}) ∧
        (ctxOk ((blocks.drop (1024 + 148 * sl)).flatMap id) = true → st / 2 ^ 60 % 2 = 0 → 1 ≤ st % 16 → st % 16 ≤ 3 →
          ∃ t, exec .restoreComplete s = .next t ∧
            (t.slot c sl).st = (if st % 16 = 1 then .run else if st % 16 = 2 then .service else .parked) ∧
            (t.thread c sl).pc.toNat = readWord blocks w ∧ (t.thread c sl).limit = 8 * (st / 2 ^ 54 % 16 + 1) ∧
            ∀ r, 1 ≤ r → r < (t.thread c sl).limit → (t.reg c sl r).toNat = ofBytes (blocks.getD (1024 + 148 * sl + 20 + r) []))) ∧
    (s.subj.sub = 1 →
      (k.spill.length ≤ k.saveNext →
        (s.cyc c % 16 ≠ 0 → ∃ t, exec .restoreComplete s = .next t ∧ ∃ e ∈ t.events, e.row = .resumeRunning ∧
          e.cl = some (c / 16) ∧ s.cyc c < e.due ∧ e.due ≤ s.cyc c + 16 ∧ e.due % 16 = 0 ∧ e.subj = { unit := c }) ∧
        (s.cyc c % 16 = 0 → ∃ t, exec .restoreComplete s = .next t ∧ t.agenda = .dev .resumeRunning { unit := c } :: s.agenda)) ∧
      ∀ m rest, k.spill = .msg m :: rest → k.saveNext = 0 → k.arrivals.length < 64 → ∃ t, exec .restoreComplete s = .next t ∧
        (t.core c).spill = rest ∧
        (t.core c).arrivals = k.arrivals ++ [{ msg := { m with taken := none }, entered := m.taken.getD (s.cyc c) }] ∧
        ∃ e ∈ t.events, e.row = .restoreComplete ∧ e.cl = some (c / 16) ∧ e.due = s.cyc c + 1 ∧ e.subj = { unit := c, sub := 1 })) ∧
  ∀ (s : State), let c := s.subj.unit
    let k := s.core c
    k.pre = .restoring →
    (k.saveNext < k.spill.length → ∃ t, exec .resumeRunning s = .next t ∧ (t.core c).pre = .restoring) ∧
    (k.spill.length ≤ k.saveNext → ∃ t n, exec .resumeRunning s = .next t ∧ (t.core c).pre = .running ∧ t.fwNotes = s.fwNotes ++ [n] ∧
      SameRegs s t ∧ ∀ sl, sl < 16 → (s.slot c sl).st = .run → (t.slot c sl).st = .run ∧ (t.thread c sl).pc = (s.thread c sl).pc ∧
        ∀ l reg, (s.thread c sl).monitor = .armed l reg → (t.thread c sl).monitor = .fired 3 l)

/-- PreemptionSavesTheCore and ResumptionRestoresTheCore, together. -/
def Obligations.PreemptionSavesAndRestores : Prop := Clause.PreemptionSavesTheCore ∧ Clause.ResumptionRestoresTheCore

/-! ### The fabric (21_fabric) -/

/-- R423, R425, R426, R429: a header of the router's edition goes, three nanoseconds later, through a minimal output that the chart allows,
that is alive and has adaptive space, of the lowest regional count, x before y; one that found none for 16 fabric cycles, or travels the
escape channel, takes the escape output, or waits while that is dead or full. A multicast sector forks: each of its destinations here gets a
copy, and each other one is served by a copy that takes the escape output to it or waits for that. At its destination the packet is
delivered; one of the next edition is held, an older one dropped. A packet that is next in its stream is delivered, at once or on its
cluster's next cycle (R8), and acknowledged, a request for a home slice or a barrier cell last in the cycle, an early one held, one already
delivered only acknowledged, and an acknowledged one leaves the retry buffer. How buffers count a packet is the model's choice (log 49). -/
def Clause.PacketsAreDeliveredInOrder : Prop :=
  (∀ (s : State) (p : Packet), find s.packets s.subj.item = some p → let id := s.subj.item
    let r := s.router p.at_
    let open_ := fun (o : Nat) => o < 4 ∧ (s.chartOf p.at_ p.dcl).allowed / 2 ^ o % 2 = 1 ∧ productive p.at_ p.dcl o = true ∧
      o ∉ r.dead ∧ (neighbour p.at_ o).isSome = true ∧ 0 < s.adaptiveFree p.at_ o p.cls
    (p.edition = r.edition → p.cast = 0 → p.at_ = p.dcl → ∃ t, exec .headerRouting s = .next t ∧
      DueAt t .packetDelivery id (s.now + (10 + (p.len - 1) / 2)) ∧ t.items = s.items) ∧
    (p.edition = r.edition → p.cast ≠ 0 → id < s.nextId → ∃ t, exec .headerRouting s = .next t ∧ ∀ b ∈ p.branch :: p.more,
      let o := (s.chartOf p.at_ b.dcl).esc
      ∃ i q, find t.packets i = some q ∧ b ∈ q.branch :: q.more ∧
        (b.dcl = p.at_ → q.more = [] ∧ DueAt t .packetDelivery i (s.now + (10 + (p.len - 1) / 2))) ∧
        (b.dcl ≠ p.at_ → (∀ x ∈ q.branch :: q.more, (s.chartOf p.at_ x.dcl).esc = o) ∧
          (q.at_ = p.at_ ∧ DueAt t .headerRouting i (s.now + 1) ∨
            ∃ n, neighbour p.at_ o = some n ∧ q.at_ = n ∧ DueAt t .headerRouting i (s.now + 3)))) ∧
    (p.edition = r.edition → p.cast = 0 → p.at_ ≠ p.dcl → p.esc = false → p.waited < 8 →
      ((∃ o, open_ o) → ∃ t q o n, exec .headerRouting s = .next t ∧ open_ o ∧
        (∀ o', open_ o' → s.regional o 16 p.at_ ≤ s.regional o' 16 p.at_ ∧
          (s.regional o' 16 p.at_ = s.regional o 16 p.at_ → o ≤ o')) ∧
        neighbour p.at_ o = some n ∧ find t.packets id = some q ∧ q.at_ = n ∧ q.esc = false ∧ q.waited = 0 ∧
        q.holds = min p.len (s.adaptiveFree p.at_ o p.cls) ∧ DueAt t .headerRouting id (s.now + 3)) ∧
      ((∀ o, ¬ open_ o) → ∃ t q, exec .headerRouting s = .next t ∧ find t.packets id = some q ∧ q.at_ = p.at_ ∧
        q.waited = p.waited + 1 ∧ DueAt t .headerRouting id (s.now + 1))) ∧
    (p.edition = r.edition → p.cast = 0 → p.at_ ≠ p.dcl → p.esc = true ∨ 8 ≤ p.waited →
      let o := (s.chartOf p.at_ p.dcl).esc
      (o ∈ r.dead ∨ s.escapeFree p.at_ o = 0 → ∃ t q, exec .headerRouting s = .next t ∧ find t.packets id = some q ∧ q.at_ = p.at_ ∧
        q.esc = true ∧ DueAt t .headerRouting id (s.now + 1)) ∧
      ∀ n, o ∉ r.dead → 0 < s.escapeFree p.at_ o → neighbour p.at_ o = some n → ∃ t q, exec .headerRouting s = .next t ∧
        find t.packets id = some q ∧ q.at_ = n ∧ q.esc = true ∧ q.inEsc = true ∧ q.holds = min p.len (s.escapeFree p.at_ o) ∧
        DueAt t .headerRouting id (s.now + 3)) ∧
    (p.edition ≠ r.edition → p.edition = (r.edition + 1) % 256 → ∃ t, exec .headerRouting s = .next t ∧
      (t.router p.at_).held = r.held ++ [id] ∧ ∃ q, find t.packets id = some q ∧ q.at_ = p.at_) ∧
    (p.edition ≠ r.edition → p.edition ≠ (r.edition + 1) % 256 → ∃ t, exec .headerRouting s = .next t ∧
      find t.packets id = none ∧ t.streams = s.streams ∧ t.items = s.items) ∧
    (s.subj.sub ≠ 1 → p.edition = (s.router p.dcl).edition → p.seq < 2 ^ 16 →
      let st := s.stream p.stream
      let gap := (p.seq + 65536 - st.expect % 65536) % 65536
      (∀ x, gap = 0 → st.early = [] → find s.items p.content = some x →
        let row := (rowOf x).1
        let move : Move := .dev row (subjOf x p.content)
        let late := row ∈ [.homeSliceAccess, .monitorRegistration, .mcreadLineRequest, .barrierArrival, .barrierInit]
        ∃ t, exec .packetDelivery s = .next t ∧ (t.stream p.stream).expect = st.expect + 1 ∧ Acknowledged s t p ∧
          (TakenAtOnce s p → ¬ late → t.agenda = move :: s.agenda) ∧
          (TakenAtOnce s p → late → ∃ before after, s.agenda = before ++ after ∧ t.agenda = before ++ move :: after ∧
            (∀ m ∈ before, ∀ j, m ≠ .dev .multicastSectorSend j) ∧
            ∀ m rest, after = m :: rest → ∃ j, m = .dev .multicastSectorSend j) ∧
          (¬ TakenAtOnce s p → t.agenda = s.agenda ∧ ∃ e ∈ t.events, e.row = row ∧ e.cl = some p.dcl ∧
            e.subj = subjOf x p.content ∧ e.due = (s.cluster p.dcl).t + 1)) ∧
      (0 < gap → gap < 32768 → st.early = [] → ∃ t, exec .packetDelivery s = .next t ∧ t.agenda = s.agenda ∧
        (t.stream p.stream).expect = st.expect ∧ (t.stream p.stream).early = [p] ∧ t.events = s.events) ∧
      (32768 ≤ gap → ∃ t, exec .packetDelivery s = .next t ∧ t.agenda = s.agenda ∧ (t.stream p.stream).expect = st.expect ∧
        Acknowledged s t p))) ∧
  ∀ (s : State) (key : Stream), s.subj.val = key.word → key.scl < 256 → key.sep < 16 → key.dcl < 256 → key.dep < 16 → key.cls < 8 →
    key.far = none → s.subj.sub = (s.router s.subj.unit).edition → (s.router s.subj.unit).edition < 256 →
    ∃ t more, exec .packetAck s = .next t ∧ ((s.stream key).waiting = [] → more = []) ∧
      (t.stream key).retry = ((s.stream key).retry.filter fun p => decide (p.seq ≠ s.subj.item)) ++ more

/-- R425, R427 to R430: eight failed retries of a link in a row, the loss of its training, or 4,096 silent fabric cycles make it dead; a
good retry starts the count anew. A dead link is used by neither of its ends, what stood on it is lost, no stream loses what it keeps for
replay, and each end reports it to its fabric manager, which begins a chart for the links it has heard of, or notes that one must follow. A
router's new chart allows no output whose link is dead, and its escape output is that of the dimension-ordered route where no link of that
is dead (R425), unless no order of turns reaches every cluster (log 50). At the turn the shadow chart is active, the edition is one more,
what the router held of the old edition is gone, and its streams keep every unacknowledged packet, in order, under the new one. When charts
are installed is free (log 51). -/
def Clause.DeadLinksTurnEditions : Prop :=
  (∀ (s : State), let cl := s.subj.unit
    let port := s.subj.sub
    let n := look (s.router cl).retries port 0
    let killed := ∃ t, exec .linkRetry s = .next t ∧ t.agenda = .dev .linkDead { unit := cl, sub := port } :: s.agenda
    (s.subj.val = 0 → ∃ t, exec .linkRetry s = .next t ∧ look (t.router cl).retries port 0 = 0 ∧ t.agenda = s.agenda) ∧
    (s.subj.val = 1 → ∃ t, exec .linkRetry s = .next t ∧ look (t.router cl).retries port 0 = n + 1 ∧
      t.agenda = if n + 1 < 8 then s.agenda else .dev .linkDead { unit := cl, sub := port } :: s.agenda) ∧
    (s.subj.val = 2 → killed) ∧
    (s.subj.val = 3 → (4096 ≤ s.subj.item → killed) ∧ (s.subj.item < 4096 → exec .linkRetry s = .next s)) ∧
    ∀ k, neighbour cl port = some k → port ∉ (s.router cl).dead → ∃ t, exec .linkDead s = .next t ∧ port ∈ (t.router cl).dead ∧
      opposite port ∈ (t.router k).dead ∧
      (∀ x ∈ t.packets, x.2.via ≠ some (cl, port) ∧ x.2.via ≠ some (k, opposite port)) ∧
      (∀ key, ∃ more, (t.stream key).retry = (s.stream key).retry ++ more) ∧
      OnItsWay t (.linkDown cl port) ∧ OnItsWay t (.linkDown k (opposite port))) ∧
  (∀ (s : State) (cl port k : Nat), Delivers s (.linkDown cl port) → s.subj.sub = 1 → neighbour cl port = some k →
    (4 * cl + port ∈ s.fmHeard → ∃ t, exec .packetDelivery s = .next t ∧ t.fmHeard = s.fmHeard ∧ t.fmDead = s.fmDead ∧
      t.fmAgain = s.fmAgain) ∧
    (4 * cl + port ∉ s.fmHeard → ∃ t, exec .packetDelivery s = .next t ∧
      t.fmHeard = s.fmHeard ++ [4 * cl + port, 4 * k + opposite port] ∧
      (s.fmDead = none → t.fmDead = some t.fmHeard ∧ ∀ j, j < 256 → ∃ e ∈ t.events, e.row = .chartInstall ∧ e.subj = { unit := j }) ∧
      (s.fmDead ≠ none → t.fmAgain = true))) ∧
  (∀ (s : State) (dl : List Nat), s.fmDead = some dl → let cl := s.subj.unit
    ∃ t ch, exec .chartInstall s = .next t ∧ (t.router cl).shadow = some ch ∧ (t.router cl).active = (s.router cl).active ∧
      (∀ d e port, find ch d = some e → port < 4 → 4 * cl + port ∈ dl → e.allowed / 2 ^ port % 2 = 0) ∧
      (∀ d e, cl < 256 → find ch d = some e → e.unreachable = false → s.fmOrder < 4 → d ≠ cl → OrderedRoute dl d cl →
        e.esc = orderedOut cl d) ∧
      ((∀ k, k < 256 → k ≠ cl → (s.router k).shadowAck = true) → cl < 256 → ∀ k, k < 256 →
        ∃ e ∈ t.events, e.row = .editionTurn ∧ e.subj = { unit := k })) ∧
  ∀ (s : State) (ch : List (Nat × ChartEntry)), let cl := s.subj.unit
    let r := s.router cl
    let e := (r.edition + 1) % 256
    r.shadow = some ch → (s.packets.map fun x => x.1).Nodup → (s.streams.map fun st => st.id).Nodup →
    ∃ t, exec .editionTurn s = .next t ∧ (t.router cl).active = some ch ∧ (t.router cl).edition = e ∧
      (∀ x ∈ s.packets, x.2.at_ = cl → x.2.via = none → x.2.edition = r.edition → x.1 < s.nextId → find t.packets x.1 = none) ∧
      ∀ st ∈ s.streams, st.id.scl = cl → st.id.far = none → ∃ more,
        (t.stream st.id).retry = (st.retry.map fun p => { p with edition := e }) ++ more

/-- PacketsAreDeliveredInOrder and DeadLinksTurnEditions, together. -/
def Obligations.PacketsAndDeadLinks : Prop := Clause.PacketsAreDeliveredInOrder ∧ Clause.DeadLinksTurnEditions

/-- R426, R433 to R436: the oldest frame received is dropped for a bad check sum, ignored as PAUSE, dropped and counted for another EtherType,
for a source or port that the device map does not give, or for headers that are not a fabric frame's to this module, or for an old system
edition, kept for the turn when it bears the next one, and dropped when it has no packet or more flits than a frame of 9,216 bytes holds. Else
its message, or its access to a home in the cluster that the packet names, enters the mesh as one of its device's tenant and world, and is
kept at the port until its endpoint acknowledges it; one that is on its way already is not sent twice, and one that its endpoint has taken is
acknowledged again by a frame. A port that fails is left out of the system chart when the system edition turns, and the unacknowledged packets
to other devices then go out again. Frames are structured data, and which count a frame goes to is the model's choice (log 52). -/
def Obligations.FramesEnterAndLeave : Prop :=
  (∀ (s : State) (f : Frame) (rest : List Frame), s.ethIn = f :: rest →
    let drops := fun (n : Option Nat) => ∃ t, exec .ethernetFrameRx s = .next t ∧ t.ethIn = rest ∧ t.items = s.items ∧
      t.ethEarly = s.ethEarly ∧
      ∀ k, look t.fwCounts k 0 = look s.fwCounts k 0 + if n = some k then 1 else 0
    let known := fun (e : DevEntry) => find s.devMap f.src = some e ∧ e.mac = f.srcMac ∧ f.port ∈ e.ports
    let right := f.goodFcs = true ∧ f.etherType = 0x8A7E ∧ f.dst = s.devNo ∧ f.version = 1 ∧ f.flags = 0 ∧ f.zero = 0 ∧
      f.count = f.packets.length ∧ f.dstMac = look (s.devMap.map fun x => (x.1, x.2.mac)) s.devNo 0
    (f.goodFcs = false ∨ f.etherType = 0x8808 → drops none) ∧
    (f.goodFcs = true → f.etherType ≠ 0x8808 → f.etherType ≠ 0x8A7E → drops (some 0)) ∧
    (f.goodFcs = true → f.etherType = 0x8A7E → ¬ (right ∧ ∃ e, known e) → drops (some 1)) ∧
    ∀ e, right → known e →
      (f.edition ≠ s.sysEdition → f.edition ≠ (s.sysEdition + 1) % 256 → drops (some 2)) ∧
      (f.edition = (s.sysEdition + 1) % 256 → ∃ t, exec .ethernetFrameRx s = .next t ∧ t.ethIn = rest ∧ t.items = s.items ∧
        t.ethEarly = s.ethEarly ++ [f]) ∧
      (f.edition = s.sysEdition → s.sysEdition < 256 → f.packets = [] ∨ (∃ p ∈ f.packets, 143 < p.1.len) → drops none) ∧
      ∀ p x, f.edition = s.sysEdition → s.sysEdition < 256 → f.packets = [(p, x)] → p.len ≤ 143 →
        let key : Stream := { scl := p.scl, sep := p.sep, dcl := p.dcl, dep := p.dep, cls := p.cls, far := some f.src }
        let gap := (p.seq + 65536 - (s.stream key).expect % 65536) % 65536
        let again := ∃ y ∈ s.farIn, y.2.stream = key ∧ y.2.seq = p.seq
        (∀ m, x = .msg m → gap < 32768 → ¬ again → ∃ t, exec .ethernetFrameRx s = .next t ∧ t.ethIn = rest ∧
          OnItsWay t (.msg { m with srcDev := f.src, world := e.world, tenant := some e.tenant, dstDev := s.devNo, report := false }) ∧
          ∃ y ∈ t.farIn, y.1 = portCluster f.port ∧ y.2.stream = key ∧ y.2.seq = p.seq) ∧
        (∀ a, x = .acc a → a.homeCore / 16 = p.dcl → gap < 32768 → ¬ again → ∃ t b, exec .ethernetFrameRx s = .next t ∧ t.ethIn = rest ∧
          OnItsWay t (.acc b) ∧ b.agent = .device f.src s.nextId f.port p.scl p.sep ∧ b.world = e.world ∧ b.tenant = some e.tenant ∧
          b.op = a.op ∧ b.pa = a.pa ∧ b.homeCore = a.homeCore) ∧
        (∀ m, x = .msg m → gap < 32768 → again → drops none) ∧
        (∀ m, x = .msg m → 32768 ≤ gap → ∃ t, exec .ethernetFrameRx s = .next t ∧ t.ethIn = rest ∧ t.items = s.items ∧
          ((∃ port ∈ look s.sysChart f.src [], port ∉ s.portsDown ∧ (f.src, port) ∉ s.pathsDown) →
            ∃ g ∈ t.ethOut, g.dst = f.src ∧ ∃ q, g.packets = [(q, .farAck p.scl p.sep p.dcl p.dep p.cls p.seq)]))) ∧
  (∀ (s : State), let port := s.subj.unit
    ∃ t n, exec .portFailure s = .next t ∧ t.fwNotes = s.fwNotes ++ [n] ∧ (∃ e ∈ t.events, e.row = .systemEditionTurn) ∧
      (s.subj.sub ≠ 1 → port ∈ t.portsDown) ∧ (s.subj.sub = 1 → (s.subj.item, port) ∈ t.pathsDown)) ∧
  ∀ (s : State), let e := (s.sysEdition + 1) % 256
    ∃ t, exec .systemEditionTurn s = .next t ∧ t.sysEdition = e ∧ t.ethEarly = [] ∧ t.ethIn = s.ethEarly ++ s.ethIn ∧
      (∀ key, key.far ≠ none → t.stream key = s.stream key) ∧ (∀ key, ∃ more, (t.stream key).retry = (s.stream key).retry ++ more) ∧
      (∀ dev p, p ∈ look t.sysChart dev [] ↔ p ∈ look s.sysChart dev [] ∧ p ∉ s.portsDown ∧ (dev, p) ∉ s.pathsDown) ∧
      ∀ st ∈ s.streams, ∀ p ∈ st.retry, st.id.far ≠ none → ∀ x port, find s.items p.content = some x → port ∈ look t.sysChart p.ddev [] →
        ∃ f ∈ t.ethOut, f.edition = e ∧ f.src = s.devNo ∧ f.dst = p.ddev ∧ f.packets = [({ p with edition := e }, x)]

/-! ### The platform and its firmware (01_device, 23_retire) -/

/-- R14, R15, R19, R20, R445, R446: the reset input puts every unit at its reset and leaves flash as it is; every island is down. A stage of
the boot whose signature holds extends M by its digest; one whose signature fails halts the stack's cores; after the last stage every island
of the stack is to be brought up. That brings a cluster up at its reset values, with WORLD, TENANT and KEEPER, ERRLOG of its cores, and the
device number, as planned, at a frequency of 400 to 1000 MHz, or at the one clock of its quad while the outer table is not the identity or a
swap that leaves another is pending; else recorded requests of its quad take effect. Nothing happens where the stack has not booted or the
island is up. That the one clock is set at the bring-up, and that the frequency asked for an island that is down counts among the four, is
the model's choice (log 78). The plan is an input, and what the reset input leaves is the model's choice (log 54, 55). -/
def Obligations.ResetBootAndBringUp : Prop :=
  (∀ (s : State), ∃ t, exec .resetInput s = .next t ∧ t.cores = State.reset.cores ∧ t.clusters = State.reset.clusters ∧
    t.columns = State.reset.columns ∧ t.quads = State.reset.quads ∧ t.routers = State.reset.routers ∧ t.groups = State.reset.groups ∧
    t.events = State.reset.events ∧ t.agenda = State.reset.agenda ∧ t.items = [] ∧ t.flash = s.flash ∧
    ∀ cl, (t.cluster cl).up = false) ∧
  (∀ (s : State), let st := s.subj.unit
    let k := s.stack st
    k.halted = false → k.booted = false →
    (∀ bs sig, s.flash[k.stage]? = some (bs, sig) →
      (Config.sigOk (sha512 bs) sig = true → ∃ t, exec .bootStage s = .next t ∧ (t.stack st).m = sha512 (k.m ++ sha512 bs) ∧
        (t.stack st).stage = k.stage + 1 ∧ ∃ e ∈ t.events, e.row = .bootStage ∧ e.subj = { unit := st }) ∧
      (Config.sigOk (sha512 bs) sig = false → ∃ t, exec .bootStage s = .next t ∧ (t.stack st).halted = true ∧ (t.stack st).m = k.m ∧
        t.events = s.events)) ∧
    (s.flash[k.stage]? = none → k.stage ≠ 0 → ∃ t, exec .bootStage s = .next t ∧ (t.stack st).booted = true ∧ (t.stack st).m = k.m ∧
      ∀ j, j < 64 → ∃ e ∈ t.events, e.row = .islandBringUp ∧ e.subj = { unit := 64 * st + j })) ∧
  ∀ (s : State), let cl := s.subj.unit
    let p := look s.plan cl {}
    ((s.stack (cl / 64)).booted = false ∨ (s.cluster cl).up = true → exec .islandBringUp s = .next s) ∧
    ((s.stack (cl / 64)).booted = true → (s.cluster cl).up = false →
      let mhz := max 400 (min 1000 p.mhz)
      let new := { Cluster.reset cl with up := true, mhz := mhz, world := p.world
                                         tenant := (match p.tenant with
                                           | some x => BitVec.ofNat 64 (16 + x % 16)
                                           | none => 0)
                                         keeper := if p.keeper / 16 = cl then p.keeper else 16 * cl }
      let oneClock := (s.quad (cl / 4)).outer ≠ [0xE4] ∨ (cl % 4 ≠ 0 ∧ OuterSwapPending s (cl / 4))
      let asked := fun (j : Nat) => j / 4 = cl / 4 ∧ j ≠ cl ∧ (s.cluster j).mhzReq ≠ none
      ∃ t, exec .islandBringUp s = .next t ∧ t.devNo = (if s.planDev < 0xFFFE then s.planDev else s.devNo) ∧
        (¬ oneClock → t.cluster cl = new ∧ (∀ k, k / 4 ≠ cl / 4 → t.cluster k = s.cluster k) ∧
          ((∀ k, ¬ asked k) → ∀ k, k ≠ cl → t.cluster k = s.cluster k) ∧
          ((∃ k, asked k) → ∀ k, k / 4 = cl / 4 → k ≠ cl → t.cluster k =
            { s.cluster k with mhz := (s.cluster k).mhzReq.getD (s.cluster k).mhz, mhzReq := none, stopped := 0 })) ∧
        (oneClock →
          (∃ f st ph, t.cluster cl = { new with mhz := f, mhzReq := some mhz, stopped := st, phase := ph } ∧
            ∀ j, j / 4 = cl / 4 → (t.cluster j).mhz = f ∧ f ≤ (t.cluster j).mhzReq.getD 0) ∧
          ∀ k, k / 4 ≠ cl / 4 → t.cluster k = s.cluster k) ∧
        ∀ j, j < 16 → let c := 16 * cl + j
          (t.core c).errlog = look p.errlog j 0 &&& 0xFFFFFFFFFFFFE004 ∧
            (t.core c).ptbase = look p.ptbase j 0 &&& 0xC00007FFFFFFF800 ∧ (t.core c).rf = [] ∧
            (t.core c).rfErr = [] ∧ (t.core c).slots = [] ∧
            (t.core c).deque = [] ∧ (t.core c).tagdone = ({} : Core).tagdone ∧ (t.core c).pre = .running)

/-- R15, R127, R336, R440, R449, R451: a frequency asked for takes effect, or is recorded while the quad runs on one clock. The firmware
lowers an island at its next rotation boundary, to no less than 400 MHz, is told, and reports it to the tenant's supervisor (log 80). A
quiescent island is powered down, another not. KEEPER changes to a core of the cluster only. WORLD and TENANT change only in a quiescent
cluster, whose cores leave the groups of other tenants (R127); that nothing changes while one of these is in use is the model's choice (log
94). How the firmware is told is the model's choice (log 56, 57). -/
def Obligations.IslandsChange : Prop :=
  ∀ (s : State), let cl := s.subj.unit
    let k := s.cluster cl
    let v := s.subj.val.toNat
    ((s.quad (cl / 4)).outer = [0xE4] → ¬ OuterSwapPending s (cl / 4) →
      ∃ t, exec .islandFrequencyChange s = .next t ∧ t.cluster cl = { k with mhz := v }) ∧
    ((s.quad (cl / 4)).outer ≠ [0xE4] ∨ OuterSwapPending s (cl / 4) → ∃ t, exec .islandFrequencyChange s = .next t ∧
      t.cluster cl = { k with mhzReq := some v }) ∧
    (400 ≤ v → v < k.mhzReq.getD k.mhz → ∃ t n, exec .powerLimitThrottle s = .next t ∧ t.fwNotes = s.fwNotes ++ [n] ∧
      (∀ tn far, s.tenantOf cl = some tn → s.firstCluster tn = some far → (s.core (16 * far)).errlog.getLsbD 2 = true →
        ∃ r : Msg, OnItsWay t (.msg r) ∧ r.remop = true ∧ r.dstCore = errRcore (s.core (16 * far)).errlog ∧
          r.channel = errRch (s.core (16 * far)).errlog) ∧
      ∃ e ∈ t.events, e.row = .islandFrequencyChange ∧ e.cl = some cl ∧ e.subj = { unit := cl, val := BitVec.ofNat 64 v } ∧
        e.due % 16 = 0 ∧ k.t < e.due ∧ e.due ≤ k.t + 16) ∧
    (v < 400 ∨ k.mhzReq.getD k.mhz ≤ v → exec .powerLimitThrottle s = .next s) ∧
    (k.up = true → s.quiescent [cl] = true → ∃ t, exec .islandPowerDown s = .next t ∧ (t.cluster cl).up = false ∧
      (t.cluster cl).lines = [] ∧ ∀ j, j ≠ cl → t.cluster j = s.cluster j) ∧
    (k.up = false ∨ s.quiescent [cl] = false → exec .islandPowerDown s = .next s) ∧
    (v / 16 = cl → ∃ t, exec .keeperChange s = .next t ∧ t.cluster cl = { k with keeper := v }) ∧
    (v / 16 ≠ cl → exec .keeperChange s = .next s) ∧
    (s.quiescent [cl] = false → exec .tenantAssignment s = .next s) ∧
    (s.quiescent [cl] = true → let new := if s.subj.sub = 1 then some (s.subj.item % 16) else none
      let stray := fun (p : Nat × Group) => some p.2.tenant ≠ new ∧ ∃ c ∈ p.2.members, c / 16 = cl
      ((∃ p ∈ s.groups, stray p ∧ s.groupUsed p.1 = true) → exec .tenantAssignment s = .next s) ∧
      ((∀ p ∈ s.groups, stray p → s.groupUsed p.1 = false) → ∃ t, exec .tenantAssignment s = .next t ∧
        (s.subj.sub = 1 → t.cluster cl =
          { k with tenant := BitVec.ofNat 64 (16 + s.subj.item % 16), world := s.subj.val.getLsbD 0 }) ∧
        (s.subj.sub ≠ 1 → t.cluster cl = { k with tenant := 0 }) ∧
        ((s.groups.map fun x => x.1).Pairwise (· < ·) → ∀ g e, find t.groups g = some e → ¬ stray (g, e))))

/-- R322, R415, R450, R451, R153: the firmware's answers. Code 1 answers the check code of the tenant's key. Code 2 sends PREEMPT or RESUME
to a core of the tenant that can obey, and answers when it has; else it is refused by state. Code 3 asks for a frequency of 400 to 1000 MHz
at the island's next rotation boundary. Code 4 retires a bank, unless it may not change. An operand outside the tenant or its limits is
answered 1. The check code is that of the model's HMAC (log 30). -/
def Obligations.FirmwareServesCores : Prop :=
  (∀ (s : State) (m : Msg) (tn : Nat), FwRequest s m tn →
    let w := fun (i : Nat) => (m.words.getD i 0).toNat
    let own := fun (cl : Nat) => cl < 256 ∧ s.tenantOf cl = some tn
    let c := w 1
    let k := s.core c
    let ownCore := c ≤ 4095 ∧ s.tenantOf (c / 16) = some tn
    let sends := fun (i : Instr) (x : Content) => ∃ t, exec i s = .next t ∧ OnItsWay t x ∧ tn ∈ t.fwBusy ∧
      OnItsWay t (.sendAns m.srcCore m.srcSlot .done) ∧
      ∃ e ∈ t.events, e.row = i ∧ e.subj.item = s.subj.item ∧ e.subj.sub = 1 ∧ s.now < e.due
    (w 1 ≤ 255 → own (w 2) → ∃ t, exec .fwMatrixCheckCode s = .next t ∧
      FwAnswers s t m tn 0 (mxCheckCode (look s.keys tn []) tn (w 1) (w 2))) ∧
    (255 < w 1 ∨ ¬ own (w 2) → FwDone .fwMatrixCheckCode s m tn 1) ∧
    (ownCore → w 2 = 0 →
      ((s.cluster (c / 16)).up = true → k.pre = .running → k.savebase.getLsbD 63 = true → k.spillbase.getLsbD 63 = true →
        sends .fwPreemptCore (.preempt c)) ∧
      (k.pre ≠ .running ∨ k.savebase.getLsbD 63 = false ∨ k.spillbase.getLsbD 63 = false → FwDone .fwPreemptCore s m tn 2)) ∧
    (ownCore → (k.pre = .preempted → sends .fwResumeCore (.resume c)) ∧ (k.pre ≠ .preempted → FwDone .fwResumeCore s m tn 2)) ∧
    (¬ ownCore → FwDone .fwPreemptCore s m tn 1 ∧ FwDone .fwResumeCore s m tn 1) ∧
    (own (w 1) → 400 ≤ w 2 → w 2 ≤ 1000 → ∃ t, exec .fwIslandFrequency s = .next t ∧ FwAnswers s t m tn 0 0 ∧
      ∃ e ∈ t.events, e.row = .islandFrequencyChange ∧ e.cl = some (w 1) ∧ e.subj = { unit := w 1, val := BitVec.ofNat 64 (w 2) } ∧
        e.due % 16 = 0 ∧ (s.cluster (w 1)).t < e.due ∧ e.due ≤ (s.cluster (w 1)).t + 16) ∧
    (¬ own (w 1) ∨ w 2 < 400 ∨ 1000 < w 2 → FwDone .fwIslandFrequency s m tn 1) ∧
    (¬ own (w 1) ∨ 31 < w 2 → FwDone .fwRetireBank s m tn 1) ∧
    (own (w 1) → w 2 ≤ 31 → let cl := s.cluster (w 1)
      let new := cl.bankrole ||| BitVec.ofNat 64 (3 * 4 ^ w 2)
      (roleOf cl.bankrole (w 2) = 3 → FwDone .fwRetireBank s m tn 0) ∧
      (roleOf cl.bankrole (w 2) ≠ 3 → cl.roleChange = none →
        ((∃ b, RoleIsKept cl new b) → FwDone .fwRetireBank s m tn 2) ∧
        ((∀ b, ¬ RoleIsKept cl new b) → ∃ t, exec .fwRetireBank s = .next t ∧ tn ∈ t.fwBusy ∧
          (t.cluster (w 1)).roleChange = some { writers := [], new := new, reqT := cl.t })))) ∧
  ∀ (s : State) (m : Msg) (tn : Nat), FwStage s m tn → let w := fun (i : Nat) => (m.words.getD i 0).toNat
    ((s.core (w 1)).pre = .preempted → ∃ t, exec .fwPreemptCore s = .next t ∧ FwAnswers s t m tn 0 0) ∧
    ((s.core (w 1)).pre = .running → ∃ t, exec .fwResumeCore s = .next t ∧ FwAnswers s t m tn 0 0) ∧
    (w 1 < 256 → s.tenantOf (w 1) = some tn → w 2 ≤ 31 → roleOf (s.cluster (w 1)).bankrole (w 2) = 3 →
      ∃ t, exec .fwRetireBank s = .next t ∧ FwAnswers s t m tn 0 0)

/-- R127, R128, R337, R447, R450: code 5 writes a group entry from a map of 512 bytes, its count set to 0, and the members' MEMB registers;
it is refused by state while the entry is in use or a core would be in five groups, and answered 1 for an entry, an address or a member
outside the tenant. Code 7 reads the nonce and writes the signed digest and the certificate, and answers their length; without access to its
buffers it is answered 1. The firmware's reads and writes and the layout of the quote are the model's (log 29, 60, 62). -/
def Obligations.FirmwareWritesGroupsAndQuotes : Prop :=
  ∀ (s : State) (m : Msg) (tn : Nat), FwRequest s m tn →
    let w := fun (i : Nat) => (m.words.getD i 0).toNat
    let u := s.fwTaken m tn
    let g := w 1
    let mine := ∀ e, find s.groups g = some e → e.tenant = tn
    (255 < g ∨ ¬ mine ∨ w 2 % 64 ≠ 0 ∨ u.fwRead m (w 2) 512 8 = none → FwDone .fwWriteGroup s m tn 1) ∧
    (∀ bs, g ≤ 255 → mine → w 2 % 64 = 0 → u.fwRead m (w 2) 512 8 = some bs →
      let ms := (List.range 4096).filter fun c => (bs.getD (c / 8) 0).getLsbD (c % 8)
      let others := fun (c : Nat) => (s.groups.filter fun x => decide (x.1 ≠ g) && x.2.members.contains c).length
      ((∃ c ∈ ms, s.tenantOf (c / 16) ≠ some tn) → FwDone .fwWriteGroup s m tn 1) ∧
      ((∀ c ∈ ms, s.tenantOf (c / 16) = some tn) → s.groupUsed g = true ∨ (∃ c ∈ ms, 4 ≤ others c) → FwDone .fwWriteGroup s m tn 2) ∧
      ((∀ c ∈ ms, s.tenantOf (c / 16) = some tn ∧ others c < 4) → s.groupUsed g = false → (s.groups.map fun x => x.1).Pairwise (· < ·) →
        ∃ t, exec .fwWriteGroup s = .next t ∧ FwAnswers s t m tn 0 0 ∧
          find t.groups g = (if ms = [] then none else some { tenant := tn, members := ms, seq := 0 }) ∧
          ∀ c ∈ ms, ∃ j, j < 4 ∧ look (t.core c).memb j 0 = BitVec.ofNat 64
            (2 ^ 32 + ms.length % 2 ^ 12 * 2 ^ 20 + (ms.filter fun x => decide (x < c)).length * 2 ^ 8 + g))) ∧
    (u.fwRead m (w 1) 64 2 = none → FwDone .fwAttestationQuote s m tn 1) ∧
    ∀ nonce, u.fwRead m (w 1) 64 2 = some nonce →
      let data := nonce ++ ((List.range 4).flatMap fun st => (s.stack st).m) ++ toBytes 8 1 ++ toBytes 2 s.devNo ++
        (List.range 256).flatMap fun cl => toBytes 1 (s.cluster cl).tenant.toNat
      let out := (Config.sign (sha512 data) ++ Config.certificate).take 4096
      (u.fwMayWrite m (w 2) 4096 65 = false → FwDone .fwAttestationQuote s m tn 1) ∧
      (u.fwMayWrite m (w 2) 4096 65 = true → ∃ t, exec .fwAttestationQuote s = .next t ∧ FwAnswers s t m tn 0 out.length ∧
        t.hbm = (u.fwWrite m (w 2) out 65).hbm ∧ t.lp = (u.fwWrite m (w 2) out 65).lp ∧
        t.clusters = (u.fwWrite m (w 2) out 65).clusters)

/-- R127, R440, R443, R444, R450: a checkpoint to a device that is not the tenant's is answered 1; with its cores pre-empted an image with
the request's identifier stands at its device, every line of the clusters is clean, and the cores run again unless END is set. A restore
without its image is answered 1, with another MATHREV, where another tenant's pages lie, where a group of it may not be written (R127), or
on other clusters while not quiescent, 2; a quiescent image restores roles, IDOMs and inner tables through the map where its clusters fit. A
reset of the tenant with its cores pre-empted empties them, zeroes its pages, makes its groups invalid and its matrix key new. The image is
structured data (log 59, 61). -/
def Obligations.FirmwareSavesAndResets : Prop :=
  (∀ (s : State) (m : Msg) (tn : Nat), FwRequest s m tn →
    let w := fun (i : Nat) => (m.words.getD i 0).toNat
    let storage := ∃ e, find s.devMap (w 1) = some e ∧ e.tenant = tn
    let image := s.images.find? fun x => decide (x.id = BitVec.ofNat 64 (w 3)) && decide (x.storage = w 1) && decide (x.tenant = tn)
    let later := fun (i : Instr) => ∃ t, exec i s = .next t ∧ tn ∈ t.fwBusy ∧
      ∃ e ∈ t.events, e.row = i ∧ e.subj.item = s.subj.item ∧ e.subj.sub ≠ 0
    (¬ storage ∨ 7 < w 2 → FwDone .fwCheckpoint s m tn 1) ∧ (storage → w 2 ≤ 7 → later .fwCheckpoint) ∧
    (image = none → FwDone .fwRestore s m tn 1) ∧
    (∀ img, image = some img → storage → w 2 ≤ 7 →
      (img.mathrev ≠ 1 → FwDone .fwRestore s m tn 2) ∧
      (img.mathrev = 1 → img.quiescent = false → (img.clusters.map fun x => x.cl) ≠ s.clustersOf tn → FwDone .fwRestore s m tn 2) ∧
      (s.pagesFit img tn = false ∨ s.groupsFit img tn = false → FwDone .fwRestore s m tn 2) ∧
      (img.mathrev = 1 → s.pagesFit img tn = true → s.groupsFit img tn = true → img.quiescent = false → img.stackCount = 4 →
        (img.clusters.map fun x => x.cl) = s.clustersOf tn → s.canPreempt tn = true → later .fwRestore) ∧
      (img.mathrev = 1 → s.pagesFit img tn = true → s.groupsFit img tn = true → img.quiescent = true →
        img.clusters.length ≤ (s.clustersOf tn).length → (img.clusters.map fun x => x.cl).Nodup →
        ∃ t, exec .fwRestore s = .next t ∧ FwAnswers s t m tn 0 0 ∧ ∀ x ∈ img.clusters, ∃ cl,
          mappedCluster img (s.clustersOf tn) x.cl = some cl ∧ (t.cluster cl).bankrole = x.bankrole ∧ (t.cluster cl).idom = x.idom ∧
            (t.cluster cl).inner = x.inner)) ∧
    (s.canPreempt tn = false → FwDone .fwTenantReset s m tn 2) ∧ (s.canPreempt tn = true → later .fwTenantReset)) ∧
  ∀ (s : State) (m : Msg) (tn : Nat), FwStage s m tn → AllPreempted s tn →
    let w := fun (i : Nat) => (m.words.getD i 0).toNat
    (∃ t img, exec .fwCheckpoint s = .next t ∧ FwAnswers s t m tn 0 0 ∧ img ∈ t.images ∧ img.id = BitVec.ofNat 64 (w 3) ∧
      img.storage = w 1 ∧ img.tenant = tn ∧ img.device = s.devNo ∧ img.mathrev = 1 ∧ img.quiescent = s.quiescent (s.clustersOf tn) ∧
      img.sig = Config.sign (sha512 img.bytes) ∧ (img.clusters.map fun x => x.cl) = s.clustersOf tn ∧
      (img.areas.map fun x => x.1) = (if img.quiescent = true then [] else s.coresOf tn) ∧
      (∀ cl ∈ s.clustersOf tn, ∀ x ∈ (t.cluster cl).lines, ∀ y ∈ x.2.sectors, y.dirty = false) ∧
      (w 2 / 2 % 2 = 0 → ∀ c ∈ s.coresOf tn, OnItsWay t (.resume c))) ∧
    (∀ img, (s.images.find? fun x => decide (x.id = BitVec.ofNat 64 (w 3)) && decide (x.storage = w 1) && decide (x.tenant = tn)) = some img →
      (s.groupsFit img tn = true → ∃ t, exec .fwRestore s = .next t ∧ FwAnswers s t m tn 0 0 ∧
        ∀ x ∈ img.areas, OnItsWay t (.resume x.1)) ∧
      (s.groupsFit img tn = false → ∃ t, exec .fwRestore s = .next t ∧ FwAnswers s t m tn 2 0 ∧
        ∀ c ∈ s.coresOf tn, OnItsWay t (.resume c))) ∧
    ∃ t n, exec .fwTenantReset s = .next t ∧ FwAnswers s t m tn 0 0 ∧ (∀ g e, find t.groups g = some e → e.tenant ≠ tn) ∧
      find t.keys tn = some (Config.newKey n) ∧
      (∀ c ∈ s.coresOf tn, (t.core c).rf = [] ∧ (t.core c).slots = [] ∧ (t.core c).deque = [] ∧ (t.core c).crowns = [] ∧
        (t.core c).pre = .running) ∧
      ∀ p ∈ s.tablesOf tn, p.leaf = true → ∀ x, p.place.2.1 ≤ x → x < p.place.2.1 + p.place.2.2 →
        (if p.place.1 = true then t.lp else t.hbm).read x = 0

/-! ### The machine as a whole -/

/-- R20, R181 (with R136, R148, R229, R239, R336, R403, R414), R138, R139, R428: after reset every island is unpowered, every core and
cluster CSR reads the value of R181's table or of the rule it names, the default rose tables stand in both places, and every router holds
edition 0 and the default chart. -/
def Obligations.ResetValues : Prop :=
  let s := State.reset
  (∀ cl, (s.cluster cl).up = false ∧
    (s.cluster cl).inner = (List.range 32).map (fun r => (List.range 32).map fun i => (i + r) % 32) ∧
    (s.cluster cl).innerShadow = (s.cluster cl).inner) ∧
  (∀ c sl n v, (n, v) ∈ resetCsrs c → s.readCsr c sl n = BitVec.ofNat 64 v) ∧
  (∀ q, (s.quad q).outer = [0xE4] ∧ shadowOuter (s.quad q) = [0xE4]) ∧
  ∀ r d, (s.router r).edition = 0 ∧ (s.chartOf r d).allowed = 15 ∧ (s.chartOf r d).unreachable = false ∧
    (meshX r < meshX d → (s.chartOf r d).esc = 0) ∧ (meshX d < meshX r → (s.chartOf r d).esc = 1) ∧
    (meshX r = meshX d → meshY r < meshY d → (s.chartOf r d).esc = 2) ∧ (meshX r = meshX d → meshY d < meshY r → (s.chartOf r d).esc = 3)

/-- R162, R43, R44, R160: at its turn, a running slot whose core issues, whose thread is not held and has its line, and which is no twin,
runs the instruction that the head at its PC decodes to, and that is exec of it with the slot selected; a malformed line, illegal words or a
faulted fetch run the row that traps. A wait that ends on a later turn passes that turn on to the next instruction (R257 and others; which
instructions those are is the model's reading, log 10). A slot that may not issue passes its turn. Two things here are the model's: that a
turn with a LOCAL load goes behind all other moves of its cycle (log 7; R203 orders only accesses that meet at one block), and that an
event's row is executed as it stands with the subject of its move (log 9). -/
def Obligations.StepRunsTheDecodedInstruction : Prop :=
  (∀ (s : State) (c sl : Nat) (rest : List Move), s.agenda = .turn c sl :: rest → s.localLoad c sl = true →
    step s = .next { s with agenda := rest ++ [.issue c sl] }) ∧
  (∀ (s : State) (c sl : Nat) (rest : List Move),
    s.agenda = .issue c sl :: rest ∨ (s.agenda = .turn c sl :: rest ∧ s.localLoad c sl = false) →
    let th := s.thread c sl
    let u := { s with agenda := rest, curCore := c, curSlot := sl, curr := true }
    let runs := fun (i : Instr) => ∀ t, exec i u = .next t →
      let handsOn := th.hold = .again ∧ waitType i = true ∧ (t.thread c sl).hold = .ready ∧ (t.thread c sl).entering = false ∧
        (t.slot c sl).st = .run
      (handsOn → step s = .next { t with curr := false, agenda := .turn c sl :: t.agenda }) ∧
      (¬ handsOn → step s = .next { t with curr := false })
    ((s.slot c sl).st = .run → (s.core c).pre = .running ∨ (s.core c).pre = .stopping →
      (th.hold = .ready ∧ ((s.column (c / 2)).twinctl.getLsbD sl = false ∨ 15 ≤ sl)) ∨ th.hold = .again → th.issueAt ≤ s.cyc c →
      (∀ k, th.lineFault = some k → runs .illegalEncoding) ∧
      (th.lineFault = none → th.line ≠ none →
        (∀ i, decodeAt th.lineCopy (th.pc.toNat % 64 / 2) = .op i → runs i) ∧
        (decodeAt th.lineCopy (th.pc.toNat % 64 / 2) = .illine ∨ decodeAt th.lineCopy (th.pc.toNat % 64 / 2) = .illegal →
          runs .illegalEncoding))) ∧
    ((s.slot c sl).st ≠ .run ∨ (th.hold = .ready ∧ s.cyc c < th.issueAt) → step s = .next { s with agenda := rest })) ∧
  ∀ (s : State) (i : Instr) (x : Subject) (rest : List Move), s.agenda = .dev i x :: rest →
    step s = exec i { s with agenda := rest, subj := x, curr := false }

/-- No step ends a run: an instruction's turn always answers a next state, and so does every event's row; ILLEGAL_ENCODING is the turn's.
So every step answers a next state where no move of the agenda is an instruction's row without a turn. -/
def Obligations.EveryStepAnswers : Prop :=
  (∀ (i : Instr) (s : State), s.curr = true → encode i ≠ none ∨ i = .illegalEncoding → ∃ t, exec i s = .next t) ∧
  (∀ (i : Instr) (s : State), encode i = none → i ≠ .illegalEncoding → ∃ t, exec i s = .next t) ∧
  ∀ (s : State), (∀ i x, .dev i x ∈ s.agenda → encode i = none ∧ i ≠ .illegalEncoding) → ∃ t, step s = .next t

/-- R22 to R44: the line worked in 02_lines decodes head by head, and words worked in the spec's chapters decode to the instructions they
stand for; a malformed line is ILLINE, a reserved major, a q bit where none is allowed and a nonzero field that must be zero are ILLEGAL. -/
def Obligations.WordsDecode : Prop :=
  let line : List HWord := [0x2000, 0x1E0A, 0x1E0A, 0x0602, 0xB802] ++ List.replicate 21 0 ++ [0x0002, 0x0A00, 0xFFFF, 0x0BFF, 0x0003, 0x0000]
  decodeAt line 1 = .op (.addi 5 0 3) ∧ decodeAt line 2 = .op (.addi 5 5 (-1)) ∧ decodeAt line 3 = .op (.brNez 5 0 2) ∧
  decodeAt line 4 = .op .sysqExit ∧ decodeAt line 5 = .illine ∧ decodeAt (line.set 5 1) 1 = .illine ∧
  decodeTableWord 48 0x142C609E7600 = some (.spawn none 10 11 12 2 (some 3) 1) ∧
  decodeTableWord 48 0x0A1800111A0E = some (.aluDiv 7 5 6) ∧ decodeTableWord 48 0x0A00420B2E08 = some (.bitExt 4 5 8 12 true) ∧
  decodeTableWord 48 0x0C1C00785A0A = some (.amoAdd 5 6 7 true .acqrel .device false) ∧
  decodeTableWord 64 0x0814307000006713 = some (.cpq (some 9) 4 5 6 7) ∧ decodeTableWord 48 0x000037096A00 = some (.barSync (.reg 6) 9) ∧
  decodeTableWord 48 0x060000009E04 = some (.vmathExp 2 3 false 0) ∧
    decodeTableWord 64 0x1A2009020600C300 = some (.mxMmas none 13 8 1 16 (some 1)) ∧
  decodeTableWord 48 0x08140007C606 = some (.skMul 3 4 5 7) ∧
  decode 0x0000 0 = none ∧ decode 0xB803 0 = none ∧ decode 0x1A0E 0x0A180800 = none

/-- R23, R31 to R44: the words of a well-formed instruction decode to it, alone and as a line, with every operand at every value that the
encoding admits; and words that decode are those of a well-formed instruction, so each has one meaning. -/
def Obligations.DecodeEncodeAgree : Prop :=
  (∀ (i : Instr) (h t : Nat), i.wf = true → encode i = some (h, t) → h < 2 ^ 16 ∧ t < 2 ^ (16 * (h / 2 ^ 8 % 4)) ∧ decode h t = some i ∧
    decodeTableWord (16 + 16 * (h / 2 ^ 8 % 4)) (h + 2 ^ 16 * t) = some i) ∧
  ∀ (i : Instr) (h t : Nat), h < 2 ^ 16 → t < 2 ^ (16 * (h / 2 ^ 8 % 4)) → decode h t = some i → i.wf = true ∧ encode i = some (h, t)

/-- R57, R25, R26: every line into which instructions are packed has 32 halfwords and is well formed, and the heads of the lines, taken
in order, decode to the instructions, none lost and none added. -/
def Obligations.PackedLinesDecode : Prop :=
  ∀ (is : List Instr) (ls : List (List HWord)), packLines is = some ls →
    (∀ l ∈ ls, l.length = 32 ∧ lineOk l = true ∧ lineN l ≤ 31) ∧
    (ls.flatMap fun l => (List.range (lineN l)).map fun k => decodeAt l (k + 1)) = is.map Fetch.op

/-- Every step keeps the memories in their canonical form, so that equal memories are equal data. -/
def Obligations.StepsKeepMemoryCanonical : Prop :=
  ∀ (s t : State), MemoriesAreCanonical s → step s = .next t → MemoriesAreCanonical t

/-- R13, R133: the memories after reset are in canonical form and list nothing; in a byte memory a write is read back at its own
address and changes no other, whatever stood there. That an unwritten byte reads 0 is the model's choice (log 1), as is the form of the
lists (log 28). -/
def Obligations.MemoriesReadAndWrite : Prop :=
  MemoriesAreCanonical State.reset ∧
  State.reset.bankMem = [] ∧ State.reset.colMem = [] ∧ State.reset.hbm = [] ∧ State.reset.lp = [] ∧
  ∀ (m : Memory) (a : Nat) (bs : List Byte),
    (∀ j, j < bs.length → (Memory.writeN m a bs).read (a + j) = bs.getD j 0) ∧
    (∀ x, x < a ∨ a + bs.length ≤ x → (Memory.writeN m a bs).read x = m.read x) ∧
    (m.wf = true → (Memory.writeN m a bs).wf = true)
end

