-- ==== Sys2Proof/Laws/Dispatch.lean ====
section
/-!
SUPPORT. Each arm of exec as an equation, so that a proof about an instruction names its meaning and never unfolds the dispatch.
-/
namespace Sys2Proof.Machine

open Sys2Proof

theorem exec_brEqz (a : Nat) (delta : Int) (index : Nat) (s : State) : exec (.brEqz a delta index) s = execBrEqz a delta index s := rfl
theorem exec_brNez (a : Nat) (delta : Int) (index : Nat) (s : State) : exec (.brNez a delta index) s = execBrNez a delta index s := rfl
theorem exec_brLtz (a : Nat) (delta : Int) (index : Nat) (s : State) : exec (.brLtz a delta index) s = execBrLtz a delta index s := rfl
theorem exec_brGez (a : Nat) (delta : Int) (index : Nat) (s : State) : exec (.brGez a delta index) s = execBrGez a delta index s := rfl
theorem exec_brGtz (a : Nat) (delta : Int) (index : Nat) (s : State) : exec (.brGtz a delta index) s = execBrGtz a delta index s := rfl
theorem exec_brLez (a : Nat) (delta : Int) (index : Nat) (s : State) : exec (.brLez a delta index) s = execBrLez a delta index s := rfl
theorem exec_jmp (d : Nat) (delta : Int) (index : Nat) (s : State) : exec (.jmp d delta index) s = execJmp d delta index s := rfl
theorem exec_jr (d a : Nat) (s : State) : exec (.jr d a) s = execJr d a s := rfl
theorem exec_csrRead (d csr : Nat) (s : State) : exec (.csrRead d csr) s = execCsrRead d csr s := rfl
theorem exec_csrWrite (d a csr : Nat) (s : State) : exec (.csrWrite d a csr) s = execCsrWrite d a csr s := rfl
theorem exec_csrSet (d a csr : Nat) (s : State) : exec (.csrSet d a csr) s = execCsrSet d a csr s := rfl
theorem exec_csrClear (d a csr : Nat) (s : State) : exec (.csrClear d a csr) s = execCsrClear d a csr s := rfl
theorem exec_sysTrap (code : Nat) (s : State) : exec (.sysTrap code) s = execSysTrap code s := rfl
theorem exec_sysSvc (code : Nat) (s : State) : exec (.sysSvc code) s = execSysSvc code s := rfl
theorem exec_sysIdle (s : State) : exec .sysIdle s = execSysIdle s := rfl
theorem exec_sysTlbinv (a : Nat) (scope : Scope) (s : State) : exec (.sysTlbinv a scope) s = execSysTlbinv a scope s := rfl
theorem exec_sysSavectx (a b : Nat) (s : State) : exec (.sysSavectx a b) s = execSysSavectx a b s := rfl
theorem exec_sysLoadctx (a b : Nat) (s : State) : exec (.sysLoadctx a b) s = execSysLoadctx a b s := rfl
theorem exec_sysScrub (a : Nat) (s : State) : exec (.sysScrub a) s = execSysScrub a s := rfl
theorem exec_sysqNop (s : State) : exec .sysqNop s = execSysqNop s := rfl
theorem exec_sysqExit (s : State) : exec .sysqExit s = execSysqExit s := rfl
theorem exec_sysqEret (s : State) : exec .sysqEret s = execSysqEret s := rfl
theorem exec_aluAdd (d a b : Nat) (s : State) : exec (.aluAdd d a b) s = execAluAdd d a b s := rfl
theorem exec_aluSub (d a b : Nat) (s : State) : exec (.aluSub d a b) s = execAluSub d a b s := rfl
theorem exec_aluAnd (d a b : Nat) (s : State) : exec (.aluAnd d a b) s = execAluAnd d a b s := rfl
theorem exec_aluOr (d a b : Nat) (s : State) : exec (.aluOr d a b) s = execAluOr d a b s := rfl
theorem exec_aluXor (d a b : Nat) (s : State) : exec (.aluXor d a b) s = execAluXor d a b s := rfl
theorem exec_aluAndn (d a b : Nat) (s : State) : exec (.aluAndn d a b) s = execAluAndn d a b s := rfl
theorem exec_aluShl (d a b : Nat) (s : State) : exec (.aluShl d a b) s = execAluShl d a b s := rfl
theorem exec_aluShr (d a b : Nat) (s : State) : exec (.aluShr d a b) s = execAluShr d a b s := rfl
theorem exec_aluSar (d a b : Nat) (s : State) : exec (.aluSar d a b) s = execAluSar d a b s := rfl
theorem exec_aluRol (d a b : Nat) (s : State) : exec (.aluRol d a b) s = execAluRol d a b s := rfl
theorem exec_aluMin (d a b : Nat) (s : State) : exec (.aluMin d a b) s = execAluMin d a b s := rfl
theorem exec_aluMax (d a b : Nat) (s : State) : exec (.aluMax d a b) s = execAluMax d a b s := rfl
theorem exec_aluMinn (d a b : Nat) (s : State) : exec (.aluMinn d a b) s = execAluMinn d a b s := rfl
theorem exec_aluMaxn (d a b : Nat) (s : State) : exec (.aluMaxn d a b) s = execAluMaxn d a b s := rfl
theorem exec_aluMul (d a b : Nat) (s : State) : exec (.aluMul d a b) s = execAluMul d a b s := rfl
theorem exec_aluMulh (d a b : Nat) (s : State) : exec (.aluMulh d a b) s = execAluMulh d a b s := rfl
theorem exec_aluMulhn (d a b : Nat) (s : State) : exec (.aluMulhn d a b) s = execAluMulhn d a b s := rfl
theorem exec_aluDiv (d a b : Nat) (s : State) : exec (.aluDiv d a b) s = execAluDiv d a b s := rfl
theorem exec_aluDivn (d a b : Nat) (s : State) : exec (.aluDivn d a b) s = execAluDivn d a b s := rfl
theorem exec_aluRem (d a b : Nat) (s : State) : exec (.aluRem d a b) s = execAluRem d a b s := rfl
theorem exec_aluRemn (d a b : Nat) (s : State) : exec (.aluRemn d a b) s = execAluRemn d a b s := rfl
theorem exec_aluClz (d a : Nat) (s : State) : exec (.aluClz d a) s = execAluClz d a s := rfl
theorem exec_aluCtz (d a : Nat) (s : State) : exec (.aluCtz d a) s = execAluCtz d a s := rfl
theorem exec_aluPopc (d a : Nat) (s : State) : exec (.aluPopc d a) s = execAluPopc d a s := rfl
theorem exec_aluBrev (d a : Nat) (s : State) : exec (.aluBrev d a) s = execAluBrev d a s := rfl
theorem exec_aluBswap (d a : Nat) (s : State) : exec (.aluBswap d a) s = execAluBswap d a s := rfl
theorem exec_aluSel (d a b c : Nat) (s : State) : exec (.aluSel d a b c) s = execAluSel d a b c s := rfl
theorem exec_aluAddw (d a b : Nat) (s : State) : exec (.aluAddw d a b) s = execAluAddw d a b s := rfl
theorem exec_aluSubw (d a b : Nat) (s : State) : exec (.aluSubw d a b) s = execAluSubw d a b s := rfl
theorem exec_aluMulw (d a b : Nat) (s : State) : exec (.aluMulw d a b) s = execAluMulw d a b s := rfl
theorem exec_aluqAdd (d a b : Nat) (s : State) : exec (.aluqAdd d a b) s = execAluqAdd d a b s := rfl
theorem exec_aluqSub (d a b : Nat) (s : State) : exec (.aluqSub d a b) s = execAluqSub d a b s := rfl
theorem exec_aluqAnd (d a b : Nat) (s : State) : exec (.aluqAnd d a b) s = execAluqAnd d a b s := rfl
theorem exec_aluqOr (d a b : Nat) (s : State) : exec (.aluqOr d a b) s = execAluqOr d a b s := rfl
theorem exec_addi (d a : Nat) (k : Int) (s : State) : exec (.addi d a k) s = execAddi d a k s := rfl
theorem exec_liS32 (d k : Nat) (s : State) : exec (.liS32 d k) s = execLiS32 d k s := rfl
theorem exec_liHi (d a k : Nat) (s : State) : exec (.liHi d a k) s = execLiHi d a k s := rfl
theorem exec_liZ32 (d k : Nat) (s : State) : exec (.liZ32 d k) s = execLiZ32 d k s := rfl
theorem exec_logiAnd (d a k : Nat) (s : State) : exec (.logiAnd d a k) s = execLogiAnd d a k s := rfl
theorem exec_logiOr (d a k : Nat) (s : State) : exec (.logiOr d a k) s = execLogiOr d a k s := rfl
theorem exec_logiXor (d a k : Nat) (s : State) : exec (.logiXor d a k) s = execLogiXor d a k s := rfl
theorem exec_logiSh (d a : Nat) (kind : ShKind) (n : Nat) (s : State) : exec (.logiSh d a kind n) s = execLogiSh d a kind n s := rfl
theorem exec_cmpEq (d a b : Nat) (s : State) : exec (.cmpEq d a b) s = execCmpEq d a b s := rfl
theorem exec_cmpNe (d a b : Nat) (s : State) : exec (.cmpNe d a b) s = execCmpNe d a b s := rfl
theorem exec_cmpLt (d a b : Nat) (s : State) : exec (.cmpLt d a b) s = execCmpLt d a b s := rfl
theorem exec_cmpGe (d a b : Nat) (s : State) : exec (.cmpGe d a b) s = execCmpGe d a b s := rfl
theorem exec_cmpLtn (d a b : Nat) (s : State) : exec (.cmpLtn d a b) s = execCmpLtn d a b s := rfl
theorem exec_cmpGen (d a b : Nat) (s : State) : exec (.cmpGen d a b) s = execCmpGen d a b s := rfl
theorem exec_bitExt (d a pos len : Nat) (sx : Bool) (s : State) : exec (.bitExt d a pos len sx) s = execBitExt d a pos len sx s := rfl
theorem exec_bitIns (d a b pos len : Nat) (s : State) : exec (.bitIns d a b pos len) s = execBitIns d a b pos len s := rfl
theorem exec_agen (d a b : Nat) (disp : Int) (sh : Nat) (s : State) : exec (.agen d a b disp sh) s = execAgen d a b disp sh s := rfl
theorem exec_sendTask (busy : Option Nat) (a b count : Nat) (s : State) : exec (.sendTask busy a b count) s = execSendTask busy a b count s := rfl
theorem exec_sendRemop (busy : Option Nat) (a b count : Nat) (s : State) : exec (.sendRemop busy a b count) s = execSendRemop busy a b count s := rfl
theorem exec_chanBlock (a : Nat) (s : State) : exec (.chanBlock a) s = execChanBlock a s := rfl
theorem exec_chanUnblock (a : Nat) (s : State) : exec (.chanUnblock a) s = execChanUnblock a s := rfl
theorem exec_chanQuery (d a : Nat) (s : State) : exec (.chanQuery d a) s = execChanQuery d a s := rfl
theorem exec_chanTtset (a b : Nat) (s : State) : exec (.chanTtset a b) s = execChanTtset a b s := rfl
theorem exec_spawn (busy : Option Nat) (a b c pri : Nat) (park : Option Nat) (lim : Nat) (s : State) : exec (.spawn busy a b c pri park lim) s = execSpawn busy a b c pri park lim s := rfl
theorem exec_freeze (d a b : Nat) (s : State) : exec (.freeze d a b) s = execFreeze d a b s := rfl
theorem exec_joinWait (d a : Nat) (s : State) : exec (.joinWait d a) s = execJoinWait d a s := rfl
theorem exec_joinTest (d a : Nat) (s : State) : exec (.joinTest d a) s = execJoinTest d a s := rfl
theorem exec_migrGoto (a : Nat) (s : State) : exec (.migrGoto a) s = execMigrGoto a s := rfl
theorem exec_migrHome (d : Nat) (s : State) : exec (.migrHome d) s = execMigrHome d s := rfl
theorem exec_ld (d a b : Nat) (acq : Bool) (w : Width) (mode : Mode) (off : Int) (s : State) : exec (.ld d a b acq w mode off) s = execLd d a b acq w mode off s := rfl
theorem exec_ldLast (d h b : Nat) (acq : Bool) (w : Width) (off : Int) (s : State) : exec (.ldLast d h b acq w off) s = execLdLast d h b acq w off s := rfl
theorem exec_st (d a b : Nat) (rel : Bool) (w : Width) (mode : Mode) (off : Int) (s : State) : exec (.st d a b rel w mode off) s = execSt d a b rel w mode off s := rfl
theorem exec_ldm (d a count : Nat) (mode : Mode) (off : Int) (s : State) : exec (.ldm d a count mode off) s = execLdm d a count mode off s := rfl
theorem exec_stm (d a count : Nat) (mode : Mode) (off : Int) (s : State) : exec (.stm d a count mode off) s = execStm d a count mode off s := rfl
theorem exec_sld (d a : Nat) (space : Space) (acq : Bool) (off : Int) (count : Nat) (s : State) : exec (.sld d a space acq off count) s = execSld d a space acq off count s := rfl
theorem exec_sst (d a : Nat) (space : Space) (rel : Bool) (off : Int) (count : Nat) (s : State) : exec (.sst d a space rel off count) s = execSst d a space rel off count s := rfl
theorem exec_amoAdd (d a b : Nat) (w64 : Bool) (order : Order) (scope : Scope) (spread : Bool) (s : State) : exec (.amoAdd d a b w64 order scope spread) s = execAmoAdd d a b w64 order scope spread s := rfl
theorem exec_amoAnd (d a b : Nat) (w64 : Bool) (order : Order) (scope : Scope) (spread : Bool) (s : State) : exec (.amoAnd d a b w64 order scope spread) s = execAmoAnd d a b w64 order scope spread s := rfl
theorem exec_amoOr (d a b : Nat) (w64 : Bool) (order : Order) (scope : Scope) (spread : Bool) (s : State) : exec (.amoOr d a b w64 order scope spread) s = execAmoOr d a b w64 order scope spread s := rfl
theorem exec_amoXor (d a b : Nat) (w64 : Bool) (order : Order) (scope : Scope) (spread : Bool) (s : State) : exec (.amoXor d a b w64 order scope spread) s = execAmoXor d a b w64 order scope spread s := rfl
theorem exec_amoMin (d a b : Nat) (w64 : Bool) (order : Order) (scope : Scope) (spread : Bool) (s : State) : exec (.amoMin d a b w64 order scope spread) s = execAmoMin d a b w64 order scope spread s := rfl
theorem exec_amoMax (d a b : Nat) (w64 : Bool) (order : Order) (scope : Scope) (spread : Bool) (s : State) : exec (.amoMax d a b w64 order scope spread) s = execAmoMax d a b w64 order scope spread s := rfl
theorem exec_amoMinn (d a b : Nat) (w64 : Bool) (order : Order) (scope : Scope) (spread : Bool) (s : State) : exec (.amoMinn d a b w64 order scope spread) s = execAmoMinn d a b w64 order scope spread s := rfl
theorem exec_amoMaxn (d a b : Nat) (w64 : Bool) (order : Order) (scope : Scope) (spread : Bool) (s : State) : exec (.amoMaxn d a b w64 order scope spread) s = execAmoMaxn d a b w64 order scope spread s := rfl
theorem exec_amoSwap (d a b : Nat) (w64 : Bool) (order : Order) (scope : Scope) (spread : Bool) (s : State) : exec (.amoSwap d a b w64 order scope spread) s = execAmoSwap d a b w64 order scope spread s := rfl
theorem exec_amoCas (d a b c : Nat) (w64 : Bool) (order : Order) (scope : Scope) (spread : Bool) (s : State) : exec (.amoCas d a b c w64 order scope spread) s = execAmoCas d a b c w64 order scope spread s := rfl
theorem exec_amoFadd32 (d a b : Nat) (order : Order) (scope : Scope) (spread : Bool) (s : State) : exec (.amoFadd32 d a b order scope spread) s = execAmoFadd32 d a b order scope spread s := rfl
theorem exec_amoFadd64 (d a b : Nat) (order : Order) (scope : Scope) (spread : Bool) (s : State) : exec (.amoFadd64 d a b order scope spread) s = execAmoFadd64 d a b order scope spread s := rfl
theorem exec_ringInit (a b h : Nat) (s : State) : exec (.ringInit a b h) s = execRingInit a b h s := rfl
theorem exec_ringWfill (h n : Nat) (s : State) : exec (.ringWfill h n) s = execRingWfill h n s := rfl
theorem exec_ringWfree (h n : Nat) (s : State) : exec (.ringWfree h n) s = execRingWfree h n s := rfl
theorem exec_ringAcons (h n : Nat) (s : State) : exec (.ringAcons h n) s = execRingAcons h n s := rfl
theorem exec_ringAprod (h n : Nat) (s : State) : exec (.ringAprod h n) s = execRingAprod h n s := rfl
theorem exec_ringStat (d h : Nat) (s : State) : exec (.ringStat d h) s = execRingStat d h s := rfl
theorem exec_waittAny (free : Bool) (d a : Nat) (s : State) : exec (.waittAny free d a) s = execWaittAny free d a s := rfl
theorem exec_waittAll (free : Bool) (a : Nat) (s : State) : exec (.waittAll free a) s = execWaittAll free a s := rfl
theorem exec_waittFfr (free : Bool) (d a : Nat) (s : State) : exec (.waittFfr free d a) s = execWaittFfr free d a s := rfl
theorem exec_waittClr (free : Bool) (a : Nat) (s : State) : exec (.waittClr free a) s = execWaittClr free a s := rfl
theorem exec_waittTest (free : Bool) (d a : Nat) (s : State) : exec (.waittTest free d a) s = execWaittTest free d a s := rfl
theorem exec_cpq (busy : Option Nat) (a b c e : Nat) (s : State) : exec (.cpq busy a b c e) s = execCpq busy a b c e s := rfl
theorem exec_barInit (a : Nat) (bar : BarSel) (group : Nat) (s : State) : exec (.barInit a bar group) s = execBarInit a bar group s := rfl
theorem exec_barArrive (bar : BarSel) (group : Nat) (s : State) : exec (.barArrive bar group) s = execBarArrive bar group s := rfl
theorem exec_barWait (bar : BarSel) (group : Nat) (s : State) : exec (.barWait bar group) s = execBarWait bar group s := rfl
theorem exec_barSync (bar : BarSel) (group : Nat) (s : State) : exec (.barSync bar group) s = execBarSync bar group s := rfl
theorem exec_monArm (a : Nat) (s : State) : exec (.monArm a) s = execMonArm a s := rfl
theorem exec_monWait (d : Nat) (s : State) : exec (.monWait d) s = execMonWait d s := rfl
theorem exec_monDisarm (s : State) : exec .monDisarm s = execMonDisarm s := rfl
theorem exec_fenceFull (scope : Scope) (s : State) : exec (.fenceFull scope) s = execFenceFull scope s := rfl
theorem exec_fenceRelease (scope : Scope) (s : State) : exec (.fenceRelease scope) s = execFenceRelease scope s := rfl
theorem exec_fenceAcquire (scope : Scope) (s : State) : exec (.fenceAcquire scope) s = execFenceAcquire scope s := rfl
theorem exec_fenceXpath (scope : Scope) (s : State) : exec (.fenceXpath scope) s = execFenceXpath scope s := rfl
theorem exec_memopStag (a b : Nat) (s : State) : exec (.memopStag a b) s = execMemopStag a b s := rfl
theorem exec_memopLtag (d a : Nat) (s : State) : exec (.memopLtag d a) s = execMemopLtag d a s := rfl
theorem exec_memopPin (a b : Nat) (s : State) : exec (.memopPin a b) s = execMemopPin a b s := rfl
theorem exec_memopUnpin (a b : Nat) (s : State) : exec (.memopUnpin a b) s = execMemopUnpin a b s := rfl
theorem exec_memopWbl (a : Nat) (s : State) : exec (.memopWbl a) s = execMemopWbl a s := rfl
theorem exec_memopPf (a : Nat) (s : State) : exec (.memopPf a) s = execMemopPf a s := rfl
theorem exec_vfAdd (d a b : Nat) (ty : FType) (rnd : Round) (m : Nat) (s : State) : exec (.vfAdd d a b ty rnd m) s = execVfAdd d a b ty rnd m s := rfl
theorem exec_vfSub (d a b : Nat) (ty : FType) (rnd : Round) (m : Nat) (s : State) : exec (.vfSub d a b ty rnd m) s = execVfSub d a b ty rnd m s := rfl
theorem exec_vfMul (d a b : Nat) (ty : FType) (rnd : Round) (m : Nat) (s : State) : exec (.vfMul d a b ty rnd m) s = execVfMul d a b ty rnd m s := rfl
theorem exec_vfDiv (d a b : Nat) (ty : FType) (rnd : Round) (m : Nat) (s : State) : exec (.vfDiv d a b ty rnd m) s = execVfDiv d a b ty rnd m s := rfl
theorem exec_vfMin (d a b : Nat) (ty : FType) (m : Nat) (s : State) : exec (.vfMin d a b ty m) s = execVfMin d a b ty m s := rfl
theorem exec_vfMax (d a b : Nat) (ty : FType) (m : Nat) (s : State) : exec (.vfMax d a b ty m) s = execVfMax d a b ty m s := rfl
theorem exec_vfAbs (d a : Nat) (ty : FType) (m : Nat) (s : State) : exec (.vfAbs d a ty m) s = execVfAbs d a ty m s := rfl
theorem exec_vfNeg (d a : Nat) (ty : FType) (m : Nat) (s : State) : exec (.vfNeg d a ty m) s = execVfNeg d a ty m s := rfl
theorem exec_vfSqrt (d a : Nat) (ty : FType) (rnd : Round) (m : Nat) (s : State) : exec (.vfSqrt d a ty rnd m) s = execVfSqrt d a ty rnd m s := rfl
theorem exec_vfRsqrt (d a : Nat) (ty : FType) (rnd : Round) (m : Nat) (s : State) : exec (.vfRsqrt d a ty rnd m) s = execVfRsqrt d a ty rnd m s := rfl
theorem exec_vfCopysign (d a b : Nat) (ty : FType) (m : Nat) (s : State) : exec (.vfCopysign d a b ty m) s = execVfCopysign d a b ty m s := rfl
theorem exec_vfMinnum (d a b : Nat) (ty : FType) (m : Nat) (s : State) : exec (.vfMinnum d a b ty m) s = execVfMinnum d a b ty m s := rfl
theorem exec_vfMaxnum (d a b : Nat) (ty : FType) (m : Nat) (s : State) : exec (.vfMaxnum d a b ty m) s = execVfMaxnum d a b ty m s := rfl
theorem exec_vfmaFma (d a b c : Nat) (ty : FType) (rnd : Round) (m : Nat) (s : State) : exec (.vfmaFma d a b c ty rnd m) s = execVfmaFma d a b c ty rnd m s := rfl
theorem exec_vfmaFms (d a b c : Nat) (ty : FType) (rnd : Round) (m : Nat) (s : State) : exec (.vfmaFms d a b c ty rnd m) s = execVfmaFms d a b c ty rnd m s := rfl
theorem exec_vfmaFnma (d a b c : Nat) (ty : FType) (rnd : Round) (m : Nat) (s : State) : exec (.vfmaFnma d a b c ty rnd m) s = execVfmaFnma d a b c ty rnd m s := rfl
theorem exec_vfmaFnms (d a b c : Nat) (ty : FType) (rnd : Round) (m : Nat) (s : State) : exec (.vfmaFnms d a b c ty rnd m) s = execVfmaFnms d a b c ty rnd m s := rfl
theorem exec_viAdd (d a b : Nat) (w : LaneW) (m : Nat) (s : State) : exec (.viAdd d a b w m) s = execViAdd d a b w m s := rfl
theorem exec_viSub (d a b : Nat) (w : LaneW) (m : Nat) (s : State) : exec (.viSub d a b w m) s = execViSub d a b w m s := rfl
theorem exec_viMul (d a b : Nat) (w : LaneW) (m : Nat) (s : State) : exec (.viMul d a b w m) s = execViMul d a b w m s := rfl
theorem exec_viMulh (d a b : Nat) (w : LaneW) (m : Nat) (s : State) : exec (.viMulh d a b w m) s = execViMulh d a b w m s := rfl
theorem exec_viMulhn (d a b : Nat) (w : LaneW) (m : Nat) (s : State) : exec (.viMulhn d a b w m) s = execViMulhn d a b w m s := rfl
theorem exec_viAnd (d a b : Nat) (w : LaneW) (m : Nat) (s : State) : exec (.viAnd d a b w m) s = execViAnd d a b w m s := rfl
theorem exec_viOr (d a b : Nat) (w : LaneW) (m : Nat) (s : State) : exec (.viOr d a b w m) s = execViOr d a b w m s := rfl
theorem exec_viXor (d a b : Nat) (w : LaneW) (m : Nat) (s : State) : exec (.viXor d a b w m) s = execViXor d a b w m s := rfl
theorem exec_viAndn (d a b : Nat) (w : LaneW) (m : Nat) (s : State) : exec (.viAndn d a b w m) s = execViAndn d a b w m s := rfl
theorem exec_viShl (d a b : Nat) (w : LaneW) (m : Nat) (s : State) : exec (.viShl d a b w m) s = execViShl d a b w m s := rfl
theorem exec_viShr (d a b : Nat) (w : LaneW) (m : Nat) (s : State) : exec (.viShr d a b w m) s = execViShr d a b w m s := rfl
theorem exec_viSar (d a b : Nat) (w : LaneW) (m : Nat) (s : State) : exec (.viSar d a b w m) s = execViSar d a b w m s := rfl
theorem exec_viMin (d a b : Nat) (w : LaneW) (m : Nat) (s : State) : exec (.viMin d a b w m) s = execViMin d a b w m s := rfl
theorem exec_viMax (d a b : Nat) (w : LaneW) (m : Nat) (s : State) : exec (.viMax d a b w m) s = execViMax d a b w m s := rfl
theorem exec_viMinn (d a b : Nat) (w : LaneW) (m : Nat) (s : State) : exec (.viMinn d a b w m) s = execViMinn d a b w m s := rfl
theorem exec_viMaxn (d a b : Nat) (w : LaneW) (m : Nat) (s : State) : exec (.viMaxn d a b w m) s = execViMaxn d a b w m s := rfl
theorem exec_viAddsat (d a b : Nat) (w : LaneW) (m : Nat) (s : State) : exec (.viAddsat d a b w m) s = execViAddsat d a b w m s := rfl
theorem exec_viSubsat (d a b : Nat) (w : LaneW) (m : Nat) (s : State) : exec (.viSubsat d a b w m) s = execViSubsat d a b w m s := rfl
theorem exec_viAddsatn (d a b : Nat) (w : LaneW) (m : Nat) (s : State) : exec (.viAddsatn d a b w m) s = execViAddsatn d a b w m s := rfl
theorem exec_viSubsatn (d a b : Nat) (w : LaneW) (m : Nat) (s : State) : exec (.viSubsatn d a b w m) s = execViSubsatn d a b w m s := rfl
theorem exec_viAbs (d a : Nat) (w : LaneW) (m : Nat) (s : State) : exec (.viAbs d a w m) s = execViAbs d a w m s := rfl
theorem exec_vcmpEq (md a b : Nat) (ty : CmpT) (m : Nat) (s : State) : exec (.vcmpEq md a b ty m) s = execVcmpEq md a b ty m s := rfl
theorem exec_vcmpNe (md a b : Nat) (ty : CmpT) (m : Nat) (s : State) : exec (.vcmpNe md a b ty m) s = execVcmpNe md a b ty m s := rfl
theorem exec_vcmpLt (md a b : Nat) (ty : CmpT) (m : Nat) (s : State) : exec (.vcmpLt md a b ty m) s = execVcmpLt md a b ty m s := rfl
theorem exec_vcmpLe (md a b : Nat) (ty : CmpT) (m : Nat) (s : State) : exec (.vcmpLe md a b ty m) s = execVcmpLe md a b ty m s := rfl
theorem exec_vcmpGt (md a b : Nat) (ty : CmpT) (m : Nat) (s : State) : exec (.vcmpGt md a b ty m) s = execVcmpGt md a b ty m s := rfl
theorem exec_vcmpGe (md a b : Nat) (ty : CmpT) (m : Nat) (s : State) : exec (.vcmpGe md a b ty m) s = execVcmpGe md a b ty m s := rfl
theorem exec_vcmpUnord (md a b : Nat) (ty : FType) (m : Nat) (s : State) : exec (.vcmpUnord md a b ty m) s = execVcmpUnord md a b ty m s := rfl
theorem exec_vcmpLtn (md a b : Nat) (w : LaneW) (m : Nat) (s : State) : exec (.vcmpLtn md a b w m) s = execVcmpLtn md a b w m s := rfl
theorem exec_vcmpGen (md a b : Nat) (w : LaneW) (m : Nat) (s : State) : exec (.vcmpGen md a b w m) s = execVcmpGen md a b w m s := rfl
theorem exec_vcvt (d a : Nat) (src dst : Fmt) (rnd : Round) (m : Nat) (s : State) : exec (.vcvt d a src dst rnd m) s = execVcvt d a src dst rnd m s := rfl
theorem exec_vmathExp (d a : Nat) (f32 : Bool) (m : Nat) (s : State) : exec (.vmathExp d a f32 m) s = execVmathExp d a f32 m s := rfl
theorem exec_vmathExp2 (d a : Nat) (f32 : Bool) (m : Nat) (s : State) : exec (.vmathExp2 d a f32 m) s = execVmathExp2 d a f32 m s := rfl
theorem exec_vmathExp10 (d a : Nat) (f32 : Bool) (m : Nat) (s : State) : exec (.vmathExp10 d a f32 m) s = execVmathExp10 d a f32 m s := rfl
theorem exec_vmathExpm1 (d a : Nat) (f32 : Bool) (m : Nat) (s : State) : exec (.vmathExpm1 d a f32 m) s = execVmathExpm1 d a f32 m s := rfl
theorem exec_vmathLog (d a : Nat) (f32 : Bool) (m : Nat) (s : State) : exec (.vmathLog d a f32 m) s = execVmathLog d a f32 m s := rfl
theorem exec_vmathLog2 (d a : Nat) (f32 : Bool) (m : Nat) (s : State) : exec (.vmathLog2 d a f32 m) s = execVmathLog2 d a f32 m s := rfl
theorem exec_vmathLog10 (d a : Nat) (f32 : Bool) (m : Nat) (s : State) : exec (.vmathLog10 d a f32 m) s = execVmathLog10 d a f32 m s := rfl
theorem exec_vmathLog1p (d a : Nat) (f32 : Bool) (m : Nat) (s : State) : exec (.vmathLog1p d a f32 m) s = execVmathLog1p d a f32 m s := rfl
theorem exec_vmathSin (d a : Nat) (f32 : Bool) (m : Nat) (s : State) : exec (.vmathSin d a f32 m) s = execVmathSin d a f32 m s := rfl
theorem exec_vmathCos (d a : Nat) (f32 : Bool) (m : Nat) (s : State) : exec (.vmathCos d a f32 m) s = execVmathCos d a f32 m s := rfl
theorem exec_vmathTan (d a : Nat) (f32 : Bool) (m : Nat) (s : State) : exec (.vmathTan d a f32 m) s = execVmathTan d a f32 m s := rfl
theorem exec_vmathAsin (d a : Nat) (f32 : Bool) (m : Nat) (s : State) : exec (.vmathAsin d a f32 m) s = execVmathAsin d a f32 m s := rfl
theorem exec_vmathAcos (d a : Nat) (f32 : Bool) (m : Nat) (s : State) : exec (.vmathAcos d a f32 m) s = execVmathAcos d a f32 m s := rfl
theorem exec_vmathAtan (d a : Nat) (f32 : Bool) (m : Nat) (s : State) : exec (.vmathAtan d a f32 m) s = execVmathAtan d a f32 m s := rfl
theorem exec_vmathAtan2 (d a b : Nat) (f32 : Bool) (m : Nat) (s : State) : exec (.vmathAtan2 d a b f32 m) s = execVmathAtan2 d a b f32 m s := rfl
theorem exec_vmathSinh (d a : Nat) (f32 : Bool) (m : Nat) (s : State) : exec (.vmathSinh d a f32 m) s = execVmathSinh d a f32 m s := rfl
theorem exec_vmathCosh (d a : Nat) (f32 : Bool) (m : Nat) (s : State) : exec (.vmathCosh d a f32 m) s = execVmathCosh d a f32 m s := rfl
theorem exec_vmathTanh (d a : Nat) (f32 : Bool) (m : Nat) (s : State) : exec (.vmathTanh d a f32 m) s = execVmathTanh d a f32 m s := rfl
theorem exec_vmathPow (d a b : Nat) (f32 : Bool) (m : Nat) (s : State) : exec (.vmathPow d a b f32 m) s = execVmathPow d a b f32 m s := rfl
theorem exec_vmathCbrt (d a : Nat) (f32 : Bool) (m : Nat) (s : State) : exec (.vmathCbrt d a f32 m) s = execVmathCbrt d a f32 m s := rfl
theorem exec_vmathHypot (d a b : Nat) (f32 : Bool) (m : Nat) (s : State) : exec (.vmathHypot d a b f32 m) s = execVmathHypot d a b f32 m s := rfl
theorem exec_vmathErf (d a : Nat) (f32 : Bool) (m : Nat) (s : State) : exec (.vmathErf d a f32 m) s = execVmathErf d a f32 m s := rfl
theorem exec_vredSum (d a : Nat) (ty : FType) (rnd : Round) (m : Nat) (s : State) : exec (.vredSum d a ty rnd m) s = execVredSum d a ty rnd m s := rfl
theorem exec_vredSumx (d a : Nat) (ty : FType) (rnd : Round) (m : Nat) (s : State) : exec (.vredSumx d a ty rnd m) s = execVredSumx d a ty rnd m s := rfl
theorem exec_vredMin (d a : Nat) (ty : FType) (m : Nat) (s : State) : exec (.vredMin d a ty m) s = execVredMin d a ty m s := rfl
theorem exec_vredMax (d a : Nat) (ty : FType) (m : Nat) (s : State) : exec (.vredMax d a ty m) s = execVredMax d a ty m s := rfl
theorem exec_vredIsum (d a : Nat) (w : LaneW) (m : Nat) (s : State) : exec (.vredIsum d a w m) s = execVredIsum d a w m s := rfl
theorem exec_vredAnd (d a : Nat) (w : LaneW) (m : Nat) (s : State) : exec (.vredAnd d a w m) s = execVredAnd d a w m s := rfl
theorem exec_vredOr (d a : Nat) (w : LaneW) (m : Nat) (s : State) : exec (.vredOr d a w m) s = execVredOr d a w m s := rfl
theorem exec_vredXor (d a : Nat) (w : LaneW) (m : Nat) (s : State) : exec (.vredXor d a w m) s = execVredXor d a w m s := rfl
theorem exec_vpermBcast (d a : Nat) (w : LaneW) (c : Nat) (s : State) : exec (.vpermBcast d a w c) s = execVpermBcast d a w c s := rfl
theorem exec_vpermShuf (d a b : Nat) (w : LaneW) (s : State) : exec (.vpermShuf d a b w) s = execVpermShuf d a b w s := rfl
theorem exec_vpermRot (d a : Nat) (w : LaneW) (c : Nat) (s : State) : exec (.vpermRot d a w c) s = execVpermRot d a w c s := rfl
theorem exec_vpermSlideup (d a : Nat) (w : LaneW) (c : Nat) (s : State) : exec (.vpermSlideup d a w c) s = execVpermSlideup d a w c s := rfl
theorem exec_vpermSlidedn (d a : Nat) (w : LaneW) (c : Nat) (s : State) : exec (.vpermSlidedn d a w c) s = execVpermSlidedn d a w c s := rfl
theorem exec_vpermZiplo (d a b : Nat) (w : LaneW) (s : State) : exec (.vpermZiplo d a b w) s = execVpermZiplo d a b w s := rfl
theorem exec_vpermZiphi (d a b : Nat) (w : LaneW) (s : State) : exec (.vpermZiphi d a b w) s = execVpermZiphi d a b w s := rfl
theorem exec_vpermUnzipe (d a b : Nat) (w : LaneW) (s : State) : exec (.vpermUnzipe d a b w) s = execVpermUnzipe d a b w s := rfl
theorem exec_vpermUnzipo (d a b : Nat) (w : LaneW) (s : State) : exec (.vpermUnzipo d a b w) s = execVpermUnzipo d a b w s := rfl
theorem exec_vpermIns (d a b : Nat) (w : LaneW) (c : Nat) (s : State) : exec (.vpermIns d a b w c) s = execVpermIns d a b w c s := rfl
theorem exec_vpermExt (d a : Nat) (w : LaneW) (c : Nat) (s : State) : exec (.vpermExt d a w c) s = execVpermExt d a w c s := rfl
theorem exec_vpermSel (d a b : Nat) (w : LaneW) (m : Nat) (s : State) : exec (.vpermSel d a b w m) s = execVpermSel d a b w m s := rfl
theorem exec_vld (d a : Nat) (acq : Bool) (off : Int) (mode : Mode) (stride : Option (Nat × LaneW)) (s : State) : exec (.vld d a acq off mode stride) s = execVld d a acq off mode stride s := rfl
theorem exec_vst (d a : Nat) (rel : Bool) (off : Int) (mode : Mode) (form : VstForm) (s : State) : exec (.vst d a rel off mode form) s = execVst d a rel off mode form s := rfl
theorem exec_vgsGather (d a b : Nat) (w : LaneW) (mode : Mode) (m : Nat) (s : State) : exec (.vgsGather d a b w mode m) s = execVgsGather d a b w mode m s := rfl
theorem exec_vgsScatter (d a b : Nat) (w : LaneW) (mode : Mode) (m : Nat) (s : State) : exec (.vgsScatter d a b w mode m) s = execVgsScatter d a b w mode m s := rfl
theorem exec_vplPlane (d a : Nat) (pw : PlaneW) (s : State) : exec (.vplPlane d a pw) s = execVplPlane d a pw s := rfl
theorem exec_vplUnplane (d a : Nat) (pw : PlaneW) (s : State) : exec (.vplUnplane d a pw) s = execVplUnplane d a pw s := rfl
theorem exec_mxCtx (busy : Option Nat) (a c e : Nat) (tag : Option Nat) (s : State) : exec (.mxCtx busy a c e tag) s = execMxCtx busy a c e tag s := rfl
theorem exec_mxMma (busy : Option Nat) (a c e : Nat) (tag : Option Nat) (s : State) : exec (.mxMma busy a c e tag) s = execMxMma busy a c e tag s := rfl
theorem exec_mxMmas (busy : Option Nat) (a b c e : Nat) (tag : Option Nat) (s : State) : exec (.mxMmas busy a b c e tag) s = execMxMmas busy a b c e tag s := rfl
theorem exec_mxZero (busy : Option Nat) (a c e : Nat) (tag : Option Nat) (s : State) : exec (.mxZero busy a c e tag) s = execMxZero busy a c e tag s := rfl
theorem exec_mxDrain (busy : Option Nat) (a c e : Nat) (tag : Option Nat) (s : State) : exec (.mxDrain busy a c e tag) s = execMxDrain busy a c e tag s := rfl
theorem exec_mxLoadc (busy : Option Nat) (a c e : Nat) (tag : Option Nat) (s : State) : exec (.mxLoadc busy a c e tag) s = execMxLoadc busy a c e tag s := rfl
theorem exec_mxOrder (busy : Option Nat) (a c e : Nat) (tag : Option Nat) (s : State) : exec (.mxOrder busy a c e tag) s = execMxOrder busy a c e tag s := rfl
theorem exec_skMul (d a b group : Nat) (s : State) : exec (.skMul d a b group) s = execSkMul d a b group s := rfl
theorem exec_skLink (d group : Nat) (s : State) : exec (.skLink d group) s = execSkLink d group s := rfl
theorem exec_resetInput (s : State) : exec .resetInput s = execResetInput s := rfl
theorem exec_bootStage (s : State) : exec .bootStage s = execBootStage s := rfl
theorem exec_islandBringUp (s : State) : exec .islandBringUp s = execIslandBringUp s := rfl
theorem exec_islandFrequencyChange (s : State) : exec .islandFrequencyChange s = execIslandFrequencyChange s := rfl
theorem exec_arrival (s : State) : exec .arrival s = execArrival s := rfl
theorem exec_sendAnswer (s : State) : exec .sendAnswer s = execSendAnswer s := rfl
theorem exec_sendRetransmit (s : State) : exec .sendRetransmit s = execSendRetransmit s := rfl
theorem exec_selection (s : State) : exec .selection s = execSelection s := rfl
theorem exec_admission (s : State) : exec .admission s = execAdmission s := rfl
theorem exec_remopAdmission (s : State) : exec .remopAdmission s = execRemopAdmission s := rfl
theorem exec_stealRequest (s : State) : exec .stealRequest s = execStealRequest s := rfl
theorem exec_stealAnswer (s : State) : exec .stealAnswer s = execStealAnswer s := rfl
theorem exec_stealReceive (s : State) : exec .stealReceive s = execStealReceive s := rfl
theorem exec_chanRemote (s : State) : exec .chanRemote s = execChanRemote s := rfl
theorem exec_dealerSendSheaf (s : State) : exec .dealerSendSheaf s = execDealerSendSheaf s := rfl
theorem exec_imageInstall (s : State) : exec .imageInstall s = execImageInstall s := rfl
theorem exec_imageFetch (s : State) : exec .imageFetch s = execImageFetch s := rfl
theorem exec_tillerAdmission (s : State) : exec .tillerAdmission s = execTillerAdmission s := rfl
theorem exec_joinDecrement (s : State) : exec .joinDecrement s = execJoinDecrement s := rfl
theorem exec_crownRelease (s : State) : exec .crownRelease s = execCrownRelease s := rfl
theorem exec_bankMeeting (s : State) : exec .bankMeeting s = execBankMeeting s := rfl
theorem exec_rosedata2Write (s : State) : exec .rosedata2Write s = execRosedata2Write s := rfl
theorem exec_outroseSelect (s : State) : exec .outroseSelect s = execOutroseSelect s := rfl
theorem exec_outroseWrite (s : State) : exec .outroseWrite s = execOutroseWrite s := rfl
theorem exec_rosectlSwapRequest (s : State) : exec .rosectlSwapRequest s = execRosectlSwapRequest s := rfl
theorem exec_roseSwap (s : State) : exec .roseSwap s = execRoseSwap s := rfl
theorem exec_bankroleWrite (s : State) : exec .bankroleWrite s = execBankroleWrite s := rfl
theorem exec_bankroleChange (s : State) : exec .bankroleChange s = execBankroleChange s := rfl
theorem exec_slicePassComplete (s : State) : exec .slicePassComplete s = execSlicePassComplete s := rfl
theorem exec_idomWrite (s : State) : exec .idomWrite s = execIdomWrite s := rfl
theorem exec_domainPassComplete (s : State) : exec .domainPassComplete s = execDomainPassComplete s := rfl
theorem exec_cntWrite (s : State) : exec .cntWrite s = execCntWrite s := rfl
theorem exec_twinctlWrite (s : State) : exec .twinctlWrite s = execTwinctlWrite s := rfl
theorem exec_mxstatClear (s : State) : exec .mxstatClear s = execMxstatClear s := rfl
theorem exec_lineFill (s : State) : exec .lineFill s = execLineFill s := rfl
theorem exec_pageWalk (s : State) : exec .pageWalk s = execPageWalk s := rfl
theorem exec_tlbinvRemote (s : State) : exec .tlbinvRemote s = execTlbinvRemote s := rfl
theorem exec_homeSliceAccess (s : State) : exec .homeSliceAccess s = execHomeSliceAccess s := rfl
theorem exec_rehomeReplay (s : State) : exec .rehomeReplay s = execRehomeReplay s := rfl
theorem exec_tierFill (s : State) : exec .tierFill s = execTierFill s := rfl
theorem exec_tierWriteAck (s : State) : exec .tierWriteAck s = execTierWriteAck s := rfl
theorem exec_copyInvalidation (s : State) : exec .copyInvalidation s = execCopyInvalidation s := rfl
theorem exec_migrantArrival (s : State) : exec .migrantArrival s = execMigrantArrival s := rfl
theorem exec_migrantQueueAdmit (s : State) : exec .migrantQueueAdmit s = execMigrantQueueAdmit s := rfl
theorem exec_migrationRetry (s : State) : exec .migrationRetry s = execMigrationRetry s := rfl
theorem exec_ringWaitReread (s : State) : exec .ringWaitReread s = execRingWaitReread s := rfl
theorem exec_copy (s : State) : exec .copy s = execCopy s := rfl
theorem exec_copy2d (s : State) : exec .copy2d s = execCopy2d s := rfl
theorem exec_fill (s : State) : exec .fill s = execFill s := rfl
theorem exec_mcread (s : State) : exec .mcread s = execMcread s := rfl
theorem exec_wbr (s : State) : exec .wbr s = execWbr s := rfl
theorem exec_invr (s : State) : exec .invr s = execInvr s := rfl
theorem exec_sqz (s : State) : exec .sqz s = execSqz s := rfl
theorem exec_xpnd (s : State) : exec .xpnd s = execXpnd s := rfl
theorem exec_tagfreeSet (s : State) : exec .tagfreeSet s = execTagfreeSet s := rfl
theorem exec_tagdoneSet (s : State) : exec .tagdoneSet s = execTagdoneSet s := rfl
theorem exec_mcreadLineRequest (s : State) : exec .mcreadLineRequest s = execMcreadLineRequest s := rfl
theorem exec_multicastSectorSend (s : State) : exec .multicastSectorSend s = execMulticastSectorSend s := rfl
theorem exec_multicastBlockWrite (s : State) : exec .multicastBlockWrite s = execMulticastBlockWrite s := rfl
theorem exec_matrixAccept (s : State) : exec .matrixAccept s = execMatrixAccept s := rfl
theorem exec_matrixGrant (s : State) : exec .matrixGrant s = execMatrixGrant s := rfl
theorem exec_ctx (s : State) : exec .ctx s = execCtx s := rfl
theorem exec_mma (s : State) : exec .mma s = execMma s := rfl
theorem exec_mmas (s : State) : exec .mmas s = execMmas s := rfl
theorem exec_zero (s : State) : exec .zero s = execZero s := rfl
theorem exec_drain (s : State) : exec .drain s = execDrain s := rfl
theorem exec_loadc (s : State) : exec .loadc s = execLoadc s := rfl
theorem exec_order (s : State) : exec .order s = execOrder s := rfl
theorem exec_matrixComplete (s : State) : exec .matrixComplete s = execMatrixComplete s := rfl
theorem exec_linkValueDelivery (s : State) : exec .linkValueDelivery s = execLinkValueDelivery s := rfl
theorem exec_barrierArrival (s : State) : exec .barrierArrival s = execBarrierArrival s := rfl
theorem exec_barrierInit (s : State) : exec .barrierInit s = execBarrierInit s := rfl
theorem exec_phaseNotice (s : State) : exec .phaseNotice s = execPhaseNotice s := rfl
theorem exec_monitorRegistration (s : State) : exec .monitorRegistration s = execMonitorRegistration s := rfl
theorem exec_watchdogExpiry (s : State) : exec .watchdogExpiry s = execWatchdogExpiry s := rfl
theorem exec_reportRetry (s : State) : exec .reportRetry s = execReportRetry s := rfl
theorem exec_twinCompare (s : State) : exec .twinCompare s = execTwinCompare s := rfl
theorem exec_preempt (s : State) : exec .preempt s = execPreempt s := rfl
theorem exec_preemptDraining (s : State) : exec .preemptDraining s = execPreemptDraining s := rfl
theorem exec_preemptSaving (s : State) : exec .preemptSaving s = execPreemptSaving s := rfl
theorem exec_preemptSaved (s : State) : exec .preemptSaved s = execPreemptSaved s := rfl
theorem exec_resume (s : State) : exec .resume s = execResume s := rfl
theorem exec_restoreComplete (s : State) : exec .restoreComplete s = execRestoreComplete s := rfl
theorem exec_resumeRunning (s : State) : exec .resumeRunning s = execResumeRunning s := rfl
theorem exec_spillRetry (s : State) : exec .spillRetry s = execSpillRetry s := rfl
theorem exec_packetDelivery (s : State) : exec .packetDelivery s = execPacketDelivery s := rfl
theorem exec_packetAck (s : State) : exec .packetAck s = execPacketAck s := rfl
theorem exec_linkRetry (s : State) : exec .linkRetry s = execLinkRetry s := rfl
theorem exec_linkDead (s : State) : exec .linkDead s = execLinkDead s := rfl
theorem exec_chartInstall (s : State) : exec .chartInstall s = execChartInstall s := rfl
theorem exec_editionTurn (s : State) : exec .editionTurn s = execEditionTurn s := rfl
theorem exec_ethernetFrameRx (s : State) : exec .ethernetFrameRx s = execEthernetFrameRx s := rfl
theorem exec_systemEditionTurn (s : State) : exec .systemEditionTurn s = execSystemEditionTurn s := rfl
theorem exec_mxRetry (s : State) : exec .mxRetry s = execMxRetry s := rfl
theorem exec_fwMatrixCheckCode (s : State) : exec .fwMatrixCheckCode s = execFwMatrixCheckCode s := rfl
theorem exec_fwPreemptCore (s : State) : exec .fwPreemptCore s = execFwPreemptCore s := rfl
theorem exec_fwResumeCore (s : State) : exec .fwResumeCore s = execFwResumeCore s := rfl
theorem exec_fwIslandFrequency (s : State) : exec .fwIslandFrequency s = execFwIslandFrequency s := rfl
theorem exec_fwRetireBank (s : State) : exec .fwRetireBank s = execFwRetireBank s := rfl
theorem exec_fwWriteGroup (s : State) : exec .fwWriteGroup s = execFwWriteGroup s := rfl
theorem exec_fwCheckpoint (s : State) : exec .fwCheckpoint s = execFwCheckpoint s := rfl
theorem exec_fwRestore (s : State) : exec .fwRestore s = execFwRestore s := rfl
theorem exec_fwAttestationQuote (s : State) : exec .fwAttestationQuote s = execFwAttestationQuote s := rfl
theorem exec_fwTenantReset (s : State) : exec .fwTenantReset s = execFwTenantReset s := rfl
theorem exec_illegalEncoding (s : State) : exec .illegalEncoding s = execIllegalEncoding s := rfl
theorem exec_refusedRequestKind (s : State) : exec .refusedRequestKind s = execRefusedRequestKind s := rfl
theorem exec_mxAnswer (s : State) : exec .mxAnswer s = execMxAnswer s := rfl
theorem exec_stackCopyFill (s : State) : exec .stackCopyFill s = execStackCopyFill s := rfl
theorem exec_networkPortAccess (s : State) : exec .networkPortAccess s = execNetworkPortAccess s := rfl
theorem exec_headerRouting (s : State) : exec .headerRouting s = execHeaderRouting s := rfl
theorem exec_portFailure (s : State) : exec .portFailure s = execPortFailure s := rfl
theorem exec_powerLimitThrottle (s : State) : exec .powerLimitThrottle s = execPowerLimitThrottle s := rfl
theorem exec_islandPowerDown (s : State) : exec .islandPowerDown s = execIslandPowerDown s := rfl
theorem exec_keeperChange (s : State) : exec .keeperChange s = execKeeperChange s := rfl
theorem exec_tenantAssignment (s : State) : exec .tenantAssignment s = execTenantAssignment s := rfl

end Sys2Proof.Machine
end

