-- ==== Sys2Proof/Laws/Maps.lean ====
section
/-!
SUPPORT. The laws of maps and of memory: reading a key just set, leaving the others alone, and the canonical form of a memory
that every write keeps.
-/
namespace Sys2Proof.Machine

open Sys2Proof

variable {α : Type}

/-! ### Maps -/

@[simp] theorem look_nil (k : Nat) (d : α) : look [] k d = d := rfl
@[simp] theorem find_nil (k : Nat) : find ([] : List (Nat × α)) k = none := rfl
theorem look_cons (k' : Nat) (v : α) (r : List (Nat × α)) (k : Nat) (d : α) :
    look ((k', v) :: r) k d = if k' = k then v else look r k d := rfl
theorem find_cons (k' : Nat) (v : α) (r : List (Nat × α)) (k : Nat) :
    find ((k', v) :: r) k = if k' = k then some v else find r k := rfl

theorem look_eq_find (m : List (Nat × α)) (k : Nat) (d : α) : look m k d = (find m k).getD d := by
  induction m with
  | nil => rfl
  | cons p r ih => obtain ⟨k', v⟩ := p; simp only [look_cons, find_cons]; split <;> simp [ih]

@[simp] theorem find_assign_self (m : List (Nat × α)) (k : Nat) (v : α) : find (assign m k v) k = some v := by
  induction m with
  | nil => simp [assign, find_cons]
  | cons p r ih =>
    obtain ⟨k', v'⟩ := p
    by_cases h : k = k'
    · simp [assign, h, find_cons]
    · by_cases h2 : k < k'
      · simp [assign, h, h2, find_cons]
      · simp [assign, h, h2, find_cons, ih, Ne.symm h]

@[simp] theorem find_assign_ne (m : List (Nat × α)) (k j : Nat) (v : α) (hj : j ≠ k) : find (assign m k v) j = find m j := by
  induction m with
  | nil => simp [assign, find_cons, Ne.symm hj]
  | cons p r ih =>
    obtain ⟨k', v'⟩ := p
    by_cases h : k = k'
    · subst h; simp [assign, find_cons, Ne.symm hj]
    · by_cases h2 : k < k'
      · simp [assign, h, h2, find_cons, Ne.symm hj]
      · simp [assign, h, h2, find_cons, ih]

@[simp] theorem look_assign_self (m : List (Nat × α)) (k : Nat) (v d : α) : look (assign m k v) k d = v := by
  simp [look_eq_find]

@[simp] theorem look_assign_ne (m : List (Nat × α)) (k j : Nat) (v d : α) (hj : j ≠ k) :
    look (assign m k v) j d = look m j d := by
  simp [look_eq_find, hj]

theorem look_assign (m : List (Nat × α)) (k j : Nat) (v d : α) :
    look (assign m k v) j d = if j = k then v else look m j d := by
  by_cases h : j = k
  · subst h; simp
  · simp [h]

theorem find_assign (m : List (Nat × α)) (k j : Nat) (v : α) :
    find (assign m k v) j = if j = k then some v else find m j := by
  by_cases h : j = k
  · subst h; simp
  · simp [h]

theorem find_filter_ne (p : Nat × α → Bool) (m : List (Nat × α)) (j : Nat) (h : ∀ x ∈ m, x.1 = j → p x = true) :
    find (m.filter p) j = find m j := by
  induction m with
  | nil => rfl
  | cons x r ih =>
    obtain ⟨k, v⟩ := x
    have ihr := ih fun y hy => h y (List.mem_cons_of_mem _ hy)
    by_cases hk : k = j
    · rw [List.filter_cons_of_pos (h (k, v) List.mem_cons_self hk)]
      simp [find_cons, hk]
    · by_cases hp : p (k, v)
      · simp [hp, find_cons, hk, ihr]
      · simp [hp, find_cons, hk, ihr]

@[simp] theorem find_unset_self (m : List (Nat × α)) (k : Nat) : find (unset m k) k = none := by
  induction m with
  | nil => rfl
  | cons x r ih =>
    obtain ⟨k', v⟩ := x
    by_cases h : k' = k
    · simp only [unset, List.filter_cons] at *; simp [h, ih]
    · simp only [unset, List.filter_cons] at *; simp [h, find_cons, ih]

@[simp] theorem find_unset_ne (m : List (Nat × α)) (k j : Nat) (h : j ≠ k) : find (unset m k) j = find m j :=
  find_filter_ne _ m j fun x _ hx => by simp [hx, h]

@[simp] theorem look_unset_self (m : List (Nat × α)) (k : Nat) (d : α) : look (unset m k) k d = d := by simp [look_eq_find]

@[simp] theorem look_unset_ne (m : List (Nat × α)) (k j : Nat) (d : α) (h : j ≠ k) : look (unset m k) j d = look m j d := by
  simp [look_eq_find, h]

/-! ### Memory -/

theorem Memory.read_cons (a' : Nat) (b' : Byte) (r : Memory) (a : Nat) :
    Memory.read ((a', b') :: r) a = if a' = a then b' else Memory.read r a := rfl

/-- A canonical memory lists its addresses from its first on. -/
theorem Memory.read_before (m : Memory) (a : Nat) (h : m.wf = true) (ha : ∀ x ∈ m.head?, a < x.1) :
    m.read a = unwritten := by
  induction m with
  | nil => rfl
  | cons x r ih =>
    obtain ⟨a', b'⟩ := x
    have h1 : a < a' := ha (a', b') rfl
    rw [Memory.read_cons, if_neg (by omega)]
    match r, h with
    | [], _ => rfl
    | (a2, b2) :: r, h =>
      simp only [Memory.wf, Bool.and_eq_true, decide_eq_true_eq] at h
      exact ih h.2 (by simp; omega)

theorem Memory.wf_tail (x : Host.Cell) (r : Memory) (h : Memory.wf (x :: r) = true) : Memory.wf r = true := by
  obtain ⟨a, b⟩ := x
  match r, h with
  | [], _ => rfl
  | (a2, b2) :: r, h =>
    simp only [Memory.wf, Bool.and_eq_true] at h
    exact h.2

theorem Memory.wf_cons (a : Nat) (b : Byte) (r : Memory) :
    Memory.wf ((a, b) :: r) = true ↔ b ≠ unwritten ∧ (∀ x ∈ r.head?, a < x.1) ∧ Memory.wf r = true := by
  match r with
  | [] => simp [Memory.wf]
  | (a2, b2) :: r => simp [Memory.wf, and_assoc]

/-- Keeping some addresses keeps the canonical form. -/
theorem Memory.wf_filter (p : Host.Cell → Bool) (m : Memory) (h : m.wf = true) : Memory.wf (m.filter p) = true := by
  have key : ∀ (m : Memory) (n : Nat), (∀ x ∈ m.head?, n < x.1) → m.wf = true →
      Memory.wf (m.filter p) = true ∧ ∀ x ∈ (m.filter p).head?, n < x.1 := by
    intro m
    induction m with
    | nil => intro n _ _; simp [Memory.wf]
    | cons x r ih =>
      intro n hn hw
      obtain ⟨a, b⟩ := x
      obtain ⟨hb, hlt, hr⟩ := (Memory.wf_cons a b r).1 hw
      have hna : n < a := hn (a, b) rfl
      obtain ⟨h1, h2⟩ := ih a hlt hr
      by_cases hp : p (a, b)
      · rw [List.filter_cons_of_pos hp]
        exact ⟨(Memory.wf_cons _ _ _).2 ⟨hb, h2, h1⟩, by simp [hna]⟩
      · rw [List.filter_cons_of_neg hp]
        exact ⟨h1, fun x hx => Nat.lt_trans hna (h2 x hx)⟩
  match m, h with
  | [], _ => rfl
  | (a, b) :: r, h =>
    obtain ⟨hb, hlt, hr⟩ := (Memory.wf_cons a b r).1 h
    obtain ⟨h1, h2⟩ := key r a hlt hr
    by_cases hp : p (a, b)
    · rw [List.filter_cons_of_pos hp]
      exact (Memory.wf_cons _ _ _).2 ⟨hb, h2, h1⟩
    · rw [List.filter_cons_of_neg hp]
      exact h1

/-- Listing an address that is not unwritten, in its place, keeps the canonical form. -/
theorem Memory.wf_assign (m : Memory) (a : Nat) (b : Byte) (hb : b ≠ unwritten) (h : m.wf = true) : Memory.wf (assign m a b) = true := by
  have key : ∀ m : Memory, m.wf = true → Memory.wf (assign m a b) = true ∧
      ∀ n, n < a → (∀ x ∈ m.head?, n < x.1) → ∀ x ∈ (assign m a b).head?, n < x.1 := by
    intro m
    induction m with
    | nil => intro _; exact ⟨by simp [assign, Memory.wf, hb], by simp [assign]⟩
    | cons x r ih =>
      intro h
      obtain ⟨a', b'⟩ := x
      obtain ⟨hb', hlt, hr⟩ := (Memory.wf_cons a' b' r).1 h
      by_cases h1 : a = a'
      · subst h1
        rw [show assign ((a, b') :: r) a b = (a, b) :: r by simp [assign]]
        exact ⟨(Memory.wf_cons _ _ _).2 ⟨hb, hlt, hr⟩, by intro n hn _; simpa using hn⟩
      · by_cases h2 : a < a'
        · rw [show assign ((a', b') :: r) a b = (a, b) :: (a', b') :: r by simp [assign, h1, h2]]
          exact ⟨(Memory.wf_cons _ _ _).2 ⟨hb, by simpa using h2, h⟩, by intro n hn _; simpa using hn⟩
        · rw [show assign ((a', b') :: r) a b = (a', b') :: assign r a b by simp [assign, h1, h2]]
          obtain ⟨i1, i2⟩ := ih hr
          exact ⟨(Memory.wf_cons _ _ _).2 ⟨hb', i2 a' (by omega) hlt, i1⟩, by intro n _ hn; simpa using hn⟩
  exact (key m h).1

/-- A write keeps the canonical form. -/
theorem Memory.wf_write (m : Memory) (a : Nat) (b : Byte) (h : m.wf = true) : (Memory.write m a b).wf = true := by
  have hu : Memory.wf (unset m a) = true := Memory.wf_filter _ m h
  unfold Memory.write
  split
  · exact hu
  · exact Memory.wf_assign _ _ _ ‹_› hu

/-- Reading a byte just written. -/
theorem Memory.read_write_self (m : Memory) (a : Nat) (b : Byte) : (Memory.write m a b).read a = b := by
  unfold Memory.write Memory.read
  split
  · simp [*]
  · simp

/-- A write leaves every other byte alone. -/
theorem Memory.read_write_ne (m : Memory) (a j : Nat) (b : Byte) (hj : j ≠ a) : (Memory.write m a b).read j = m.read j := by
  unfold Memory.write Memory.read
  split <;> simp [hj]

/-- Writing bytes keeps the canonical form. -/
theorem Memory.wf_writeN (bs : List Byte) (m : Memory) (a : Nat) (h : m.wf = true) : (Memory.writeN m a bs).wf = true := by
  induction bs generalizing m a with
  | nil => exact h
  | cons b r ih => exact ih _ _ (Memory.wf_write m a b h)

/-- Writing bytes leaves every byte outside them alone. -/
theorem Memory.read_writeN_out (bs : List Byte) (m : Memory) (a j : Nat) (h : j < a ∨ a + bs.length ≤ j) :
    (Memory.writeN m a bs).read j = m.read j := by
  induction bs generalizing m a with
  | nil => rfl
  | cons b r ih =>
    simp only [List.length_cons] at h
    have hj : j ≠ a := by omega
    rw [show Memory.writeN m a (b :: r) = Memory.writeN (Memory.write m a b) (a + 1) r from rfl,
      ih _ _ (by omega), Memory.read_write_ne _ _ _ _ hj]

/-- Reading a byte among those written. -/
theorem Memory.read_writeN_in (bs : List Byte) (m : Memory) (a i : Nat) (hi : i < bs.length) :
    (Memory.writeN m a bs).read (a + i) = bs[i] := by
  induction bs generalizing m a i with
  | nil => simp at hi
  | cons b r ih =>
    rw [show Memory.writeN m a (b :: r) = Memory.writeN (Memory.write m a b) (a + 1) r from rfl]
    cases i with
    | zero =>
      rw [Memory.read_writeN_out r _ _ _ (by omega)]
      exact Memory.read_write_self m a b
    | succ i =>
      have := ih (Memory.write m a b) (a + 1) i (by simpa using hi)
      rw [show a + (i + 1) = a + 1 + i by omega]
      simpa using this

/-- Reading back what was written. -/
theorem Memory.readN_writeN (bs : List Byte) (m : Memory) (a : Nat) :
    (Memory.writeN m a bs).readN a bs.length = bs := by
  apply List.ext_getElem
  · simp [Memory.readN]
  · intro i h1 h2
    simp only [Memory.readN, List.getElem_map, List.getElem_range]
    exact Memory.read_writeN_in bs m a i (by simpa [Memory.readN] using h1)

/-! ### Bytes -/

theorem toBytes_length (n v : Nat) : (toBytes n v).length = n := by
  induction n generalizing v with
  | zero => rfl
  | succ n ih => simp [toBytes, ih]

/-- Little-endian bytes give back the number (R1). -/
theorem ofBytes_toBytes (n v : Nat) : ofBytes (toBytes n v) = v % 256 ^ n := by
  induction n generalizing v with
  | zero => simp [toBytes, ofBytes, Nat.mod_one]
  | succ n ih =>
    have e : 256 ^ (n + 1) = 256 * 256 ^ n := by rw [Nat.pow_succ, Nat.mul_comm]
    rw [e, Nat.mod_mul, toBytes, ofBytes, ih, BitVec.toNat_ofNat]

theorem ofBytes_lt (bs : List Byte) : ofBytes bs < 256 ^ bs.length := by
  induction bs with
  | nil => simp [ofBytes]
  | cons b r ih =>
    simp only [ofBytes, List.length_cons, Nat.pow_succ]
    have := b.isLt
    omega

end Sys2Proof.Machine
end

