-- ==== Sys2Proof/Laws/State.lean ====
section
/-!
SUPPORT. The small lemmas of State: for each update one lemma per field it leaves alone, and what each accessor reads after an
update.
-/
namespace Sys2Proof.Machine

open Sys2Proof

/-! ### State.setCore -/

section
variable (s : State) (c : Nat) (v : Core)
@[simp] theorem State.setCore_now : (s.setCore c v).now = s.now := rfl
@[simp] theorem State.setCore_clusters : (s.setCore c v).clusters = s.clusters := rfl
@[simp] theorem State.setCore_columns : (s.setCore c v).columns = s.columns := rfl
@[simp] theorem State.setCore_quads : (s.setCore c v).quads = s.quads := rfl
@[simp] theorem State.setCore_baseDies : (s.setCore c v).baseDies = s.baseDies := rfl
@[simp] theorem State.setCore_routers : (s.setCore c v).routers = s.routers := rfl
@[simp] theorem State.setCore_bankMem : (s.setCore c v).bankMem = s.bankMem := rfl
@[simp] theorem State.setCore_colMem : (s.setCore c v).colMem = s.colMem := rfl
@[simp] theorem State.setCore_hbm : (s.setCore c v).hbm = s.hbm := rfl
@[simp] theorem State.setCore_lp : (s.setCore c v).lp = s.lp := rfl
@[simp] theorem State.setCore_bankBad : (s.setCore c v).bankBad = s.bankBad := rfl
@[simp] theorem State.setCore_colBad : (s.setCore c v).colBad = s.colBad := rfl
@[simp] theorem State.setCore_bankErr : (s.setCore c v).bankErr = s.bankErr := rfl
@[simp] theorem State.setCore_colErr : (s.setCore c v).colErr = s.colErr := rfl
@[simp] theorem State.setCore_sectors : (s.setCore c v).sectors = s.sectors := rfl
@[simp] theorem State.setCore_groups : (s.setCore c v).groups = s.groups := rfl
@[simp] theorem State.setCore_keys : (s.setCore c v).keys = s.keys := rfl
@[simp] theorem State.setCore_devNo : (s.setCore c v).devNo = s.devNo := rfl
@[simp] theorem State.setCore_devMap : (s.setCore c v).devMap = s.devMap := rfl
@[simp] theorem State.setCore_sysEdition : (s.setCore c v).sysEdition = s.sysEdition := rfl
@[simp] theorem State.setCore_sysChart : (s.setCore c v).sysChart = s.sysChart := rfl
@[simp] theorem State.setCore_portsDown : (s.setCore c v).portsDown = s.portsDown := rfl
@[simp] theorem State.setCore_pathsDown : (s.setCore c v).pathsDown = s.pathsDown := rfl
@[simp] theorem State.setCore_ethIn : (s.setCore c v).ethIn = s.ethIn := rfl
@[simp] theorem State.setCore_ethEarly : (s.setCore c v).ethEarly = s.ethEarly := rfl
@[simp] theorem State.setCore_ethOut : (s.setCore c v).ethOut = s.ethOut := rfl
@[simp] theorem State.setCore_fwCounts : (s.setCore c v).fwCounts = s.fwCounts := rfl
@[simp] theorem State.setCore_streams : (s.setCore c v).streams = s.streams := rfl
@[simp] theorem State.setCore_devAcks : (s.setCore c v).devAcks = s.devAcks := rfl
@[simp] theorem State.setCore_packets : (s.setCore c v).packets = s.packets := rfl
@[simp] theorem State.setCore_items : (s.setCore c v).items = s.items := rfl
@[simp] theorem State.setCore_undeliverable : (s.setCore c v).undeliverable = s.undeliverable := rfl
@[simp] theorem State.setCore_fwBusy : (s.setCore c v).fwBusy = s.fwBusy := rfl
@[simp] theorem State.setCore_farIn : (s.setCore c v).farIn = s.farIn := rfl
@[simp] theorem State.setCore_fmOrder : (s.setCore c v).fmOrder = s.fmOrder := rfl
@[simp] theorem State.setCore_fwStopped : (s.setCore c v).fwStopped = s.fwStopped := rfl
@[simp] theorem State.setCore_fwNotes : (s.setCore c v).fwNotes = s.fwNotes := rfl
@[simp] theorem State.setCore_images : (s.setCore c v).images = s.images := rfl
@[simp] theorem State.setCore_flash : (s.setCore c v).flash = s.flash := rfl
@[simp] theorem State.setCore_plan : (s.setCore c v).plan = s.plan := rfl
@[simp] theorem State.setCore_planDev : (s.setCore c v).planDev = s.planDev := rfl
@[simp] theorem State.setCore_fmDead : (s.setCore c v).fmDead = s.fmDead := rfl
@[simp] theorem State.setCore_fmAgain : (s.setCore c v).fmAgain = s.fmAgain := rfl
@[simp] theorem State.setCore_fmHeard : (s.setCore c v).fmHeard = s.fmHeard := rfl
@[simp] theorem State.setCore_curCore : (s.setCore c v).curCore = s.curCore := rfl
@[simp] theorem State.setCore_curSlot : (s.setCore c v).curSlot = s.curSlot := rfl
@[simp] theorem State.setCore_curr : (s.setCore c v).curr = s.curr := rfl
@[simp] theorem State.setCore_subj : (s.setCore c v).subj = s.subj := rfl
@[simp] theorem State.setCore_agenda : (s.setCore c v).agenda = s.agenda := rfl
@[simp] theorem State.setCore_events : (s.setCore c v).events = s.events := rfl
@[simp] theorem State.setCore_nextId : (s.setCore c v).nextId = s.nextId := rfl
@[simp] theorem State.setCore_fresh : (s.setCore c v).fresh = s.fresh := rfl
end

/-! ### State.onCore -/

section
variable (s : State) (c : Nat) (f : Core → Core)
@[simp] theorem State.onCore_now : (s.onCore c f).now = s.now := rfl
@[simp] theorem State.onCore_clusters : (s.onCore c f).clusters = s.clusters := rfl
@[simp] theorem State.onCore_columns : (s.onCore c f).columns = s.columns := rfl
@[simp] theorem State.onCore_quads : (s.onCore c f).quads = s.quads := rfl
@[simp] theorem State.onCore_baseDies : (s.onCore c f).baseDies = s.baseDies := rfl
@[simp] theorem State.onCore_routers : (s.onCore c f).routers = s.routers := rfl
@[simp] theorem State.onCore_bankMem : (s.onCore c f).bankMem = s.bankMem := rfl
@[simp] theorem State.onCore_colMem : (s.onCore c f).colMem = s.colMem := rfl
@[simp] theorem State.onCore_hbm : (s.onCore c f).hbm = s.hbm := rfl
@[simp] theorem State.onCore_lp : (s.onCore c f).lp = s.lp := rfl
@[simp] theorem State.onCore_bankBad : (s.onCore c f).bankBad = s.bankBad := rfl
@[simp] theorem State.onCore_colBad : (s.onCore c f).colBad = s.colBad := rfl
@[simp] theorem State.onCore_bankErr : (s.onCore c f).bankErr = s.bankErr := rfl
@[simp] theorem State.onCore_colErr : (s.onCore c f).colErr = s.colErr := rfl
@[simp] theorem State.onCore_sectors : (s.onCore c f).sectors = s.sectors := rfl
@[simp] theorem State.onCore_groups : (s.onCore c f).groups = s.groups := rfl
@[simp] theorem State.onCore_keys : (s.onCore c f).keys = s.keys := rfl
@[simp] theorem State.onCore_devNo : (s.onCore c f).devNo = s.devNo := rfl
@[simp] theorem State.onCore_devMap : (s.onCore c f).devMap = s.devMap := rfl
@[simp] theorem State.onCore_sysEdition : (s.onCore c f).sysEdition = s.sysEdition := rfl
@[simp] theorem State.onCore_sysChart : (s.onCore c f).sysChart = s.sysChart := rfl
@[simp] theorem State.onCore_portsDown : (s.onCore c f).portsDown = s.portsDown := rfl
@[simp] theorem State.onCore_pathsDown : (s.onCore c f).pathsDown = s.pathsDown := rfl
@[simp] theorem State.onCore_ethIn : (s.onCore c f).ethIn = s.ethIn := rfl
@[simp] theorem State.onCore_ethEarly : (s.onCore c f).ethEarly = s.ethEarly := rfl
@[simp] theorem State.onCore_ethOut : (s.onCore c f).ethOut = s.ethOut := rfl
@[simp] theorem State.onCore_fwCounts : (s.onCore c f).fwCounts = s.fwCounts := rfl
@[simp] theorem State.onCore_streams : (s.onCore c f).streams = s.streams := rfl
@[simp] theorem State.onCore_devAcks : (s.onCore c f).devAcks = s.devAcks := rfl
@[simp] theorem State.onCore_packets : (s.onCore c f).packets = s.packets := rfl
@[simp] theorem State.onCore_items : (s.onCore c f).items = s.items := rfl
@[simp] theorem State.onCore_undeliverable : (s.onCore c f).undeliverable = s.undeliverable := rfl
@[simp] theorem State.onCore_fwBusy : (s.onCore c f).fwBusy = s.fwBusy := rfl
@[simp] theorem State.onCore_farIn : (s.onCore c f).farIn = s.farIn := rfl
@[simp] theorem State.onCore_fmOrder : (s.onCore c f).fmOrder = s.fmOrder := rfl
@[simp] theorem State.onCore_fwStopped : (s.onCore c f).fwStopped = s.fwStopped := rfl
@[simp] theorem State.onCore_fwNotes : (s.onCore c f).fwNotes = s.fwNotes := rfl
@[simp] theorem State.onCore_images : (s.onCore c f).images = s.images := rfl
@[simp] theorem State.onCore_flash : (s.onCore c f).flash = s.flash := rfl
@[simp] theorem State.onCore_plan : (s.onCore c f).plan = s.plan := rfl
@[simp] theorem State.onCore_planDev : (s.onCore c f).planDev = s.planDev := rfl
@[simp] theorem State.onCore_fmDead : (s.onCore c f).fmDead = s.fmDead := rfl
@[simp] theorem State.onCore_fmAgain : (s.onCore c f).fmAgain = s.fmAgain := rfl
@[simp] theorem State.onCore_fmHeard : (s.onCore c f).fmHeard = s.fmHeard := rfl
@[simp] theorem State.onCore_curCore : (s.onCore c f).curCore = s.curCore := rfl
@[simp] theorem State.onCore_curSlot : (s.onCore c f).curSlot = s.curSlot := rfl
@[simp] theorem State.onCore_curr : (s.onCore c f).curr = s.curr := rfl
@[simp] theorem State.onCore_subj : (s.onCore c f).subj = s.subj := rfl
@[simp] theorem State.onCore_agenda : (s.onCore c f).agenda = s.agenda := rfl
@[simp] theorem State.onCore_events : (s.onCore c f).events = s.events := rfl
@[simp] theorem State.onCore_nextId : (s.onCore c f).nextId = s.nextId := rfl
@[simp] theorem State.onCore_fresh : (s.onCore c f).fresh = s.fresh := rfl
end

/-! ### State.onColumn -/

section
variable (s : State) (k : Nat) (f : Column → Column)
@[simp] theorem State.onColumn_now : (s.onColumn k f).now = s.now := rfl
@[simp] theorem State.onColumn_clusters : (s.onColumn k f).clusters = s.clusters := rfl
@[simp] theorem State.onColumn_cores : (s.onColumn k f).cores = s.cores := rfl
@[simp] theorem State.onColumn_quads : (s.onColumn k f).quads = s.quads := rfl
@[simp] theorem State.onColumn_baseDies : (s.onColumn k f).baseDies = s.baseDies := rfl
@[simp] theorem State.onColumn_routers : (s.onColumn k f).routers = s.routers := rfl
@[simp] theorem State.onColumn_bankMem : (s.onColumn k f).bankMem = s.bankMem := rfl
@[simp] theorem State.onColumn_colMem : (s.onColumn k f).colMem = s.colMem := rfl
@[simp] theorem State.onColumn_hbm : (s.onColumn k f).hbm = s.hbm := rfl
@[simp] theorem State.onColumn_lp : (s.onColumn k f).lp = s.lp := rfl
@[simp] theorem State.onColumn_bankBad : (s.onColumn k f).bankBad = s.bankBad := rfl
@[simp] theorem State.onColumn_colBad : (s.onColumn k f).colBad = s.colBad := rfl
@[simp] theorem State.onColumn_bankErr : (s.onColumn k f).bankErr = s.bankErr := rfl
@[simp] theorem State.onColumn_colErr : (s.onColumn k f).colErr = s.colErr := rfl
@[simp] theorem State.onColumn_sectors : (s.onColumn k f).sectors = s.sectors := rfl
@[simp] theorem State.onColumn_groups : (s.onColumn k f).groups = s.groups := rfl
@[simp] theorem State.onColumn_keys : (s.onColumn k f).keys = s.keys := rfl
@[simp] theorem State.onColumn_devNo : (s.onColumn k f).devNo = s.devNo := rfl
@[simp] theorem State.onColumn_devMap : (s.onColumn k f).devMap = s.devMap := rfl
@[simp] theorem State.onColumn_sysEdition : (s.onColumn k f).sysEdition = s.sysEdition := rfl
@[simp] theorem State.onColumn_sysChart : (s.onColumn k f).sysChart = s.sysChart := rfl
@[simp] theorem State.onColumn_portsDown : (s.onColumn k f).portsDown = s.portsDown := rfl
@[simp] theorem State.onColumn_pathsDown : (s.onColumn k f).pathsDown = s.pathsDown := rfl
@[simp] theorem State.onColumn_ethIn : (s.onColumn k f).ethIn = s.ethIn := rfl
@[simp] theorem State.onColumn_ethEarly : (s.onColumn k f).ethEarly = s.ethEarly := rfl
@[simp] theorem State.onColumn_ethOut : (s.onColumn k f).ethOut = s.ethOut := rfl
@[simp] theorem State.onColumn_fwCounts : (s.onColumn k f).fwCounts = s.fwCounts := rfl
@[simp] theorem State.onColumn_streams : (s.onColumn k f).streams = s.streams := rfl
@[simp] theorem State.onColumn_devAcks : (s.onColumn k f).devAcks = s.devAcks := rfl
@[simp] theorem State.onColumn_packets : (s.onColumn k f).packets = s.packets := rfl
@[simp] theorem State.onColumn_items : (s.onColumn k f).items = s.items := rfl
@[simp] theorem State.onColumn_undeliverable : (s.onColumn k f).undeliverable = s.undeliverable := rfl
@[simp] theorem State.onColumn_fwBusy : (s.onColumn k f).fwBusy = s.fwBusy := rfl
@[simp] theorem State.onColumn_farIn : (s.onColumn k f).farIn = s.farIn := rfl
@[simp] theorem State.onColumn_fmOrder : (s.onColumn k f).fmOrder = s.fmOrder := rfl
@[simp] theorem State.onColumn_fwStopped : (s.onColumn k f).fwStopped = s.fwStopped := rfl
@[simp] theorem State.onColumn_fwNotes : (s.onColumn k f).fwNotes = s.fwNotes := rfl
@[simp] theorem State.onColumn_images : (s.onColumn k f).images = s.images := rfl
@[simp] theorem State.onColumn_flash : (s.onColumn k f).flash = s.flash := rfl
@[simp] theorem State.onColumn_plan : (s.onColumn k f).plan = s.plan := rfl
@[simp] theorem State.onColumn_planDev : (s.onColumn k f).planDev = s.planDev := rfl
@[simp] theorem State.onColumn_fmDead : (s.onColumn k f).fmDead = s.fmDead := rfl
@[simp] theorem State.onColumn_fmAgain : (s.onColumn k f).fmAgain = s.fmAgain := rfl
@[simp] theorem State.onColumn_fmHeard : (s.onColumn k f).fmHeard = s.fmHeard := rfl
@[simp] theorem State.onColumn_curCore : (s.onColumn k f).curCore = s.curCore := rfl
@[simp] theorem State.onColumn_curSlot : (s.onColumn k f).curSlot = s.curSlot := rfl
@[simp] theorem State.onColumn_curr : (s.onColumn k f).curr = s.curr := rfl
@[simp] theorem State.onColumn_subj : (s.onColumn k f).subj = s.subj := rfl
@[simp] theorem State.onColumn_agenda : (s.onColumn k f).agenda = s.agenda := rfl
@[simp] theorem State.onColumn_events : (s.onColumn k f).events = s.events := rfl
@[simp] theorem State.onColumn_nextId : (s.onColumn k f).nextId = s.nextId := rfl
@[simp] theorem State.onColumn_fresh : (s.onColumn k f).fresh = s.fresh := rfl
end

/-! ### State.onCluster -/

section
variable (s : State) (k : Nat) (f : Cluster → Cluster)
@[simp] theorem State.onCluster_now : (s.onCluster k f).now = s.now := rfl
@[simp] theorem State.onCluster_cores : (s.onCluster k f).cores = s.cores := rfl
@[simp] theorem State.onCluster_columns : (s.onCluster k f).columns = s.columns := rfl
@[simp] theorem State.onCluster_quads : (s.onCluster k f).quads = s.quads := rfl
@[simp] theorem State.onCluster_baseDies : (s.onCluster k f).baseDies = s.baseDies := rfl
@[simp] theorem State.onCluster_routers : (s.onCluster k f).routers = s.routers := rfl
@[simp] theorem State.onCluster_bankMem : (s.onCluster k f).bankMem = s.bankMem := rfl
@[simp] theorem State.onCluster_colMem : (s.onCluster k f).colMem = s.colMem := rfl
@[simp] theorem State.onCluster_hbm : (s.onCluster k f).hbm = s.hbm := rfl
@[simp] theorem State.onCluster_lp : (s.onCluster k f).lp = s.lp := rfl
@[simp] theorem State.onCluster_bankBad : (s.onCluster k f).bankBad = s.bankBad := rfl
@[simp] theorem State.onCluster_colBad : (s.onCluster k f).colBad = s.colBad := rfl
@[simp] theorem State.onCluster_bankErr : (s.onCluster k f).bankErr = s.bankErr := rfl
@[simp] theorem State.onCluster_colErr : (s.onCluster k f).colErr = s.colErr := rfl
@[simp] theorem State.onCluster_sectors : (s.onCluster k f).sectors = s.sectors := rfl
@[simp] theorem State.onCluster_groups : (s.onCluster k f).groups = s.groups := rfl
@[simp] theorem State.onCluster_keys : (s.onCluster k f).keys = s.keys := rfl
@[simp] theorem State.onCluster_devNo : (s.onCluster k f).devNo = s.devNo := rfl
@[simp] theorem State.onCluster_devMap : (s.onCluster k f).devMap = s.devMap := rfl
@[simp] theorem State.onCluster_sysEdition : (s.onCluster k f).sysEdition = s.sysEdition := rfl
@[simp] theorem State.onCluster_sysChart : (s.onCluster k f).sysChart = s.sysChart := rfl
@[simp] theorem State.onCluster_portsDown : (s.onCluster k f).portsDown = s.portsDown := rfl
@[simp] theorem State.onCluster_pathsDown : (s.onCluster k f).pathsDown = s.pathsDown := rfl
@[simp] theorem State.onCluster_ethIn : (s.onCluster k f).ethIn = s.ethIn := rfl
@[simp] theorem State.onCluster_ethEarly : (s.onCluster k f).ethEarly = s.ethEarly := rfl
@[simp] theorem State.onCluster_ethOut : (s.onCluster k f).ethOut = s.ethOut := rfl
@[simp] theorem State.onCluster_fwCounts : (s.onCluster k f).fwCounts = s.fwCounts := rfl
@[simp] theorem State.onCluster_streams : (s.onCluster k f).streams = s.streams := rfl
@[simp] theorem State.onCluster_devAcks : (s.onCluster k f).devAcks = s.devAcks := rfl
@[simp] theorem State.onCluster_packets : (s.onCluster k f).packets = s.packets := rfl
@[simp] theorem State.onCluster_items : (s.onCluster k f).items = s.items := rfl
@[simp] theorem State.onCluster_undeliverable : (s.onCluster k f).undeliverable = s.undeliverable := rfl
@[simp] theorem State.onCluster_fwBusy : (s.onCluster k f).fwBusy = s.fwBusy := rfl
@[simp] theorem State.onCluster_farIn : (s.onCluster k f).farIn = s.farIn := rfl
@[simp] theorem State.onCluster_fmOrder : (s.onCluster k f).fmOrder = s.fmOrder := rfl
@[simp] theorem State.onCluster_fwStopped : (s.onCluster k f).fwStopped = s.fwStopped := rfl
@[simp] theorem State.onCluster_fwNotes : (s.onCluster k f).fwNotes = s.fwNotes := rfl
@[simp] theorem State.onCluster_images : (s.onCluster k f).images = s.images := rfl
@[simp] theorem State.onCluster_flash : (s.onCluster k f).flash = s.flash := rfl
@[simp] theorem State.onCluster_plan : (s.onCluster k f).plan = s.plan := rfl
@[simp] theorem State.onCluster_planDev : (s.onCluster k f).planDev = s.planDev := rfl
@[simp] theorem State.onCluster_fmDead : (s.onCluster k f).fmDead = s.fmDead := rfl
@[simp] theorem State.onCluster_fmAgain : (s.onCluster k f).fmAgain = s.fmAgain := rfl
@[simp] theorem State.onCluster_fmHeard : (s.onCluster k f).fmHeard = s.fmHeard := rfl
@[simp] theorem State.onCluster_curCore : (s.onCluster k f).curCore = s.curCore := rfl
@[simp] theorem State.onCluster_curSlot : (s.onCluster k f).curSlot = s.curSlot := rfl
@[simp] theorem State.onCluster_curr : (s.onCluster k f).curr = s.curr := rfl
@[simp] theorem State.onCluster_subj : (s.onCluster k f).subj = s.subj := rfl
@[simp] theorem State.onCluster_agenda : (s.onCluster k f).agenda = s.agenda := rfl
@[simp] theorem State.onCluster_events : (s.onCluster k f).events = s.events := rfl
@[simp] theorem State.onCluster_nextId : (s.onCluster k f).nextId = s.nextId := rfl
@[simp] theorem State.onCluster_fresh : (s.onCluster k f).fresh = s.fresh := rfl
end

/-! ### State.onQuad -/

section
variable (s : State) (k : Nat) (f : Quad → Quad)
@[simp] theorem State.onQuad_now : (s.onQuad k f).now = s.now := rfl
@[simp] theorem State.onQuad_clusters : (s.onQuad k f).clusters = s.clusters := rfl
@[simp] theorem State.onQuad_cores : (s.onQuad k f).cores = s.cores := rfl
@[simp] theorem State.onQuad_columns : (s.onQuad k f).columns = s.columns := rfl
@[simp] theorem State.onQuad_baseDies : (s.onQuad k f).baseDies = s.baseDies := rfl
@[simp] theorem State.onQuad_routers : (s.onQuad k f).routers = s.routers := rfl
@[simp] theorem State.onQuad_bankMem : (s.onQuad k f).bankMem = s.bankMem := rfl
@[simp] theorem State.onQuad_colMem : (s.onQuad k f).colMem = s.colMem := rfl
@[simp] theorem State.onQuad_hbm : (s.onQuad k f).hbm = s.hbm := rfl
@[simp] theorem State.onQuad_lp : (s.onQuad k f).lp = s.lp := rfl
@[simp] theorem State.onQuad_bankBad : (s.onQuad k f).bankBad = s.bankBad := rfl
@[simp] theorem State.onQuad_colBad : (s.onQuad k f).colBad = s.colBad := rfl
@[simp] theorem State.onQuad_bankErr : (s.onQuad k f).bankErr = s.bankErr := rfl
@[simp] theorem State.onQuad_colErr : (s.onQuad k f).colErr = s.colErr := rfl
@[simp] theorem State.onQuad_sectors : (s.onQuad k f).sectors = s.sectors := rfl
@[simp] theorem State.onQuad_groups : (s.onQuad k f).groups = s.groups := rfl
@[simp] theorem State.onQuad_keys : (s.onQuad k f).keys = s.keys := rfl
@[simp] theorem State.onQuad_devNo : (s.onQuad k f).devNo = s.devNo := rfl
@[simp] theorem State.onQuad_devMap : (s.onQuad k f).devMap = s.devMap := rfl
@[simp] theorem State.onQuad_sysEdition : (s.onQuad k f).sysEdition = s.sysEdition := rfl
@[simp] theorem State.onQuad_sysChart : (s.onQuad k f).sysChart = s.sysChart := rfl
@[simp] theorem State.onQuad_portsDown : (s.onQuad k f).portsDown = s.portsDown := rfl
@[simp] theorem State.onQuad_pathsDown : (s.onQuad k f).pathsDown = s.pathsDown := rfl
@[simp] theorem State.onQuad_ethIn : (s.onQuad k f).ethIn = s.ethIn := rfl
@[simp] theorem State.onQuad_ethEarly : (s.onQuad k f).ethEarly = s.ethEarly := rfl
@[simp] theorem State.onQuad_ethOut : (s.onQuad k f).ethOut = s.ethOut := rfl
@[simp] theorem State.onQuad_fwCounts : (s.onQuad k f).fwCounts = s.fwCounts := rfl
@[simp] theorem State.onQuad_streams : (s.onQuad k f).streams = s.streams := rfl
@[simp] theorem State.onQuad_devAcks : (s.onQuad k f).devAcks = s.devAcks := rfl
@[simp] theorem State.onQuad_packets : (s.onQuad k f).packets = s.packets := rfl
@[simp] theorem State.onQuad_items : (s.onQuad k f).items = s.items := rfl
@[simp] theorem State.onQuad_undeliverable : (s.onQuad k f).undeliverable = s.undeliverable := rfl
@[simp] theorem State.onQuad_fwBusy : (s.onQuad k f).fwBusy = s.fwBusy := rfl
@[simp] theorem State.onQuad_farIn : (s.onQuad k f).farIn = s.farIn := rfl
@[simp] theorem State.onQuad_fmOrder : (s.onQuad k f).fmOrder = s.fmOrder := rfl
@[simp] theorem State.onQuad_fwStopped : (s.onQuad k f).fwStopped = s.fwStopped := rfl
@[simp] theorem State.onQuad_fwNotes : (s.onQuad k f).fwNotes = s.fwNotes := rfl
@[simp] theorem State.onQuad_images : (s.onQuad k f).images = s.images := rfl
@[simp] theorem State.onQuad_flash : (s.onQuad k f).flash = s.flash := rfl
@[simp] theorem State.onQuad_plan : (s.onQuad k f).plan = s.plan := rfl
@[simp] theorem State.onQuad_planDev : (s.onQuad k f).planDev = s.planDev := rfl
@[simp] theorem State.onQuad_fmDead : (s.onQuad k f).fmDead = s.fmDead := rfl
@[simp] theorem State.onQuad_fmAgain : (s.onQuad k f).fmAgain = s.fmAgain := rfl
@[simp] theorem State.onQuad_fmHeard : (s.onQuad k f).fmHeard = s.fmHeard := rfl
@[simp] theorem State.onQuad_curCore : (s.onQuad k f).curCore = s.curCore := rfl
@[simp] theorem State.onQuad_curSlot : (s.onQuad k f).curSlot = s.curSlot := rfl
@[simp] theorem State.onQuad_curr : (s.onQuad k f).curr = s.curr := rfl
@[simp] theorem State.onQuad_subj : (s.onQuad k f).subj = s.subj := rfl
@[simp] theorem State.onQuad_agenda : (s.onQuad k f).agenda = s.agenda := rfl
@[simp] theorem State.onQuad_events : (s.onQuad k f).events = s.events := rfl
@[simp] theorem State.onQuad_nextId : (s.onQuad k f).nextId = s.nextId := rfl
@[simp] theorem State.onQuad_fresh : (s.onQuad k f).fresh = s.fresh := rfl
end

/-! ### State.onStack -/

section
variable (s : State) (k : Nat) (f : Stack → Stack)
@[simp] theorem State.onStack_now : (s.onStack k f).now = s.now := rfl
@[simp] theorem State.onStack_clusters : (s.onStack k f).clusters = s.clusters := rfl
@[simp] theorem State.onStack_cores : (s.onStack k f).cores = s.cores := rfl
@[simp] theorem State.onStack_columns : (s.onStack k f).columns = s.columns := rfl
@[simp] theorem State.onStack_quads : (s.onStack k f).quads = s.quads := rfl
@[simp] theorem State.onStack_routers : (s.onStack k f).routers = s.routers := rfl
@[simp] theorem State.onStack_bankMem : (s.onStack k f).bankMem = s.bankMem := rfl
@[simp] theorem State.onStack_colMem : (s.onStack k f).colMem = s.colMem := rfl
@[simp] theorem State.onStack_hbm : (s.onStack k f).hbm = s.hbm := rfl
@[simp] theorem State.onStack_lp : (s.onStack k f).lp = s.lp := rfl
@[simp] theorem State.onStack_bankBad : (s.onStack k f).bankBad = s.bankBad := rfl
@[simp] theorem State.onStack_colBad : (s.onStack k f).colBad = s.colBad := rfl
@[simp] theorem State.onStack_bankErr : (s.onStack k f).bankErr = s.bankErr := rfl
@[simp] theorem State.onStack_colErr : (s.onStack k f).colErr = s.colErr := rfl
@[simp] theorem State.onStack_sectors : (s.onStack k f).sectors = s.sectors := rfl
@[simp] theorem State.onStack_groups : (s.onStack k f).groups = s.groups := rfl
@[simp] theorem State.onStack_keys : (s.onStack k f).keys = s.keys := rfl
@[simp] theorem State.onStack_devNo : (s.onStack k f).devNo = s.devNo := rfl
@[simp] theorem State.onStack_devMap : (s.onStack k f).devMap = s.devMap := rfl
@[simp] theorem State.onStack_sysEdition : (s.onStack k f).sysEdition = s.sysEdition := rfl
@[simp] theorem State.onStack_sysChart : (s.onStack k f).sysChart = s.sysChart := rfl
@[simp] theorem State.onStack_portsDown : (s.onStack k f).portsDown = s.portsDown := rfl
@[simp] theorem State.onStack_pathsDown : (s.onStack k f).pathsDown = s.pathsDown := rfl
@[simp] theorem State.onStack_ethIn : (s.onStack k f).ethIn = s.ethIn := rfl
@[simp] theorem State.onStack_ethEarly : (s.onStack k f).ethEarly = s.ethEarly := rfl
@[simp] theorem State.onStack_ethOut : (s.onStack k f).ethOut = s.ethOut := rfl
@[simp] theorem State.onStack_fwCounts : (s.onStack k f).fwCounts = s.fwCounts := rfl
@[simp] theorem State.onStack_streams : (s.onStack k f).streams = s.streams := rfl
@[simp] theorem State.onStack_devAcks : (s.onStack k f).devAcks = s.devAcks := rfl
@[simp] theorem State.onStack_packets : (s.onStack k f).packets = s.packets := rfl
@[simp] theorem State.onStack_items : (s.onStack k f).items = s.items := rfl
@[simp] theorem State.onStack_undeliverable : (s.onStack k f).undeliverable = s.undeliverable := rfl
@[simp] theorem State.onStack_fwBusy : (s.onStack k f).fwBusy = s.fwBusy := rfl
@[simp] theorem State.onStack_farIn : (s.onStack k f).farIn = s.farIn := rfl
@[simp] theorem State.onStack_fmOrder : (s.onStack k f).fmOrder = s.fmOrder := rfl
@[simp] theorem State.onStack_fwStopped : (s.onStack k f).fwStopped = s.fwStopped := rfl
@[simp] theorem State.onStack_fwNotes : (s.onStack k f).fwNotes = s.fwNotes := rfl
@[simp] theorem State.onStack_images : (s.onStack k f).images = s.images := rfl
@[simp] theorem State.onStack_flash : (s.onStack k f).flash = s.flash := rfl
@[simp] theorem State.onStack_plan : (s.onStack k f).plan = s.plan := rfl
@[simp] theorem State.onStack_planDev : (s.onStack k f).planDev = s.planDev := rfl
@[simp] theorem State.onStack_fmDead : (s.onStack k f).fmDead = s.fmDead := rfl
@[simp] theorem State.onStack_fmAgain : (s.onStack k f).fmAgain = s.fmAgain := rfl
@[simp] theorem State.onStack_fmHeard : (s.onStack k f).fmHeard = s.fmHeard := rfl
@[simp] theorem State.onStack_curCore : (s.onStack k f).curCore = s.curCore := rfl
@[simp] theorem State.onStack_curSlot : (s.onStack k f).curSlot = s.curSlot := rfl
@[simp] theorem State.onStack_curr : (s.onStack k f).curr = s.curr := rfl
@[simp] theorem State.onStack_subj : (s.onStack k f).subj = s.subj := rfl
@[simp] theorem State.onStack_agenda : (s.onStack k f).agenda = s.agenda := rfl
@[simp] theorem State.onStack_events : (s.onStack k f).events = s.events := rfl
@[simp] theorem State.onStack_nextId : (s.onStack k f).nextId = s.nextId := rfl
@[simp] theorem State.onStack_fresh : (s.onStack k f).fresh = s.fresh := rfl
end

/-! ### State.onRouter -/

section
variable (s : State) (k : Nat) (f : Router → Router)
@[simp] theorem State.onRouter_now : (s.onRouter k f).now = s.now := rfl
@[simp] theorem State.onRouter_clusters : (s.onRouter k f).clusters = s.clusters := rfl
@[simp] theorem State.onRouter_cores : (s.onRouter k f).cores = s.cores := rfl
@[simp] theorem State.onRouter_columns : (s.onRouter k f).columns = s.columns := rfl
@[simp] theorem State.onRouter_quads : (s.onRouter k f).quads = s.quads := rfl
@[simp] theorem State.onRouter_baseDies : (s.onRouter k f).baseDies = s.baseDies := rfl
@[simp] theorem State.onRouter_bankMem : (s.onRouter k f).bankMem = s.bankMem := rfl
@[simp] theorem State.onRouter_colMem : (s.onRouter k f).colMem = s.colMem := rfl
@[simp] theorem State.onRouter_hbm : (s.onRouter k f).hbm = s.hbm := rfl
@[simp] theorem State.onRouter_lp : (s.onRouter k f).lp = s.lp := rfl
@[simp] theorem State.onRouter_bankBad : (s.onRouter k f).bankBad = s.bankBad := rfl
@[simp] theorem State.onRouter_colBad : (s.onRouter k f).colBad = s.colBad := rfl
@[simp] theorem State.onRouter_bankErr : (s.onRouter k f).bankErr = s.bankErr := rfl
@[simp] theorem State.onRouter_colErr : (s.onRouter k f).colErr = s.colErr := rfl
@[simp] theorem State.onRouter_sectors : (s.onRouter k f).sectors = s.sectors := rfl
@[simp] theorem State.onRouter_groups : (s.onRouter k f).groups = s.groups := rfl
@[simp] theorem State.onRouter_keys : (s.onRouter k f).keys = s.keys := rfl
@[simp] theorem State.onRouter_devNo : (s.onRouter k f).devNo = s.devNo := rfl
@[simp] theorem State.onRouter_devMap : (s.onRouter k f).devMap = s.devMap := rfl
@[simp] theorem State.onRouter_sysEdition : (s.onRouter k f).sysEdition = s.sysEdition := rfl
@[simp] theorem State.onRouter_sysChart : (s.onRouter k f).sysChart = s.sysChart := rfl
@[simp] theorem State.onRouter_portsDown : (s.onRouter k f).portsDown = s.portsDown := rfl
@[simp] theorem State.onRouter_pathsDown : (s.onRouter k f).pathsDown = s.pathsDown := rfl
@[simp] theorem State.onRouter_ethIn : (s.onRouter k f).ethIn = s.ethIn := rfl
@[simp] theorem State.onRouter_ethEarly : (s.onRouter k f).ethEarly = s.ethEarly := rfl
@[simp] theorem State.onRouter_ethOut : (s.onRouter k f).ethOut = s.ethOut := rfl
@[simp] theorem State.onRouter_fwCounts : (s.onRouter k f).fwCounts = s.fwCounts := rfl
@[simp] theorem State.onRouter_streams : (s.onRouter k f).streams = s.streams := rfl
@[simp] theorem State.onRouter_devAcks : (s.onRouter k f).devAcks = s.devAcks := rfl
@[simp] theorem State.onRouter_packets : (s.onRouter k f).packets = s.packets := rfl
@[simp] theorem State.onRouter_items : (s.onRouter k f).items = s.items := rfl
@[simp] theorem State.onRouter_undeliverable : (s.onRouter k f).undeliverable = s.undeliverable := rfl
@[simp] theorem State.onRouter_fwBusy : (s.onRouter k f).fwBusy = s.fwBusy := rfl
@[simp] theorem State.onRouter_farIn : (s.onRouter k f).farIn = s.farIn := rfl
@[simp] theorem State.onRouter_fmOrder : (s.onRouter k f).fmOrder = s.fmOrder := rfl
@[simp] theorem State.onRouter_fwStopped : (s.onRouter k f).fwStopped = s.fwStopped := rfl
@[simp] theorem State.onRouter_fwNotes : (s.onRouter k f).fwNotes = s.fwNotes := rfl
@[simp] theorem State.onRouter_images : (s.onRouter k f).images = s.images := rfl
@[simp] theorem State.onRouter_flash : (s.onRouter k f).flash = s.flash := rfl
@[simp] theorem State.onRouter_plan : (s.onRouter k f).plan = s.plan := rfl
@[simp] theorem State.onRouter_planDev : (s.onRouter k f).planDev = s.planDev := rfl
@[simp] theorem State.onRouter_fmDead : (s.onRouter k f).fmDead = s.fmDead := rfl
@[simp] theorem State.onRouter_fmAgain : (s.onRouter k f).fmAgain = s.fmAgain := rfl
@[simp] theorem State.onRouter_fmHeard : (s.onRouter k f).fmHeard = s.fmHeard := rfl
@[simp] theorem State.onRouter_curCore : (s.onRouter k f).curCore = s.curCore := rfl
@[simp] theorem State.onRouter_curSlot : (s.onRouter k f).curSlot = s.curSlot := rfl
@[simp] theorem State.onRouter_curr : (s.onRouter k f).curr = s.curr := rfl
@[simp] theorem State.onRouter_subj : (s.onRouter k f).subj = s.subj := rfl
@[simp] theorem State.onRouter_agenda : (s.onRouter k f).agenda = s.agenda := rfl
@[simp] theorem State.onRouter_events : (s.onRouter k f).events = s.events := rfl
@[simp] theorem State.onRouter_nextId : (s.onRouter k f).nextId = s.nextId := rfl
@[simp] theorem State.onRouter_fresh : (s.onRouter k f).fresh = s.fresh := rfl
end

/-! ### State.setSlot -/

section
variable (s : State) (c sl : Nat) (v : Slot)
@[simp] theorem State.setSlot_now : (s.setSlot c sl v).now = s.now := rfl
@[simp] theorem State.setSlot_clusters : (s.setSlot c sl v).clusters = s.clusters := rfl
@[simp] theorem State.setSlot_columns : (s.setSlot c sl v).columns = s.columns := rfl
@[simp] theorem State.setSlot_quads : (s.setSlot c sl v).quads = s.quads := rfl
@[simp] theorem State.setSlot_baseDies : (s.setSlot c sl v).baseDies = s.baseDies := rfl
@[simp] theorem State.setSlot_routers : (s.setSlot c sl v).routers = s.routers := rfl
@[simp] theorem State.setSlot_bankMem : (s.setSlot c sl v).bankMem = s.bankMem := rfl
@[simp] theorem State.setSlot_colMem : (s.setSlot c sl v).colMem = s.colMem := rfl
@[simp] theorem State.setSlot_hbm : (s.setSlot c sl v).hbm = s.hbm := rfl
@[simp] theorem State.setSlot_lp : (s.setSlot c sl v).lp = s.lp := rfl
@[simp] theorem State.setSlot_bankBad : (s.setSlot c sl v).bankBad = s.bankBad := rfl
@[simp] theorem State.setSlot_colBad : (s.setSlot c sl v).colBad = s.colBad := rfl
@[simp] theorem State.setSlot_bankErr : (s.setSlot c sl v).bankErr = s.bankErr := rfl
@[simp] theorem State.setSlot_colErr : (s.setSlot c sl v).colErr = s.colErr := rfl
@[simp] theorem State.setSlot_sectors : (s.setSlot c sl v).sectors = s.sectors := rfl
@[simp] theorem State.setSlot_groups : (s.setSlot c sl v).groups = s.groups := rfl
@[simp] theorem State.setSlot_keys : (s.setSlot c sl v).keys = s.keys := rfl
@[simp] theorem State.setSlot_devNo : (s.setSlot c sl v).devNo = s.devNo := rfl
@[simp] theorem State.setSlot_devMap : (s.setSlot c sl v).devMap = s.devMap := rfl
@[simp] theorem State.setSlot_sysEdition : (s.setSlot c sl v).sysEdition = s.sysEdition := rfl
@[simp] theorem State.setSlot_sysChart : (s.setSlot c sl v).sysChart = s.sysChart := rfl
@[simp] theorem State.setSlot_portsDown : (s.setSlot c sl v).portsDown = s.portsDown := rfl
@[simp] theorem State.setSlot_pathsDown : (s.setSlot c sl v).pathsDown = s.pathsDown := rfl
@[simp] theorem State.setSlot_ethIn : (s.setSlot c sl v).ethIn = s.ethIn := rfl
@[simp] theorem State.setSlot_ethEarly : (s.setSlot c sl v).ethEarly = s.ethEarly := rfl
@[simp] theorem State.setSlot_ethOut : (s.setSlot c sl v).ethOut = s.ethOut := rfl
@[simp] theorem State.setSlot_fwCounts : (s.setSlot c sl v).fwCounts = s.fwCounts := rfl
@[simp] theorem State.setSlot_streams : (s.setSlot c sl v).streams = s.streams := rfl
@[simp] theorem State.setSlot_devAcks : (s.setSlot c sl v).devAcks = s.devAcks := rfl
@[simp] theorem State.setSlot_packets : (s.setSlot c sl v).packets = s.packets := rfl
@[simp] theorem State.setSlot_items : (s.setSlot c sl v).items = s.items := rfl
@[simp] theorem State.setSlot_undeliverable : (s.setSlot c sl v).undeliverable = s.undeliverable := rfl
@[simp] theorem State.setSlot_fwBusy : (s.setSlot c sl v).fwBusy = s.fwBusy := rfl
@[simp] theorem State.setSlot_farIn : (s.setSlot c sl v).farIn = s.farIn := rfl
@[simp] theorem State.setSlot_fmOrder : (s.setSlot c sl v).fmOrder = s.fmOrder := rfl
@[simp] theorem State.setSlot_fwStopped : (s.setSlot c sl v).fwStopped = s.fwStopped := rfl
@[simp] theorem State.setSlot_fwNotes : (s.setSlot c sl v).fwNotes = s.fwNotes := rfl
@[simp] theorem State.setSlot_images : (s.setSlot c sl v).images = s.images := rfl
@[simp] theorem State.setSlot_flash : (s.setSlot c sl v).flash = s.flash := rfl
@[simp] theorem State.setSlot_plan : (s.setSlot c sl v).plan = s.plan := rfl
@[simp] theorem State.setSlot_planDev : (s.setSlot c sl v).planDev = s.planDev := rfl
@[simp] theorem State.setSlot_fmDead : (s.setSlot c sl v).fmDead = s.fmDead := rfl
@[simp] theorem State.setSlot_fmAgain : (s.setSlot c sl v).fmAgain = s.fmAgain := rfl
@[simp] theorem State.setSlot_fmHeard : (s.setSlot c sl v).fmHeard = s.fmHeard := rfl
@[simp] theorem State.setSlot_curCore : (s.setSlot c sl v).curCore = s.curCore := rfl
@[simp] theorem State.setSlot_curSlot : (s.setSlot c sl v).curSlot = s.curSlot := rfl
@[simp] theorem State.setSlot_curr : (s.setSlot c sl v).curr = s.curr := rfl
@[simp] theorem State.setSlot_subj : (s.setSlot c sl v).subj = s.subj := rfl
@[simp] theorem State.setSlot_agenda : (s.setSlot c sl v).agenda = s.agenda := rfl
@[simp] theorem State.setSlot_events : (s.setSlot c sl v).events = s.events := rfl
@[simp] theorem State.setSlot_nextId : (s.setSlot c sl v).nextId = s.nextId := rfl
@[simp] theorem State.setSlot_fresh : (s.setSlot c sl v).fresh = s.fresh := rfl
end

/-! ### State.setThread -/

section
variable (s : State) (c sl : Nat) (th : Thread)
@[simp] theorem State.setThread_now : (s.setThread c sl th).now = s.now := rfl
@[simp] theorem State.setThread_clusters : (s.setThread c sl th).clusters = s.clusters := rfl
@[simp] theorem State.setThread_columns : (s.setThread c sl th).columns = s.columns := rfl
@[simp] theorem State.setThread_quads : (s.setThread c sl th).quads = s.quads := rfl
@[simp] theorem State.setThread_baseDies : (s.setThread c sl th).baseDies = s.baseDies := rfl
@[simp] theorem State.setThread_routers : (s.setThread c sl th).routers = s.routers := rfl
@[simp] theorem State.setThread_bankMem : (s.setThread c sl th).bankMem = s.bankMem := rfl
@[simp] theorem State.setThread_colMem : (s.setThread c sl th).colMem = s.colMem := rfl
@[simp] theorem State.setThread_hbm : (s.setThread c sl th).hbm = s.hbm := rfl
@[simp] theorem State.setThread_lp : (s.setThread c sl th).lp = s.lp := rfl
@[simp] theorem State.setThread_bankBad : (s.setThread c sl th).bankBad = s.bankBad := rfl
@[simp] theorem State.setThread_colBad : (s.setThread c sl th).colBad = s.colBad := rfl
@[simp] theorem State.setThread_bankErr : (s.setThread c sl th).bankErr = s.bankErr := rfl
@[simp] theorem State.setThread_colErr : (s.setThread c sl th).colErr = s.colErr := rfl
@[simp] theorem State.setThread_sectors : (s.setThread c sl th).sectors = s.sectors := rfl
@[simp] theorem State.setThread_groups : (s.setThread c sl th).groups = s.groups := rfl
@[simp] theorem State.setThread_keys : (s.setThread c sl th).keys = s.keys := rfl
@[simp] theorem State.setThread_devNo : (s.setThread c sl th).devNo = s.devNo := rfl
@[simp] theorem State.setThread_devMap : (s.setThread c sl th).devMap = s.devMap := rfl
@[simp] theorem State.setThread_sysEdition : (s.setThread c sl th).sysEdition = s.sysEdition := rfl
@[simp] theorem State.setThread_sysChart : (s.setThread c sl th).sysChart = s.sysChart := rfl
@[simp] theorem State.setThread_portsDown : (s.setThread c sl th).portsDown = s.portsDown := rfl
@[simp] theorem State.setThread_pathsDown : (s.setThread c sl th).pathsDown = s.pathsDown := rfl
@[simp] theorem State.setThread_ethIn : (s.setThread c sl th).ethIn = s.ethIn := rfl
@[simp] theorem State.setThread_ethEarly : (s.setThread c sl th).ethEarly = s.ethEarly := rfl
@[simp] theorem State.setThread_ethOut : (s.setThread c sl th).ethOut = s.ethOut := rfl
@[simp] theorem State.setThread_fwCounts : (s.setThread c sl th).fwCounts = s.fwCounts := rfl
@[simp] theorem State.setThread_streams : (s.setThread c sl th).streams = s.streams := rfl
@[simp] theorem State.setThread_devAcks : (s.setThread c sl th).devAcks = s.devAcks := rfl
@[simp] theorem State.setThread_packets : (s.setThread c sl th).packets = s.packets := rfl
@[simp] theorem State.setThread_items : (s.setThread c sl th).items = s.items := rfl
@[simp] theorem State.setThread_undeliverable : (s.setThread c sl th).undeliverable = s.undeliverable := rfl
@[simp] theorem State.setThread_fwBusy : (s.setThread c sl th).fwBusy = s.fwBusy := rfl
@[simp] theorem State.setThread_farIn : (s.setThread c sl th).farIn = s.farIn := rfl
@[simp] theorem State.setThread_fmOrder : (s.setThread c sl th).fmOrder = s.fmOrder := rfl
@[simp] theorem State.setThread_fwStopped : (s.setThread c sl th).fwStopped = s.fwStopped := rfl
@[simp] theorem State.setThread_fwNotes : (s.setThread c sl th).fwNotes = s.fwNotes := rfl
@[simp] theorem State.setThread_images : (s.setThread c sl th).images = s.images := rfl
@[simp] theorem State.setThread_flash : (s.setThread c sl th).flash = s.flash := rfl
@[simp] theorem State.setThread_plan : (s.setThread c sl th).plan = s.plan := rfl
@[simp] theorem State.setThread_planDev : (s.setThread c sl th).planDev = s.planDev := rfl
@[simp] theorem State.setThread_fmDead : (s.setThread c sl th).fmDead = s.fmDead := rfl
@[simp] theorem State.setThread_fmAgain : (s.setThread c sl th).fmAgain = s.fmAgain := rfl
@[simp] theorem State.setThread_fmHeard : (s.setThread c sl th).fmHeard = s.fmHeard := rfl
@[simp] theorem State.setThread_curCore : (s.setThread c sl th).curCore = s.curCore := rfl
@[simp] theorem State.setThread_curSlot : (s.setThread c sl th).curSlot = s.curSlot := rfl
@[simp] theorem State.setThread_curr : (s.setThread c sl th).curr = s.curr := rfl
@[simp] theorem State.setThread_subj : (s.setThread c sl th).subj = s.subj := rfl
@[simp] theorem State.setThread_agenda : (s.setThread c sl th).agenda = s.agenda := rfl
@[simp] theorem State.setThread_events : (s.setThread c sl th).events = s.events := rfl
@[simp] theorem State.setThread_nextId : (s.setThread c sl th).nextId = s.nextId := rfl
@[simp] theorem State.setThread_fresh : (s.setThread c sl th).fresh = s.fresh := rfl
end

/-! ### State.onThread -/

section
variable (s : State) (c sl : Nat) (f : Thread → Thread)
@[simp] theorem State.onThread_now : (s.onThread c sl f).now = s.now := rfl
@[simp] theorem State.onThread_clusters : (s.onThread c sl f).clusters = s.clusters := rfl
@[simp] theorem State.onThread_columns : (s.onThread c sl f).columns = s.columns := rfl
@[simp] theorem State.onThread_quads : (s.onThread c sl f).quads = s.quads := rfl
@[simp] theorem State.onThread_baseDies : (s.onThread c sl f).baseDies = s.baseDies := rfl
@[simp] theorem State.onThread_routers : (s.onThread c sl f).routers = s.routers := rfl
@[simp] theorem State.onThread_bankMem : (s.onThread c sl f).bankMem = s.bankMem := rfl
@[simp] theorem State.onThread_colMem : (s.onThread c sl f).colMem = s.colMem := rfl
@[simp] theorem State.onThread_hbm : (s.onThread c sl f).hbm = s.hbm := rfl
@[simp] theorem State.onThread_lp : (s.onThread c sl f).lp = s.lp := rfl
@[simp] theorem State.onThread_bankBad : (s.onThread c sl f).bankBad = s.bankBad := rfl
@[simp] theorem State.onThread_colBad : (s.onThread c sl f).colBad = s.colBad := rfl
@[simp] theorem State.onThread_bankErr : (s.onThread c sl f).bankErr = s.bankErr := rfl
@[simp] theorem State.onThread_colErr : (s.onThread c sl f).colErr = s.colErr := rfl
@[simp] theorem State.onThread_sectors : (s.onThread c sl f).sectors = s.sectors := rfl
@[simp] theorem State.onThread_groups : (s.onThread c sl f).groups = s.groups := rfl
@[simp] theorem State.onThread_keys : (s.onThread c sl f).keys = s.keys := rfl
@[simp] theorem State.onThread_devNo : (s.onThread c sl f).devNo = s.devNo := rfl
@[simp] theorem State.onThread_devMap : (s.onThread c sl f).devMap = s.devMap := rfl
@[simp] theorem State.onThread_sysEdition : (s.onThread c sl f).sysEdition = s.sysEdition := rfl
@[simp] theorem State.onThread_sysChart : (s.onThread c sl f).sysChart = s.sysChart := rfl
@[simp] theorem State.onThread_portsDown : (s.onThread c sl f).portsDown = s.portsDown := rfl
@[simp] theorem State.onThread_pathsDown : (s.onThread c sl f).pathsDown = s.pathsDown := rfl
@[simp] theorem State.onThread_ethIn : (s.onThread c sl f).ethIn = s.ethIn := rfl
@[simp] theorem State.onThread_ethEarly : (s.onThread c sl f).ethEarly = s.ethEarly := rfl
@[simp] theorem State.onThread_ethOut : (s.onThread c sl f).ethOut = s.ethOut := rfl
@[simp] theorem State.onThread_fwCounts : (s.onThread c sl f).fwCounts = s.fwCounts := rfl
@[simp] theorem State.onThread_streams : (s.onThread c sl f).streams = s.streams := rfl
@[simp] theorem State.onThread_devAcks : (s.onThread c sl f).devAcks = s.devAcks := rfl
@[simp] theorem State.onThread_packets : (s.onThread c sl f).packets = s.packets := rfl
@[simp] theorem State.onThread_items : (s.onThread c sl f).items = s.items := rfl
@[simp] theorem State.onThread_undeliverable : (s.onThread c sl f).undeliverable = s.undeliverable := rfl
@[simp] theorem State.onThread_fwBusy : (s.onThread c sl f).fwBusy = s.fwBusy := rfl
@[simp] theorem State.onThread_farIn : (s.onThread c sl f).farIn = s.farIn := rfl
@[simp] theorem State.onThread_fmOrder : (s.onThread c sl f).fmOrder = s.fmOrder := rfl
@[simp] theorem State.onThread_fwStopped : (s.onThread c sl f).fwStopped = s.fwStopped := rfl
@[simp] theorem State.onThread_fwNotes : (s.onThread c sl f).fwNotes = s.fwNotes := rfl
@[simp] theorem State.onThread_images : (s.onThread c sl f).images = s.images := rfl
@[simp] theorem State.onThread_flash : (s.onThread c sl f).flash = s.flash := rfl
@[simp] theorem State.onThread_plan : (s.onThread c sl f).plan = s.plan := rfl
@[simp] theorem State.onThread_planDev : (s.onThread c sl f).planDev = s.planDev := rfl
@[simp] theorem State.onThread_fmDead : (s.onThread c sl f).fmDead = s.fmDead := rfl
@[simp] theorem State.onThread_fmAgain : (s.onThread c sl f).fmAgain = s.fmAgain := rfl
@[simp] theorem State.onThread_fmHeard : (s.onThread c sl f).fmHeard = s.fmHeard := rfl
@[simp] theorem State.onThread_curCore : (s.onThread c sl f).curCore = s.curCore := rfl
@[simp] theorem State.onThread_curSlot : (s.onThread c sl f).curSlot = s.curSlot := rfl
@[simp] theorem State.onThread_curr : (s.onThread c sl f).curr = s.curr := rfl
@[simp] theorem State.onThread_subj : (s.onThread c sl f).subj = s.subj := rfl
@[simp] theorem State.onThread_agenda : (s.onThread c sl f).agenda = s.agenda := rfl
@[simp] theorem State.onThread_events : (s.onThread c sl f).events = s.events := rfl
@[simp] theorem State.onThread_nextId : (s.onThread c sl f).nextId = s.nextId := rfl
@[simp] theorem State.onThread_fresh : (s.onThread c sl f).fresh = s.fresh := rfl
end

/-! ### State.setEntry -/

section
variable (s : State) (c e : Nat) (v : VWord)
@[simp] theorem State.setEntry_now : (s.setEntry c e v).now = s.now := rfl
@[simp] theorem State.setEntry_clusters : (s.setEntry c e v).clusters = s.clusters := rfl
@[simp] theorem State.setEntry_columns : (s.setEntry c e v).columns = s.columns := rfl
@[simp] theorem State.setEntry_quads : (s.setEntry c e v).quads = s.quads := rfl
@[simp] theorem State.setEntry_baseDies : (s.setEntry c e v).baseDies = s.baseDies := rfl
@[simp] theorem State.setEntry_routers : (s.setEntry c e v).routers = s.routers := rfl
@[simp] theorem State.setEntry_bankMem : (s.setEntry c e v).bankMem = s.bankMem := rfl
@[simp] theorem State.setEntry_colMem : (s.setEntry c e v).colMem = s.colMem := rfl
@[simp] theorem State.setEntry_hbm : (s.setEntry c e v).hbm = s.hbm := rfl
@[simp] theorem State.setEntry_lp : (s.setEntry c e v).lp = s.lp := rfl
@[simp] theorem State.setEntry_bankBad : (s.setEntry c e v).bankBad = s.bankBad := rfl
@[simp] theorem State.setEntry_colBad : (s.setEntry c e v).colBad = s.colBad := rfl
@[simp] theorem State.setEntry_bankErr : (s.setEntry c e v).bankErr = s.bankErr := rfl
@[simp] theorem State.setEntry_colErr : (s.setEntry c e v).colErr = s.colErr := rfl
@[simp] theorem State.setEntry_sectors : (s.setEntry c e v).sectors = s.sectors := rfl
@[simp] theorem State.setEntry_groups : (s.setEntry c e v).groups = s.groups := rfl
@[simp] theorem State.setEntry_keys : (s.setEntry c e v).keys = s.keys := rfl
@[simp] theorem State.setEntry_devNo : (s.setEntry c e v).devNo = s.devNo := rfl
@[simp] theorem State.setEntry_devMap : (s.setEntry c e v).devMap = s.devMap := rfl
@[simp] theorem State.setEntry_sysEdition : (s.setEntry c e v).sysEdition = s.sysEdition := rfl
@[simp] theorem State.setEntry_sysChart : (s.setEntry c e v).sysChart = s.sysChart := rfl
@[simp] theorem State.setEntry_portsDown : (s.setEntry c e v).portsDown = s.portsDown := rfl
@[simp] theorem State.setEntry_pathsDown : (s.setEntry c e v).pathsDown = s.pathsDown := rfl
@[simp] theorem State.setEntry_ethIn : (s.setEntry c e v).ethIn = s.ethIn := rfl
@[simp] theorem State.setEntry_ethEarly : (s.setEntry c e v).ethEarly = s.ethEarly := rfl
@[simp] theorem State.setEntry_ethOut : (s.setEntry c e v).ethOut = s.ethOut := rfl
@[simp] theorem State.setEntry_fwCounts : (s.setEntry c e v).fwCounts = s.fwCounts := rfl
@[simp] theorem State.setEntry_streams : (s.setEntry c e v).streams = s.streams := rfl
@[simp] theorem State.setEntry_devAcks : (s.setEntry c e v).devAcks = s.devAcks := rfl
@[simp] theorem State.setEntry_packets : (s.setEntry c e v).packets = s.packets := rfl
@[simp] theorem State.setEntry_items : (s.setEntry c e v).items = s.items := rfl
@[simp] theorem State.setEntry_undeliverable : (s.setEntry c e v).undeliverable = s.undeliverable := rfl
@[simp] theorem State.setEntry_fwBusy : (s.setEntry c e v).fwBusy = s.fwBusy := rfl
@[simp] theorem State.setEntry_farIn : (s.setEntry c e v).farIn = s.farIn := rfl
@[simp] theorem State.setEntry_fmOrder : (s.setEntry c e v).fmOrder = s.fmOrder := rfl
@[simp] theorem State.setEntry_fwStopped : (s.setEntry c e v).fwStopped = s.fwStopped := rfl
@[simp] theorem State.setEntry_fwNotes : (s.setEntry c e v).fwNotes = s.fwNotes := rfl
@[simp] theorem State.setEntry_images : (s.setEntry c e v).images = s.images := rfl
@[simp] theorem State.setEntry_flash : (s.setEntry c e v).flash = s.flash := rfl
@[simp] theorem State.setEntry_plan : (s.setEntry c e v).plan = s.plan := rfl
@[simp] theorem State.setEntry_planDev : (s.setEntry c e v).planDev = s.planDev := rfl
@[simp] theorem State.setEntry_fmDead : (s.setEntry c e v).fmDead = s.fmDead := rfl
@[simp] theorem State.setEntry_fmAgain : (s.setEntry c e v).fmAgain = s.fmAgain := rfl
@[simp] theorem State.setEntry_fmHeard : (s.setEntry c e v).fmHeard = s.fmHeard := rfl
@[simp] theorem State.setEntry_curCore : (s.setEntry c e v).curCore = s.curCore := rfl
@[simp] theorem State.setEntry_curSlot : (s.setEntry c e v).curSlot = s.curSlot := rfl
@[simp] theorem State.setEntry_curr : (s.setEntry c e v).curr = s.curr := rfl
@[simp] theorem State.setEntry_subj : (s.setEntry c e v).subj = s.subj := rfl
@[simp] theorem State.setEntry_agenda : (s.setEntry c e v).agenda = s.agenda := rfl
@[simp] theorem State.setEntry_events : (s.setEntry c e v).events = s.events := rfl
@[simp] theorem State.setEntry_nextId : (s.setEntry c e v).nextId = s.nextId := rfl
@[simp] theorem State.setEntry_fresh : (s.setEntry c e v).fresh = s.fresh := rfl
end

/-! ### State.atCycle -/

section
variable (s : State) (cl due : Nat) (row : Instr) (x : Subject)
@[simp] theorem State.atCycle_now : (s.atCycle cl due row x).now = s.now := rfl
@[simp] theorem State.atCycle_clusters : (s.atCycle cl due row x).clusters = s.clusters := rfl
@[simp] theorem State.atCycle_cores : (s.atCycle cl due row x).cores = s.cores := rfl
@[simp] theorem State.atCycle_columns : (s.atCycle cl due row x).columns = s.columns := rfl
@[simp] theorem State.atCycle_quads : (s.atCycle cl due row x).quads = s.quads := rfl
@[simp] theorem State.atCycle_baseDies : (s.atCycle cl due row x).baseDies = s.baseDies := rfl
@[simp] theorem State.atCycle_routers : (s.atCycle cl due row x).routers = s.routers := rfl
@[simp] theorem State.atCycle_bankMem : (s.atCycle cl due row x).bankMem = s.bankMem := rfl
@[simp] theorem State.atCycle_colMem : (s.atCycle cl due row x).colMem = s.colMem := rfl
@[simp] theorem State.atCycle_hbm : (s.atCycle cl due row x).hbm = s.hbm := rfl
@[simp] theorem State.atCycle_lp : (s.atCycle cl due row x).lp = s.lp := rfl
@[simp] theorem State.atCycle_bankBad : (s.atCycle cl due row x).bankBad = s.bankBad := rfl
@[simp] theorem State.atCycle_colBad : (s.atCycle cl due row x).colBad = s.colBad := rfl
@[simp] theorem State.atCycle_bankErr : (s.atCycle cl due row x).bankErr = s.bankErr := rfl
@[simp] theorem State.atCycle_colErr : (s.atCycle cl due row x).colErr = s.colErr := rfl
@[simp] theorem State.atCycle_sectors : (s.atCycle cl due row x).sectors = s.sectors := rfl
@[simp] theorem State.atCycle_groups : (s.atCycle cl due row x).groups = s.groups := rfl
@[simp] theorem State.atCycle_keys : (s.atCycle cl due row x).keys = s.keys := rfl
@[simp] theorem State.atCycle_devNo : (s.atCycle cl due row x).devNo = s.devNo := rfl
@[simp] theorem State.atCycle_devMap : (s.atCycle cl due row x).devMap = s.devMap := rfl
@[simp] theorem State.atCycle_sysEdition : (s.atCycle cl due row x).sysEdition = s.sysEdition := rfl
@[simp] theorem State.atCycle_sysChart : (s.atCycle cl due row x).sysChart = s.sysChart := rfl
@[simp] theorem State.atCycle_portsDown : (s.atCycle cl due row x).portsDown = s.portsDown := rfl
@[simp] theorem State.atCycle_pathsDown : (s.atCycle cl due row x).pathsDown = s.pathsDown := rfl
@[simp] theorem State.atCycle_ethIn : (s.atCycle cl due row x).ethIn = s.ethIn := rfl
@[simp] theorem State.atCycle_ethEarly : (s.atCycle cl due row x).ethEarly = s.ethEarly := rfl
@[simp] theorem State.atCycle_ethOut : (s.atCycle cl due row x).ethOut = s.ethOut := rfl
@[simp] theorem State.atCycle_fwCounts : (s.atCycle cl due row x).fwCounts = s.fwCounts := rfl
@[simp] theorem State.atCycle_streams : (s.atCycle cl due row x).streams = s.streams := rfl
@[simp] theorem State.atCycle_devAcks : (s.atCycle cl due row x).devAcks = s.devAcks := rfl
@[simp] theorem State.atCycle_packets : (s.atCycle cl due row x).packets = s.packets := rfl
@[simp] theorem State.atCycle_items : (s.atCycle cl due row x).items = s.items := rfl
@[simp] theorem State.atCycle_undeliverable : (s.atCycle cl due row x).undeliverable = s.undeliverable := rfl
@[simp] theorem State.atCycle_fwBusy : (s.atCycle cl due row x).fwBusy = s.fwBusy := rfl
@[simp] theorem State.atCycle_farIn : (s.atCycle cl due row x).farIn = s.farIn := rfl
@[simp] theorem State.atCycle_fmOrder : (s.atCycle cl due row x).fmOrder = s.fmOrder := rfl
@[simp] theorem State.atCycle_fwStopped : (s.atCycle cl due row x).fwStopped = s.fwStopped := rfl
@[simp] theorem State.atCycle_fwNotes : (s.atCycle cl due row x).fwNotes = s.fwNotes := rfl
@[simp] theorem State.atCycle_images : (s.atCycle cl due row x).images = s.images := rfl
@[simp] theorem State.atCycle_flash : (s.atCycle cl due row x).flash = s.flash := rfl
@[simp] theorem State.atCycle_plan : (s.atCycle cl due row x).plan = s.plan := rfl
@[simp] theorem State.atCycle_planDev : (s.atCycle cl due row x).planDev = s.planDev := rfl
@[simp] theorem State.atCycle_fmDead : (s.atCycle cl due row x).fmDead = s.fmDead := rfl
@[simp] theorem State.atCycle_fmAgain : (s.atCycle cl due row x).fmAgain = s.fmAgain := rfl
@[simp] theorem State.atCycle_fmHeard : (s.atCycle cl due row x).fmHeard = s.fmHeard := rfl
@[simp] theorem State.atCycle_curCore : (s.atCycle cl due row x).curCore = s.curCore := rfl
@[simp] theorem State.atCycle_curSlot : (s.atCycle cl due row x).curSlot = s.curSlot := rfl
@[simp] theorem State.atCycle_curr : (s.atCycle cl due row x).curr = s.curr := rfl
@[simp] theorem State.atCycle_subj : (s.atCycle cl due row x).subj = s.subj := rfl
@[simp] theorem State.atCycle_agenda : (s.atCycle cl due row x).agenda = s.agenda := rfl
@[simp] theorem State.atCycle_nextId : (s.atCycle cl due row x).nextId = s.nextId := rfl
@[simp] theorem State.atCycle_fresh : (s.atCycle cl due row x).fresh = s.fresh := rfl
end

/-! ### State.inCycles -/

section
variable (s : State) (cl d : Nat) (row : Instr) (x : Subject)
@[simp] theorem State.inCycles_now : (s.inCycles cl d row x).now = s.now := rfl
@[simp] theorem State.inCycles_clusters : (s.inCycles cl d row x).clusters = s.clusters := rfl
@[simp] theorem State.inCycles_cores : (s.inCycles cl d row x).cores = s.cores := rfl
@[simp] theorem State.inCycles_columns : (s.inCycles cl d row x).columns = s.columns := rfl
@[simp] theorem State.inCycles_quads : (s.inCycles cl d row x).quads = s.quads := rfl
@[simp] theorem State.inCycles_baseDies : (s.inCycles cl d row x).baseDies = s.baseDies := rfl
@[simp] theorem State.inCycles_routers : (s.inCycles cl d row x).routers = s.routers := rfl
@[simp] theorem State.inCycles_bankMem : (s.inCycles cl d row x).bankMem = s.bankMem := rfl
@[simp] theorem State.inCycles_colMem : (s.inCycles cl d row x).colMem = s.colMem := rfl
@[simp] theorem State.inCycles_hbm : (s.inCycles cl d row x).hbm = s.hbm := rfl
@[simp] theorem State.inCycles_lp : (s.inCycles cl d row x).lp = s.lp := rfl
@[simp] theorem State.inCycles_bankBad : (s.inCycles cl d row x).bankBad = s.bankBad := rfl
@[simp] theorem State.inCycles_colBad : (s.inCycles cl d row x).colBad = s.colBad := rfl
@[simp] theorem State.inCycles_bankErr : (s.inCycles cl d row x).bankErr = s.bankErr := rfl
@[simp] theorem State.inCycles_colErr : (s.inCycles cl d row x).colErr = s.colErr := rfl
@[simp] theorem State.inCycles_sectors : (s.inCycles cl d row x).sectors = s.sectors := rfl
@[simp] theorem State.inCycles_groups : (s.inCycles cl d row x).groups = s.groups := rfl
@[simp] theorem State.inCycles_keys : (s.inCycles cl d row x).keys = s.keys := rfl
@[simp] theorem State.inCycles_devNo : (s.inCycles cl d row x).devNo = s.devNo := rfl
@[simp] theorem State.inCycles_devMap : (s.inCycles cl d row x).devMap = s.devMap := rfl
@[simp] theorem State.inCycles_sysEdition : (s.inCycles cl d row x).sysEdition = s.sysEdition := rfl
@[simp] theorem State.inCycles_sysChart : (s.inCycles cl d row x).sysChart = s.sysChart := rfl
@[simp] theorem State.inCycles_portsDown : (s.inCycles cl d row x).portsDown = s.portsDown := rfl
@[simp] theorem State.inCycles_pathsDown : (s.inCycles cl d row x).pathsDown = s.pathsDown := rfl
@[simp] theorem State.inCycles_ethIn : (s.inCycles cl d row x).ethIn = s.ethIn := rfl
@[simp] theorem State.inCycles_ethEarly : (s.inCycles cl d row x).ethEarly = s.ethEarly := rfl
@[simp] theorem State.inCycles_ethOut : (s.inCycles cl d row x).ethOut = s.ethOut := rfl
@[simp] theorem State.inCycles_fwCounts : (s.inCycles cl d row x).fwCounts = s.fwCounts := rfl
@[simp] theorem State.inCycles_streams : (s.inCycles cl d row x).streams = s.streams := rfl
@[simp] theorem State.inCycles_devAcks : (s.inCycles cl d row x).devAcks = s.devAcks := rfl
@[simp] theorem State.inCycles_packets : (s.inCycles cl d row x).packets = s.packets := rfl
@[simp] theorem State.inCycles_items : (s.inCycles cl d row x).items = s.items := rfl
@[simp] theorem State.inCycles_undeliverable : (s.inCycles cl d row x).undeliverable = s.undeliverable := rfl
@[simp] theorem State.inCycles_fwBusy : (s.inCycles cl d row x).fwBusy = s.fwBusy := rfl
@[simp] theorem State.inCycles_farIn : (s.inCycles cl d row x).farIn = s.farIn := rfl
@[simp] theorem State.inCycles_fmOrder : (s.inCycles cl d row x).fmOrder = s.fmOrder := rfl
@[simp] theorem State.inCycles_fwStopped : (s.inCycles cl d row x).fwStopped = s.fwStopped := rfl
@[simp] theorem State.inCycles_fwNotes : (s.inCycles cl d row x).fwNotes = s.fwNotes := rfl
@[simp] theorem State.inCycles_images : (s.inCycles cl d row x).images = s.images := rfl
@[simp] theorem State.inCycles_flash : (s.inCycles cl d row x).flash = s.flash := rfl
@[simp] theorem State.inCycles_plan : (s.inCycles cl d row x).plan = s.plan := rfl
@[simp] theorem State.inCycles_planDev : (s.inCycles cl d row x).planDev = s.planDev := rfl
@[simp] theorem State.inCycles_fmDead : (s.inCycles cl d row x).fmDead = s.fmDead := rfl
@[simp] theorem State.inCycles_fmAgain : (s.inCycles cl d row x).fmAgain = s.fmAgain := rfl
@[simp] theorem State.inCycles_fmHeard : (s.inCycles cl d row x).fmHeard = s.fmHeard := rfl
@[simp] theorem State.inCycles_curCore : (s.inCycles cl d row x).curCore = s.curCore := rfl
@[simp] theorem State.inCycles_curSlot : (s.inCycles cl d row x).curSlot = s.curSlot := rfl
@[simp] theorem State.inCycles_curr : (s.inCycles cl d row x).curr = s.curr := rfl
@[simp] theorem State.inCycles_subj : (s.inCycles cl d row x).subj = s.subj := rfl
@[simp] theorem State.inCycles_agenda : (s.inCycles cl d row x).agenda = s.agenda := rfl
@[simp] theorem State.inCycles_nextId : (s.inCycles cl d row x).nextId = s.nextId := rfl
@[simp] theorem State.inCycles_fresh : (s.inCycles cl d row x).fresh = s.fresh := rfl
end

/-! ### State.inNs -/

section
variable (s : State) (d : Nat) (row : Instr) (x : Subject)
@[simp] theorem State.inNs_now : (s.inNs d row x).now = s.now := rfl
@[simp] theorem State.inNs_clusters : (s.inNs d row x).clusters = s.clusters := rfl
@[simp] theorem State.inNs_cores : (s.inNs d row x).cores = s.cores := rfl
@[simp] theorem State.inNs_columns : (s.inNs d row x).columns = s.columns := rfl
@[simp] theorem State.inNs_quads : (s.inNs d row x).quads = s.quads := rfl
@[simp] theorem State.inNs_baseDies : (s.inNs d row x).baseDies = s.baseDies := rfl
@[simp] theorem State.inNs_routers : (s.inNs d row x).routers = s.routers := rfl
@[simp] theorem State.inNs_bankMem : (s.inNs d row x).bankMem = s.bankMem := rfl
@[simp] theorem State.inNs_colMem : (s.inNs d row x).colMem = s.colMem := rfl
@[simp] theorem State.inNs_hbm : (s.inNs d row x).hbm = s.hbm := rfl
@[simp] theorem State.inNs_lp : (s.inNs d row x).lp = s.lp := rfl
@[simp] theorem State.inNs_bankBad : (s.inNs d row x).bankBad = s.bankBad := rfl
@[simp] theorem State.inNs_colBad : (s.inNs d row x).colBad = s.colBad := rfl
@[simp] theorem State.inNs_bankErr : (s.inNs d row x).bankErr = s.bankErr := rfl
@[simp] theorem State.inNs_colErr : (s.inNs d row x).colErr = s.colErr := rfl
@[simp] theorem State.inNs_sectors : (s.inNs d row x).sectors = s.sectors := rfl
@[simp] theorem State.inNs_groups : (s.inNs d row x).groups = s.groups := rfl
@[simp] theorem State.inNs_keys : (s.inNs d row x).keys = s.keys := rfl
@[simp] theorem State.inNs_devNo : (s.inNs d row x).devNo = s.devNo := rfl
@[simp] theorem State.inNs_devMap : (s.inNs d row x).devMap = s.devMap := rfl
@[simp] theorem State.inNs_sysEdition : (s.inNs d row x).sysEdition = s.sysEdition := rfl
@[simp] theorem State.inNs_sysChart : (s.inNs d row x).sysChart = s.sysChart := rfl
@[simp] theorem State.inNs_portsDown : (s.inNs d row x).portsDown = s.portsDown := rfl
@[simp] theorem State.inNs_pathsDown : (s.inNs d row x).pathsDown = s.pathsDown := rfl
@[simp] theorem State.inNs_ethIn : (s.inNs d row x).ethIn = s.ethIn := rfl
@[simp] theorem State.inNs_ethEarly : (s.inNs d row x).ethEarly = s.ethEarly := rfl
@[simp] theorem State.inNs_ethOut : (s.inNs d row x).ethOut = s.ethOut := rfl
@[simp] theorem State.inNs_fwCounts : (s.inNs d row x).fwCounts = s.fwCounts := rfl
@[simp] theorem State.inNs_streams : (s.inNs d row x).streams = s.streams := rfl
@[simp] theorem State.inNs_devAcks : (s.inNs d row x).devAcks = s.devAcks := rfl
@[simp] theorem State.inNs_packets : (s.inNs d row x).packets = s.packets := rfl
@[simp] theorem State.inNs_items : (s.inNs d row x).items = s.items := rfl
@[simp] theorem State.inNs_undeliverable : (s.inNs d row x).undeliverable = s.undeliverable := rfl
@[simp] theorem State.inNs_fwBusy : (s.inNs d row x).fwBusy = s.fwBusy := rfl
@[simp] theorem State.inNs_farIn : (s.inNs d row x).farIn = s.farIn := rfl
@[simp] theorem State.inNs_fmOrder : (s.inNs d row x).fmOrder = s.fmOrder := rfl
@[simp] theorem State.inNs_fwStopped : (s.inNs d row x).fwStopped = s.fwStopped := rfl
@[simp] theorem State.inNs_fwNotes : (s.inNs d row x).fwNotes = s.fwNotes := rfl
@[simp] theorem State.inNs_images : (s.inNs d row x).images = s.images := rfl
@[simp] theorem State.inNs_flash : (s.inNs d row x).flash = s.flash := rfl
@[simp] theorem State.inNs_plan : (s.inNs d row x).plan = s.plan := rfl
@[simp] theorem State.inNs_planDev : (s.inNs d row x).planDev = s.planDev := rfl
@[simp] theorem State.inNs_fmDead : (s.inNs d row x).fmDead = s.fmDead := rfl
@[simp] theorem State.inNs_fmAgain : (s.inNs d row x).fmAgain = s.fmAgain := rfl
@[simp] theorem State.inNs_fmHeard : (s.inNs d row x).fmHeard = s.fmHeard := rfl
@[simp] theorem State.inNs_curCore : (s.inNs d row x).curCore = s.curCore := rfl
@[simp] theorem State.inNs_curSlot : (s.inNs d row x).curSlot = s.curSlot := rfl
@[simp] theorem State.inNs_curr : (s.inNs d row x).curr = s.curr := rfl
@[simp] theorem State.inNs_subj : (s.inNs d row x).subj = s.subj := rfl
@[simp] theorem State.inNs_agenda : (s.inNs d row x).agenda = s.agenda := rfl
@[simp] theorem State.inNs_nextId : (s.inNs d row x).nextId = s.nextId := rfl
@[simp] theorem State.inNs_fresh : (s.inNs d row x).fresh = s.fresh := rfl
end

/-! ### State.setStream -/

section
variable (s : State) (v : StreamSt)
@[simp] theorem State.setStream_now : (s.setStream v).now = s.now := rfl
@[simp] theorem State.setStream_clusters : (s.setStream v).clusters = s.clusters := rfl
@[simp] theorem State.setStream_cores : (s.setStream v).cores = s.cores := rfl
@[simp] theorem State.setStream_columns : (s.setStream v).columns = s.columns := rfl
@[simp] theorem State.setStream_quads : (s.setStream v).quads = s.quads := rfl
@[simp] theorem State.setStream_baseDies : (s.setStream v).baseDies = s.baseDies := rfl
@[simp] theorem State.setStream_routers : (s.setStream v).routers = s.routers := rfl
@[simp] theorem State.setStream_bankMem : (s.setStream v).bankMem = s.bankMem := rfl
@[simp] theorem State.setStream_colMem : (s.setStream v).colMem = s.colMem := rfl
@[simp] theorem State.setStream_hbm : (s.setStream v).hbm = s.hbm := rfl
@[simp] theorem State.setStream_lp : (s.setStream v).lp = s.lp := rfl
@[simp] theorem State.setStream_bankBad : (s.setStream v).bankBad = s.bankBad := rfl
@[simp] theorem State.setStream_colBad : (s.setStream v).colBad = s.colBad := rfl
@[simp] theorem State.setStream_bankErr : (s.setStream v).bankErr = s.bankErr := rfl
@[simp] theorem State.setStream_colErr : (s.setStream v).colErr = s.colErr := rfl
@[simp] theorem State.setStream_sectors : (s.setStream v).sectors = s.sectors := rfl
@[simp] theorem State.setStream_groups : (s.setStream v).groups = s.groups := rfl
@[simp] theorem State.setStream_keys : (s.setStream v).keys = s.keys := rfl
@[simp] theorem State.setStream_devNo : (s.setStream v).devNo = s.devNo := rfl
@[simp] theorem State.setStream_devMap : (s.setStream v).devMap = s.devMap := rfl
@[simp] theorem State.setStream_sysEdition : (s.setStream v).sysEdition = s.sysEdition := rfl
@[simp] theorem State.setStream_sysChart : (s.setStream v).sysChart = s.sysChart := rfl
@[simp] theorem State.setStream_portsDown : (s.setStream v).portsDown = s.portsDown := rfl
@[simp] theorem State.setStream_pathsDown : (s.setStream v).pathsDown = s.pathsDown := rfl
@[simp] theorem State.setStream_ethIn : (s.setStream v).ethIn = s.ethIn := rfl
@[simp] theorem State.setStream_ethEarly : (s.setStream v).ethEarly = s.ethEarly := rfl
@[simp] theorem State.setStream_ethOut : (s.setStream v).ethOut = s.ethOut := rfl
@[simp] theorem State.setStream_fwCounts : (s.setStream v).fwCounts = s.fwCounts := rfl
@[simp] theorem State.setStream_devAcks : (s.setStream v).devAcks = s.devAcks := rfl
@[simp] theorem State.setStream_packets : (s.setStream v).packets = s.packets := rfl
@[simp] theorem State.setStream_items : (s.setStream v).items = s.items := rfl
@[simp] theorem State.setStream_undeliverable : (s.setStream v).undeliverable = s.undeliverable := rfl
@[simp] theorem State.setStream_fwBusy : (s.setStream v).fwBusy = s.fwBusy := rfl
@[simp] theorem State.setStream_farIn : (s.setStream v).farIn = s.farIn := rfl
@[simp] theorem State.setStream_fmOrder : (s.setStream v).fmOrder = s.fmOrder := rfl
@[simp] theorem State.setStream_fwStopped : (s.setStream v).fwStopped = s.fwStopped := rfl
@[simp] theorem State.setStream_fwNotes : (s.setStream v).fwNotes = s.fwNotes := rfl
@[simp] theorem State.setStream_images : (s.setStream v).images = s.images := rfl
@[simp] theorem State.setStream_flash : (s.setStream v).flash = s.flash := rfl
@[simp] theorem State.setStream_plan : (s.setStream v).plan = s.plan := rfl
@[simp] theorem State.setStream_planDev : (s.setStream v).planDev = s.planDev := rfl
@[simp] theorem State.setStream_fmDead : (s.setStream v).fmDead = s.fmDead := rfl
@[simp] theorem State.setStream_fmAgain : (s.setStream v).fmAgain = s.fmAgain := rfl
@[simp] theorem State.setStream_fmHeard : (s.setStream v).fmHeard = s.fmHeard := rfl
@[simp] theorem State.setStream_curCore : (s.setStream v).curCore = s.curCore := rfl
@[simp] theorem State.setStream_curSlot : (s.setStream v).curSlot = s.curSlot := rfl
@[simp] theorem State.setStream_curr : (s.setStream v).curr = s.curr := rfl
@[simp] theorem State.setStream_subj : (s.setStream v).subj = s.subj := rfl
@[simp] theorem State.setStream_agenda : (s.setStream v).agenda = s.agenda := rfl
@[simp] theorem State.setStream_events : (s.setStream v).events = s.events := rfl
@[simp] theorem State.setStream_nextId : (s.setStream v).nextId = s.nextId := rfl
@[simp] theorem State.setStream_fresh : (s.setStream v).fresh = s.fresh := rfl
end

/-! ### State.draw -/

section
variable (s : State) 
@[simp] theorem State.draw_now : (s.draw.2).now = s.now := rfl
@[simp] theorem State.draw_clusters : (s.draw.2).clusters = s.clusters := rfl
@[simp] theorem State.draw_cores : (s.draw.2).cores = s.cores := rfl
@[simp] theorem State.draw_columns : (s.draw.2).columns = s.columns := rfl
@[simp] theorem State.draw_quads : (s.draw.2).quads = s.quads := rfl
@[simp] theorem State.draw_baseDies : (s.draw.2).baseDies = s.baseDies := rfl
@[simp] theorem State.draw_routers : (s.draw.2).routers = s.routers := rfl
@[simp] theorem State.draw_bankMem : (s.draw.2).bankMem = s.bankMem := rfl
@[simp] theorem State.draw_colMem : (s.draw.2).colMem = s.colMem := rfl
@[simp] theorem State.draw_hbm : (s.draw.2).hbm = s.hbm := rfl
@[simp] theorem State.draw_lp : (s.draw.2).lp = s.lp := rfl
@[simp] theorem State.draw_bankBad : (s.draw.2).bankBad = s.bankBad := rfl
@[simp] theorem State.draw_colBad : (s.draw.2).colBad = s.colBad := rfl
@[simp] theorem State.draw_bankErr : (s.draw.2).bankErr = s.bankErr := rfl
@[simp] theorem State.draw_colErr : (s.draw.2).colErr = s.colErr := rfl
@[simp] theorem State.draw_sectors : (s.draw.2).sectors = s.sectors := rfl
@[simp] theorem State.draw_groups : (s.draw.2).groups = s.groups := rfl
@[simp] theorem State.draw_keys : (s.draw.2).keys = s.keys := rfl
@[simp] theorem State.draw_devNo : (s.draw.2).devNo = s.devNo := rfl
@[simp] theorem State.draw_devMap : (s.draw.2).devMap = s.devMap := rfl
@[simp] theorem State.draw_sysEdition : (s.draw.2).sysEdition = s.sysEdition := rfl
@[simp] theorem State.draw_sysChart : (s.draw.2).sysChart = s.sysChart := rfl
@[simp] theorem State.draw_portsDown : (s.draw.2).portsDown = s.portsDown := rfl
@[simp] theorem State.draw_pathsDown : (s.draw.2).pathsDown = s.pathsDown := rfl
@[simp] theorem State.draw_ethIn : (s.draw.2).ethIn = s.ethIn := rfl
@[simp] theorem State.draw_ethEarly : (s.draw.2).ethEarly = s.ethEarly := rfl
@[simp] theorem State.draw_ethOut : (s.draw.2).ethOut = s.ethOut := rfl
@[simp] theorem State.draw_fwCounts : (s.draw.2).fwCounts = s.fwCounts := rfl
@[simp] theorem State.draw_streams : (s.draw.2).streams = s.streams := rfl
@[simp] theorem State.draw_devAcks : (s.draw.2).devAcks = s.devAcks := rfl
@[simp] theorem State.draw_packets : (s.draw.2).packets = s.packets := rfl
@[simp] theorem State.draw_items : (s.draw.2).items = s.items := rfl
@[simp] theorem State.draw_undeliverable : (s.draw.2).undeliverable = s.undeliverable := rfl
@[simp] theorem State.draw_fwBusy : (s.draw.2).fwBusy = s.fwBusy := rfl
@[simp] theorem State.draw_farIn : (s.draw.2).farIn = s.farIn := rfl
@[simp] theorem State.draw_fmOrder : (s.draw.2).fmOrder = s.fmOrder := rfl
@[simp] theorem State.draw_fwStopped : (s.draw.2).fwStopped = s.fwStopped := rfl
@[simp] theorem State.draw_fwNotes : (s.draw.2).fwNotes = s.fwNotes := rfl
@[simp] theorem State.draw_images : (s.draw.2).images = s.images := rfl
@[simp] theorem State.draw_flash : (s.draw.2).flash = s.flash := rfl
@[simp] theorem State.draw_plan : (s.draw.2).plan = s.plan := rfl
@[simp] theorem State.draw_planDev : (s.draw.2).planDev = s.planDev := rfl
@[simp] theorem State.draw_fmDead : (s.draw.2).fmDead = s.fmDead := rfl
@[simp] theorem State.draw_fmAgain : (s.draw.2).fmAgain = s.fmAgain := rfl
@[simp] theorem State.draw_fmHeard : (s.draw.2).fmHeard = s.fmHeard := rfl
@[simp] theorem State.draw_curCore : (s.draw.2).curCore = s.curCore := rfl
@[simp] theorem State.draw_curSlot : (s.draw.2).curSlot = s.curSlot := rfl
@[simp] theorem State.draw_curr : (s.draw.2).curr = s.curr := rfl
@[simp] theorem State.draw_subj : (s.draw.2).subj = s.subj := rfl
@[simp] theorem State.draw_agenda : (s.draw.2).agenda = s.agenda := rfl
@[simp] theorem State.draw_events : (s.draw.2).events = s.events := rfl
@[simp] theorem State.draw_nextId : (s.draw.2).nextId = s.nextId := rfl
end

/-! ### State.addItem -/

section
variable (s : State) (x : Content)
@[simp] theorem State.addItem_now : ((s.addItem x).2).now = s.now := rfl
@[simp] theorem State.addItem_clusters : ((s.addItem x).2).clusters = s.clusters := rfl
@[simp] theorem State.addItem_cores : ((s.addItem x).2).cores = s.cores := rfl
@[simp] theorem State.addItem_columns : ((s.addItem x).2).columns = s.columns := rfl
@[simp] theorem State.addItem_quads : ((s.addItem x).2).quads = s.quads := rfl
@[simp] theorem State.addItem_baseDies : ((s.addItem x).2).baseDies = s.baseDies := rfl
@[simp] theorem State.addItem_routers : ((s.addItem x).2).routers = s.routers := rfl
@[simp] theorem State.addItem_bankMem : ((s.addItem x).2).bankMem = s.bankMem := rfl
@[simp] theorem State.addItem_colMem : ((s.addItem x).2).colMem = s.colMem := rfl
@[simp] theorem State.addItem_hbm : ((s.addItem x).2).hbm = s.hbm := rfl
@[simp] theorem State.addItem_lp : ((s.addItem x).2).lp = s.lp := rfl
@[simp] theorem State.addItem_bankBad : ((s.addItem x).2).bankBad = s.bankBad := rfl
@[simp] theorem State.addItem_colBad : ((s.addItem x).2).colBad = s.colBad := rfl
@[simp] theorem State.addItem_bankErr : ((s.addItem x).2).bankErr = s.bankErr := rfl
@[simp] theorem State.addItem_colErr : ((s.addItem x).2).colErr = s.colErr := rfl
@[simp] theorem State.addItem_sectors : ((s.addItem x).2).sectors = s.sectors := rfl
@[simp] theorem State.addItem_groups : ((s.addItem x).2).groups = s.groups := rfl
@[simp] theorem State.addItem_keys : ((s.addItem x).2).keys = s.keys := rfl
@[simp] theorem State.addItem_devNo : ((s.addItem x).2).devNo = s.devNo := rfl
@[simp] theorem State.addItem_devMap : ((s.addItem x).2).devMap = s.devMap := rfl
@[simp] theorem State.addItem_sysEdition : ((s.addItem x).2).sysEdition = s.sysEdition := rfl
@[simp] theorem State.addItem_sysChart : ((s.addItem x).2).sysChart = s.sysChart := rfl
@[simp] theorem State.addItem_portsDown : ((s.addItem x).2).portsDown = s.portsDown := rfl
@[simp] theorem State.addItem_pathsDown : ((s.addItem x).2).pathsDown = s.pathsDown := rfl
@[simp] theorem State.addItem_ethIn : ((s.addItem x).2).ethIn = s.ethIn := rfl
@[simp] theorem State.addItem_ethEarly : ((s.addItem x).2).ethEarly = s.ethEarly := rfl
@[simp] theorem State.addItem_ethOut : ((s.addItem x).2).ethOut = s.ethOut := rfl
@[simp] theorem State.addItem_fwCounts : ((s.addItem x).2).fwCounts = s.fwCounts := rfl
@[simp] theorem State.addItem_streams : ((s.addItem x).2).streams = s.streams := rfl
@[simp] theorem State.addItem_devAcks : ((s.addItem x).2).devAcks = s.devAcks := rfl
@[simp] theorem State.addItem_packets : ((s.addItem x).2).packets = s.packets := rfl
@[simp] theorem State.addItem_undeliverable : ((s.addItem x).2).undeliverable = s.undeliverable := rfl
@[simp] theorem State.addItem_fwBusy : ((s.addItem x).2).fwBusy = s.fwBusy := rfl
@[simp] theorem State.addItem_farIn : ((s.addItem x).2).farIn = s.farIn := rfl
@[simp] theorem State.addItem_fmOrder : ((s.addItem x).2).fmOrder = s.fmOrder := rfl
@[simp] theorem State.addItem_fwStopped : ((s.addItem x).2).fwStopped = s.fwStopped := rfl
@[simp] theorem State.addItem_fwNotes : ((s.addItem x).2).fwNotes = s.fwNotes := rfl
@[simp] theorem State.addItem_images : ((s.addItem x).2).images = s.images := rfl
@[simp] theorem State.addItem_flash : ((s.addItem x).2).flash = s.flash := rfl
@[simp] theorem State.addItem_plan : ((s.addItem x).2).plan = s.plan := rfl
@[simp] theorem State.addItem_planDev : ((s.addItem x).2).planDev = s.planDev := rfl
@[simp] theorem State.addItem_fmDead : ((s.addItem x).2).fmDead = s.fmDead := rfl
@[simp] theorem State.addItem_fmAgain : ((s.addItem x).2).fmAgain = s.fmAgain := rfl
@[simp] theorem State.addItem_fmHeard : ((s.addItem x).2).fmHeard = s.fmHeard := rfl
@[simp] theorem State.addItem_curCore : ((s.addItem x).2).curCore = s.curCore := rfl
@[simp] theorem State.addItem_curSlot : ((s.addItem x).2).curSlot = s.curSlot := rfl
@[simp] theorem State.addItem_curr : ((s.addItem x).2).curr = s.curr := rfl
@[simp] theorem State.addItem_subj : ((s.addItem x).2).subj = s.subj := rfl
@[simp] theorem State.addItem_agenda : ((s.addItem x).2).agenda = s.agenda := rfl
@[simp] theorem State.addItem_events : ((s.addItem x).2).events = s.events := rfl
@[simp] theorem State.addItem_fresh : ((s.addItem x).2).fresh = s.fresh := rfl
end

/-! ### State.takeItem -/

section
variable (s : State) (id : Nat)
@[simp] theorem State.takeItem_now : ((s.takeItem id).2).now = s.now := rfl
@[simp] theorem State.takeItem_clusters : ((s.takeItem id).2).clusters = s.clusters := rfl
@[simp] theorem State.takeItem_cores : ((s.takeItem id).2).cores = s.cores := rfl
@[simp] theorem State.takeItem_columns : ((s.takeItem id).2).columns = s.columns := rfl
@[simp] theorem State.takeItem_quads : ((s.takeItem id).2).quads = s.quads := rfl
@[simp] theorem State.takeItem_baseDies : ((s.takeItem id).2).baseDies = s.baseDies := rfl
@[simp] theorem State.takeItem_routers : ((s.takeItem id).2).routers = s.routers := rfl
@[simp] theorem State.takeItem_bankMem : ((s.takeItem id).2).bankMem = s.bankMem := rfl
@[simp] theorem State.takeItem_colMem : ((s.takeItem id).2).colMem = s.colMem := rfl
@[simp] theorem State.takeItem_hbm : ((s.takeItem id).2).hbm = s.hbm := rfl
@[simp] theorem State.takeItem_lp : ((s.takeItem id).2).lp = s.lp := rfl
@[simp] theorem State.takeItem_bankBad : ((s.takeItem id).2).bankBad = s.bankBad := rfl
@[simp] theorem State.takeItem_colBad : ((s.takeItem id).2).colBad = s.colBad := rfl
@[simp] theorem State.takeItem_bankErr : ((s.takeItem id).2).bankErr = s.bankErr := rfl
@[simp] theorem State.takeItem_colErr : ((s.takeItem id).2).colErr = s.colErr := rfl
@[simp] theorem State.takeItem_sectors : ((s.takeItem id).2).sectors = s.sectors := rfl
@[simp] theorem State.takeItem_groups : ((s.takeItem id).2).groups = s.groups := rfl
@[simp] theorem State.takeItem_keys : ((s.takeItem id).2).keys = s.keys := rfl
@[simp] theorem State.takeItem_devNo : ((s.takeItem id).2).devNo = s.devNo := rfl
@[simp] theorem State.takeItem_devMap : ((s.takeItem id).2).devMap = s.devMap := rfl
@[simp] theorem State.takeItem_sysEdition : ((s.takeItem id).2).sysEdition = s.sysEdition := rfl
@[simp] theorem State.takeItem_sysChart : ((s.takeItem id).2).sysChart = s.sysChart := rfl
@[simp] theorem State.takeItem_portsDown : ((s.takeItem id).2).portsDown = s.portsDown := rfl
@[simp] theorem State.takeItem_pathsDown : ((s.takeItem id).2).pathsDown = s.pathsDown := rfl
@[simp] theorem State.takeItem_ethIn : ((s.takeItem id).2).ethIn = s.ethIn := rfl
@[simp] theorem State.takeItem_ethEarly : ((s.takeItem id).2).ethEarly = s.ethEarly := rfl
@[simp] theorem State.takeItem_ethOut : ((s.takeItem id).2).ethOut = s.ethOut := rfl
@[simp] theorem State.takeItem_fwCounts : ((s.takeItem id).2).fwCounts = s.fwCounts := rfl
@[simp] theorem State.takeItem_streams : ((s.takeItem id).2).streams = s.streams := rfl
@[simp] theorem State.takeItem_devAcks : ((s.takeItem id).2).devAcks = s.devAcks := rfl
@[simp] theorem State.takeItem_packets : ((s.takeItem id).2).packets = s.packets := rfl
@[simp] theorem State.takeItem_undeliverable : ((s.takeItem id).2).undeliverable = s.undeliverable := rfl
@[simp] theorem State.takeItem_fwBusy : ((s.takeItem id).2).fwBusy = s.fwBusy := rfl
@[simp] theorem State.takeItem_farIn : ((s.takeItem id).2).farIn = s.farIn := rfl
@[simp] theorem State.takeItem_fmOrder : ((s.takeItem id).2).fmOrder = s.fmOrder := rfl
@[simp] theorem State.takeItem_fwStopped : ((s.takeItem id).2).fwStopped = s.fwStopped := rfl
@[simp] theorem State.takeItem_fwNotes : ((s.takeItem id).2).fwNotes = s.fwNotes := rfl
@[simp] theorem State.takeItem_images : ((s.takeItem id).2).images = s.images := rfl
@[simp] theorem State.takeItem_flash : ((s.takeItem id).2).flash = s.flash := rfl
@[simp] theorem State.takeItem_plan : ((s.takeItem id).2).plan = s.plan := rfl
@[simp] theorem State.takeItem_planDev : ((s.takeItem id).2).planDev = s.planDev := rfl
@[simp] theorem State.takeItem_fmDead : ((s.takeItem id).2).fmDead = s.fmDead := rfl
@[simp] theorem State.takeItem_fmAgain : ((s.takeItem id).2).fmAgain = s.fmAgain := rfl
@[simp] theorem State.takeItem_fmHeard : ((s.takeItem id).2).fmHeard = s.fmHeard := rfl
@[simp] theorem State.takeItem_curCore : ((s.takeItem id).2).curCore = s.curCore := rfl
@[simp] theorem State.takeItem_curSlot : ((s.takeItem id).2).curSlot = s.curSlot := rfl
@[simp] theorem State.takeItem_curr : ((s.takeItem id).2).curr = s.curr := rfl
@[simp] theorem State.takeItem_subj : ((s.takeItem id).2).subj = s.subj := rfl
@[simp] theorem State.takeItem_agenda : ((s.takeItem id).2).agenda = s.agenda := rfl
@[simp] theorem State.takeItem_events : ((s.takeItem id).2).events = s.events := rfl
@[simp] theorem State.takeItem_nextId : ((s.takeItem id).2).nextId = s.nextId := rfl
@[simp] theorem State.takeItem_fresh : ((s.takeItem id).2).fresh = s.fresh := rfl
end

/-! ### Reading a unit after an update -/

section
variable (s : State)

@[simp] theorem State.core_setCore (c : Nat) (v : Core) : (s.setCore c v).core c = v := by simp [State.core, State.setCore]
theorem State.core_setCore_ne (c j : Nat) (v : Core) (h : j ≠ c) : (s.setCore c v).core j = s.core j := by
  simp [State.core, State.setCore, h]
@[simp] theorem State.core_onCore (c : Nat) (f : Core → Core) : (s.onCore c f).core c = f (s.core c) := by simp [State.onCore]
theorem State.core_onCore_ne (c j : Nat) (f : Core → Core) (h : j ≠ c) : (s.onCore c f).core j = s.core j :=
  s.core_setCore_ne c j _ h
@[simp] theorem State.column_onColumn (k : Nat) (f : Column → Column) : (s.onColumn k f).column k = f (s.column k) := by
  simp [State.column, State.onColumn]
theorem State.column_onColumn_ne (k j : Nat) (f : Column → Column) (h : j ≠ k) : (s.onColumn k f).column j = s.column j := by
  simp [State.column, State.onColumn, h]
@[simp] theorem State.cluster_onCluster (k : Nat) (f : Cluster → Cluster) : (s.onCluster k f).cluster k = f (s.cluster k) := by
  simp [State.cluster, State.onCluster]
theorem State.cluster_onCluster_ne (k j : Nat) (f : Cluster → Cluster) (h : j ≠ k) :
    (s.onCluster k f).cluster j = s.cluster j := by
  simp [State.cluster, State.onCluster, h]
@[simp] theorem State.quad_onQuad (k : Nat) (f : Quad → Quad) : (s.onQuad k f).quad k = f (s.quad k) := by
  simp [State.quad, State.onQuad]
@[simp] theorem State.stack_onStack (k : Nat) (f : Stack → Stack) : (s.onStack k f).stack k = f (s.stack k) := by
  simp [State.stack, State.onStack]
@[simp] theorem State.router_onRouter (k : Nat) (f : Router → Router) : (s.onRouter k f).router k = f (s.router k) := by
  simp [State.router, State.onRouter]
@[simp] theorem State.slot_setSlot (c sl : Nat) (v : Slot) : (s.setSlot c sl v).slot c sl = v := by
  simp [State.slot, State.setSlot]
theorem State.slot_setSlot_ne (c sl c' sl' : Nat) (v : Slot) (h : c' ≠ c ∨ sl' ≠ sl) :
    (s.setSlot c sl v).slot c' sl' = s.slot c' sl' := by
  by_cases hc : c' = c
  · subst hc
    simp [State.slot, State.setSlot, h.resolve_left (by simp)]
  · simp [State.slot, State.setSlot, State.core_onCore_ne _ _ _ _ hc]
@[simp] theorem State.thread_setThread (c sl : Nat) (th : Thread) : (s.setThread c sl th).thread c sl = th := by
  simp [State.thread, State.setThread]
theorem State.slot_setThread (c sl : Nat) (th : Thread) :
    (s.setThread c sl th).slot c sl = { s.slot c sl with th := th } := by simp [State.setThread]
theorem State.slot_setThread_ne (c sl c' sl' : Nat) (th : Thread) (h : c' ≠ c ∨ sl' ≠ sl) :
    (s.setThread c sl th).slot c' sl' = s.slot c' sl' := s.slot_setSlot_ne _ _ _ _ _ h
@[simp] theorem State.thread_onThread (c sl : Nat) (f : Thread → Thread) :
    (s.onThread c sl f).thread c sl = f (s.thread c sl) := by simp [State.onThread]
theorem State.slot_onThread_ne (c sl c' sl' : Nat) (f : Thread → Thread) (h : c' ≠ c ∨ sl' ≠ sl) :
    (s.onThread c sl f).slot c' sl' = s.slot c' sl' := s.slot_setSlot_ne _ _ _ _ _ h
@[simp] theorem State.thread_setEntry (c e : Nat) (v : VWord) (j sl : Nat) :
    (s.setEntry c e v).thread j sl = s.thread j sl := by
  by_cases h : j = c
  · subst h; simp [State.thread, State.slot, State.setEntry]
  · simp [State.thread, State.slot, State.setEntry, State.core_onCore_ne _ _ _ _ h]
@[simp] theorem State.slot_setEntry (c e : Nat) (v : VWord) (j sl : Nat) : (s.setEntry c e v).slot j sl = s.slot j sl := by
  by_cases h : j = c
  · subst h; simp [State.slot, State.setEntry]
  · simp [State.slot, State.setEntry, State.core_onCore_ne _ _ _ _ h]
@[simp] theorem State.rf_setThread (c sl : Nat) (th : Thread) : ((s.setThread c sl th).core c).rf = (s.core c).rf := by
  simp [State.setThread, State.setSlot]
@[simp] theorem State.rfErr_setThread (c sl : Nat) (th : Thread) : ((s.setThread c sl th).core c).rfErr = (s.core c).rfErr := by
  simp [State.setThread, State.setSlot]
@[simp] theorem State.rfErr_onThread (c sl : Nat) (f : Thread → Thread) : ((s.onThread c sl f).core c).rfErr = (s.core c).rfErr := by
  simp [State.onThread]
@[simp] theorem State.rf_onThread (c sl : Nat) (f : Thread → Thread) : ((s.onThread c sl f).core c).rf = (s.core c).rf := by
  simp [State.onThread]

end

/-! ### Reset -/

/-- Every memory of the machine right after reset is in canonical form. -/
theorem State.reset_wf : State.reset.bankMem.wf = true ∧ State.reset.colMem.wf = true ∧ State.reset.hbm.wf = true ∧
    State.reset.lp.wf = true := by decide

end Sys2Proof.Machine
end

