-- ==== Sys2Proof/Laws/Registers.lean ====
section
/-!
SUPPORT. What the shared operations over a thread do: sending a content, taking a line, moving on, writing a register, and the
checks that precede an instruction.
-/
namespace Sys2Proof.Machine

open Sys2Proof

/-! ### Sending -/

section
variable (s : State) (scl sep dcl dep cls len : Nat) (x : Content)

@[simp] theorem State.ship_now : (s.ship scl sep dcl dep cls len x).now = s.now := by
  unfold State.ship State.shipAfter State.number State.launch; dsimp only
  split <;> rename_i h <;> split at h <;> cases h <;> rfl
@[simp] theorem State.ship_clusters : (s.ship scl sep dcl dep cls len x).clusters = s.clusters := by
  unfold State.ship State.shipAfter State.number State.launch; dsimp only
  split <;> rename_i h <;> split at h <;> cases h <;> rfl
@[simp] theorem State.ship_cores : (s.ship scl sep dcl dep cls len x).cores = s.cores := by
  unfold State.ship State.shipAfter State.number State.launch; dsimp only
  split <;> rename_i h <;> split at h <;> cases h <;> rfl
@[simp] theorem State.ship_columns : (s.ship scl sep dcl dep cls len x).columns = s.columns := by
  unfold State.ship State.shipAfter State.number State.launch; dsimp only
  split <;> rename_i h <;> split at h <;> cases h <;> rfl
@[simp] theorem State.ship_quads : (s.ship scl sep dcl dep cls len x).quads = s.quads := by
  unfold State.ship State.shipAfter State.number State.launch; dsimp only
  split <;> rename_i h <;> split at h <;> cases h <;> rfl
@[simp] theorem State.ship_baseDies : (s.ship scl sep dcl dep cls len x).baseDies = s.baseDies := by
  unfold State.ship State.shipAfter State.number State.launch; dsimp only
  split <;> rename_i h <;> split at h <;> cases h <;> rfl
@[simp] theorem State.ship_routers : (s.ship scl sep dcl dep cls len x).routers = s.routers := by
  unfold State.ship State.shipAfter State.number State.launch; dsimp only
  split <;> rename_i h <;> split at h <;> cases h <;> rfl
@[simp] theorem State.ship_bankMem : (s.ship scl sep dcl dep cls len x).bankMem = s.bankMem := by
  unfold State.ship State.shipAfter State.number State.launch; dsimp only
  split <;> rename_i h <;> split at h <;> cases h <;> rfl
@[simp] theorem State.ship_colMem : (s.ship scl sep dcl dep cls len x).colMem = s.colMem := by
  unfold State.ship State.shipAfter State.number State.launch; dsimp only
  split <;> rename_i h <;> split at h <;> cases h <;> rfl
@[simp] theorem State.ship_hbm : (s.ship scl sep dcl dep cls len x).hbm = s.hbm := by
  unfold State.ship State.shipAfter State.number State.launch; dsimp only
  split <;> rename_i h <;> split at h <;> cases h <;> rfl
@[simp] theorem State.ship_lp : (s.ship scl sep dcl dep cls len x).lp = s.lp := by
  unfold State.ship State.shipAfter State.number State.launch; dsimp only
  split <;> rename_i h <;> split at h <;> cases h <;> rfl
@[simp] theorem State.ship_bankBad : (s.ship scl sep dcl dep cls len x).bankBad = s.bankBad := by
  unfold State.ship State.shipAfter State.number State.launch; dsimp only
  split <;> rename_i h <;> split at h <;> cases h <;> rfl
@[simp] theorem State.ship_colBad : (s.ship scl sep dcl dep cls len x).colBad = s.colBad := by
  unfold State.ship State.shipAfter State.number State.launch; dsimp only
  split <;> rename_i h <;> split at h <;> cases h <;> rfl
@[simp] theorem State.ship_bankErr : (s.ship scl sep dcl dep cls len x).bankErr = s.bankErr := by
  unfold State.ship State.shipAfter State.number State.launch; dsimp only
  split <;> rename_i h <;> split at h <;> cases h <;> rfl
@[simp] theorem State.ship_colErr : (s.ship scl sep dcl dep cls len x).colErr = s.colErr := by
  unfold State.ship State.shipAfter State.number State.launch; dsimp only
  split <;> rename_i h <;> split at h <;> cases h <;> rfl
@[simp] theorem State.ship_sectors : (s.ship scl sep dcl dep cls len x).sectors = s.sectors := by
  unfold State.ship State.shipAfter State.number State.launch; dsimp only
  split <;> rename_i h <;> split at h <;> cases h <;> rfl
@[simp] theorem State.ship_groups : (s.ship scl sep dcl dep cls len x).groups = s.groups := by
  unfold State.ship State.shipAfter State.number State.launch; dsimp only
  split <;> rename_i h <;> split at h <;> cases h <;> rfl
@[simp] theorem State.ship_keys : (s.ship scl sep dcl dep cls len x).keys = s.keys := by
  unfold State.ship State.shipAfter State.number State.launch; dsimp only
  split <;> rename_i h <;> split at h <;> cases h <;> rfl
@[simp] theorem State.ship_devNo : (s.ship scl sep dcl dep cls len x).devNo = s.devNo := by
  unfold State.ship State.shipAfter State.number State.launch; dsimp only
  split <;> rename_i h <;> split at h <;> cases h <;> rfl
@[simp] theorem State.ship_devMap : (s.ship scl sep dcl dep cls len x).devMap = s.devMap := by
  unfold State.ship State.shipAfter State.number State.launch; dsimp only
  split <;> rename_i h <;> split at h <;> cases h <;> rfl
@[simp] theorem State.ship_sysEdition : (s.ship scl sep dcl dep cls len x).sysEdition = s.sysEdition := by
  unfold State.ship State.shipAfter State.number State.launch; dsimp only
  split <;> rename_i h <;> split at h <;> cases h <;> rfl
@[simp] theorem State.ship_sysChart : (s.ship scl sep dcl dep cls len x).sysChart = s.sysChart := by
  unfold State.ship State.shipAfter State.number State.launch; dsimp only
  split <;> rename_i h <;> split at h <;> cases h <;> rfl
@[simp] theorem State.ship_portsDown : (s.ship scl sep dcl dep cls len x).portsDown = s.portsDown := by
  unfold State.ship State.shipAfter State.number State.launch; dsimp only
  split <;> rename_i h <;> split at h <;> cases h <;> rfl
@[simp] theorem State.ship_pathsDown : (s.ship scl sep dcl dep cls len x).pathsDown = s.pathsDown := by
  unfold State.ship State.shipAfter State.number State.launch; dsimp only
  split <;> rename_i h <;> split at h <;> cases h <;> rfl
@[simp] theorem State.ship_ethIn : (s.ship scl sep dcl dep cls len x).ethIn = s.ethIn := by
  unfold State.ship State.shipAfter State.number State.launch; dsimp only
  split <;> rename_i h <;> split at h <;> cases h <;> rfl
@[simp] theorem State.ship_ethEarly : (s.ship scl sep dcl dep cls len x).ethEarly = s.ethEarly := by
  unfold State.ship State.shipAfter State.number State.launch; dsimp only
  split <;> rename_i h <;> split at h <;> cases h <;> rfl
@[simp] theorem State.ship_ethOut : (s.ship scl sep dcl dep cls len x).ethOut = s.ethOut := by
  unfold State.ship State.shipAfter State.number State.launch; dsimp only
  split <;> rename_i h <;> split at h <;> cases h <;> rfl
@[simp] theorem State.ship_fwCounts : (s.ship scl sep dcl dep cls len x).fwCounts = s.fwCounts := by
  unfold State.ship State.shipAfter State.number State.launch; dsimp only
  split <;> rename_i h <;> split at h <;> cases h <;> rfl
@[simp] theorem State.ship_devAcks : (s.ship scl sep dcl dep cls len x).devAcks = s.devAcks := by
  unfold State.ship State.shipAfter State.number State.launch; dsimp only
  split <;> rename_i h <;> split at h <;> cases h <;> rfl
@[simp] theorem State.ship_undeliverable : (s.ship scl sep dcl dep cls len x).undeliverable = s.undeliverable := by
  unfold State.ship State.shipAfter State.number State.launch; dsimp only
  split <;> rename_i h <;> split at h <;> cases h <;> rfl
@[simp] theorem State.ship_fwBusy : (s.ship scl sep dcl dep cls len x).fwBusy = s.fwBusy := by
  unfold State.ship State.shipAfter State.number State.launch; dsimp only
  split <;> rename_i h <;> split at h <;> cases h <;> rfl
@[simp] theorem State.ship_fwNotes : (s.ship scl sep dcl dep cls len x).fwNotes = s.fwNotes := by
  unfold State.ship State.shipAfter State.number State.launch; dsimp only
  split <;> rename_i h <;> split at h <;> cases h <;> rfl
@[simp] theorem State.ship_images : (s.ship scl sep dcl dep cls len x).images = s.images := by
  unfold State.ship State.shipAfter State.number State.launch; dsimp only
  split <;> rename_i h <;> split at h <;> cases h <;> rfl
@[simp] theorem State.ship_flash : (s.ship scl sep dcl dep cls len x).flash = s.flash := by
  unfold State.ship State.shipAfter State.number State.launch; dsimp only
  split <;> rename_i h <;> split at h <;> cases h <;> rfl
@[simp] theorem State.ship_plan : (s.ship scl sep dcl dep cls len x).plan = s.plan := by
  unfold State.ship State.shipAfter State.number State.launch; dsimp only
  split <;> rename_i h <;> split at h <;> cases h <;> rfl
@[simp] theorem State.ship_planDev : (s.ship scl sep dcl dep cls len x).planDev = s.planDev := by
  unfold State.ship State.shipAfter State.number State.launch; dsimp only
  split <;> rename_i h <;> split at h <;> cases h <;> rfl
@[simp] theorem State.ship_fmDead : (s.ship scl sep dcl dep cls len x).fmDead = s.fmDead := by
  unfold State.ship State.shipAfter State.number State.launch; dsimp only
  split <;> rename_i h <;> split at h <;> cases h <;> rfl
@[simp] theorem State.ship_fmAgain : (s.ship scl sep dcl dep cls len x).fmAgain = s.fmAgain := by
  unfold State.ship State.shipAfter State.number State.launch; dsimp only
  split <;> rename_i h <;> split at h <;> cases h <;> rfl
@[simp] theorem State.ship_fmHeard : (s.ship scl sep dcl dep cls len x).fmHeard = s.fmHeard := by
  unfold State.ship State.shipAfter State.number State.launch; dsimp only
  split <;> rename_i h <;> split at h <;> cases h <;> rfl
@[simp] theorem State.ship_curCore : (s.ship scl sep dcl dep cls len x).curCore = s.curCore := by
  unfold State.ship State.shipAfter State.number State.launch; dsimp only
  split <;> rename_i h <;> split at h <;> cases h <;> rfl
@[simp] theorem State.ship_curSlot : (s.ship scl sep dcl dep cls len x).curSlot = s.curSlot := by
  unfold State.ship State.shipAfter State.number State.launch; dsimp only
  split <;> rename_i h <;> split at h <;> cases h <;> rfl
@[simp] theorem State.ship_curr : (s.ship scl sep dcl dep cls len x).curr = s.curr := by
  unfold State.ship State.shipAfter State.number State.launch; dsimp only
  split <;> rename_i h <;> split at h <;> cases h <;> rfl
@[simp] theorem State.ship_subj : (s.ship scl sep dcl dep cls len x).subj = s.subj := by
  unfold State.ship State.shipAfter State.number State.launch; dsimp only
  split <;> rename_i h <;> split at h <;> cases h <;> rfl
@[simp] theorem State.ship_agenda : (s.ship scl sep dcl dep cls len x).agenda = s.agenda := by
  unfold State.ship State.shipAfter State.number State.launch; dsimp only
  split <;> rename_i h <;> split at h <;> cases h <;> rfl
@[simp] theorem State.ship_fresh : (s.ship scl sep dcl dep cls len x).fresh = s.fresh := by
  unfold State.ship State.shipAfter State.number State.launch; dsimp only
  split <;> rename_i h <;> split at h <;> cases h <;> rfl

@[simp] theorem State.ship_core (k : Nat) : (s.ship scl sep dcl dep cls len x).core k = s.core k := by simp [State.core]
@[simp] theorem State.ship_column (k : Nat) : (s.ship scl sep dcl dep cls len x).column k = s.column k := by simp [State.column]
@[simp] theorem State.ship_slot (k j : Nat) : (s.ship scl sep dcl dep cls len x).slot k j = s.slot k j := by simp [State.slot]
end

/-! ### One thread at a time -/

theorem assign_assign {α : Type} (m : List (Nat × α)) (k : Nat) (v w : α) : assign (assign m k v) k w = assign m k w := by
  induction m with
  | nil => simp [assign]
  | cons p r ih =>
    obtain ⟨k', v'⟩ := p
    by_cases h : k = k'
    · simp [assign, h]
    · by_cases h2 : k < k'
      · simp [assign, h, h2]
      · simp [assign, h, h2, ih]

theorem State.setCore_setCore (s : State) (c : Nat) (v w : Core) : (s.setCore c v).setCore c w = s.setCore c w := by
  simp [State.setCore, assign_assign]

theorem State.setSlot_setSlot (s : State) (c sl : Nat) (v w : Slot) : (s.setSlot c sl v).setSlot c sl w = s.setSlot c sl w := by
  simp [State.setSlot, State.onCore, State.setCore_setCore, assign_assign]

theorem State.setThread_setThread (s : State) (c sl : Nat) (a b : Thread) :
    (s.setThread c sl a).setThread c sl b = s.setThread c sl b := by
  simp [State.setThread, State.setSlot_setSlot]

theorem State.onThread_setThread (s : State) (c sl : Nat) (a : Thread) (f : Thread → Thread) :
    (s.setThread c sl a).onThread c sl f = s.setThread c sl (f a) := by
  simp [State.onThread, State.setThread_setThread]

theorem State.onThread_onThread (s : State) (c sl : Nat) (f g : Thread → Thread) :
    (s.onThread c sl f).onThread c sl g = s.onThread c sl fun th => g (f th) := by
  simp [State.onThread, State.setThread_setThread]

/-! ### Fetch traffic -/

/-- Nothing has changed but lines being filled and what travels on the mesh. -/
structure FetchOnly (s t : State) : Prop where
  cores : t.cores = s.cores
  columns : ∀ k, { t.column k with filling := [] } = { s.column k with filling := [] }
  clusters : t.clusters = s.clusters
  quads : t.quads = s.quads
  dies : t.baseDies = s.baseDies
  routers : t.routers = s.routers
  groups : t.groups = s.groups
  keys : t.keys = s.keys
  now : t.now = s.now
  bankMem : t.bankMem = s.bankMem
  colMem : t.colMem = s.colMem
  hbm : t.hbm = s.hbm
  lp : t.lp = s.lp
  bankBad : t.bankBad = s.bankBad
  colBad : t.colBad = s.colBad
  bankErr : t.bankErr = s.bankErr
  colErr : t.colErr = s.colErr
  sectors : t.sectors = s.sectors

theorem FetchOnly.refl (s : State) : FetchOnly s s := by constructor <;> intros <;> rfl

theorem FetchOnly.core {s t : State} (h : FetchOnly s t) (k : Nat) : t.core k = s.core k := by simp [State.core, h.cores]
theorem FetchOnly.slot {s t : State} (h : FetchOnly s t) (k j : Nat) : t.slot k j = s.slot k j := by simp [State.slot, h.core]
theorem FetchOnly.thread {s t : State} (h : FetchOnly s t) (k j : Nat) : t.thread k j = s.thread k j := by
  simp [State.thread, h.slot]
theorem FetchOnly.cyc {s t : State} (h : FetchOnly s t) (k : Nat) : t.cyc k = s.cyc k := by
  simp [State.cyc, State.cluster, h.clusters]
theorem FetchOnly.reg {s t : State} (h : FetchOnly s t) (k j r : Nat) : t.reg k j r = s.reg k j r := by
  simp [State.reg, State.regOf, h.core, h.thread]

theorem FetchOnly.trans {s t u : State} (h : FetchOnly s t) (g : FetchOnly t u) : FetchOnly s u where
  cores := g.cores.trans h.cores
  columns k := (g.columns k).trans (h.columns k)
  clusters := g.clusters.trans h.clusters
  quads := g.quads.trans h.quads
  dies := g.dies.trans h.dies
  routers := g.routers.trans h.routers
  groups := g.groups.trans h.groups
  keys := g.keys.trans h.keys
  now := g.now.trans h.now
  bankMem := g.bankMem.trans h.bankMem
  colMem := g.colMem.trans h.colMem
  hbm := g.hbm.trans h.hbm
  lp := g.lp.trans h.lp
  bankBad := g.bankBad.trans h.bankBad
  colBad := g.colBad.trans h.colBad
  bankErr := g.bankErr.trans h.bankErr
  colErr := g.colErr.trans h.colErr
  sectors := g.sectors.trans h.sectors

theorem fetchOnly_ship (s : State) (scl sep dcl dep cls len : Nat) (x : Content) :
    FetchOnly s (s.ship scl sep dcl dep cls len x) := by constructor <;> intros <;> simp

theorem fetchOnly_filling (s : State) (k : Nat) (l : Column → List (Nat × List Nat)) :
    FetchOnly s (s.onColumn k fun x => { x with filling := l x }) := by
  constructor
  all_goals try simp
  intro j
  by_cases h : j = k
  · subst h; simp
  · simp [State.column_onColumn_ne _ _ _ _ h]

theorem fetchOnly_askLine (s : State) (c sl pc : Nat) : FetchOnly s (s.askLine c sl pc) := by
  unfold State.askLine
  dsimp only
  split
  · split
    · exact FetchOnly.refl _
    · exact fetchOnly_filling s _ _
  · exact (fetchOnly_filling s _ _).trans (fetchOnly_ship _ _ _ _ _ _ _ _)

/-- Taking a line changes the thread's line, the fault of its fetch and its hold, and nothing else of it. -/
theorem State.takeLine_spec (s : State) (c sl : Nat) : ∃ l f h,
    FetchOnly (s.setThread c sl { s.thread c sl with line := l, lineFault := f, hold := h }) (s.takeLine c sl) := by
  unfold State.takeLine
  dsimp only
  split
  · exact ⟨_, _, _, FetchOnly.refl _⟩
  · split
    · exact ⟨_, _, _, FetchOnly.refl _⟩
    · exact ⟨_, _, _, fetchOnly_askLine _ _ _ _⟩

theorem State.jumpTo_spec (s : State) (c sl : Nat) (pc : Word) : ∃ l f h,
    FetchOnly (s.setThread c sl { s.thread c sl with pc := pc, line := l, lineFault := f, hold := h }) (s.jumpTo c sl pc) := by
  obtain ⟨l, f, h, g⟩ := (s.onThread c sl fun th => { th with pc := pc }).takeLine_spec c sl
  refine ⟨l, f, h, ?_⟩
  rw [State.thread_onThread] at g
  rwa [State.onThread, State.setThread_setThread] at g

theorem State.advance_spec (s : State) (c sl : Nat) : ∃ l f h,
    FetchOnly (s.setThread c sl { s.thread c sl with pc := (s.thread c sl).nextPc, line := l, lineFault := f, hold := h })
      (s.advance c sl) := by
  unfold State.advance
  dsimp only
  split
  · exact ⟨_, _, _, FetchOnly.refl _⟩
  · exact s.jumpTo_spec c sl _

/-- Being done (R27): the thread's hold and what it kept for the instruction are cleared, and it stands at the next PC. -/
theorem State.finish_spec (s : State) (c sl : Nat) : ∃ l f h,
    FetchOnly (s.setThread c sl { s.thread c sl with
      holding := none, pend := none, xl := [], acks := 0, result := 0, mark := 0, entering := false, pc := (s.thread c sl).nextPc
      line := l, lineFault := f, hold := h }) (s.finish c sl) := by
  obtain ⟨l, f, h, g⟩ := (s.onThread c sl fun th => { th with
    hold := .ready, holding := none, pend := none, xl := [], acks := 0, result := 0, mark := 0, entering := false }).advance_spec c sl
  refine ⟨l, f, h, ?_⟩
  rw [State.thread_onThread] at g
  rwa [State.onThread, State.setThread_setThread] at g

/-! ### Only the slot's thread, and fetch traffic -/

/-- Nothing has changed but the thread of one slot, lines being filled, and what travels on the mesh. -/
structure Near (s t : State) (c sl : Nat) : Prop where
  slots : ∀ k j, k ≠ c ∨ j ≠ sl → t.slot k j = s.slot k j
  status : (t.slot c sl).st = (s.slot c sl).st
  core : { t.core c with slots := [] } = { s.core c with slots := [] }
  cores : ∀ k, k ≠ c → t.core k = s.core k
  columns : ∀ k, { t.column k with filling := [] } = { s.column k with filling := [] }
  clusters : t.clusters = s.clusters
  quads : t.quads = s.quads
  dies : t.baseDies = s.baseDies
  routers : t.routers = s.routers
  groups : t.groups = s.groups
  keys : t.keys = s.keys
  now : t.now = s.now
  bankMem : t.bankMem = s.bankMem
  colMem : t.colMem = s.colMem
  hbm : t.hbm = s.hbm
  lp : t.lp = s.lp
  bankBad : t.bankBad = s.bankBad
  colBad : t.colBad = s.colBad
  bankErr : t.bankErr = s.bankErr
  colErr : t.colErr = s.colErr
  sectors : t.sectors = s.sectors

theorem Near.trans {s t u : State} {c sl : Nat} (h : Near s t c sl) (g : Near t u c sl) : Near s u c sl where
  slots k j hk := (g.slots k j hk).trans (h.slots k j hk)
  status := g.status.trans h.status
  core := g.core.trans h.core
  cores k hk := (g.cores k hk).trans (h.cores k hk)
  columns k := (g.columns k).trans (h.columns k)
  clusters := g.clusters.trans h.clusters
  quads := g.quads.trans h.quads
  dies := g.dies.trans h.dies
  routers := g.routers.trans h.routers
  groups := g.groups.trans h.groups
  keys := g.keys.trans h.keys
  now := g.now.trans h.now
  bankMem := g.bankMem.trans h.bankMem
  colMem := g.colMem.trans h.colMem
  hbm := g.hbm.trans h.hbm
  lp := g.lp.trans h.lp
  bankBad := g.bankBad.trans h.bankBad
  colBad := g.colBad.trans h.colBad
  bankErr := g.bankErr.trans h.bankErr
  colErr := g.colErr.trans h.colErr
  sectors := g.sectors.trans h.sectors

theorem near_setThread (s : State) (c sl : Nat) (th : Thread) : Near s (s.setThread c sl th) c sl := by
  constructor
  case slots => intro k j hk; exact State.slot_setThread_ne _ _ _ _ _ _ hk
  case status => rw [State.slot_setThread]
  case core => simp [State.setThread, State.setSlot]
  case cores => intro k hk; simp [State.setThread, State.setSlot, State.core_onCore_ne _ _ _ _ hk]
  all_goals intros; rfl

theorem FetchOnly.near {s t : State} (h : FetchOnly s t) (c sl : Nat) : Near s t c sl where
  slots _ _ _ := h.slot _ _
  status := by rw [h.slot]
  core := by rw [h.core]
  cores _ _ := h.core _
  columns := h.columns
  clusters := h.clusters
  quads := h.quads
  dies := h.dies
  routers := h.routers
  groups := h.groups
  keys := h.keys
  now := h.now
  bankMem := h.bankMem
  colMem := h.colMem
  hbm := h.hbm
  lp := h.lp
  bankBad := h.bankBad
  colBad := h.colBad
  bankErr := h.bankErr
  colErr := h.colErr
  sectors := h.sectors

theorem Near.rf {s t : State} {c sl : Nat} (h : Near s t c sl) (k : Nat) : (t.core k).rf = (s.core k).rf := by
  by_cases hk : k = c
  · subst hk; have := congrArg Core.rf h.core; simpa using this
  · rw [h.cores k hk]

theorem Near.rfErr {s t : State} {c sl : Nat} (h : Near s t c sl) (k : Nat) : (t.core k).rfErr = (s.core k).rfErr := by
  by_cases hk : k = c
  · subst hk; have := congrArg Core.rfErr h.core; simpa using this
  · rw [h.cores k hk]

theorem Near.crowns {s t : State} {c sl : Nat} (h : Near s t c sl) (k : Nat) : (t.core k).crowns = (s.core k).crowns := by
  by_cases hk : k = c
  · subst hk; have := congrArg Core.crowns h.core; simpa using this
  · rw [h.cores k hk]

theorem Near.cluster {s t : State} {c sl : Nat} (h : Near s t c sl) (k : Nat) : t.cluster k = s.cluster k := by
  simp [State.cluster, h.clusters]

theorem Near.cyc {s t : State} {c sl : Nat} (h : Near s t c sl) (k : Nat) : t.cyc k = s.cyc k := by
  simp [State.cyc, h.cluster]

theorem Near.sameRegs {s t : State} {c sl : Nat} (h : Near s t c sl) : SameRegs s t := fun k => ⟨h.rf k, h.rfErr k⟩

theorem Near.sameMemory {s t : State} {c sl : Nat} (h : Near s t c sl) : SameMemory s t where
  bank _ := by rw [h.bankMem]
  column _ := by rw [h.colMem]
  hbm _ := by rw [h.hbm]
  lp _ := by rw [h.lp]
  bankBad := h.bankBad
  colBad := h.colBad
  bankErr := h.bankErr
  colErr := h.colErr
  sectors := h.sectors
  lines _ := by rw [h.cluster]

theorem Near.sameRest {s t : State} {c sl : Nat} (h : Near s t c sl) : SameRest s t c sl where
  slots := h.slots
  status := h.status
  core := by
    have := congrArg (fun k : Core => { k with rf := [], rfErr := [] }) h.core
    simpa using this
  cores := h.cores
  columns k := by
    have := congrArg (fun x : Column => { x with portUsed := [] }) (h.columns k)
    simpa using this
  clusters := h.clusters
  quads := h.quads
  dies := h.dies
  routers := h.routers
  groups := h.groups
  keys := h.keys
  now := h.now

/-- A register of the thread reads as before, as long as the thread keeps its base and tiller. -/
theorem Near.reg {s t : State} {c sl : Nat} (h : Near s t c sl) (hb : (t.thread c sl).base = (s.thread c sl).base)
    (ht : (t.thread c sl).tiller = (s.thread c sl).tiller) (r : Nat) : t.reg c sl r = s.reg c sl r := by
  simp [State.reg, State.regOf, h.rf, h.crowns, hb, ht]

theorem near_finish (s : State) (c sl : Nat) : Near s (s.finish c sl) c sl := by
  obtain ⟨l, f, h, g⟩ := s.finish_spec c sl
  exact (near_setThread s c sl _).trans (g.near c sl)

theorem near_turns (s : State) (c sl k : Nat) : Near s (s.turns c sl k) c sl := near_setThread s c sl _

/-! ### The checks before an instruction (R47) -/

theorem overLimit_none (th : Thread) (rs : List Nat) (h : ∀ r ∈ rs, r < th.limit) : overLimit th rs = none := by
  unfold overLimit
  rw [List.filter_eq_nil_iff.2]
  · rfl
  · intro r hr
    have := h r hr
    simp; omega

/-- Registers whose entries are sound show no error. -/
theorem Thread.errorsIn_nil (th : Thread) (errs : List (Nat × Bool)) (rs : List Nat)
    (h : ∀ r ∈ rs, ∀ e, th.entryOf r = some e → find errs e = none) : th.errorsIn errs rs = [] := by
  simp only [Thread.errorsIn, List.filterMap_eq_nil_iff, Option.map_eq_none_iff]
  intro e he
  obtain ⟨r, hr, hre⟩ := List.mem_filterMap.1 (List.mem_eraseDups.1 he)
  exact h r hr e hre

/-- Reading sound registers does nothing before the instruction's own effect. -/
theorem State.reading_sound (s : State) (c sl : Nat) (rs : List Nat) (after : State)
    (h : ∀ r ∈ rs, ∀ e, (s.thread c sl).entryOf r = some e → find (s.core c).rfErr e = none) : s.reading c sl rs after = after := by
  simp [State.reading, Thread.errorsIn_nil _ _ _ h]

/-- An instruction that passes its checks does what its meaning says. -/
theorem guarded_runs {s : State} {c sl : Nat} {names writes : List Nat} (h : Runs s c sl names writes) (f : Nat → Nat → State) :
    guarded s false names writes f = .next (f c sl) := by
  unfold guarded current
  rw [h.curr, h.core, h.slot]
  simp [overLimit_none _ _ h.below, h.copies, State.reading_sound _ _ _ _ _ h.sound]

/-- The same for a privileged instruction of a thread with supervisor privilege. -/
theorem guarded_runs_priv {s : State} {c sl : Nat} {names writes : List Nat} (h : Runs s c sl names writes)
    (hp : (s.thread c sl).sup = true) (f : Nat → Nat → State) : guarded s true names writes f = .next (f c sl) := by
  unfold guarded current
  rw [h.curr, h.core, h.slot]
  simp [overLimit_none _ _ h.below, h.copies, hp, State.reading_sound _ _ _ _ _ h.sound]

/-! ### Writing a register (R165, R110) -/

/-- A tiller has an entry to write register d to. -/
def HasRoom (s : State) (c sl d : Nat) : Prop :=
  ∀ t, (s.thread c sl).tiller = some t → d ≠ 0 → (find t.priv d).isNone → t.spare ≠ []

theorem Runs.hasRoom {s : State} {c sl d : Nat} {names writes : List Nat} (h : Runs s c sl names writes) (hd : d ∈ writes) :
    HasRoom s c sl d := by
  intro t ht h0 hf hs
  have hr := h.room t ht
  rw [Thread.newCopies, ht, hs] at hr
  simp only [List.length_nil, Nat.le_zero, List.length_eq_zero_iff, List.filter_eq_nil_iff] at hr
  exact hr d (List.mem_eraseDups.2 hd) (by simp [h0, hf])

/-- Writing a register changes one entry of the register file, and of the thread only a tiller's private map. -/
theorem State.setReg_spec (s : State) (c sl d : Nat) (v : VWord) (h : HasRoom s c sl d) : ∃ t',
    ((s.thread c sl).tiller = none → t' = none) ∧
    (∀ x y, (s.thread c sl).tiller = some x → t' = some y → ∀ r, r ≠ d → find y.priv r = find x.priv r) ∧
    ((s.thread c sl).tiller.isSome → t'.isSome) ∧
    (s.setReg c sl d v).thread c sl = { s.thread c sl with tiller := t' } ∧
    (∀ k j, k ≠ c ∨ j ≠ sl → (s.setReg c sl d v).slot k j = s.slot k j) ∧
    ((s.setReg c sl d v).slot c sl).st = (s.slot c sl).st ∧
    ({ (s.setReg c sl d v).core c with rf := [], rfErr := [], slots := [] } = { s.core c with rf := [], rfErr := [], slots := [] }) ∧
    (∀ k, k ≠ c → (s.setReg c sl d v).core k = s.core k) ∧
    (∀ k e, k ≠ c ∨ s.entryOf c sl d ≠ some e → look ((s.setReg c sl d v).core k).rf e 0 = look (s.core k).rf e 0 ∧
      find ((s.setReg c sl d v).core k).rfErr e = find (s.core k).rfErr e) ∧
    (s.setReg c sl d v).reg c sl d = (if d = 0 then 0 else v) ∧
    (s.setReg c sl d v) = { s with cores := (s.setReg c sl d v).cores } := by
  by_cases h0 : d = 0
  · subst h0
    refine ⟨(s.thread c sl).tiller, ?_⟩
    rw [show s.setReg c sl 0 v = s by simp [State.setReg]]
    refine ⟨id, ?_, id, rfl, fun _ _ _ => rfl, rfl, rfl, fun _ _ => rfl, fun _ _ _ => ⟨rfl, rfl⟩, by simp [State.reg, State.regOf], rfl⟩
    intro x y hx hy r _
    rw [hx] at hy; cases hy; rfl
  · have entry : ∀ e : Nat,
        ({ (s.setEntry c e v).core c with rf := [], rfErr := [], slots := [] } = { s.core c with rf := [], rfErr := [], slots := [] }) := by
      intro e; simp [State.setEntry]
    cases ht : (s.thread c sl).tiller with
    | none =>
      refine ⟨none, ?_⟩
      simp only [State.setReg, h0, if_false, ht]
      refine ⟨fun _ => by trivial, by simp, by simp, ?_, by simp, by simp, entry _, ?_, ?_, ?_, ?_⟩
      · rw [State.thread_setEntry, ← ht]
      · intro k hk; simp [State.setEntry, State.core_onCore_ne _ _ _ _ hk]
      · intro k e hke
        by_cases hk : k = c
        · subst hk
          have he : e ≠ (s.thread k sl).base + d := by
            intro he; subst he; simp [State.entryOf, h0, ht] at hke
          simp [State.setEntry, he]
        · simp [State.setEntry, State.core_onCore_ne _ _ _ _ hk]
      · simp [State.reg, State.regOf, h0, ht, State.setEntry]
        simp [State.thread, State.slot] at ht ⊢
        simp [ht]
      · rfl
    | some t =>
      cases hf : find t.priv d with
      | some e =>
        refine ⟨some t, ?_⟩
        simp only [State.setReg, h0, if_false, ht, hf]
        refine ⟨by simp, ?_, by simp, ?_, by simp, by simp, entry _, ?_, ?_, ?_, ?_⟩
        · intro x y hx hy r _; cases hx; cases hy; rfl
        · rw [State.thread_setEntry, ← ht]
        · intro k hk; simp [State.setEntry, State.core_onCore_ne _ _ _ _ hk]
        · intro k e' hke
          by_cases hk : k = c
          · subst hk
            have he : e' ≠ e := by
              intro he; subst he; simp [State.entryOf, h0, ht, hf] at hke
            simp [State.setEntry, he]
          · simp [State.setEntry, State.core_onCore_ne _ _ _ _ hk]
        · have ht2 : ((s.setEntry c e v).thread c sl).tiller = some t := by rw [State.thread_setEntry, ht]
          simp [State.reg, State.regOf, h0, ht, hf, State.setEntry]
          simp [State.thread, State.slot] at ht ⊢
          simp [ht, hf]
        · rfl
      | none =>
        cases hs : t.spare with
        | nil => exact absurd hs (h t ht h0 (by simp [hf]))
        | cons e rest =>
          refine ⟨some { t with priv := assign t.priv d e, spare := rest, taken := t.taken + 1 }, ?_⟩
          simp only [State.setReg, h0, if_false, ht, hf, hs]
          refine ⟨by simp, ?_, by simp, ?_, ?_, ?_, ?_, ?_, ?_, ?_, ?_⟩
          · intro x y hx hy r hr; cases hx; cases hy; simp [hr]
          · rw [State.thread_setEntry]; simp
          · intro k j hkj
            rw [State.slot_setEntry]; exact State.slot_setThread_ne _ _ _ _ _ _ hkj
          · rw [State.slot_setEntry, State.slot_setThread]
          · simp [State.setEntry, State.setThread, State.setSlot]
          · intro k hk
            simp [State.setEntry, State.core_onCore_ne _ _ _ _ hk, State.setThread, State.setSlot]
          · intro k e' hke
            by_cases hk : k = c
            · subst hk
              have he : e' ≠ e := by
                intro he; subst he; simp [State.entryOf, h0, ht, hf, hs] at hke
              simp [State.setEntry, he, State.setThread, State.setSlot]
            · simp [State.setEntry, State.core_onCore_ne _ _ _ _ hk, State.setThread, State.setSlot]
          · simp [State.reg, State.regOf, h0, State.setEntry]
            rw [← State.setEntry, State.thread_setEntry]
            simp
          · rfl

/-! ### A value in a register and the next PC -/

/-- What Computes says, of a meaning that writes one register, is done, and takes k turns. -/
theorem putDone (s : State) (c sl d k : Nat) (v : VWord) (hr : HasRoom s c sl d) :
    let t := (((s.setReg c sl d v).finish c sl).turns c sl k)
    Gets s t c sl d v ∧ (t.thread c sl).pc = (s.thread c sl).nextPc ∧
    (t.thread c sl).issueAt = s.cyc c + 16 * k ∧ SameSpecial s t c sl ∧ SameMemory s t ∧ SameRest s t c sl := by
  obtain ⟨t', hn, hp, hs, hth, hsl, hst, hcs, hco', hen, hv, hrest⟩ := s.setReg_spec c sl d v hr
  generalize hu : s.setReg c sl d v = u at *
  obtain ⟨l, f, h, g⟩ := u.finish_spec c sl
  rw [hth] at g
  intro t
  have hT : t.thread c sl = { s.thread c sl with
      tiller := t', holding := none, pend := none, xl := [], acks := 0, result := 0, mark := 0, entering := false
      pc := (s.thread c sl).nextPc, line := l, lineFault := f, hold := h, issueAt := s.cyc c + 16 * k } := by
    have hc : (u.finish c sl).cyc c = s.cyc c := by
      rw [g.cyc]; simp only [State.cyc, State.cluster, State.setThread_clusters]; rw [hrest]
    simp only [t, State.turns, State.thread_onThread, g.thread, State.thread_setThread, hc]
    rfl
  have hnear : Near u t c sl := (near_finish u c sl).trans (near_turns _ c sl k)
  have hun : ∀ a b, a ≠ c ∨ b ≠ sl → t.slot a b = s.slot a b := fun a b hab => (hnear.slots a b hab).trans (hsl a b hab)
  refine ⟨⟨?_, ?_, ?_, ?_⟩, by rw [hT], by rw [hT], ?_, ?_, ?_⟩
  · rw [hnear.reg (by rw [hT, hth]) (by rw [hT, hth]), hv]
  · intro a e hae; rw [hnear.rf, hnear.rfErr]; exact hen a e hae
  · intro ht r hrd
    rw [hnear.reg (by rw [hT, hth]) (by rw [hT, hth])]
    by_cases hr0 : r = 0
    · simp [State.reg, State.regOf, hr0]
    · have h2 : s.entryOf c sl d ≠ some ((s.thread c sl).base + r) := by
        simp only [State.entryOf, ht]; split <;> simp; omega
      simp only [State.reg, State.regOf, hr0, if_false, hth, hn ht, ht]
      exact (hen c _ (Or.inr h2)).1
  · intro x y hx hy; rw [hT] at hy; exact hp x y hx hy
  · constructor <;> (try constructor) <;> rw [hT]
  · have e := hnear.sameMemory
    rw [hrest] at e
    exact ⟨e.bank, e.column, e.hbm, e.lp, e.bankBad, e.colBad, e.bankErr, e.colErr, e.sectors, e.lines⟩
  · have e := hnear.sameRest
    exact ⟨hun, e.status.trans hst, e.core.trans hcs, fun a ha => (e.cores a ha).trans (hco' a ha), fun a => (e.columns a).trans (by rw [hrest]; rfl),
      e.clusters.trans (by rw [hrest]), e.quads.trans (by rw [hrest]), e.dies.trans (by rw [hrest]), e.routers.trans (by rw [hrest]),
      e.groups.trans (by rw [hrest]), e.keys.trans (by rw [hrest]), e.now.trans (by rw [hrest])⟩

end Sys2Proof.Machine
end

