-- ==== Sys2Proof/Laws/Traps.lean ====
section
/-!
SUPPORT. What taking a trap, parking a thread and writing an error record can do (20_traps R401, R406, R409 to R411).
-/
namespace Sys2Proof.Machine

open Sys2Proof

/-! ### Records and reports leave the slots alone -/

theorem State.slot_of_cores {s t : State} (h : t.cores = s.cores) (k j : Nat) : t.slot k j = s.slot k j := by
  simp [State.slot, State.core, h]

theorem State.notify_cores (s : State) (cl d : Nat) (x : Content) : (s.notify cl d x).cores = s.cores := rfl

theorem State.slot_onCore_slots (s : State) (c : Nat) (f : Core → Core) (h : ∀ k, (f k).slots = k.slots) (k j : Nat) :
    (s.onCore c f).slot k j = s.slot k j := by
  by_cases hk : k = c
  · subst hk; simp [State.slot, h]
  · simp [State.slot, State.core_onCore_ne _ _ _ _ hk]

theorem State.slot_setCore_slots (s : State) (c : Nat) (v : Core) (h : v.slots = (s.core c).slots) (k j : Nat) :
    (s.setCore c v).slot k j = s.slot k j := by
  have := s.slot_onCore_slots c (fun k => { v with slots := k.slots }) (fun _ => rfl) k j
  simpa [State.onCore, ← h] using this

theorem State.slot_coreToCore (s : State) (a b cls len : Nat) (x : Content) (k j : Nat) :
    (s.coreToCore a b cls len x).slot k j = s.slot k j := by
  unfold State.coreToCore
  split
  · exact State.slot_of_cores rfl _ _
  · split
    · simp only [State.within, State.draw]
      refine (State.slot_of_cores (State.notify_cores _ _ _ _) k j).trans ?_
      refine (State.slot_onCore_slots _ _ _ (by intro; rfl) _ _).trans ?_
      exact State.slot_of_cores rfl _ _
    · exact State.slot_of_cores (by simp) _ _

theorem State.slot_sendReport (s : State) (c k j : Nat) : (s.sendReport c).slot k j = s.slot k j := by
  unfold State.sendReport
  dsimp only
  split
  · split
    · rfl
    · rw [State.slot_coreToCore, State.slot_setCore_slots _ _ _ (by rfl)]
  · rfl

theorem State.slot_report (s : State) (c : Nat) (a w : Word) (k j : Nat) : (s.report c a w).slot k j = s.slot k j := by
  unfold State.report
  dsimp only
  split
  · rw [State.slot_sendReport, State.slot_setCore_slots _ _ _ (by rfl)]
  · rw [State.slot_setCore_slots _ _ _ (by rfl)]

theorem State.slot_tierWrite (s : State) (lp : Bool) (pa : Nat) (bs : List Byte) (k j : Nat) :
    (s.tierWrite lp pa bs).slot k j = s.slot k j := by
  unfold State.tierWrite; split <;> rfl

/-- Writing an error record changes no slot. -/
theorem State.slot_record (s : State) (c : Nat) (r : ErrRec) (k j : Nat) : (s.record c r).slot k j = s.slot k j := by
  unfold State.record
  dsimp only
  split
  · split <;> simp only [State.slot_report, State.slot_tierWrite] <;> rw [State.slot_setCore_slots _ _ _ (by rfl)]
  · rfl

theorem State.zeroRegs_thread (s : State) (c sl : Nat) : ∃ t',
    (s.zeroRegs c sl).thread c sl = { s.thread c sl with tiller := t' } := by
  unfold State.zeroRegs
  dsimp only
  split
  · refine ⟨(s.thread c sl).tiller, ?_⟩
    exact congrArg Slot.th (State.slot_onCore_slots s c _ (by intro; rfl) c sl)
  · exact ⟨_, State.thread_setThread _ _ _ _⟩

/-- A parked thread keeps its trap registers; its slot is PARKED and its monitor disarmed. -/
theorem State.park_spec (s : State) (c sl : Nat) (r : ErrRec) : ∃ t',
    ((s.park c sl r).slot c sl).st = .parked ∧
    (s.park c sl r).thread c sl = { s.thread c sl with
      tiller := t', monitor := .disarmed, hold := .ready, pend := none, holding := none, xl := [], parkCause := r.cause } := by
  obtain ⟨t', h⟩ := s.zeroRegs_thread c sl
  refine ⟨t', ?_, ?_⟩
  · simp only [State.park, State.slot_record, State.halt, State.slot_setSlot]
  · simp only [State.park, State.thread, State.slot_record, State.halt, State.slot_setSlot]
    simp only [State.thread] at h
    rw [h]

theorem State.rf_setSlot (s : State) (c sl : Nat) (x : Slot) (k : Nat) : ((s.setSlot c sl x).core k).rf = (s.core k).rf := by
  by_cases hk : k = c
  · subst hk; simp [State.setSlot]
  · rw [State.setSlot, State.core_onCore_ne _ _ _ _ hk]

theorem State.rfErr_setSlot (s : State) (c sl : Nat) (x : Slot) (k : Nat) :
    ((s.setSlot c sl x).core k).rfErr = (s.core k).rfErr := by
  by_cases hk : k = c
  · subst hk; simp [State.setSlot]
  · rw [State.setSlot, State.core_onCore_ne _ _ _ _ hk]

theorem SameRegs.trans {s t u : State} (h : SameRegs s t) (g : SameRegs t u) : SameRegs s u :=
  fun k => ⟨(g k).1.trans (h k).1, (g k).2.trans (h k).2⟩

theorem SameMemory.trans {s t u : State} (h : SameMemory s t) (g : SameMemory t u) : SameMemory s u where
  bank a := (g.bank a).trans (h.bank a)
  column a := (g.column a).trans (h.column a)
  hbm a := (g.hbm a).trans (h.hbm a)
  lp a := (g.lp a).trans (h.lp a)
  bankBad := g.bankBad.trans h.bankBad
  colBad := g.colBad.trans h.colBad
  bankErr := g.bankErr.trans h.bankErr
  colErr := g.colErr.trans h.colErr
  sectors := g.sectors.trans h.sectors
  lines k := (g.lines k).trans (h.lines k)

/-- Writing a core with its register file as it was touches no memory and no register. -/
theorem State.setCore_frame (s : State) (c : Nat) (v : Core) (h : v.rf = (s.core c).rf ∧ v.rfErr = (s.core c).rfErr) :
    SameRegs s (s.setCore c v) ∧ SameMemory s (s.setCore c v) := by
  refine ⟨fun k => ?_, by constructor <;> intros <;> rfl⟩
  by_cases hk : k = c
  · subst hk; simpa using h
  · rw [State.core_setCore_ne _ _ _ _ hk]; exact ⟨rfl, rfl⟩

/-- Waking idle threads (07_issue R185) touches no memory, no register and no thread that is not idle. -/
theorem State.wakeIdle_frame (s : State) (c : Nat) : SameRegs s (s.wakeIdle c) ∧ SameMemory s (s.wakeIdle c) ∧
    ∀ j, (s.thread c j).waits ≠ some .sysIdle → (s.wakeIdle c).slot c j = s.slot c j := by
  suffices h : ∀ (l : List Nat) (u : State), (SameRegs s u ∧ SameMemory s u ∧
      ∀ j, (s.thread c j).waits ≠ some .sysIdle → u.slot c j = s.slot c j) →
      let v := l.foldl (fun s sl => if (s.thread c sl).waits = some .sysIdle then (s.finish c sl).after c sl else s) u
      SameRegs s v ∧ SameMemory s v ∧ ∀ j, (s.thread c j).waits ≠ some .sysIdle → v.slot c j = s.slot c j from
    h _ s ⟨fun _ => ⟨rfl, rfl⟩, by constructor <;> intros <;> rfl, fun _ _ => rfl⟩
  intro l
  induction l with
  | nil => intro u hu; exact hu
  | cons sl r ih =>
    intro u hu
    refine ih _ ?_
    dsimp only
    split
    · rename_i hw
      have hn : Near u ((u.finish c sl).after c sl) c sl := (near_finish u c sl).trans (near_setThread _ c sl _)
      refine ⟨hu.1.trans hn.sameRegs, hu.2.1.trans hn.sameMemory, fun j hj => ?_⟩
      have : j ≠ sl := by
        rintro rfl
        apply hj
        rw [State.thread, hu.2.2 j hj] at hw
        exact hw
      rw [hn.slots c j (Or.inr this)]
      exact hu.2.2 j hj
    · exact hu

/-- A message to the core itself touches no memory, no register and no thread that is not idle. -/
theorem State.acceptOwn_frame (s : State) (c : Nat) (m : Msg) : SameRegs s (s.acceptOwn c m) ∧ SameMemory s (s.acceptOwn c m) ∧
    ∀ j, (s.thread c j).waits ≠ some .sysIdle → (s.acceptOwn c m).slot c j = s.slot c j := by
  unfold State.acceptOwn
  dsimp only
  split
  · generalize hv : ({ s.core c with arrivals := (s.core c).arrivals ++ [{ msg := m, entered := s.cyc c }] } : Core) = v
    obtain ⟨g1, g2⟩ := s.setCore_frame c v (by subst hv; exact ⟨rfl, rfl⟩)
    have g3 : ∀ j, (s.setCore c v).slot c j = s.slot c j := fun j => State.slot_setCore_slots _ _ _ (by subst hv; rfl) _ _
    obtain ⟨w1, w2, w3⟩ := (s.setCore c v).wakeIdle_frame c
    refine ⟨g1.trans w1, g2.trans w2, fun j hj => ?_⟩
    rw [w3 j (by rw [State.thread, g3]; exact hj), g3]
  · generalize hv : ({ s.core c with svcWait := (s.core c).svcWait ++ [m] } : Core) = v
    obtain ⟨g1, g2⟩ := s.setCore_frame c v (by subst hv; exact ⟨rfl, rfl⟩)
    exact ⟨g1, g2, fun j _ => State.slot_setCore_slots _ _ _ (by subst hv; rfl) _ _⟩

theorem routed_iff (s : State) (c sl : Nat) (k : Cause) : routed k (s.thread c sl) sl = true ↔ forSupervisor s c sl k := by
  simp [routed, forSupervisor, and_assoc]

/-- A fault is one of the fetch at THANDLER. -/
theorem inEntry_iff (s : State) (c sl : Nat) (k : Cause) (w : Word) :
    (fetchCause k w && decide ((s.thread c sl).pc = (s.thread c sl).thandler)) = true ↔ inEntry s c sl k w := by
  simp [inEntry, fetchCause, or_assoc]

/-- Taking a trap does what R401, R406 and R410 say. -/
theorem State.enterTrap_spec (i : Instr) (s : State) (c sl : Nat) (k : Cause) (w a : Word)
    (he : exec i s = .next (s.enterTrap c sl k w a false)) : TakesTrap i s c sl k w a := by
  refine ⟨_, he, ?_⟩
  have hi := inEntry_iff s c sl k w
  have hr := routed_iff s c sl k
  generalize hth : (s.thread c sl).trapped k w a false = th1
  have regs : th1.tepc = trapPc s c sl k ∧ th1.tcause = BitVec.ofNat 64 k.code ∧ th1.tword = w ∧ th1.taddr = a ∧ th1.tprog = 0 := by
    subst hth; simp [Thread.trapped, trapPc]
  have hpark : ∀ (th : Thread) (r : ErrRec), ∃ t', (((s.setThread c sl th).park c sl r).slot c sl).st = .parked ∧
      ((s.setThread c sl th).park c sl r).thread c sl = { th with
        tiller := t', monitor := .disarmed, hold := .ready, pend := none, holding := none, xl := [], parkCause := r.cause } := by
    intro th r
    obtain ⟨t', h1, h2⟩ := (s.setThread c sl th).park_spec c sl r
    exact ⟨t', h1, by rw [h2, State.thread_setThread]⟩
  have hnear : Near s (s.setThread c sl th1) c sl := near_setThread s c sl th1
  have key : s.enterTrap c sl k w a false =
      if fetchCause k w && decide ((s.thread c sl).pc = (s.thread c sl).thandler) then
        (s.setThread c sl (if (s.thread c sl).entering then s.thread c sl else th1)).park c sl
          { kind := 10, cause := k.code, pc := (s.thread c sl).thandler, addr := (if (s.thread c sl).entering then s.thread c sl else th1).taddr }
      else if routed k (s.thread c sl) sl then
        if errSen ((s.setThread c sl th1).core c).errlog then
          ((s.setThread c sl th1).setSlot c sl { st := .service, th := { th1 with pc := th1.tepc, line := none, lineFault := none } }).acceptOwn c
            ((s.setThread c sl th1).serviceMsg c sl th1)
        else (s.setThread c sl th1).park c sl { kind := 11, cause := k.code, pc := th1.tepc, addr := a }
      else if headAddress (s.thread c sl).thandler then
        ((s.setThread c sl th1).setThread c sl { th1 with entering := true }).jumpTo c sl (s.thread c sl).thandler
      else (s.setThread c sl th1).park c sl { kind := 10, cause := Cause.page.code, pc := (s.thread c sl).thandler, addr := a } := by
    subst hth; rfl
  rw [key]
  split
  · rename_i h
    rw [hi] at h
    split
    · rename_i hen
      obtain ⟨t', h1, h2⟩ := hpark (s.thread c sl) { kind := 10, cause := k.code, pc := (s.thread c sl).thandler, addr := (s.thread c sl).taddr }
      refine ⟨fun hn => absurd ⟨h, hen⟩ hn, fun _ _ => ?_, fun hn => absurd h hn, fun hn => absurd h hn, fun _ => ⟨h1, ?_⟩⟩
      · rw [h2]; exact ⟨rfl, rfl, rfl, rfl, rfl⟩
      · rw [h2]
    · rename_i hen
      obtain ⟨t', h1, h2⟩ := hpark th1 { kind := 10, cause := k.code, pc := (s.thread c sl).thandler, addr := th1.taddr }
      refine ⟨fun _ => ?_, fun _ h' => absurd h' hen, fun hn => absurd h hn, fun hn => absurd h hn, fun _ => ⟨h1, ?_⟩⟩
      · rw [h2]; exact regs
      · rw [h2]
  · rename_i h
    rw [hi] at h
    have five : ∀ u : State, u.thread c sl = { u.thread c sl with tepc := th1.tepc, tcause := th1.tcause, tword := th1.tword, taddr := th1.taddr, tprog := th1.tprog } →
        (u.thread c sl).tepc = trapPc s c sl k ∧ (u.thread c sl).tcause = BitVec.ofNat 64 k.code ∧ (u.thread c sl).tword = w ∧
          (u.thread c sl).taddr = a ∧ (u.thread c sl).tprog = 0 := by
      intro u hu; rw [hu]; exact regs
    have keeps : ∀ u : State, ∀ (p : Word) (l : Option (Nat × List Byte)) (f : Option Cause) (g : Hold) (n : Bool),
        u.thread c sl = { th1 with pc := p, line := l, lineFault := f, hold := g, entering := n } →
        SameKept (s.onThread c sl fun th => { th with heldWait := none }) u c sl := by
      intro u p l f g n hu
      constructor <;> rw [hu, State.thread_onThread] <;> subst hth <;> rfl
    split
    · rename_i h'
      rw [hr] at h'
      have herr : ((s.setThread c sl th1).core c).errlog = (s.core c).errlog := by
        have := congrArg Core.errlog hnear.core
        simpa using this
      rw [herr]
      split
      · rename_i he'
        generalize hx : ({ st := .service, th := { th1 with pc := th1.tepc, line := none, lineFault := none } } : Slot) = x
        obtain ⟨g1, g2, g3⟩ := State.acceptOwn_frame ((s.setThread c sl th1).setSlot c sl x) c ((s.setThread c sl th1).serviceMsg c sl th1)
        have hsl := g3 sl (by
          rw [State.thread, State.slot_setSlot]; subst hx; subst hth; simp [Thread.trapped, Thread.waits])
        rw [State.slot_setSlot] at hsl
        have hreg : SameRegs s ((s.setThread c sl th1).setSlot c sl x) := hnear.sameRegs.trans fun j => ⟨State.rf_setSlot _ _ _ _ _, State.rfErr_setSlot _ _ _ _ _⟩
        have hmem : SameMemory s ((s.setThread c sl th1).setSlot c sl x) := hnear.sameMemory.trans (by constructor <;> intros <;> rfl)
        generalize (((s.setThread c sl th1).setSlot c sl x).acceptOwn c ((s.setThread c sl th1).serviceMsg c sl th1)) = u at *
        have hT : u.thread c sl = { th1 with pc := th1.tepc, line := none, lineFault := none } := by
          rw [State.thread, hsl]; subst hx; rfl
        refine ⟨fun _ => five u (by rw [hT]), fun hn => absurd hn h, fun _ hn => absurd h' hn, fun _ _ _ =>
          ⟨by rw [hsl]; subst hx; rfl, ?_, hreg.trans g1, hmem.trans g2, keeps u _ _ _ _ _ hT⟩, ?_⟩
        · rw [hT]; exact regs.1
        · rintro (hc | ⟨-, hc⟩ | ⟨hc, -⟩)
          · exact absurd hc h
          · rw [he'] at hc; cases hc
          · exact absurd h' hc
      · rename_i he'
        obtain ⟨t', h1, h2⟩ := hpark th1 { kind := 11, cause := k.code, pc := th1.tepc, addr := a }
        exact ⟨fun _ => five _ (by rw [h2]), fun hn => absurd hn h, fun _ hn => absurd h' hn, fun _ _ hn => absurd hn he',
          fun _ => ⟨h1, by rw [h2]⟩⟩
    · rename_i h'
      rw [hr] at h'
      split
      · rename_i hh
        obtain ⟨l, f, g, hj⟩ := ((s.setThread c sl th1).setThread c sl { th1 with entering := true }).jumpTo_spec c sl (s.thread c sl).thandler
        have hn2 : Near s (((s.setThread c sl th1).setThread c sl { th1 with entering := true }).jumpTo c sl (s.thread c sl).thandler) c sl :=
          (hnear.trans (near_setThread _ _ _ _)).trans ((near_setThread _ _ _ _).trans (hj.near c sl))
        have hT := hj.thread c sl
        rw [State.thread_setThread, State.thread_setThread] at hT
        refine ⟨fun _ => five _ (by rw [hT]), fun hn => absurd hn h, fun _ _ _ =>
          ⟨by rw [hT], hn2.sameRegs, hn2.sameMemory, keeps _ _ _ _ _ _ hT, hn2.sameRest⟩, fun _ hn => absurd hn h', ?_⟩
        rintro (hc | ⟨hc, -⟩ | ⟨-, hc⟩)
        · exact absurd hc h
        · exact absurd hc h'
        · rw [hh] at hc; cases hc
      · rename_i hh
        obtain ⟨t', h1, h2⟩ := hpark th1 { kind := 10, cause := Cause.page.code, pc := (s.thread c sl).thandler, addr := a }
        exact ⟨fun _ => five _ (by rw [h2]), fun hn => absurd hn h, fun _ _ hn => absurd hn hh, fun _ hn => absurd hn h',
          fun _ => ⟨h1, by rw [h2]⟩⟩

end Sys2Proof.Machine
end

