-- ==== Sys2Proof/Laws/Moves.lean ====
section
/-!
SUPPORT. An instruction that is done, that jumps, that traps or that writes one register does what Claims.lean calls GoesTo,
TakesTrap and Computes.
-/
namespace Sys2Proof.Machine

open Sys2Proof

theorem State.setThread_onThread (s : State) (c sl : Nat) (f : Thread → Thread) (a : Thread) :
    (s.onThread c sl f).setThread c sl a = s.setThread c sl a := State.setThread_setThread _ _ _ _ _

theorem quiet_of_thread {s t : State} {c sl : Nat} {th : Thread} (h : FetchOnly (s.setThread c sl th) t)
    (hs : SameSpecial s (s.setThread c sl th) c sl) (ht : th.tiller = (s.thread c sl).tiller) : Quiet s t c sl := by
  have hn : Near s t c sl := (near_setThread s c sl th).trans (h.near c sl)
  have hT : t.thread c sl = th := by rw [h.thread, State.thread_setThread]
  have e : SameSpecial s t c sl := by
    constructor
    · constructor <;> rw [hT]
      all_goals (have := State.thread_setThread s c sl th; rw [← this]; first | exact hs.masks | exact hs.fflags | exact hs.thandler | exact hs.tplbase | exact hs.tplsize | exact hs.lastcrown | exact hs.heads | exact hs.level | exact hs.world | exact hs.sup | exact hs.pri | exact hs.tid | exact hs.limit | exact hs.base | exact hs.handles | exact hs.monitor | exact hs.records | exact hs.heldWait | exact hs.seen | exact hs.posted | exact hs.engine)
    all_goals (rw [hT]; have := State.thread_setThread s c sl th; rw [← this]; first | exact hs.tepc | exact hs.tcause | exact hs.tword | exact hs.taddr | exact hs.tprog)
  exact ⟨hn.sameRegs, by rw [hT, ht], hn.sameMemory, e, hn.sameRest⟩

theorem finish_goes {i : Instr} {s : State} {c sl : Nat} (he : exec i s = .next (s.finish c sl)) : GoesTo i s c sl (s.thread c sl).nextPc := by
  obtain ⟨l, f, h, g⟩ := s.finish_spec c sl
  refine ⟨_, he, ?_, quiet_of_thread g ?_ rfl⟩
  · rw [g.thread, State.thread_setThread]
  · constructor
    · constructor <;> rw [State.thread_setThread]
    all_goals rw [State.thread_setThread]

theorem jump_goes {i : Instr} {s : State} {c sl : Nat} {pc : Word}
    (he : exec i s = .next ((s.onThread c sl fun th => { th with entering := false }).jumpTo c sl pc)) : GoesTo i s c sl pc := by
  obtain ⟨l, f, h, g⟩ := (s.onThread c sl fun th => { th with entering := false }).jumpTo_spec c sl pc
  rw [State.thread_onThread, State.setThread_onThread] at g
  refine ⟨_, he, ?_, quiet_of_thread g ?_ rfl⟩
  · rw [g.thread, State.thread_setThread]
  · constructor
    · constructor <;> rw [State.thread_setThread]
    all_goals rw [State.thread_setThread]

theorem trap_takes {i : Instr} {s : State} {c sl : Nat} {k : Cause} {a : Word} (he : exec i s = .next (s.trap c sl k a)) :
    TakesTrap i s c sl k (s.thread c sl).instrWord a := s.enterTrap_spec i c sl k _ a he

/-- A register is written, and after that only the slot's thread changes: its base and tiller stay. -/
theorem put_near {s t : State} {c sl d : Nat} {v : VWord} (hr : HasRoom s c sl d) (hnear : Near (s.setReg c sl d v) t c sl)
    (hb : (t.thread c sl).base = ((s.setReg c sl d v).thread c sl).base)
    (ht : (t.thread c sl).tiller = ((s.setReg c sl d v).thread c sl).tiller) :
    Gets s t c sl d v ∧ SameMemory s t ∧ SameRest s t c sl := by
  obtain ⟨t', hn, hp, hs, hth, hsl, hst, hcs, hco', hen, hv, hrest⟩ := s.setReg_spec c sl d v hr
  generalize hu : s.setReg c sl d v = u at *
  have hun : ∀ a b, a ≠ c ∨ b ≠ sl → t.slot a b = s.slot a b := fun a b hab => (hnear.slots a b hab).trans (hsl a b hab)
  have hT : (t.thread c sl).tiller = t' := by rw [ht, hth]
  have hB : (t.thread c sl).base = (s.thread c sl).base := by rw [hb, hth]
  refine ⟨⟨?_, ?_, ?_, ?_⟩, ?_, ?_⟩
  · rw [hnear.reg hb ht, hv]
  · intro a e hae; rw [hnear.rf, hnear.rfErr]; exact hen a e hae
  · intro ht' r hrd
    rw [hnear.reg hb ht]
    by_cases hr0 : r = 0
    · simp [State.reg, State.regOf, hr0]
    · have h2 : s.entryOf c sl d ≠ some ((s.thread c sl).base + r) := by
        simp only [State.entryOf, ht']; split <;> simp; omega
      simp only [State.reg, State.regOf, hr0, if_false, hth, hn ht', ht']
      exact (hen c _ (Or.inr h2)).1
  · intro x y hx hy; rw [hT] at hy; exact hp x y hx hy
  · have e := hnear.sameMemory
    rw [hrest] at e
    exact ⟨e.bank, e.column, e.hbm, e.lp, e.bankBad, e.colBad, e.bankErr, e.colErr, e.sectors, e.lines⟩
  · have e := hnear.sameRest
    exact ⟨hun, e.status.trans hst, e.core.trans hcs, fun a ha => (e.cores a ha).trans (hco' a ha),
      fun a => (e.columns a).trans (by rw [hrest]; rfl), e.clusters.trans (by rw [hrest]), e.quads.trans (by rw [hrest]),
      e.dies.trans (by rw [hrest]), e.routers.trans (by rw [hrest]), e.groups.trans (by rw [hrest]), e.keys.trans (by rw [hrest]),
      e.now.trans (by rw [hrest])⟩

/-- After a write, the thread differs only in its tiller. -/
theorem setReg_thread {s : State} {c sl d : Nat} (v : VWord) (hr : HasRoom s c sl d) :
    ∃ t', (s.setReg c sl d v).thread c sl = { s.thread c sl with tiller := t' } := by
  obtain ⟨t', -, -, -, hth, -⟩ := s.setReg_spec c sl d v hr
  exact ⟨t', hth⟩

/-- A link is written and the thread jumps. -/
theorem link_jumps {i : Instr} {s : State} {c sl d : Nat} {w pc : Word} (hr : HasRoom s c sl d)
    (he : exec i s = .next (((s.put c sl d w).onThread c sl fun th => { th with entering := false }).jumpTo c sl pc)) :
    Links i s c sl d w pc := by
  obtain ⟨t', hth⟩ := setReg_thread (widen w) hr
  obtain ⟨l, f, h, g⟩ := ((s.put c sl d w).onThread c sl fun th => { th with entering := false }).jumpTo_spec c sl pc
  rw [State.thread_onThread, State.setThread_onThread] at g
  have hT := g.thread c sl
  rw [State.thread_setThread] at hT
  have hn : Near (s.put c sl d w) _ c sl := (near_setThread _ c sl _).trans (g.near c sl)
  obtain ⟨h1, h2, h3⟩ := put_near hr hn (by rw [hT]; rfl) (by rw [hT]; rfl)
  refine ⟨_, he, h1, by rw [hT], ?_, h2, h3⟩
  rw [State.put, hth] at hT
  constructor
  · constructor <;> rw [State.put, hT]
  all_goals rw [State.put, hT]

/-- A result is written and the thread is done. -/
theorem put_done {s : State} {c sl d : Nat} (w : Word) (hr : HasRoom s c sl d) :
    let t := s.finishPut c sl d w
    Gets s t c sl d (widen w) ∧ (t.thread c sl).pc = (s.thread c sl).nextPc ∧ SameSpecial s t c sl ∧ SameMemory s t ∧
      SameRest s t c sl := by
  intro t
  obtain ⟨t', hth⟩ := setReg_thread (widen w) hr
  obtain ⟨l, f, h, g⟩ := (s.put c sl d w).finish_spec c sl
  have hT := g.thread c sl
  rw [State.thread_setThread] at hT
  have hn : Near (s.put c sl d w) _ c sl := (near_setThread _ c sl _).trans (g.near c sl)
  obtain ⟨h1, h2, h3⟩ := put_near hr hn (by rw [hT]; rfl) (by rw [hT]; rfl)
  rw [State.put, hth] at hT
  refine ⟨h1, ?_, ?_, h2, h3⟩
  · show (t.thread c sl).pc = _
    simp only [t, State.finishPut, State.put, hT]
    rfl
  · constructor
    · constructor <;> simp only [t, State.finishPut, State.put, hT]
    all_goals simp only [t, State.finishPut, State.put, hT]

/-- A scalar result (R165). -/
theorem scalar_computes {i : Instr} {s : State} {c sl d k : Nat} {names : List Nat} {f : Nat → Nat → Word}
    (h : Runs s c sl (d :: names) [d]) (he : exec i s = scalar s names d k f) (w : Word) (hw : f c sl = w) :
    Computes i s c sl d k (widen w) := by
  refine ⟨((s.setReg c sl d (widen w)).finish c sl).turns c sl k, ?_, putDone s c sl d k (widen w) (h.hasRoom (by simp))⟩
  rw [he, scalar, guarded_runs h, hw]
  rfl

end Sys2Proof.Machine
end

