-- ==== Sys2Proof/Machine/Assemble.lean ====
section
/-!
DEFINITION. A source file of assembly language from its statements to an ODX object (03_odx R52, R56 to R62, R66 to R69): sections
opened and resumed, labels and procedures, constants, relocations for what is not known, data lists and records. Statements are
terms, their symbols numbered; how they are spelled (R51, R53 to R55) is left out (log 70).
-/
namespace Sys2Proof.Machine

open Sys2Proof

/-! ### Statements -/

/-- An item of a list operand: a value, or dup(n, v). -/
inductive ListItem where
  | one (e : Expr)
  | dup (n v : Expr)
deriving DecidableEq, Repr

/-- An item of a list of floating-point literals (R61). -/
inductive FloatItem where
  | one (x : Lit)
  | dup (n : Expr) (x : Lit)
deriving DecidableEq, Repr

/-- A data directive as written. -/
inductive DataStmt where
  | ints (size : Nat) (vs : List ListItem)
  | int8 (vs : List ListItem)
  | floats (t : Fmt) (vs : List FloatItem)
  | planes (t : Fmt) (vs : List FloatItem)
  | planesInt (p : Nat) (vs : List ListItem)
  | fill (n : Expr) (size : Nat) (v : Expr)
  | space (n : Expr)
deriving DecidableEq, Repr

/-- A configuration directive as written (R66 to R69). -/
inductive RecordStmt where
  | task (cores : List (Nat × Nat)) (channel : Nat) (entry : Expr) (pri limit : Nat) (secure blocked : Bool)
  | group (g : Nat) (cores : List Nat)
  | inner (cl row : Nat) (banks : List Nat)
  | innerDefault (cl : Nat)
  | outer (quad row : Nat) (groups : List Nat)
  | launch (dev core channel : Nat) (words : List ListItem)
deriving DecidableEq, Repr

/-- A statement of a source file; `op` carries the expression that stands for the operand in field k, where one may. -/
inductive Stmt where
  | label (y : Nat)
  | section_ (name : List Byte) (kind : SecKind) (target : Option Nat)
  | op (i : Instr) (k : Option Expr)
  | line
  | raw (ws : List HWord)
  | align (b : Nat)
  | proc (y : Nat) (limit : Option Nat)
  | endproc
  | global (y : Nat)
  | extern (y : Nat)
  | equ (y : Nat) (e : Expr)
  | data (d : DataStmt)
  | record (r : RecordStmt)
deriving DecidableEq, Repr

/-- A source file: the names of its symbols, by number, and its statements. -/
structure Source where
  names : List (List Byte)
  stmts : List Stmt
deriving DecidableEq, Repr

/-! ### The operand in field k (R55, R59, R65) -/

/-- How a row's k may hold an expression: the target of a branch, an I-form number, an L-form number. -/
inductive KForm where
  | target | imm25 | imm32
deriving DecidableEq, Repr

/-- The form of an instruction whose operand in k may be an expression that is not yet known. -/
def kForm (i : Instr) : Option KForm := match i with
  | .brEqz .. | .brNez .. | .brLtz .. | .brGez .. | .brGtz .. | .brLez .. | .jmp .. => some .target
  | .addi .. => some .imm25
  | .liS32 .. | .liHi .. | .liZ32 .. | .logiAnd .. | .logiOr .. | .logiXor .. => some .imm32
  | _ => none

/-- A branch or jump with a target. -/
def withTarget (i : Instr) (delta : Int) (index : Nat) : Option Instr := match i with
  | .brEqz a _ _ => some (.brEqz a delta index)
  | .brNez a _ _ => some (.brNez a delta index)
  | .brLtz a _ _ => some (.brLtz a delta index)
  | .brGez a _ _ => some (.brGez a delta index)
  | .brGtz a _ _ => some (.brGtz a delta index)
  | .brLez a _ _ => some (.brLez a delta index)
  | .jmp d _ _ => some (.jmp d delta index)
  | _ => none

/-- An instruction with a number in k; none where it does not fit. DESIGN CHOICE (log 89): every imm32 may be written from -2^31 to
2^32 - 1, since R55 gives it no sign. -/
def withImm (i : Instr) (v : Int) : Option Instr := match i with
  | .addi d a _ => if -(2 : Int) ^ 24 ≤ v ∧ v < (2 : Int) ^ 24 then some (.addi d a v) else none
  | .liS32 d _ => (intFits 32 v).map (.liS32 d ·)
  | .liHi d a _ => (intFits 32 v).map (.liHi d a ·)
  | .liZ32 d _ => (intFits 32 v).map (.liZ32 d ·)
  | .logiAnd d a _ => (intFits 32 v).map (.logiAnd d a ·)
  | .logiOr d a _ => (intFits 32 v).map (.logiOr d a ·)
  | .logiXor d a _ => (intFits 32 v).map (.logiXor d a ·)
  | _ => none

/-- An instruction with k zero, as it stands in an object until it is relocated. -/
def partZero (i : Instr) (f : KForm) : Option Part :=
  let n := if f = .imm32 then 32 else 25
  ((if f = .target then withTarget i 0 1 else withImm i 0).bind fun j => if j.wf then encode j else none).map fun p =>
    (p.1, p.2 / 2 ^ n * 2 ^ n)

/-- A machine with one privileged thread of a limit, to ask which registers an instruction names. -/
def limitProbe (limit : Nat) : State :=
  { State.reset with cores := [(0, { slots := [(0, { st := .run, th := { limit := limit, sup := true, pc := 2 } })] })]
                     curCore := 0, curSlot := 0, curr := true }

/-- An instruction names a register at or above a limit: a thread with that limit would take REGLIMIT (02_lines R46). -/
def namesAbove (limit : Nat) (i : Instr) : Bool := match exec i (limitProbe limit) with
  | .next s => decide ((s.thread 0 0).tcause.toNat = Cause.reglimit.code)
  | _ => false

/-! ### The assembler's state -/

/-- A section while it is assembled; in waiting, the labels that stand before its next instruction. -/
structure AsmSec where
  name : List Byte
  kind : SecKind
  target : Option Nat
  text : Text := {}
  data : List Byte := []
  align : Nat := 0
  relocs : List Reloc := []
  waiting : List Nat := []
deriving DecidableEq, Repr

/-- An open procedure: its symbol, its section and where it begins there, and its register limit. -/
structure AsmProc where
  sym : Nat
  sec : Nat
  start : Nat
  limit : Option Nat
deriving DecidableEq, Repr

/-- What has been assembled: sections, the one in use, symbols with their values, exported and foreign symbols, procedures with their
sizes, and records. -/
structure Asm where
  secs : List AsmSec := []
  cur : Option Nat := none
  defs : List (Nat × SymInfo) := []
  globals : List Nat := []
  externs : List Nat := []
  inProc : Option AsmProc := none
  procs : List (Nat × Nat) := []
  records : List OdxRecord := []
deriving DecidableEq, Repr

/-- What is known of a symbol so far. -/
def Asm.env (a : Asm) (k : Nat) : SymInfo := look a.defs k .unknown

/-- The section in use. -/
def Asm.sec (a : Asm) : Option (Nat × AsmSec) := a.cur.bind fun k => (a.secs[k]?).map fun x => (k, x)

/-- Change the section in use. -/
def Asm.onSec (a : Asm) (f : AsmSec → AsmSec) : Asm := match a.cur with
  | none => a
  | some k => { a with secs := a.secs.modify k f }

/-- Define a symbol; a second definition is an error. -/
def Asm.define (a : Asm) (y : Nat) (x : SymInfo) : Option Asm := match find a.defs y with
  | some _ => none
  | none => some { a with defs := a.defs ++ [(y, x)] }

/-- Close the open line of the section in use. -/
def Asm.closeLine (a : Asm) : Asm := a.onSec fun x => { x with text := x.text.close }

/-- A constant that must be known where it stands, as a count. -/
def Asm.count (a : Asm) (e : Expr) : Option Nat := (e.eval a.env).bind fun v => if 0 ≤ v then some v.toNat else none

/-- The items of a list. -/
def Asm.expand (a : Asm) (vs : List ListItem) : Option (List Expr) :=
  (vs.mapM fun (x : ListItem) => match x with
    | .one e => some [e]
    | .dup n v => (a.count n).map fun n => List.replicate n v).map List.flatten

/-- The literals of a list. -/
def Asm.expandLits (a : Asm) (vs : List FloatItem) : Option (List Lit) :=
  (vs.mapM fun (x : FloatItem) => match x with
    | .one v => some [v]
    | .dup n v => (a.count n).map fun n => List.replicate n v).map List.flatten

/-! ### One statement

`full` is what is known of the symbols of the whole file; it is absent while the file is laid out, when values are not looked at. -/

/-- The environment in which operands are read, when they are. -/
abbrev Known := Option (Nat → SymInfo)

/-- The head, tail and relocation of an instruction at a place of section number k. DESIGN CHOICE (log 89): a symbol that is not known
may not stand whole in an imm32, for which R65 names no relocation, and a target must hold a symbol. -/
def asmOp (full : Known) (k place : Nat) (i : Instr) (e : Option Expr) : Option (Instr × Part × Option Reloc) :=
  let whole := fun (j : Instr) => if j.wf then (encode j).map fun p => (j, p, (none : Option Reloc)) else none
  match e, kForm i with
  | none, _ => whole i
  | some _, none => none
  | some e, some f =>
    let left := fun (y : Nat) (add : Int) (type : Nat) =>
      (partZero i f).map fun p => (i, p, some ({ place := place, addend := add, sym := y, type := type } : Reloc))
    match full with
    | none => (partZero i f).map fun p => (i, p, none)
    | some env => match f with
      | .target => match e.symPlus env with
        | none => none
        | some (y, add) => match env y with
          | .label s off =>
            if s = k then
              if 0 ≤ (off : Int) + add then
                (branchTo place ((off : Int) + add).toNat).bind fun t => (withTarget i t.1 t.2).bind whole
              else none
            else left y add 3
          | _ => left y add 3
      | .imm25 => match e.operand env with
        | some (.number v) => (withImm i v).bind whole
        | some (.reloc y add .whole) => left y add 6
        | _ => none
      | .imm32 => match e.operand env with
        | some (.number v) => (withImm i v).bind whole
        | some (.reloc y add .lo) => left y add 4
        | some (.reloc y add .hi) => left y add 5
        | _ => none

/-- An instruction of a text section: the labels that wait for it take its place. DESIGN CHOICE (log 89): before any section directive
it is an error, as a label and a data directive are. -/
def Asm.op (full : Known) (a : Asm) (i : Instr) (e : Option Expr) : Option Asm := match a.sec with
  | none => none
  | some (k, x) =>
    if x.kind ≠ .text then none
    else
      (asmOp none k 0 i e).bind fun q =>
        let t := x.text.place q.2.1
        let place := t.places.getLast?.getD 0
        (asmOp full k place i e).bind fun (j, p, r) =>
          let named := match a.inProc with
            | some pr => match pr.limit with
              | some n => namesAbove n j
              | none => false
            | none => false
          if named then none
          else
            let a := a.onSec fun x => { x with text := x.text.place p, relocs := x.relocs ++ r.toList, waiting := [] }
            x.waiting.foldlM (fun (a : Asm) y => a.define y (.label k place)) a

/-- One number of an integer list: its bytes, or zeros and a relocation (R65). DESIGN CHOICE (log 89): one that is not known must have
8 or 4 bytes, for which alone R65 names a relocation. -/
def asmInt (full : Known) (size place : Nat) (e : Expr) : Option (List Byte × List Reloc) := match full with
  | none => some (List.replicate size 0, [])
  | some env => match e.operand env with
    | some (.number v) => (intFits (8 * size) v).map fun n => (toBytes size n, [])
    | some (.reloc y add .whole) =>
      if size = 8 then some (List.replicate 8 0, [{ place := place, addend := add, sym := y, type := 1 }])
      else if size = 4 then some (List.replicate 4 0, [{ place := place, addend := add, sym := y, type := 2 }])
      else none
    | _ => none

/-- Numbers of a size one after another. -/
def asmInts (full : Known) (size off : Nat) (es : List Expr) : Option (List Byte × List Reloc) :=
  if !([1, 2, 4, 8].contains size) then none
  else (es.zipIdx.mapM fun (e : Expr × Nat) => asmInt full size (off + size * e.2) e.1).map fun l =>
    (l.flatMap (fun x => x.1), l.flatMap fun x => x.2)

/-- The numbers of a list that must be constants. -/
def asmNumbers (full : Known) (es : List Expr) : Option (List Int) := match full with
  | none => some (es.map fun _ => 0)
  | some env => es.mapM fun (e : Expr) => e.eval env

/-- A data directive at an offset: its bytes and relocations. -/
def Asm.dataBytes (full : Known) (a : Asm) (off : Nat) (d : DataStmt) : Option (List Byte × List Reloc) :=
  let plain := fun (x : Option DataItem) => (x.bind fun x => x.bytes off).map fun bs => (bs, ([] : List Reloc))
  match d with
  | .ints size vs => (a.expand vs).bind fun es => asmInts full size off es
  | .int8 vs => plain ((a.expand vs).bind fun es => (asmNumbers full es).map .int8)
  | .floats t vs => plain ((a.expandLits vs).map (.floats t ·))
  | .planes t vs => plain ((a.expandLits vs).map (.planes t ·))
  | .planesInt p vs => plain ((a.expand vs).bind fun es => (asmNumbers full es).map (.planesInt p ·))
  | .fill n size v => (a.count n).bind fun n => asmInts full size off (List.replicate n v)
  | .space n => plain ((a.count n).map .space)

/-- A reference of a record (R65). -/
def asmRef (full : Known) (e : Expr) : Option Ref := match full with
  | none => some { sym := none, val := 0 }
  | some env => match e.operand env with
    | some (.number v) => some { sym := none, val := wrapN 64 v }
    | some (.reloc y add .whole) => some { sym := some y, val := wrapN 64 add }
    | _ => none

/-- The records of a configuration directive; a value outside its field is an error (R56). -/
def Asm.recordsOf (full : Known) (a : Asm) (r : RecordStmt) : Option (List OdxRecord) :=
  let made : Option (List OdxRecord) := match r with
    | .task cores ch e pri lim secure blocked =>
      (asmRef full e).map fun e => cores.map fun c => .task c.1 c.2 ch pri lim secure blocked e
    | .group g cores =>
      let ms := (List.range 4096).filter fun c => cores.contains c
      if allBelow 4096 cores then some [.group g ms.length ms] else none
    | .inner cl row banks => some [.inner cl row banks]
    | .innerDefault cl => some (defaultRose cl)
    | .outer q row gs => some [.outer q row gs]
    | .launch dev core ch ws => ((a.expand ws).bind fun es => es.mapM (asmRef full)).map fun l => [.launch dev core ch l]
  made.bind fun rs => if rs.all OdxRecord.fits then some rs else none

/-- A label: of the next instruction in a text section (R58), of the place in another. A label of the procedure that begins here
gives its symbol the same place. -/
def Asm.label (a : Asm) (y : Nat) : Option Asm := match a.sec with
  | none => none
  | some (k, x) =>
    if x.kind = .text then
      if x.waiting.contains y then some a
      else match find a.defs y with
        | some _ => none
        | none => some (a.onSec fun x => { x with waiting := x.waiting ++ [y] })
    else a.define y (.label k x.data.length)

/-- Open or resume a section; a section has one kind and one target. DESIGN CHOICE (log 89): the open line is closed also where the
section is the one in use. -/
def Asm.enter (a : Asm) (name : List Byte) (kind : SecKind) (target : Option Nat) : Option Asm :=
  let a := a.closeLine
  match a.secs.findIdx? fun x => x.name = name with
  | some k => match a.secs[k]? with
    | some x => if x.kind = kind && x.target == target then some { a with cur := some k } else none
    | none => none
  | none => some { a with secs := a.secs ++ [{ name := name, kind := kind, target := target, align := if kind = .text then 6 else 0 }]
                          cur := some a.secs.length }

/-- One statement; none is an assembly error. DESIGN CHOICE (log 89): the expression of .equ is read with the symbols defined before
it. -/
def Asm.stmt (full : Known) (a : Asm) (x : Stmt) : Option Asm :=
  let text := fun (t : TextItem) => match a.sec with
    | some (_, x) => if x.kind = .text then (x.text.item t).map fun t => a.onSec fun x => { x with text := t } else none
    | none => none
  match x with
  | .label y => a.label y
  | .section_ name kind target => a.enter name kind target
  | .op i e => a.op full i e
  | .line => text .line
  | .raw ws => text (.raw ws)
  | .align b =>
    let aligned := fun (a : Asm) => a.onSec fun x => { x with align := max x.align (Nat.log2 b) }
    match a.sec with
    | some (_, x) =>
      if x.kind = .text then (text (.align b)).map aligned
      else (DataItem.bytes x.data.length (.align b)).map fun bs => aligned (a.onSec fun x => { x with data := x.data ++ bs })
    | none => none
  | .proc y limit =>
    let ok := match limit with
      | none => true
      | some n => decide (8 ≤ n) && decide (n ≤ 128) && decide (n % 8 = 0)
    let a := a.closeLine
    match a.sec, a.inProc with
    | some (k, x), none =>
      if x.kind = .text && ok then
        (a.label y).map fun a => { a with inProc := some { sym := y, sec := k, start := 64 * x.text.lines.length, limit := limit } }
      else none
    | _, _ => none
  | .endproc =>
    let a := a.closeLine
    match a.sec, a.inProc with
    | some (k, x), some p =>
      if k = p.sec then some { a with inProc := none, procs := a.procs ++ [(p.sym, 64 * x.text.lines.length - p.start)] } else none
    | _, _ => none
  | .global y => some { a with globals := y :: a.globals }
  | .extern y => some { a with externs := y :: a.externs }
  | .equ y e => (e.eval a.env).bind fun v => a.define y (.const v)
  | .data d => match a.sec with
    | some (_, x) =>
      if x.kind = .text then none
      else (a.dataBytes full x.data.length d).map fun p => a.onSec fun x => { x with data := x.data ++ p.1, relocs := x.relocs ++ p.2 }
    | none => none
  | .record r => (a.recordsOf full r).map fun rs => { a with records := a.records ++ rs }

/-! ### A whole file -/

/-- All statements in order; a label that no instruction follows and a procedure that is not ended are errors. -/
def assembleWith (full : Known) (xs : List Stmt) : Option Asm :=
  (xs.foldlM (fun (a : Asm) x => a.stmt full x) ({} : Asm)).bind fun a =>
    let a := a.closeLine
    if (a.secs.any fun x => !x.waiting.isEmpty) || a.inProc.isSome then none else some a

/-- A section of the object. DESIGN CHOICE (log 84): text may be executed, and every other section written. -/
def AsmSec.out (x : AsmSec) : OdxSection :=
  let isText := x.kind == .text
  { name := x.name, kind := x.kind, align := x.align, writable := !isText, executable := isText, addr := 0
    contents := if isText then lineBytes x.text.lines else x.data, relocs := x.relocs
    target := if x.kind = .text ∨ x.kind = .data then some 0 else x.target }

/-- A symbol of the object; none where it is neither defined nor declared foreign, or exported and not defined. -/
def Asm.symbol (a : Asm) (y : Nat) (name : List Byte) : Option OdxSymbol :=
  let sym := fun (home : SymHome) (type value : Nat) =>
    ({ name := name, home := home, isGlobal := a.globals.contains y, type := type, value := value, size := look a.procs y 0 } : OdxSymbol)
  match find a.defs y with
  | some (.const v) => some (sym .absolute 3 (wrapN 64 v))
  | some (.label k off) => (a.secs[k]?).map fun x =>
      sym (.within k) (if (find a.procs y).isSome then 1 else if x.kind = .text then 0 else 2) off
  | _ => if a.externs.contains y && !(a.globals.contains y) then some (sym .extern 0 0) else none

/-- The object of a source file (R56: with any error there is none). Its symbols keep their numbers. A .raw line sets the header's
flag (R61). -/
def assemble (src : Source) : Option Odx := do
  let laid ← assembleWith none src.stmts
  let a ← assembleWith (some laid.env) src.stmts
  let syms ← src.names.zipIdx.mapM fun (p : List Byte × Nat) => a.symbol p.2 p.1
  given ((a.secs.all fun x => x.relocs.all fun r => decide (r.sym < syms.length)) && a.records.all fun r => match r with
    | .task _ _ _ _ _ _ _ e => decide (e.sym.getD 0 < syms.length) || e.sym.isNone
    | .launch _ _ _ ws => ws.all fun w => decide (w.sym.getD 0 < syms.length) || w.sym.isNone
    | _ => true)
  return { linked := false, raw := a.secs.any (fun x => x.text.raw), sections := a.secs.map AsmSec.out, symbols := syms, records := a.records }

end Sys2Proof.Machine
end

