-- ==== Sys2Proof/Machine/Loader.lean ====
section
/-!
DEFINITION. What the supervisor's loader and the host do with a linked image (03_odx R63, R66 to R69): its sections are
placed, its task, group and rose records written, and then its launch records are sent as TASK messages. No step loads by
itself: State.load and State.hostLaunch say what the machine is like after software outside it has acted.
-/
namespace Sys2Proof.Machine

open Sys2Proof

/-- Whom an image is loaded for: the core whose page table maps its GLOBAL addresses, and with it the tenant, and
whether the loader's thread is in the secure world. -/
structure LoadFor where
  core : Nat
  secure : Bool
deriving DecidableEq, Repr

/-- The tenant whose partition an image is loaded into. -/
def State.loadTenant (s : State) (w : LoadFor) : Option Nat := s.tenantOf (clusterOf w.core)

/-- The loader as the maker of an access. -/
def State.loadWho (s : State) (w : LoadFor) : Who :=
  { agent := .device 0xFFFE 0 0 0 0, world := w.secure, tenant := s.loadTenant w, ptbase := (s.core w.core).ptbase, leaves := [], xl := []
    core := w.core, col := columnOf w.core }

/-! ### Sections (R63, R64) -/

/-- Store bytes of one GLOBAL block through the page table of the core; none where no page maps it or the store fails. -/
def State.loadGlobal (s : State) (w : LoadFor) (va : Nat) (bs : List Byte) : Option State :=
  match s.walk (s.core w.core).ptbase va with
  | none => none
  | some l => match s.globalAccess (s.loadWho w) va va l with
    | .good a =>
      let (s, r) := s.fwAccess { a with op := .store bs }
      if r.fault.isSome then none else some s
    | _ => none

/-- Store bytes of one block of a column store or of a banked space. -/
def State.loadLocal (s : State) (w : LoadFor) (space : Mode) (ea : Nat) (bs : List Byte) : Option State :=
  match s.check (s.loadWho w) space (BitVec.ofNat 64 ea) 1 { r := false, w := true } with
  | .good a =>
    some (if space = .loc then (s.performColumn { a with op := .store bs }).1 else (s.performBank { a with op := .store bs }).1)
  | _ => none

/-- What one GLOBAL block holds, read as it was stored; none where it cannot be read. -/
def State.peekGlobal (s : State) (w : LoadFor) (va n : Nat) : Option (List Byte) :=
  match s.walk (s.core w.core).ptbase va with
  | none => none
  | some l => match s.globalAccess (s.loadWho w) va va l with
    | .good a =>
      let (_, r) := s.fwAccess { a with op := .load n false }
      if r.fault.isSome || r.poison then none else some r.bytes
    | _ => none

/-- What one block of a column store or of a banked space holds. -/
def State.peekLocal (s : State) (w : LoadFor) (space : Mode) (ea n : Nat) : Option (List Byte) :=
  match s.check (s.loadWho w) space (BitVec.ofNat 64 ea) 1 { r := true, w := false } with
  | .good a =>
    let (_, r) := if space = .loc then s.performColumn { a with op := .load n false } else s.performBank { a with op := .load n false }
    if r.fault.isSome || r.poison then none else some r.bytes
  | _ => none

/-- An image stands in memory from an address on. -/
def blocksHere (f : Nat → Nat → Option (List Byte)) (at_ : Nat) (bs : List Byte) (fuel : Nat) : Bool := match fuel with
  | 0 => true
  | fuel + 1 =>
    if bs.isEmpty then true else
    let n := min bs.length (64 - at_ % 64)
    f at_ n == some (bs.take n) && blocksHere f (at_ + n) (bs.drop n) fuel

/-- Store an image from an address on, block by block. -/
def loadBlocks (f : State → Nat → List Byte → Option State) (s : State) (at_ : Nat) (bs : List Byte) (fuel : Nat) : Option State :=
  match fuel with
  | 0 => some s
  | fuel + 1 =>
    if bs.isEmpty then some s else
    let n := min bs.length (64 - at_ % 64)
    match f s at_ (bs.take n) with
    | some s => loadBlocks f s (at_ + n) (bs.drop n) fuel
    | none => none

/-- The columns or clusters of the partition that a section names. -/
def State.targets (s : State) (w : LoadFor) (x : OdxSection) : List Nat := match x.target with
  | some k => [k]
  | none => match s.loadTenant w with
    | none => []
    | some t => if x.kind = .loc then (s.clustersOf t).flatMap fun cl => (List.range 8).map fun j => 8 * cl + j else s.clustersOf t

/-- Place a section: TEXT and DATA at their addresses, LOCAL in its columns when it fits a column store, SPREAD and TOB in
their clusters under the roles in force; the image is refused when a block would fall out of range. -/
def State.loadSection (s : State) (w : LoadFor) (x : OdxSection) : Option State :=
  let fuel := x.contents.length / 64 + 2
  match x.kind with
  | .text | .data => if x.addr + x.contents.length ≤ 2 ^ 48 then
      loadBlocks (fun s a bs => s.loadGlobal w a bs) s x.addr x.contents fuel else none
  | .loc => if x.addr + x.contents.length ≤ 2 ^ 18 then
      (s.targets w x).foldlM (fun (s : State) k => if k < 2048 then
        loadBlocks (fun s a bs => s.loadLocal w .loc a bs) s (2 ^ 18 * k + x.addr) x.contents fuel else none) s
    else none
  | .spread | .tob => if x.addr + x.contents.length ≤ 2 ^ 24 then
      (s.targets w x).foldlM (fun (s : State) k => if k < 256 then
        loadBlocks (fun s a bs => s.loadLocal w (if x.kind = .tob then .tob else .spread) a bs) s (2 ^ 24 * k + x.addr) x.contents fuel
        else none) s
    else none

/-- A section is in place. -/
def State.sectionHere (s : State) (w : LoadFor) (x : OdxSection) : Bool :=
  let fuel := x.contents.length / 64 + 2
  match x.kind with
  | .text | .data => blocksHere (s.peekGlobal w) x.addr x.contents fuel
  | .loc => (s.targets w x).all fun k => blocksHere (s.peekLocal w .loc) (2 ^ 18 * k + x.addr) x.contents fuel
  | .spread => (s.targets w x).all fun k => blocksHere (s.peekLocal w .spread) (2 ^ 24 * k + x.addr) x.contents fuel
  | .tob => (s.targets w x).all fun k => blocksHere (s.peekLocal w .tob) (2 ^ 24 * k + x.addr) x.contents fuel

/-! ### Records (R66 to R68) -/

/-- The task-table entry of a task record (R70). -/
def taskEntry (pri limit : Nat) (secure blocked : Bool) (pc : Nat) : Word :=
  BitVec.ofNat 64 (2 ^ 63 + secure.toNat * 2 ^ 62 + blocked.toNat * 2 ^ 61 + pri * 2 ^ 59 + limit * 2 ^ 55 + pc % 2 ^ 48)

/-- One entry by CHAN.TTSET, which is refused on a core of another tenant and for a secure entry from the non-secure world
(R83). -/
def State.loadEntry (s : State) (w : LoadFor) (c ch : Nat) (e : Word) : Option State :=
  if s.tenantOf (clusterOf c) ≠ s.loadTenant w || (ttWorld e && !w.secure) then none else some (s.chanAt 3 c ch e w.secure).1

/-- A group entry, by a request to the firmware: refused for a group or a member of another tenant, while something uses the
group, or when a core would be a member of more than four (R127, R450). -/
def State.loadGroup (s : State) (w : LoadFor) (g : Nat) (ms : List Nat) : Option State := match s.loadTenant w with
  | none => none
  | some t =>
    let foreign := match find s.groups g with
      | some e => e.tenant != t
      | none => false
    if foreign || !(ms.all fun c => s.tenantOf (clusterOf c) == some t) || s.groupUsed g ||
      ms.any fun c => decide (4 ≤ ((s.groupsOf c).filter fun x => x.1 != g).length) then none
    else some (s.writeGroup t g ms)

/-- Write one row of a cluster's shadow inner table through ROSEIDX and ROSEDATA0 to ROSEDATA2 (R146). -/
def State.loadInnerRow (s : State) (cl row : Nat) (banks : List Nat) : State :=
  (s.onCluster cl fun k => { k with roseidx := roseIdxStore (BitVec.ofNat 64 row), stage0 := packRow banks 0 12, stage1 := packRow banks 12 12 }).writeRose2 cl
    (packRow banks 24 8)

/-- The FACE byte of an outer row (R147). -/
def faceByte (gs : List Nat) : Nat := nth gs 0 % 4 + 4 * (nth gs 1 % 4) + 16 * (nth gs 2 % 4) + 64 * (nth gs 3 % 4)

/-- The rows of a table from records, or the rows in force where no record gives any. -/
def rowsOr {α : Type} (rs : List (Nat × α)) (active : List α) : List (Nat × α) :=
  if rs.isEmpty then (List.range active.length).zip active else rs

/-- Write a cluster's shadow tables, and with cluster 4q its quad's, and ask for the swap (R148). Refused while a swap is
pending or for a cluster of another tenant. -/
def State.loadRose (s : State) (w : LoadFor) (rs : List OdxRecord) (cl : Nat) : Option State :=
  let first := decide (cl % 4 = 0)
  let ins := innerRows rs cl
  let outs := if first then outerRows rs (cl / 4) else []
  if ins.isEmpty && outs.isEmpty then some s
  else if s.roseLocked cl || s.tenantOf cl ≠ s.loadTenant w then none
  else
    let ins := rowsOr ins (s.cluster cl).inner
    let s := ins.foldl (fun s x => s.loadInnerRow cl x.1 x.2) s
    let outs := outs.map fun x => (x.1, faceByte x.2)
    let outs := if first then rowsOr outs (s.quad (cl / 4)).outer else []
    let s := outs.foldl (fun s x => s.writeOutrose cl (BitVec.ofNat 64 (x.1 * 2 ^ 8 + x.2))) s
    some (s.writeRosectl cl (BitVec.ofNat 64 (2 ^ 16 + outs.length % 16 * 2 ^ 8 + ins.length)))

/-- A task or group record. -/
def State.loadRecord (s : State) (w : LoadFor) (r : OdxRecord) : Option State := match r with
  | .task first last ch pri lim secure blocked e =>
    (List.range (last + 1 - first)).foldlM (fun (s : State) i => s.loadEntry w (first + i) ch (taskEntry pri lim secure blocked e.val)) s
  | .group g _ ms => s.loadGroup w g ms
  | _ => some s

/-- Load a linked image: its sections, its task and group records, and its rose tables, whose swaps are then pending. none: the
loader refuses it. -/
def State.load (s : State) (w : LoadFor) (o : Odx) : Option State :=
  if !o.linked || !(recordsOk o.records) then none
  else
    ((o.sections.foldlM (fun (s : State) x => s.loadSection w x) s).bind fun s =>
      o.records.foldlM (fun (s : State) r => s.loadRecord w r) s).bind fun s =>
        (List.range 256).foldlM (fun (s : State) cl => s.loadRose w o.records cl) s

/-- The task entries, the group or the row of a table of a record are in place. -/
def State.recordHere (s : State) (r : OdxRecord) : Bool := match r with
  | .task first last ch pri lim secure blocked e =>
    (List.range (last + 1 - first)).all fun i => (s.core (first + i)).tt ch == ttStore (taskEntry pri lim secure blocked e.val)
  | .group g _ ms => match find s.groups g with
    | some e => e.members == ms
    | none => false
  | .inner cl row banks => (s.cluster cl).inner[row]? == some banks
  | .outer q row gs => (s.quad q).outer[row]? == some (faceByte gs)
  | .launch .. => true

/-- The loader may report that all of an image is in place (R69): its sections, its task entries and groups, and its rose tables, which
are active and have no other rows: no swap of a table it wrote is pending, and none was refused. -/
def State.inPlace (s : State) (w : LoadFor) (o : Odx) : Bool :=
  (o.sections.all fun x => s.sectionHere w x) && (o.records.all fun r => s.recordHere r) &&
  (List.range 256).all fun cl =>
    let ins := innerRows o.records cl
    let outs := if cl % 4 = 0 then outerRows o.records (cl / 4) else []
    (ins.isEmpty && outs.isEmpty) ||
    (!(s.cluster cl).swap && !(s.cluster cl).refused && (ins.isEmpty || ins.length == (s.cluster cl).inner.length) &&
      (outs.isEmpty || outs.length == (s.quad (cl / 4)).outer.length))

/-! ### Launching (R69) -/

/-- The TASK message of a launch record, from a host that the device map knows. -/
def launchMsg (s : State) (host : Nat) (e : DevEntry) (core channel : Nat) (ws : List Ref) : Msg :=
  { remop := false, srcDev := host, srcCore := 0, srcSlot := 0, world := e.world, tenant := some e.tenant, dstDev := s.devNo
    dstCore := core, channel := channel, words := ws.map fun r => BitVec.ofNat 64 r.val }

/-- The frame in which a host sends a content to a core, the k-th of those under way to its column (21_fabric R434, R435). -/
def hostFrame (s : State) (host port : Nat) (e : DevEntry) (core k : Nat) (c : Content) : Frame :=
  let key : Stream := { scl := 0, sep := 0, dcl := clusterOf core, dep := epOf core, cls := 2, far := some host }
  let p : Packet := { edition := s.sysEdition, seq := ((s.stream key).expect + k) % 65536, len := 2, cls := 2, scl := 0, sep := 0
                      dcl := clusterOf core, dep := epOf core, sdev := host, ddev := s.devNo, content := 0 }
  { etherType := 0x8A7E, version := 1, flags := 0, edition := s.sysEdition, src := host, dst := s.devNo, srcMac := e.mac, port := port
    packets := [(p, c)] }

/-- The launch records of an image that are for this module, in order: core, channel and payload. -/
def launchesOf (dev : Nat) (o : Odx) : List (Nat × Nat × List Ref) := o.records.filterMap fun r => match r with
  | .launch d c ch ws => if d = 0xFFFF || d = dev then some (c, ch, ws) else none
  | _ => none

/-- The host sends each launch record as one TASK message, in record order, once everything is in place; a host without an
entry in the device map reaches nothing. DESIGN CHOICE (log 84): its frames arrive on the first port of that entry. -/
def State.hostLaunch (s : State) (w : LoadFor) (host : Nat) (o : Odx) : Option State :=
  match find s.devMap host with
  | none => none
  | some e => match e.ports with
    | [] => none
    | port :: _ =>
      if !(s.inPlace w o) then none
      else
        some ((launchesOf s.devNo o).foldl (fun (s : State) r =>
          let k := (s.ethIn.filter fun f => decide (f.src = host) && f.packets.any fun x =>
            decide (x.1.dcl = clusterOf r.1) && decide (x.1.dep = epOf r.1) && decide (x.1.cls = 2)).length
          { s with ethIn := s.ethIn ++ [hostFrame s host port e r.1 k (.msg (launchMsg s host e r.1 r.2.1 r.2.2))] }) s)

end Sys2Proof.Machine
end

