-- ==== Sys2Proof/Tests/Slice0.lean ====
section
/-!
SUPPORT. Tests: ill-formed terms that the checks refuse, words of the spec's worked encodings, values worked in the spec's chapters,
and, for each statement, states that meet the hypotheses of its clauses.
-/
set_option maxRecDepth 20000
set_option exponentiation.threshold 600
namespace Sys2Proof.Tests

open Sys2Proof Sys2Proof.Machine

/-! ### Well-formedness: an ill-formed term for each check -/

theorem test_wf_registers : ([.aluAdd 128 1 2, .aluAdd 1 128 2, .sysTrap 128, .barInit 4 (.reg 128) 0, .sendTask (some 128) 1 2 1,
    .ld 4 128 1 false .b64 .global 0, .vld 4 5 false 0 .loc (some (128, .w8)), .vst 4 5 false 0 .loc (.strided 128 .w8)] :
    List Instr).all (fun i => !i.wf) = true := by decide
theorem test_wf_runs : ([.ldm 65 4 64 .loc 0, .sld 97 4 .tob false 0 32, .sendTask none 4 121 8, .ldm 1 4 0 .loc 0, .stm 1 4 65 .loc 0,
    .sst 1 4 .bank false 0 33, .sld 1 4 .bank false 0 0, .sendRemop none 4 5 9, .sendRemop none 4 5 0] : List Instr).all
    (fun i => !i.wf) = true := by decide
theorem test_wf_fields : ([.brEqz 5 524288 1, .brEqz 5 (-524289) 1, .jmp 1 0 0, .jmp 1 0 32, .addi 1 2 16777216, .addi 1 2 (-16777217),
    .liZ32 1 4294967296, .logiAnd 1 2 4294967296, .logiSh 1 2 .shl 64, .agen 1 2 3 64 0, .agen 1 2 3 0 8, .bitExt 1 2 0 0 false,
    .bitIns 1 2 3 60 5, .spawn none 1 2 3 4 none 0, .spawn none 1 2 3 0 (some 16) 0, .spawn none 1 2 3 0 none 16,
    .ld 4 5 6 false .b64 .global 8388608, .ldm 1 4 1 .loc 128] : List Instr).all (fun i => !i.wf) = true := by decide
theorem test_wf_codes : ([.csrRead 1 0x00F, .csrRead 1 0x107, .csrWrite 1 2 0x11B, .ld 4 16 1 false .b64 .ring 0,
    .ldLast 4 16 5 false .b64 0, .ldm 1 4 1 .ring 0, .vgsGather 4 5 6 .w8 .ring 0, .ringInit 4 5 16, .ringWfill 0 0, .ringAcons 0 256,
    .barArrive (.imm 3) 256, .skLink 3 256, .vst 4 5 false 0 .loc (.block 8), .viAdd 1 2 3 .w8 8, .vcmpEq 0 1 2 (.int .w8) 0,
    .vcmpLtn 8 1 2 .w8 0, .vpermRot 1 2 .w64 8, .vpermIns 1 2 3 .w8 64, .vplPlane 3 4 .w16, .vplUnplane 4 3 .w16,
    .mxCtx none 1 2 3 (some 64)] : List Instr).all (fun i => !i.wf) = true := by decide

/-! ### Words -/

theorem test_words_control : ([(0x13FFFFB10608, .brGtz 9 (-3) 17), (0xFFFFFF0A02, .jmp 1 524287 31), (0xFE000D04, .jr 2 127),
    (0x817F8001206, .csrSet 3 4 0x17F), (0x102400041600, .sysSavectx 8 9), (0xB804, .sysqEret)] : List (Nat × Instr)).all
    (fun p => decodeTableWord 64 p.1 == some p.2) = true := by decide
theorem test_words_scalar : ([(0xA1800001A0E, .aluAdd 7 5 6), (0x40C201A1A02, .aluSel 1 2 3 4), (0x16323514, .aluqAnd 10 11 12),
    (0x10000001E0A, .addi 5 0 (-16777216)), (0xE0189ABCDEF230C, .liHi 6 7 0x89ABCDEF), (0xE03000000FF270C, .logiSh 6 7 .rol 63),
    (0x40C00052A02, .cmpGen 1 2 3), (0x4002A3A2E02, .bitExt 1 2 5 59 true), (0x40C043F2E02, .bitIns 1 2 3 0 64),
    (0x40E00073202, .agen 1 2 3 (-64) 7)] : List (Nat × Instr)).all
    (fun p => decodeTableWord 64 p.1 == some p.2) = true := by decide
theorem test_words_launch : ([(0x287840013A13, .sendRemop (some 9) 20 30 8), (0x280000023E12, .chanQuery 9 20), (0x81437FF7600, .spawn none 4 5 6 3 (some 15) 15),
    (0xA1800007A08, .freeze 4 5 6), (0xA0000017E08, .joinTest 4 5), (0x18208, .migrHome 4)] : List (Nat × Instr)).all
    (fun p => decodeTableWord 64 p.1 == some p.2) = true := by decide
theorem test_words_memory : ([(0xA19FFFFFFB04308, .ld 4 5 6 true .b32z .tob (-1)), (0x1E18000040F44309, .ldLast 4 15 6 false .b512 64), (0xA197FFFFF004708, .st 4 5 6 true .b8s .global 8388607),
    (0xA01FA804A80, .ldm 64 5 64 .bank (-128)), (0xA000B7F4E08, .stm 4 5 2 .spread 127), (0xA05FFFFC0F85308, .sld 4 5 .tob true (-64) 32),
    (0xA08000040005708, .sst 4 5 .bank false 64 1), (0xC1C00785A0A, .amoAdd 5 6 7 true .acqrel .device false), (0xC1C44A75A0A, .amoCas 5 6 7 8 false .rel .stack true),
    (0x7AFF5E00, .ringWfree 15 255), (0x81C00008600, .memopStag 4 7)] : List (Nat × Instr)).all
    (fun p => decodeTableWord 64 p.1 == some p.2) = true := by decide
theorem test_words_engines : ([(0x100000016201, .waittAll true 8), (0x814307000006700, .cpq none 4 5 6 7), (0x37096A00, .barSync (.reg 6) 9),
    (0x80034FF6A00, .barInit 4 (.reg 6) 255), (0x80000006E00, .monArm 4), (0x147200, .fenceAcquire .device)] : List (Nat × Instr)).all
    (fun p => decodeTableWord 64 p.1 == some p.2) = true := by decide
theorem test_words_vector : ([(0xA001A328A08, .vfSqrt 4 5 .f16 .rtz 3), (0xA18387860008F08, .vfmaFnms 4 5 6 7 .bf16 .rne 7), (0xA1814F09208, .viSubsatn 4 5 6 .w8 2),
    (0xA180BE0960E, .vcmpLtn 7 5 6 .w16 1), (0xE0010419A0C, .vcvt 6 7 .f64 .i32 .rtz 2), (0x60000009E04, .vmathExp 2 3 false 0),
    (0xA001840A208, .vredSum 4 5 .f32 .rne 3), (0xA000020A60C, .vpermBcast 6 5 .w32 0), (0xA19FFFFC084AB08, .vld 4 5 true (-64) .global (some (6, .w16))),
    (0xA1C00004008AF08, .vst 4 5 false 64 .loc (.block 7)), (0xA18059CB208, .vgsScatter 4 5 6 .w32 .tob 7), (0xC000600B608, .vplUnplane 4 6 .w16)] : List (Nat × Instr)).all
    (fun p => decodeTableWord 64 p.1 == some p.2) = true := by decide
theorem test_words_matrix : ([(0x80030700000C300, .mxCtx none 4 6 7 none), (0x8143072FE00C313, .mxMmas (some 9) 4 5 6 7 (some 63)), (0x8140007C606, .skMul 3 4 5 7),
    (0x1FFC606, .skLink 3 255)] : List (Nat × Instr)).all
    (fun p => decodeTableWord 64 p.1 == some p.2) = true := by decide


/-- The line worked in 02_lines, a malformed line, a head beyond n, and words that are illegal. -/
theorem test_words_line : Obligations.WordsDecode := by unfold Obligations.WordsDecode; decide

/-! ### Values worked in the spec's chapters -/

/-- 09_homing, worked example of R228: line L = 0x801234 under four masks. -/
theorem test_home_core : homeLocal 0x801234 0xFFFF = 7 ∧ homeLocal 0x801234 0x00FF = 7 ∧ homeLocal 0x801234 0xFF00 = 15 ∧
    homeLocal 0x801234 0x0F0F = 11 := by decide
/-- 13_matrix, R339: 0.5 by 3 is 1.5, and 2^-100 by 2^-30 is no scale. -/
theorem test_scales : linkProduct 0x3F000000 0x40400000 = 0x3FC00000 ∧ linkProduct 0x0D800000 0x30800000 < 2 ^ 23 := by decide

/-! ### States for the witnesses -/

/-- A supervisor's thread in slot 0 of core 0 at its turn; cluster 0 is up and assigned to tenant 1. -/
def on : State :=
  { State.reset with
    curr := true, agenda := []
    clusters := [(0, { Cluster.reset 0 with up := true, tenant := 17 })]
    cores := [(0, { slots := [(0, { st := .run, th := { pc := 66, limit := 128, sup := true, world := true } })] })] }
/-- Registers of the thread. -/
def rg (l : List (Nat × Nat)) (s : State) : State := s.onCore 0 fun k => { k with rf := l.map fun p => (p.1, BitVec.ofNat 512 p.2) }
/-- The thread changed. -/
def th (f : Thread → Thread) (s : State) : State := s.onThread 0 0 f
/-- Core 0 changed. -/
def kr (f : Core → Core) (s : State) : State := s.onCore 0 f
/-- Cluster 0 changed. -/
def cr (f : Cluster → Cluster) (s : State) : State := s.onCluster 0 f
/-- An event on item 0. -/
def ev (x : Content) (s : State) : State := { s with items := [(0, x)], subj := {}, nextId := 1, curr := false }
/-- An event's subject. -/
def sj (u p : Nat) (s : State) : State := { s with subj := { s.subj with unit := u, sub := p }, curr := false }
/-- A tiller's thread with room for one copy. -/
def tl : Thread → Thread := fun t => { t with tiller := some { handle := 5, index := 0, dreg := 3, spare := [9], budget := 1 } }
/-- A tiller whose budget is used up. -/
def tl0 : Thread → Thread := fun t => { t with tiller := some { handle := 5, index := 0, dreg := 3, budget := 0 } }
/-- Ahead of its own traps: no supervisor. -/
def user : Thread → Thread := fun t => { t with sup := false }
/-- Tenant 1's group 9 with members as listed, and core 0's membership of it. -/
def grp (ms : List Nat) (s : State) : State :=
  { (kr (fun k => { k with memb := [(0, BitVec.ofNat 64 (2 ^ 32 + 9))] }) s) with groups := [(9, { tenant := 1, members := ms })] }
/-- A page of core 0's own: readable, writable, NAMED, homed at core 0; its first bank is a CACHE bank. -/
def own (s : State) : State :=
  cr (fun q => { q with bankrole := 1 }) (kr (fun k => { k with ptbase := BitVec.ofNat 64 (2 ^ 63), tcache := [{ level := 2, vpn := 0, entry := 3 }] }) s)

/-- Runs as a check. -/
def runsB (s : State) (c sl : Nat) (names writes : List Nat) : Bool :=
  s.curr && s.curCore == c && s.curSlot == sl && names.all (fun r => decide (r < (s.thread c sl).limit)) &&
  !((s.thread c sl).overBudget writes) && (match (s.thread c sl).tiller with
    | none => true
    | some t => decide ((s.thread c sl).newCopies writes ≤ t.spare.length)) && ((s.core c).rfErr == [])

/-- The check is Runs. -/
theorem runs_of {s : State} {c sl : Nat} {names writes : List Nat} (h : runsB s c sl names writes = true) : Runs s c sl names writes := by
  simp only [runsB, Bool.and_eq_true, beq_iff_eq, List.all_eq_true, decide_eq_true_eq, Bool.not_eq_true'] at h
  obtain ⟨⟨⟨⟨⟨⟨h1, h2⟩, h3⟩, h4⟩, h5⟩, h6⟩, h7⟩ := h
  refine ⟨h1, h2, h3, h4, h5, fun t ht => ?_, fun r _ e _ => by rw [h7]; rfl⟩
  rw [ht] at h6
  exact of_decide_eq_true h6

/-- A thread that is no tiller has an entry for every register. -/
theorem hasEntry_of {s : State} {c sl d : Nat} (h : (s.thread c sl).tiller = none) : HasEntry s c sl d := fun _ hx => nomatch h.symm.trans hx

/-- OwnColumn as a check. -/
def ownB (s : State) (c sl : Nat) (ea : Word) (width : Nat) : Bool :=
  decide ((s.thread c sl).tiller = none) && decide (ea.toNat % width = 0) && decide (ea.toNat < 2 ^ 29) && decide (ea.toNat / 2 ^ 18 = c / 2) &&
  (s.tenantOf (c / 16)).isSome && (s.thread c sl).world && decide ((s.column (c / 2)).frozen = []) && (s.colErr == [])

/-- The check is OwnColumn. -/
theorem own_of {s : State} {c sl : Nat} {ea : Word} {width : Nat} {st : Bool} (h : ownB s c sl ea width = true) :
    OwnColumn s c sl ea width st := by
  simp only [ownB, Bool.and_eq_true, decide_eq_true_eq, beq_iff_eq, Option.isSome_iff_ne_none] at h
  obtain ⟨⟨⟨⟨⟨⟨⟨h1, h2⟩, h3⟩, h4⟩, h5⟩, h6⟩, h7⟩, h8⟩ := h
  exact ⟨h1, h2, h3, h4, h5, .inl h6, fun _ p hp => by rw [h7] at hp; (nomatch hp), by rw [h8]; rfl⟩

/-- Lanes of one block, as a check. -/
theorem lanes_of {s : State} {c sl : Nat} {lanes : List (Nat × Word)} {width : Nat} {st : Bool}
    (h : (lanes.all fun x => ownB s c sl x.2 width && lanes.all fun y => decide (x.2.toNat / 64 = y.2.toNat / 64)) = true) (hn : lanes ≠ []) :
    OneBlock s c sl lanes width st := by
  simp only [List.all_eq_true, Bool.and_eq_true, decide_eq_true_eq] at h
  exact ⟨fun x hx => own_of (h x hx).1, fun x hx y hy => (h x hx).2 y hy, hn⟩

/-- With nothing on its way there is no invalidation on its way. -/
theorem noInv_of {s : State} (h : s.items = []) : NoInvalidations s := fun p hp => by rw [h] at hp; nomatch hp

/-- A request whose leaf is NAMED, at its home. -/
theorem home_of {s : State} {a : Access} (h1 : (s.cluster (a.homeCore / 16)).up = true) (h2 : a.filled = false) (h3 : a.hashed = false)
    (h4 : (s.cluster (a.homeCore / 16)).roleChange = none) (h5 : (s.cluster (a.homeCore / 16)).passes = []) (h6 : a.tagchk = false)
    (h7 : a.poison = false) (h8 : a.stamp = 0) (h9 : (s.core a.homeCore).homeQ = []) (h10 : (s.core a.homeCore).wroteNow = [])
    (h11 : ∀ d n p c e, a.agent ≠ .device d n p c e) (h12 : s.devAcks = []) : AtItsHome s a :=
  ⟨h1, h2, fun h => (nomatch h3.symm.trans h), h4, h5, h6, h7, h8, fun h => (nomatch h3.symm.trans h), by rw [h9]; rfl,
    fun h => by rw [h10] at h; (nomatch h.2), h11, fun x hx => by rw [h12] at hx; (nomatch hx)⟩

/-! ### Witnesses: scalar and control instructions -/

theorem test_wit_ScalarResults : (∃ q, scalarForm (.aluAdd 7 5 6) (on.reg64 0 0) = some q ∧ Runs on 0 0 (q.d :: q.reads) [q.d]) ∧
    ∃ q, scalarForm (.liZ32 0 7) ((th tl on).reg64 0 0) = some q ∧ Runs (th tl on) 0 0 (q.d :: q.reads) [q.d] :=
  ⟨⟨_, rfl, runs_of (by decide)⟩, _, rfl, runs_of (by decide)⟩

/-- Not taken, taken, a target below 0, the first above 2^48 - 1; the same for a jump; JR and ERET to an odd address, to a header, to
the first address beyond, and to the last head address. -/
theorem test_wit_BranchesJumpsAndReturns :
    let far := th (fun t => { t with pc := BitVec.ofNat 64 (2 ^ 48 - 62) }) on
    let tepc := fun (v : Nat) => th (fun t => { t with tepc := BitVec.ofNat 64 v }) on
    (∃ p, branchForm (.brEqz 5 0 3) = some (5, 0, 3, p)) ∧ Runs on 0 0 [5] [] ∧ Runs on 0 0 [5] [5] ∧ Runs far 0 0 [5] [] ∧
    Runs on 0 0 [] [] ∧ Runs (rg [(5, 65)] on) 0 0 [5, 5] [5] ∧ Runs (tepc 65) 0 0 [] [] ∧
    ((rg [(5, 1)] on).reg64 0 0 5).toInt ≠ 0 ∧ (on.reg64 0 0 5).toInt = 0 ∧
    targetOf (on.thread 0 0).pc 0 3 = 70 ∧ targetOf (on.thread 0 0).pc (-2) 31 < 0 ∧ targetOf (far.thread 0 0).pc 1 1 = 2 ^ 48 + 2 ∧
    ((rg [(5, 65)] on).reg64 0 0 5).toNat % 2 = 1 ∧ ((rg [(5, 64)] on).reg64 0 0 5).toNat % 64 / 2 = 0 ∧
    (let x := ((rg [(5, 2 ^ 48 + 2)] on).reg64 0 0 5).toNat; x % 2 = 0 ∧ x % 64 / 2 ≠ 0 ∧ 2 ^ 48 ≤ x) ∧
    headAddress ((rg [(5, 2 ^ 48 - 2)] on).reg64 0 0 5) = true ∧
    headAddress ((tepc (2 ^ 48 - 2)).thread 0 0).tepc = true ∧ ((tepc 65).thread 0 0).tepc.toNat % 2 = 1 ∧
    ((tepc 64).thread 0 0).tepc.toNat % 64 / 2 = 0 ∧
    (let x := ((tepc (2 ^ 48 + 2)).thread 0 0).tepc.toNat; x % 2 = 0 ∧ x % 64 / 2 ≠ 0 ∧ 2 ^ 48 ≤ x) :=
  ⟨⟨_, rfl⟩, runs_of (by decide), runs_of (by decide), runs_of (by decide), runs_of (by decide), runs_of (by decide), runs_of (by decide),
    by decide⟩

theorem test_wit_TrapSvcAndExit : Runs on 0 0 [] [] ∧ Runs (th tl on) 0 0 [] [] ∧ NoInvalidations (th tl on) ∧
    ((th tl on).thread 0 0).posted = 0 ∧ ((th tl on).thread 0 0).invals = 0 ∧ ((th tl on).column 0).twinctl.getLsbD 0 = false :=
  ⟨runs_of (by decide), runs_of (by decide), noInv_of rfl, by decide⟩

/-- A user's supervisor instruction; the register at the limit; a tiller with its budget used up; an error in a source's entry, which its
code corrects and which it does not. -/
theorem test_wit_ChecksComeBeforeEffects :
    let low := th (fun t => { t with limit := 7 }) on
    (supervisorOnly (.csrRead 5 0x100) = true ∧ (th user on).curr = true ∧ ((th user on).thread 0 0).sup = false) ∧
    (∃ q, scalarForm (.aluAdd 7 5 8) (low.reg64 0 0) = some q ∧ 7 ∈ q.d :: q.reads ∧ (low.thread 0 0).limit ≤ 7 ∧
      ∀ x ∈ q.d :: q.reads, (low.thread 0 0).limit ≤ x → 7 ≤ x) ∧
    (∀ u, let s := kr (fun k => { k with rfErr := [((on.thread 0 0).base + 5, u)] }) on
      ∃ q, scalarForm (.aluAdd 7 5 6) (s.reg64 0 0) = some q ∧ (∀ r ∈ q.d :: q.reads, r < (s.thread 0 0).limit) ∧
        (s.thread 0 0).tiller = none ∧ 5 ∈ q.reads ∧ find (s.core 0).rfErr ((s.thread 0 0).base + 5) = some u ∧
        ∀ x, find (s.core 0).rfErr x ≠ none → x = (s.thread 0 0).base + 5) ∧
    ∃ q x, scalarForm (.aluAdd 7 5 6) ((th tl0 on).reg64 0 0) = some q ∧ (∀ r ∈ q.d :: q.reads, r < ((th tl0 on).thread 0 0).limit) ∧
      ((th tl0 on).thread 0 0).tiller = some x ∧ q.d ≠ 0 ∧ find x.priv q.d = none ∧ x.budget ≤ x.taken ∧
      ((th tl0 on).thread 0 0).posted = 0 ∧ ((th tl0 on).column 0).twinctl.getLsbD 0 = false ∧ NoInvalidations (th tl0 on) :=
  ⟨by decide, ⟨_, rfl, by decide⟩, fun u => by
    cases u <;> exact ⟨_, rfl, by decide, rfl, by decide, rfl, fun _ hx => Decidable.byContradiction fun h => hx (if_neg (Ne.symm h))⟩, _, _, rfl, by decide, rfl, by decide, by decide, by decide,
    by decide, by decide, noInv_of rfl⟩

/-- A thread of core 16, in the quad's second cluster. -/
def on16 : State :=
  { on with
    curCore := 16, clusters := [(1, { Cluster.reset 1 with up := true, tenant := 17 })]
    cores := [(16, { slots := [(0, { st := .run, th := { pc := 66, limit := 128, sup := true, world := true } })] })] }

/-- A pair with a slot in use and one without; no swap, a swap, and the quad's second cluster; a domain with a pass and without; a bank that
holds a line, and banks that do not; an earlier write of the same cycle. -/
theorem test_wit_SharedCsrs :
    let pass := cr (fun q => { q with passes := [{ dom := some 0, core := 0, until_ := 5 }] }) on
    let line := cr (fun q => { q with bankrole := 1, lines := [(0, { l := 0, tier := false, dom := none, sectors := [], data := [] })] }) on
    let asked := cr (fun q => { q with roleChange := some { writers := [], new := 4, reqT := 0 } }) on
    (∀ n ∈ [0x016, 0x020, 0x02F, 0x101, 0x106, 0x10F, 0x113, 0x115, 0x119, 0x11A, 0x17F], n ∈ (sharedCsrs on 0).map fun p => p.1) ∧
    (∀ p ∈ sharedCsrs on 0, (Instr.csrSet 0 5 p.1, p.2 ||| on.reg64 0 0 5) ∈ csrWrites 0 5 p.1 p.2 (on.reg64 0 0 5)) ∧
    Runs on 0 0 [0] [0] ∧ PairInUse on 0 1 0 ∧ (∀ j, ¬ PairInUse on 0 2 j) ∧ (on.cluster 0).swap = false ∧
    ((cr (fun q => { q with swap := true }) on).cluster 0).swap = true ∧ Runs on16 16 0 [0, 5] [0] ∧ 16 / 16 % 4 ≠ 0 ∧
    (NoPassNow (on.cluster 0) 0 ∧ ((on.cluster 0).domain 0).1 = 0xFFFF ∧ ((on.cluster 0).domain 0).1 ≠ 1) ∧
    ¬ NoPassNow (pass.cluster 0) 0 ∧ MayNotChange (line.cluster 0) 0 0 ∧ (∀ b, ¬ MayNotChange (on.cluster 0) 1 b) ∧
    (on.cluster 0).roleChange = none ∧ (on.cluster 0).bankrole ≠ 1 ∧
    ∃ rc, (asked.cluster 0).roleChange = some rc ∧ rc.reqT = (asked.cluster 0).t := by
  refine ⟨by decide, fun p _ => .tail _ (.head _), runs_of (by decide), ⟨by decide, by decide, 0, by decide, by decide⟩, fun j h => ?_, by decide, by decide, runs_of (by decide),
    by decide, ⟨fun p hp => (nomatch hp), by decide⟩, fun h => absurd (h _ List.mem_cons_self rfl) (by decide),
    ⟨by decide, by decide, .inl ⟨by decide, _, List.mem_cons_self, by decide⟩⟩, fun b h => ?_, by decide, by decide, _, rfl, by decide⟩
  · obtain ⟨hj, hb, k, hk, h⟩ := h
    revert hb k; revert j; decide
  · obtain ⟨-, -, h | h⟩ := h
    · obtain ⟨-, p, hp, -⟩ := h
      nomatch hp
    · exact absurd h.1 (by simp [roleOf, on, cr, Cluster.reset, State.cluster, look])

theorem test_wit_CsrsReadAndWrite : (0x118, (on.cluster 0).tenant) ∈ readOnlyCsrs on 0 0 ∧
    (0x008, 0x1F, (on.thread 0 0).fflags) ∈ threadCsrs (on.thread 0 0) ∧ (0x114, 2 ^ 64 - 1, (on.core 0).wdog) ∈ coreCsrs (on.core 0) ∧
    Runs on 0 0 [0, 5] [0] ∧ (on.thread 0 0).sup = true :=
  ⟨by decide, by decide, by decide, runs_of (by decide), by decide⟩

theorem test_wit_IdleAndTlbinv : (on.thread 0 0).sup = true ∧ Runs on 0 0 [] [] ∧ Runs on 0 0 [5] [] ∧ on.tlbCores 0 .core = [] ∧
    on.tlbCores 0 .cluster ≠ [] ∧ (cr (fun q => { q with up := false }) on).tlbCores 0 .cluster = [] ∧
    ∃ far ∈ on.tlbCores 0 .device, ∀ k ∈ on.tlbCores 0 .device, hops 0 (k / 16) ≤ hops 0 (far / 16) :=
  ⟨by decide, runs_of (by decide), runs_of (by decide), by decide, by decide, by decide, 1, by decide, by decide⟩

/-- Slot 15 parked, free or waiting for service and scrubbed, saved and loaded; slot 16 and the thread's own; an address off a block. -/
theorem test_wit_ScrubAndContextRecords :
    let at_ := fun (x : SlotSt) (n ea : Nat) => own (rg [(5, n), (6, ea)] (on.setSlot 0 15 { st := x, th := { limit := 8 } }))
    let s := at_ .service 15 64
    Runs s 0 0 [5, 6] [] ∧ (s.thread 0 0).sup = true ∧ (s.thread 0 0).hold = .ready ∧ (s.thread 0 0).pend = none ∧
    ((s.reg64 0 0 5).toNat = 15 ∧ (s.slot 0 15).st = .service ∧ (s.thread 0 15).tiller = none ∧ (s.column 0).twinctl.getLsbD 15 = false) ∧
    ((at_ .parked 15 64).slot 0 15).st = .parked ∧ ((at_ .parked 16 64).reg64 0 0 5).toNat = 16 ∧ ((at_ .parked 0 64).reg64 0 0 5).toNat = 0 ∧
    ((at_ .free 15 64).slot 0 15).st = .free ∧ ((at_ .free 15 64).slot 0 15).freeAt ≤ (at_ .free 15 64).cyc 0 ∧
    (s.reg64 0 0 6).toNat % 64 = 0 ∧ OwnSlice s 0 (s.reg64 0 0 6) (64 * (20 + (s.thread 0 15).limit)) ∧ OwnSlice s 0 (s.reg64 0 0 6) 64 ∧
    ((at_ .service 15 65).reg64 0 0 6).toNat % 64 ≠ 0 :=
  ⟨runs_of (by decide), by decide, by decide, by decide, by decide, by decide, by decide, by decide, by decide, by decide, by decide,
    ⟨by decide, by decide, ⟨_, [], rfl, by decide⟩, by decide⟩, ⟨by decide, by decide, ⟨_, [], rfl, by decide⟩, by decide⟩, by decide⟩

/-- A record of 8 registers with a PC and a slot state, V as given, and zeros. -/
def record (v : Nat) : List Byte := toBytes 8 66 ++ toBytes 8 (v * 2 ^ 63 + 1) ++ List.replicate 1776 0
/-- A LOADCTX of slot 15 whose last block of n is answered. -/
def loading (x : SlotSt) (n : Nat) (bs : List Byte) : State :=
  let got := ((List.range n).filter fun j => decide (j ≠ n - 1)).map fun j => (j, ({ bytes := (bs.drop (64 * j)).take 64 } : AccResult))
  sj 0 1 (ev (.accAns { agent := .thread 0 0, idx := n - 1, space := .global, va := 0, op := .load 64 false }
    { bytes := (bs.drop (64 * (n - 1))).take 64 }) (th (fun t =>
      { t with thandler := 130, hold := .answer, pend := some { instr := .sysLoadctx 5 6, left := 1, got := got } })
    (own (rg [(5, 15), (6, 64)] (on.setSlot 0 15 { st := x, th := { limit := 8 } })))))

/-- The first block and the last, of a record that fits and of one without V; a thread in SERVICE and a slot kept free, slot 14 too, with
entries free and with none. -/
theorem test_wit_ContextRecordsAreInstalled :
    let a := fun (n : Nat) => ({ agent := .thread 0 0, idx := n - 1, space := .global, va := 0, op := .load 64 false } : Access)
    let full := kr (fun k => { k with slots := (1, { st := .run, th := { limit := 1920 } }) :: k.slots }) on
    (∀ x n, x ≤ 1 → n = 1 ∨ n = 28 → let bs := (record x).take (64 * n)
      LastBlock (loading .service n bs) 0 0 (.sysLoadctx 5 6) (a n) n bs ∧ LastBlock (loading .reserved n bs) 0 0 (.sysLoadctx 5 6) (a n) n bs) ∧
    (let s := loading .service 1 ((record 1).take 64)
     ((s.reg64 0 0 5).toNat = 15 ∧ (s.column 0).twinctl.getLsbD 15 = false ∧ (s.slot 0 15).st = .service ∧ (s.core 0).behind = []) ∧
      OwnSlice s 0 (s.reg64 0 0 6) (64 * 28) ∧ FitsThread (s.thread 0 15) (record 1) ∧ ¬ FitsThread (s.thread 0 15) (record 0) ∧
      headAddress (s.thread 0 0).thandler = true ∧ ¬ inEntry s 0 0 .perm (s.thread 0 0).instrWord) ∧
    FitsFreeSlot (record 1) ∧ ¬ FitsFreeSlot (record 0) ∧ freeBase (on.core 0) (on.cyc 0) 8 = some 128 ∧
    freeBase (full.core 0) (full.cyc 0) 8 = none := by
  refine ⟨?_, ⟨by decide, ⟨by decide, by decide, ⟨_, [], rfl, by decide⟩, by decide⟩, ?_, fun h => absurd h.valid (by decide), by decide,
    fun h => absurd h.2 (by decide)⟩, by unfold FitsFreeSlot; decide, fun h => absurd h.1 (by decide), by decide, by decide⟩
  · rintro x n hx (rfl | rfl) <;> interval_cases x <;>
      exact ⟨⟨by decide, by decide, rfl, rfl, rfl, rfl, rfl, rfl, rfl, _, rfl, rfl, rfl, rfl, rfl⟩,
        ⟨by decide, by decide, rfl, rfl, rfl, rfl, rfl, rfl, rfl, _, rfl, rfl, rfl, rfl, rfl⟩⟩
  · constructor <;> decide

/-! ### Witnesses: loads, stores and atomics -/

/-- Core 0's port has had its block of this cycle. -/
def busy (s : State) : State := s.onColumn 0 fun x => { x with portUsed := [(0, 0)] }

/-- Bytes at the start and at the end of the thread's own column; the block is not frozen; the port free and not. -/
theorem test_wit_LocalLoads :
    let s := rg [(5, 2 ^ 18 - 64), (6, 1)] on
    let ea := s.reg64 0 0 5 + s.reg64 0 0 0 * BitVec.ofNat 64 (widthBytes .b64) + BitVec.ofInt 64 56
    let eb := s.reg64 0 0 5 + BitVec.ofInt 64 0
    Runs s 0 0 [4, 0, 5] [4] ∧ Runs s 0 0 [5, 4] [4] ∧ Runs s 0 0 [4, 5] [4] ∧ Runs s 0 0 [4, 5, 6] [4] ∧
    OwnColumn s 0 0 ea (widthBytes .b64) false ∧ OwnColumn s 0 0 eb 64 false ∧ OwnColumn on 0 0 (on.reg64 0 0 5) 64 false ∧
    (ea.toNat / 64 ∉ s.colBad ∧ eb.toNat / 64 ∉ s.colBad ∧ (s.thread 0 0).tprog = 0) ∧
    OneBlock s 0 0 (strided s 0 0 6 eb .w8) 1 false ∧ OneBlock s 0 0 (indexed s 0 0 5 7 .w64 0) 8 false ∧ PortIsFree s 0 ∧ ¬ PortIsFree (busy s) 0 :=
  ⟨runs_of (by decide), runs_of (by decide), runs_of (by decide), runs_of (by decide), by constructor <;> decide,
    by constructor <;> decide, by constructor <;> decide, by decide, lanes_of (by decide) (by decide), lanes_of (by decide) (by decide),
    by unfold PortIsFree; decide, by unfold PortIsFree; decide⟩

theorem test_wit_LocalStores :
    let s := rg [(5, 2 ^ 18 - 64), (6, 1)] on
    let ea := s.reg64 0 0 5 + s.reg64 0 0 0 * BitVec.ofNat 64 (widthBytes .b64) + BitVec.ofInt 64 56
    let eb := s.reg64 0 0 5 + BitVec.ofInt 64 0
    (s.thread 0 0).posted = 0 ∧ Runs s 0 0 [4, 0, 5] [] ∧ Runs s 0 0 [5, 4] [] ∧ Runs s 0 0 [4, 5] [] ∧ Runs s 0 0 [4, 5, 6] [] ∧
    OwnColumn s 0 0 ea (widthBytes .b64) true ∧ OwnColumn s 0 0 eb 64 true ∧ (s.thread 0 0).tprog = 0 ∧
    OneBlock s 0 0 (strided s 0 0 6 eb .w8) 1 true ∧ OneBlock s 0 0 (indexed s 0 0 5 7 .w64 0) 8 true ∧ PortIsFree s 0 ∧ ¬ PortIsFree (busy s) 0 :=
  ⟨by decide, runs_of (by decide), runs_of (by decide), runs_of (by decide), runs_of (by decide), by constructor <;> decide,
    by constructor <;> decide, by decide, lanes_of (by decide) (by decide), lanes_of (by decide) (by decide), by unfold PortIsFree; decide,
    by unfold PortIsFree; decide⟩

/-- A relaxed store to the core's own slice, a load from it, and an atomic on the cluster's last SPREAD block. -/
theorem test_wit_RequestsWaitAtTheRider :
    let s := own on
    let t := rg [(5, 32 * 1536 * 64 - 64)] on
    (∃ q, requestForm s 0 0 (.st 4 0 0 false .b64 .global 48) = some q ∧ Runs s 0 0 q.names q.writes ∧ q.els ≠ [] ∧
      (∀ e ∈ q.els, Reaches s 0 0 q.mode e.1 e.2.1) ∧ q.mode = .global ∧ q.rel = false ∧
      oneStore (.st 4 0 0 false .b64 .global 48) = true ∧ (s.thread 0 0).tprog = 0 ∧ (s.thread 0 0).tiller = none) ∧
    ∃ q, requestForm t 0 0 (.amoAdd 4 5 6 true .rel .cluster true) = some q ∧ Runs t 0 0 q.names q.writes ∧ q.els ≠ [] ∧
      (∀ e ∈ q.els, Reaches t 0 0 q.mode e.1 e.2.1) ∧ q.rel = true ∧ (t.thread 0 0).posted = 0 ∧ (t.thread 0 0).invals = 0 ∧
      NoInvalidations t ∧ (t.thread 0 0).tprog = 0 ∧ (t.thread 0 0).tiller = none := by
  refine ⟨⟨_, rfl, runs_of (by decide), by decide, ?_, by decide⟩, _, rfl, runs_of (by decide), by decide, ?_, by decide, by decide, by decide,
    noInv_of rfl, by decide⟩
  · intro e he
    obtain rfl : e = _ := List.mem_singleton.mp he
    exact ⟨by decide, by decide, by decide, ⟨_, [], rfl, by decide⟩, by decide⟩
  · intro e he
    obtain rfl : e = _ := List.mem_singleton.mp he
    exact ⟨by decide, by decide, by decide, by decide, by decide, by decide⟩

/-- A store of the block's last bytes, loads, a store of some bytes and atomics of both kinds at the head of rider 3, which meets bank 3 + 5 on cycle 5; a later one waits. -/
theorem test_wit_MeetingsAndAnswers :
    let a : Access := { agent := .thread 0 0, idx := 0, space := .spread, va := 0, op := .store [1, 2, 3, 4, 5, 6, 7, 8], bank := 8, row := 0,
                        off := 56, reqT := 3 }
    let s := sj 0 3 (cr (fun q => { q with t := 5, riders := [(3, [a, { a with reqT := 4 }])] }) on)
    let i : Instr := .ld 4 5 6 false .b64 .spread 0
    let t := sj 0 1 (ev (.accAns { a with op := .load 8 false } { bytes := List.replicate 8 1 })
      (th (fun x => { x with hold := .answer, pend := some { instr := i, left := 1 } }) on))
    (look (s.cluster s.subj.unit).riders s.subj.sub [] = a :: [{ a with reqT := 4 }] ∧ (∀ b ∈ [{ a with reqT := 4 }], a.reqT ≤ b.reqT) ∧
      find s.bankErr (bankAddr a.cl a.bank a.row / 64) = none ∧ a.held = false ∧ a.bank = innerBank (s.cluster 0).inner (s.cluster 0).t 3 ∧
      a.cl = s.faces 0 (s.cluster 0).t ∧ a.since + 2 ≤ (s.cluster 0).t ∧ a.space ≠ .global ∧ bankAddr a.cl a.bank a.row / 64 ∉ s.bankBad ∧
      a.poison = false) ∧ PassesNone (s.cluster 0) 3 a ∧
    (∀ op ∈ [.load 8 true, .load 1 false, a.op, .storeSome [(0, [1]), (7, [2])], .amo 9 8 1 2, .amo 10 4 1 2, .amo 11 8 1 2], FitsBlock a.off op) ∧
    ∃ q e, requestForm t 0 0 i = some q ∧ q.els = [e] ∧ q.mode ≠ .ring ∧ t.subj.sub = 1 ∧ HeldFor t 0 0 i 1 ∧
      find t.items t.subj.item = some (.accAns { a with op := .load 8 false } { bytes := List.replicate 8 1 }) ∧
      a.uid = (t.thread 0 0).uid ∧ a.posted = false ∧ a.idx = 0 ∧ (∀ d ∈ q.writes, HasEntry t 0 0 d) ∧ (t.thread 0 0).tprog = 0 :=
  ⟨by decide, fun h => absurd h (by decide), by
    intro op h; fin_cases h <;> (try unfold FitsBlock) <;> decide, _, _, rfl, rfl, by decide, rfl, ⟨rfl, _, rfl, rfl, rfl, rfl, rfl⟩, rfl, by decide, rfl,
    rfl, fun _ _ => hasEntry_of rfl, by decide⟩

/-- A ring with its descriptor at the start of the column, 4 slots of 64 bytes: bound; with 2 slots filled and 2 free; with none. -/
def ring (x : Handle) : State := th (fun t => { t with handles := [(2, x)] }) (rg [(5, 0), (6, 2 ^ 40 + 4 * 2 ^ 16)] on)
def bound (filled : Nat) : Handle :=
  { desc := 0, geo := BitVec.ofNat 64 (2 ^ 40 + 4 * 2 ^ 16), ccur := 0, pcur := BitVec.ofNat 64 filled, seenp := BitVec.ofNat 64 filled, seenc := 0 }

theorem test_wit_RingsAndLastReads :
    let s := ring (bound 2)
    (Runs s 0 0 [5, 6] [] ∧ geoBad (s.reg64 0 0 6) = false ∧ geoMode (s.reg64 0 0 6) = .loc ∧ OwnColumn s 0 0 (s.reg64 0 0 5) 64 false ∧
      OwnColumn s 0 0 (s.reg64 0 0 5 + BitVec.ofNat 64 (64 + geoSlots (s.reg64 0 0 6) * geoBytes (s.reg64 0 0 6) - 1)) 1 false ∧
      (s.reg64 0 0 5).toNat / 64 ∉ s.colBad) ∧
    (find (s.thread 0 0).handles 2 = some (bound 2) ∧ geoMode (bound 2).geo = .loc ∧ (bound 2).desc.toNat % 64 = 0 ∧
      (bound 2).desc.toNat / 64 ∉ s.colBad ∧ (s.thread 0 0).posted = 0) ∧ OwnColumn s 0 0 (bound 2).desc 8 true ∧ Runs s 0 0 [4] [4] ∧
    (2 ≤ geoSlots (bound 2).geo ∧ (2 : Int) ≤ (bound 2).avc ∧ (bound 2).avc < 3 ∧ (2 : Int) ≤ (bound 2).avp ∧ (bound 2).avp < 3 ∧
      (bound 0).avc < 1) ∧
    (Runs s 0 0 [4, 7] [4] ∧ (s.thread 0 0).result ≠ 1 ∧
      (s.reg64 0 0 7 * BitVec.ofNat 64 (widthBytes .b64) + BitVec.ofInt 64 56).toNat < geoBytes (bound 2).geo ∧ 0 < (bound 2).avc ∧
      OwnColumn s 0 0 ((bound 2).desc + BitVec.ofNat 64 (64 + (bound 2).ccur.toNat % geoSlots (bound 2).geo * geoBytes (bound 2).geo +
        56)) (widthBytes .b64) false) ∧
    ((th (fun t => { t with result := 1 }) s).thread 0 0).result = 1 :=
  ⟨⟨runs_of (by decide), by decide, by decide, by constructor <;> decide, by constructor <;> decide, by decide⟩, by decide,
    by constructor <;> decide, runs_of (by decide), by decide, ⟨runs_of (by decide), by decide, by decide, by decide, by constructor <;> decide⟩,
    by decide⟩

/-! ### Witnesses: launch by message -/

/-- A message to this module and one to the firmware; each answer, with a busy register and without; a SEND to be sent again. -/
theorem test_wit_SendsAreAnswered :
    let s := rg [(5, 0xFFFF * 2 ^ 48), (6, 0xFFFE * 2 ^ 48)] on
    let p : Pending := { instr := .sendTask none 5 7 8, left := 1 }
    let w := fun (x : Ans) (h : Hold) => ev (.sendAns 0 0 x) (th (fun t => { t with hold := h, pend := some p }) s)
    (Runs s 0 0 (5 :: (some 9).toList ++ (List.range 8).map (7 + ·)) (some 9).toList ∧ (s.thread 0 0).posted = 0 ∧ (s.thread 0 0).invals = 0 ∧
      NoInvalidations s ∧ s.devNo ≠ 0xFFFE ∧ (s.reg64 0 0 5).toNat / 2 ^ 48 = 0xFFFF ∧ (s.reg64 0 0 6).toNat / 2 ^ 48 = 0xFFFE) ∧
    (∀ x, Delivers (w x .answer) (.sendAns 0 0 x) ∧ WaitsAt (w x .answer) 0 0 (.sendTask none 5 7 8)) ∧
    let t := sj 0 0 (w .full .retry)
    t.subj.unit = 16 * 0 + 0 ∧ (t.slot 0 0).st = .run ∧ (t.core 0).pre = .running ∧ (t.thread 0 0).hold = .retry ∧ (t.thread 0 0).pend = some p ∧
      (t.reg64 0 0 5).toNat / 2 ^ 48 = 0xFFFF :=
  ⟨⟨runs_of (by decide), by decide, by decide, noInv_of rfl, by decide⟩, fun _ => ⟨rfl, rfl, _, rfl, rfl⟩, by decide⟩

/-- A plain record. -/
def rec0 (n : Nat) : Rec := { k := false, w := false, pri := 1, lim := 0, w0 := 66, uid := n }

/-- A PC that is a head address, an odd one, a header's and one beyond; a deque of 63 and of 64, parked on a counter that is not zero. A
core of a steal group that asks its other member, which has a record, and has none. -/
theorem test_wit_RecordsArePushedAndStolen :
    let s := fun (pc n : Nat) => rg [(5, pc)] (kr (fun k => { k with deque := (List.range n).map rec0, cnt := [(3, 1)] }) on)
    let pair := (grp [0, 1] on).onCore 0 fun k => { k with stealgrp := 256 + 9 }
    let asks := sj 0 0 pair
    let gives := fun (l : List Rec) => ev (.stealReq 1 0 9 [] true) ((pair.onCore 1 fun k => { k with stealgrp := 256 + 9 }).onCore 0
      fun k => { k with deque := l })
    (Runs (s 66 63) 0 0 (5 :: 6 :: 7 :: (some 4).toList) (some 4).toList ∧ headAddress ((s 66 63).reg64 0 0 5) = true ∧
      ((s 66 63).core 0).deque.length = 63 ∧ ((s 66 64).core 0).deque.length = 64 ∧ look ((s 66 63).core 0).cnt 3 0 ≠ 0 ∧
      ((s 67 0).reg64 0 0 5).toNat % 2 = 1 ∧ ((s 64 0).reg64 0 0 5).toNat % 64 / 2 = 0 ∧ 2 ^ 48 ≤ ((s (2 ^ 48 + 2) 0).reg64 0 0 5).toNat) ∧
    ((asks.core 0).pre = .running ∧ (asks.core 0).stealgrp.getLsbD 8 = true ∧ ((asks.core 0).membOf 9).isSome = true ∧
      (asks.admitSlot 0).isSome = true ∧ (asks.core 0).deque = [] ∧ (asks.core 0).arrivals = [] ∧ (asks.core 0).stealOut = false ∧
      (asks.core 0).stealWait ≤ asks.cyc 0 ∧ (asks.core 0).stealAsked = 0 ∧ asks.members 9 = some [0, 1]) ∧
    Delivers (gives []) (.stealReq 1 0 9 [] true) ∧
    (((gives []).core 0).stealgrp.toNat % 256 = 9 ∧ ((gives []).core 0).pre = .running ∧
      ((gives []).core 0).stealgrp.getLsbD 8 = true ∧ (((gives []).core 0).deque.filter fun r => r.parked.isNone && !r.hl) = [] ∧
      (((gives [rec0 1]).core 0).deque.filter fun r => r.parked.isNone && !r.hl).head? = some (rec0 1)) ∧
    ∀ r, Delivers (ev (.stealAns 0 r) on) (.stealAns 0 r) :=
  ⟨⟨runs_of (by decide), by decide⟩, by decide, rfl, by decide, fun _ => rfl⟩

/-- Channel 63 of the thread's own core, of another core of the tenant, of another device and of another tenant's core. -/
theorem test_wit_ChannelsAreOperated :
    let w := fun (dev c : Nat) => rg [(5, dev * 2 ^ 48 + c * 2 ^ 36 + 63 * 2 ^ 30)] on
    let dst := fun (dev c : Nat) => ((w dev c).reg64 0 0 5).toNat / 2 ^ 36 % 4096
    Runs (w 0xFFFF 0) 0 0 [4, 5, 6] [4] ∧ ((w 0xFFFF 0).thread 0 0).sup = true ∧ ((w 0xFFFF 0).thread 0 0).world = true ∧
    (((w 0xFFFF 0).reg64 0 0 5).toNat / 2 ^ 48 = 0xFFFF ∧ dst 0xFFFF 0 = 0 ∧ on.undeliverable = []) ∧
    (dst 0xFFFF 15 = 15 ∧ on.tenantOf (15 / 16) = on.tenantOf 0) ∧
    (((w 0xFFFE 0).reg64 0 0 5).toNat / 2 ^ 48 ≠ 0xFFFF ∧ ((w 0xFFFE 0).reg64 0 0 5).toNat / 2 ^ 48 ≠ on.devNo) ∧
    (dst 0xFFFF 16 = 16 ∧ on.tenantOf (16 / 16) ≠ on.tenantOf 0) ∧
    ((on.core 0).pre = .running ∧ (on.core 0).refused = []) ∧ ∀ op, Delivers (ev (.chanOp op 0 63 0 1 0 true) on) (.chanOp op 0 63 0 1 0 true) :=
  ⟨runs_of (by decide), by decide, by decide, by decide, by decide, by decide, by decide, by decide, fun _ => rfl⟩

/-- A message of core 1's slot 2 for channel 7 of core 0. -/
def msg : Msg :=
  { remop := false, srcDev := 0, srcCore := 1, srcSlot := 2, world := false, tenant := some 1, dstDev := 0xFFFF, dstCore := 0, channel := 7, words := [5] }
/-- Core 0 with an open entry for channel 7, and n of those messages waiting. -/
def waiting (n : Nat) : State :=
  kr (fun k => { k with ttab := [(7, BitVec.ofNat 64 (2 ^ 63 + 2 * 2 ^ 59 + 66))], arrivals := List.replicate n { msg := msg, entered := 0 } }) on

/-- An island that is down; a queue of 63 and of 64; another tenant's message. A core with a candidate and a record, and with none. -/
theorem test_wit_ArrivalsAndSelection :
    let s := fun (n : Nat) => ev (.msg msg) (waiting n)
    (Delivers (s 63) (.msg msg) ∧ msg.report = false ∧ msg.taken = none ∧ msg.srcDev = (s 63).devNo ∧ (s 63).devNo ≠ 0xFFFE) ∧
    ((cr (fun q => { q with up := false }) (s 0)).cluster 0).up = false ∧
    (((s 63).cluster 0).up = true ∧ (s 63).tenantOf 0 ≠ none ∧ msg.tenant = (s 63).tenantOf 0 ∧ ((s 63).core 0).pre = .running ∧
      ((s 63).core 0).spill = [] ∧ ((s 63).core 0).arrivals.length = 63 ∧ ((s 64).core 0).arrivals.length = 64 ∧
      { msg with tenant := some 2 }.tenant ≠ (s 0).tenantOf 0) ∧
    ((waiting 1).core 0).chosen = none ∧ ((waiting 1).admitSlot 0).isSome = true ∧ Candidate ((waiting 1).core 0) { msg := msg, entered := 0 } ∧
    (on.admitSlot 0).isSome = true :=
  ⟨⟨rfl, by decide⟩, by decide, by decide, by decide, by decide, ⟨by decide, by decide⟩, by decide⟩

/-- The chosen arrival, the chosen record, and a REMOP for the service slot. -/
theorem test_wit_AdmissionStartsThreads :
    let a : Arrival := { msg := msg, entered := 0 }
    let s := kr (fun k => { k with chosen := some (.arrival 7) }) (waiting 1)
    let t := kr (fun k => { k with chosen := some (.record 4), deque := [rec0 4] }) on
    let m : Msg := { msg with remop := true }
    let u := kr (fun k => { k with arrivals := [{ msg := m, entered := 0 }] }) (waiting 0)
    ((s.core 0).pre = .running ∧ s.admitSlot 0 = some 1 ∧ s.paired 0 1 = false ∧ (s.core 0).chosen = some (.arrival a.msg.channel) ∧
      a.msg.words.length < 8 * (((s.core 0).tt 7).toNat / 2 ^ 55 % 16 + 1) ∧ ((s.core 0).tt 7).getLsbD 62 = false ∧
      freeBase (s.core 0) (s.cyc 0) 8 = some 128 ∧ (s.core 0).spill = [] ∧ (s.core 0).svcWait = []) ∧ Candidate (s.core 0) a ∧
    (t.admitSlot 0 = some 1 ∧ t.paired 0 1 = false ∧ (t.core 0).chosen = some (.record (rec0 4).uid) ∧ (rec0 4).lim < 16 ∧
      ((t.core 0).deque.filter fun x => x.parked.isNone).find? (fun x => decide (x.uid = (rec0 4).uid)) = some (rec0 4) ∧
      freeBase (t.core 0) (t.cyc 0) (8 * ((rec0 4).lim + 1)) = some 128) ∧
    (u.slot 0 15).st = .free ∧ (u.slot 0 15).freeAt ≤ u.cyc 0 ∧
      (u.core 0).arrivals.find? (fun x => x.msg.remop && ttOpen ((u.core 0).tt x.msg.channel)) = some { msg := m, entered := 0 } :=
  ⟨by decide, ⟨by decide, by decide⟩, by decide, by decide, by decide, by decide⟩

/-- A counter set to zero and to its largest value; a report that waits; the first and a later item of a sender that a queue refused. -/
theorem test_wit_CountersReleaseRecords :
    (BitVec.ofNat 64 65536 : Word).toNat % 65536 = 0 ∧ (BitVec.ofNat 64 65535 : Word).toNat % 65536 ≠ 0 ∧
    ((sj 0 0 (kr (fun k => { k with reports := [{ addr := 64, w0 := 1 }] }) on)).core 0).reports = { addr := 64, w0 := 1 } :: [] ∧
    let s := fun (i : Nat) => ev (.msg msg) (kr (fun k => { k with refused := [(on.spillSender (.msg msg), i)] }) on)
    let id := (s 0).subj.item
    Delivers (s id) (.msg msg) ∧ ((s id).core 0).pre = .running ∧ ((s id).core 0).spill.length < 4096 ∧ (s id).subj.unit = 0 ∧
    (((s id).core 0).refused.find? fun p => decide (p.1 = (s id).spillSender (.msg msg))).map (fun p => p.2) = some id ∧
    (((s (id + 1)).core 0).refused.find? fun p => decide (p.1 = (s (id + 1)).spillSender (.msg msg))).map (fun p => p.2) ≠ some id :=
  ⟨by decide, by decide, by decide, rfl, by decide⟩

/-! ### Witnesses: crowns and tillers -/

/-- A thread of group 9 alone and with core 1, with N zero and not; another group; a thread that heads a crown. -/
theorem test_wit_FreezeMakesACrown :
    let s := fun (ms : List Nat) (n : Nat) => rg [(5, n), (6, 9 * 2 ^ 8 + 7)] (grp ms on)
    let w := ((s [0] 3).reg64 0 0 6).toNat
    (Runs (s [0] 3) 0 0 [4, 5, 6] [4] ∧ ((s [0] 3).thread 0 0).tplsize = 0 ∧ ((s [0] 3).thread 0 0).tiller = none ∧
      ((s [0] 3).core 0).serial < 2 ^ 18 ∧ (s [0] 3).ownGroup 0 (w / 2 ^ 8 % 256) = true ∧ ((s [0] 3).thread 0 0).heads = false ∧
      ((s [0] 3).thread 0 0).posted = 0 ∧ ((s [0] 3).thread 0 0).invals = 0 ∧ ((s [0] 3).core 0).freeCrown = some 0) ∧
    NoInvalidations (s [0] 3) ∧
    ((((s [0] 3).members 9).getD []).filter fun m => m != 0) = [] ∧ ((((s [0, 1] 3).members 9).getD []).filter fun m => m != 0) ≠ [] ∧
    ((s [0, 1] 0).reg64 0 0 5).toNat % 2 ^ 32 = 0 ∧ (rg [(6, 8 * 2 ^ 8)] (s [0] 3)).ownGroup 0 8 = false ∧
    ((th (fun t => { t with heads := true }) (s [0] 3)).thread 0 0).heads = true :=
  ⟨⟨runs_of (by decide), by decide⟩, noInv_of rfl, by decide⟩

/-- Core 0's crown in crown slot 1, with its image at home and a count. -/
def crown (join : Nat) (f : CrownSlot → CrownSlot) (s : State) : State :=
  kr (fun k => { k with crowns := [(1, f { handle := 2 ^ 18, home := true, image := some { n := 128, limit := 8, members := [0, 1], pc := 66 }, join := join })] }) s
/-- The thread that heads it. -/
def head (s : State) : State := rg [(5, 2 ^ 18)] (th (fun t => { t with heads := true, lastcrown := BitVec.ofNat 64 (2 ^ 18) }) s)

/-- Own crowns with count zero and one; one whose home is elsewhere; handles that are not LASTCROWN's. A member with a crown slot and with
none; a decrement of the last tiller and of another. -/
theorem test_wit_CrownsAndJoins :
    let s := fun (n : Nat) => head (crown n id on)
    let far := rg [(5, 2 ^ 20)] (th (fun t => { t with heads := true, lastcrown := BitVec.ofNat 64 (2 ^ 20) }) on)
    let full := kr (fun k => { k with crowns := (List.range 4).map fun j => (j, { handle := j }) }) on
    (Runs (s 0) 0 0 [4, 5] [4] ∧ ((s 0).reg64 0 0 5).toNat < 2 ^ 32 ∧ ((s 0).thread 0 0).heads = true ∧
      ((s 0).thread 0 0).lastcrown = (s 0).reg64 0 0 5 ∧ ((s 0).reg64 0 0 5).toNat / 2 ^ 20 = 0 ∧ (find ((s 0).core 0).crowns 1).isSome = true) ∧
    ((far.reg64 0 0 5).toNat / 2 ^ 20 ≠ 0 ∧ (far.thread 0 0).lastcrown = far.reg64 0 0 5 ∧ (far.thread 0 0).heads = true) ∧
    (2 ^ 32 ≤ ((rg [(5, 2 ^ 32)] on).reg64 0 0 5).toNat ∧ (on.thread 0 0).heads = false) ∧
    (((ev (.imgInstall 0 5 {}) on).core 0).freeCrown = some 0 ∧ (full.core 0).freeCrown = none ∧ (full.core 0).refused = [] ∧
      ((s 0).core 0).refused = []) ∧
    Delivers (ev (.imgInstall 0 5 {}) on) (.imgInstall 0 5 {}) ∧ Delivers (ev (.imgFetch 1 (2 ^ 18)) (crown 2 id on)) (.imgFetch 1 (2 ^ 18)) ∧
    (∀ fail src, Delivers (ev (.joinDec (2 ^ 18) fail src) (crown 2 id on)) (.joinDec (2 ^ 18) fail src)) ∧
    (∃ k, find ((crown 1 (fun k => { k with crownEnded := true, holders := [1] }) on).core 0).crowns 1 = some k ∧ k.home = true ∧ k.handle = 2 ^ 18 ∧
      k.join ≤ 1 ∧ k.crownEnded = true) ∧
    Delivers (ev (.crownRel 0 (2 ^ 18)) on) (.crownRel 0 (2 ^ 18)) :=
  ⟨⟨runs_of (by decide), by decide⟩, by decide, by decide, by decide, rfl, rfl, fun _ _ => rfl, ⟨_, rfl, by decide⟩, rfl⟩

/-- The first and the last sheaf of 128 indices, a member without room, and the end. A chosen sheaf with its image at hand. -/
theorem test_wit_SheavesBecomeTillers :
    let s := fun (i : Nat) => sj 0 1 (crown 128 (fun k => { k with dealer := some i }) on)
    let full := kr (fun k => { k with deque := (List.range 64).map rec0 }) (s 0)
    let r : Rec := { k := true, w := false, pri := 0, lim := 0, crown := 2 ^ 18, cnt := 63, w0 := 64, uid := 4 }
    let t := sj 0 0 (kr (fun k => { k with chosen := some (.record 4), deque := [r] }) (crown 128 id on))
    (∃ k img, find ((s 1).core 0).crowns 1 = some k ∧ k.dealer = some 1 ∧ k.image = some img ∧ ((s 1).core 0).pre = .running ∧
      k.dealAt ≤ (s 1).cyc 0 ∧ 1 * img.sheaf < img.n ∧ ((s 1).core 1).dequeUsed + look k.onWay 1 0 < 64 ∧ img.n ≤ 2 * img.sheaf) ∧
    64 ≤ (full.core 0).dequeUsed ∧
    ∃ img es, (t.core 0).pre = .running ∧ (t.core 0).chosen = some (.record r.uid) ∧ t.admitSlot 0 = some 1 ∧ t.paired 0 1 = false ∧
      (((t.core 0).deque.filter fun x => x.parked.isNone).find? fun x => decide (x.uid = r.uid)) = some r ∧
      (t.core 0).image r.crown = some img ∧ freeEntries (t.core 0) (t.cyc 0) (img.budget + if img.dreg = 0 then 0 else 1) = some es ∧
      (t.column 0).shadowUsed + img.shadow ≤ 1024 :=
  ⟨⟨_, _, rfl, rfl, rfl, by decide⟩, by decide, _, [], by decide, by decide, by decide, by decide, by decide, rfl, by decide +kernel, by decide⟩

/-! ### Witnesses: wheels, roles, slices, pages and migrants -/

/-- No swap pending and one pending, in the quad's first cluster and in another. A swap that is not yet due; one that is due, refused as SIN
is 0, and taken. -/
theorem test_wit_RoseTablesAreWrittenAndSwap :
    let s := fun (cl : Nat) (swap : Bool) => sj cl 0 (on.onCluster cl fun q => { q with up := true, swap := swap, t := 32 })
    let u := fun (sin : Nat) => (s 1 true).onCluster 1 fun q => { q with sin := sin }
    ((s 0 false).cluster 0).swap = false ∧ ((s 0 false).cluster 0).roseidx.toNat < 512 ∧ ((s 1 true).cluster 1).swap = true ∧ 1 % 4 ≠ 0 ∧
    ¬ SwapFallsDue (s 0 false) 0 ∧ SwapFallsDue (u 32) 1 ∧ SwapIsRefused (u 0) 1 ∧ ¬ SwapIsRefused (u 32) 1 ∧ SwapFallsDue (s 0 true) 0 := by
  refine ⟨by decide, by decide, by decide, by decide, ?_, ?_, .inl (.inl rfl), ?_, ?_⟩
  · exact fun h => nomatch h.1
  · exact ⟨rfl, by decide, fun _ => by decide, fun h => absurd h (by decide)⟩
  · intro h
    rcases h with h | ⟨r, hr, h⟩ | ⟨i, b, hi, hb, _, h⟩ | h | ⟨h, _⟩ | h
    · exact absurd h (by decide)
    · have all : (defaultInner.all fun r => decide (r.length = 32) && (List.range 32).all fun i => r.contains i) = true := by decide
      have := List.all_eq_true.mp all r (by exact hr)
      simp only [Bool.and_eq_true, decide_eq_true_eq, List.all_eq_true, List.mem_range] at this
      exact h ⟨this.1, fun i hi => List.contains_iff_mem.mp (this.2 i hi)⟩
    · have all : (∀ i < 32, ∀ b < 32, (defaultInner.any fun r => r.getD i 0 == b) = true) := by decide +kernel
      obtain ⟨r, hr, e⟩ := List.any_eq_true.mp (all i hi b hb)
      exact h r hr (by simpa using e)
    · exact absurd h.1 (by decide)
    · exact absurd (show [0xE4] ≠ [0xE4] from h) (by decide)
    · exact absurd h.1 (by decide)
  · exact ⟨rfl, by decide, fun h => absurd rfl h, fun _ => ⟨by decide, fun _ h => absurd (show [0xE4] ≠ [0xE4] from h) (by decide),
      fun j _ p hp => by
        have : ((sj 0 0 (on.onCluster 0 fun q => { q with up := true, swap := true, t := 32 })).cluster (0 / 4 * 4 + j)).riders = [] := by
          rcases j with _ | j
          · rfl
          · simp [sj, on, State.onCluster, State.cluster, look, assign, Cluster.reset]
        rw [this] at hp
        nomatch hp⟩⟩

/-- Bank 0 made a CACHE bank: held, waiting, and due; a CACHE bank with a line and a retired bank that no row gives keep their role. IDOM 7
with its own MASK and with another, and a thread whose write waited for a pass. -/
theorem test_wit_RolesChangeAndPassesDealWithLines :
    let s := fun (t : Nat) (rc : Option RoleChange) => { sj 0 7 (cr (fun q => { q with t := t, roleChange := rc }) on) with
      subj := { unit := 0, sub := 7, val := 1 } }
    let rc : RoleChange := { writers := [(0, 0, 0)], new := 1, reqT := 5 }
    let i : Instr := .csrWrite 4 5 0x100
    let kept : Cluster := { Cluster.reset 0 with bankrole := 1, lines := [(8, { l := 1, tier := false, dom := none, sectors := [], data := [] })] }
    let held := th (fun t => { t with hold := .answer, pend := some { instr := i, left := 1 } }) (s 32 (some rc))
    RoleIsKept kept 0 0 ∧ RoleIsKept { Cluster.reset 0 with bankrole := 3, inner := [List.replicate 32 1] } 0 0 ∧
    (∀ b, ¬ RoleIsKept ((s 32 none).cluster 0) (s 32 none).subj.val b) ∧ ((s 32 none).cluster 0).roleChange = none ∧
    (((s 5 (some rc)).cluster 0).t ≤ rc.reqT ∧ ((s 33 (some rc)).cluster 0).t % ((s 33 (some rc)).cluster 0).inner.length ≠ 0) ∧
    (rc.reqT < ((s 32 (some rc)).cluster 0).t ∧ ((s 32 (some rc)).cluster 0).t % ((s 32 (some rc)).cluster 0).inner.length = 0) ∧
    ¬ RolesAreBusy (s 32 (some rc)) 0 rc.new ∧ (rc.writers = [(0, 0, (held.cluster 0).bankrole)] ∧ WaitsAt held 0 0 i ∧ HasEntry held 0 0 4) ∧
    ((s 32 none).subj.item = 0 ∧ (∀ p ∈ ((s 32 none).cluster 0).passes, p.dom = some 7 → p.until_ < 32) ∧
      (s 32 none).subj.val.toNat % 65536 ≠ (((s 32 none).cluster 0).domain 7).1 ∧ 0xFFFF % 65536 = (((s 32 none).cluster 0).domain 7).1) ∧
    { unit := 0, sub := 7, item := 1 + 16 * 0 + 15, val := 0 : Subject }.item = 1 + 16 * 0 + 15 := by
  refine ⟨?_, ?_, ?_, by decide, by decide, by decide, ?_, ⟨rfl, ⟨rfl, _, rfl, rfl⟩, hasEntry_of rfl⟩, by decide, rfl⟩
  · exact ⟨by decide, by decide, .inl ⟨by decide, _, List.mem_singleton_self _, by decide⟩⟩
  · exact ⟨by decide, by decide, .inr ⟨by decide, 0, by decide, by decide⟩⟩
  · intro b h
    rcases h.2.2 with ⟨_, p, hp, _⟩ | ⟨h3, _⟩
    · exact absurd hp (by simp [sj, on, cr, State.onCluster, State.cluster, look, assign, Cluster.reset])
    · simp [roleOf, sj, on, cr, State.onCluster, State.cluster, look, assign, Cluster.reset] at h3
  · intro h
    rcases h with ⟨j, hj, p, hp, _⟩ | ⟨p, hp, _⟩
    · have : ∀ j < 4, ((sj 0 7 (cr (fun q => { q with t := 32, roleChange := some { writers := [(0, 0, 0)], new := 1, reqT := 5 } }) on)).cluster
          (0 / 4 * 4 + j)).riders = [] := by decide
      exact nomatch (this j hj ▸ hp : p ∈ ([] : List (Nat × List Access)))
    · nomatch hp

/-- A line of the HBM tier, its four sectors valid, in way 0 of bank 0 set 0 of core 0's slice. -/
def line0 : Line :=
  { l := 0, tier := false, dom := none, sectors := List.replicate 4 { valid := true }, data := List.replicate 192 7 }
/-- Bank 0 about to leave its role with that line in way 0. -/
def leavingState : State :=
  sj 0 0 (cr (fun q => { q with t := 32, bankrole := 1, lines := [(0, line0)]
                                roleChange := some { writers := [(0, 0, 1)], new := 0, reqT := 5 } }) on)
theorem leaving_riders : ∀ j < 4, (leavingState.cluster (0 / 4 * 4 + j)).riders = [] := by decide
theorem test_wit_LeavingLines :
    let rc : RoleChange := { writers := [(0, 0, 1)], new := 0, reqT := 5 }
    let s := leavingState
    let leaving := (s.cluster 0).lines.filter fun p =>
      decide (p.1 / 512 < 32) && decide (roleOf (s.cluster 0).bankrole (p.1 / 512) ≠ roleOf rc.new (p.1 / 512))
    (s.cluster 0).roleChange = some rc ∧ rc.reqT < (s.cluster 0).t ∧ (s.cluster 0).t % (s.cluster 0).inner.length = 0 ∧
    ¬ RolesAreBusy s 0 rc.new ∧ leaving = [(0, line0)] ∧
    (leaving.map fun p => p.1).Nodup ∧ (∀ p ∈ leaving, p.2.data.length = 192 ∧ p.2.sectors.length = 4) ∧
    ∀ j < 4, ∃ y, line0.sectors[j]? = some y ∧ y.valid = true := by
  refine ⟨rfl, by decide, by decide, ?_, by decide, by decide, by decide,
    fun j hj => ⟨_, (by decide : ∀ j < 4, line0.sectors[j]? = some { valid := true }) j hj, rfl⟩⟩
  intro h
  rcases h with ⟨j, hj, p, hp, _⟩ | ⟨p, hp, _⟩
  · exact nomatch (leaving_riders j hj ▸ hp : p ∈ ([] : List (Nat × List Access)))
  · nomatch hp

/-- Core 0's slice with that line, and without. -/
def slice (ls : List (Nat × Line)) : State := cr (fun q => { q with bankrole := 1, lines := ls }) on
/-- An access of thread 0 to physical address pa at core 0's slice. -/
def acc0 (pa : Nat) (op : AccOp) : Access := { agent := .thread 0 0, idx := 0, space := .global, va := pa, op := op, pa := pa, homeCore := 0 }
/-- It is at its home. -/
theorem home0 (pa : Nat) (op : AccOp) (ls : List (Nat × Line)) : AtItsHome (ev (.acc (acc0 pa op)) (slice ls)) (acc0 pa op) := by
  have e : (acc0 pa op).homeCore / 16 = 0 := by simp [acc0]
  exact home_of (by rw [e]; rfl) rfl rfl (by rw [e]; rfl) (by rw [e]; rfl) rfl rfl rfl
    rfl rfl (by intro _ _ _ _ _ h; nomatch h) rfl

/-- A load and a store of the line's last bytes, a load that misses, a fill, and a request of an old generation; a way without an error, and
one in whose last block one is found; a pass over the slice. -/
theorem test_wit_HomesPerformAccesses :
    let a := acc0 184 (.load 8 false)
    let b := acc0 128 (.store (List.replicate 64 1))
    let s := fun (x : Access) (ls : List (Nat × Line)) => ev (.acc x) (slice ls)
    let old := { a with hashed := true, gen := 255 }
    let p : Pass := { dom := none, core := 0, until_ := 511 }
    Delivers (s a [(0, line0)]) (.acc a) ∧ AtItsHome (s a [(0, line0)]) a ∧ AtItsHome (s b [(0, line0)]) b ∧
    (homeBankSet ((slice []).cluster 0).bankrole (a.pa / 192) 0 = some (0, 0) ∧ ((slice [(0, line0)]).cluster 0).hitWay 0 0 0 false = some 0 ∧
      find ((slice [(0, line0)]).cluster 0).lines 0 = some line0 ∧ line0.data.length = 192 ∧ line0.sectors.length = 4) ∧
    (a.pa % 192 = 184 ∧ b.pa % 192 + 64 ≤ 192) ∧
    (∀ j < 4, ∃ y, line0.sectors[j]? = some y ∧ y.valid = true) ∧
    (((slice []).cluster 0).hitWay 0 0 0 false = none ∧ ((slice []).cluster 0).victim 0 0 = some 0 ∧ a.tagchk = false ∧ 0 < ((slice []).cluster 0).mhz ∧
      ∀ j < 4, ((slice []).sectorAt false 0 j).err = .good) ∧
    (old.filled = false ∧ ((s old []).cluster 0).up = true ∧ (((s old []).cluster 0).domain (old.home % 8)).2 ≠ old.gen) ∧
    WayIsSound (s a [(0, line0)]) 0 0 ∧ (∀ p, ¬ SlicePassRuns (s old []) old p) ∧ SlicePassRuns (cr (fun q => { q with passes := [p] }) (s old [])) old p ∧
    AtItsHome { s a [(0, line0)] with bankErr := [(wayAddr 0 0 / 64 + 184 / 64, true)] } a ∧ 184 % 64 + 8 ≤ 64 ∧
    find { s a [(0, line0)] with bankErr := [(wayAddr 0 0 / 64 + 184 / 64, true)] }.bankErr (wayAddr (0 / 16) 0 / 64 + a.pa % 192 / 64) = some true := by
  refine ⟨rfl, home0 _ _ _, home0 _ _ _, by decide, by decide, ?_, by decide, by decide, fun _ _ => rfl, fun _ h => (nomatch h.1),
    ⟨List.mem_singleton_self _, rfl, rfl, by decide, by decide⟩, ?_, by decide, by decide⟩
  · exact fun j hj => ⟨_, (by decide : ∀ j < 4, line0.sectors[j]? = some { valid := true }) j hj, rfl⟩
  · have h := home0 184 (.load 8 false) [(0, line0)]
    exact ⟨h.up, h.first, h.gen, h.roles, h.passes, h.untagged, h.clean, h.direct, h.homed, h.alone, h.fresh, h.inside, h.told⟩

/-- A REHOME with MASK zero and with one core, of an access to another cluster; a registration in a table of 63 and of 64; a fill that no
invalidation has crossed and one that it has; a line that has been written on this cycle. -/
theorem test_wit_HomesKeepTrack :
    let a := { acc0 0 (.load 8 false) with home := 16 }
    let w : Watch := { core := 3, slot := 2, line := 1, tier := false }
    let full := fun (n : Nat) => kr (fun k => { k with watch := List.replicate n w }) on
    let fill := fun (crossed : Bool) => ev (.copyFill 0 { a with stamp := 5 } {} none)
      (on.onStack 0 fun k => { k with filling := [{ stamp := 4, l := 0, tier := false, crossed := crossed }] })
    (∀ mask, Delivers (ev (.rehome a mask 3) on) (.rehome a mask 3)) ∧ (a.agent = .thread 0 0 ∧ a.copyOk = false ∧ a.stamp = 0) ∧
    a.home / 16 ≠ 0 / 16 ∧ Delivers (ev (.acc a) on) (.acc a) ∧
    Delivers (ev (.copyInv 0 1 true (.thread 0 0) 4) on) (.copyInv 0 1 true (.thread 0 0) 4) ∧
    (∀ b, Delivers (fill b) (.copyFill 0 { a with stamp := 5 } {} none)) ∧
    (∃ x ∈ ((fill true).stack 0).filling, x.stamp + 1 = 5 ∧ x.crossed = true) ∧
    (∀ x ∈ ((fill false).stack 0).filling, x.crossed = false) ∧
    (((kr (fun k => { k with wroteNow := [lineNo a] }) on).core 0).wroteAt = (on.cluster 0).t ∧ lineNo a ∈ [lineNo a] ∧ lineNo a ∉ (on.core 0).wroteNow) ∧
    (on.devAcks = [] ∧ a.hashed = false ∧ (on.cluster 0).roleChange = none ∧ (on.cluster 0).passes = []) ∧
    (((full 63).core a.homeCore).watch.length = 63 ∧ ((full 64).core a.homeCore).watch = w :: List.replicate 63 w ∧ 64 ≤ (w :: List.replicate 63 w).length) :=
  ⟨fun _ => rfl, by decide, by decide, rfl, rfl, fun _ => rfl, ⟨_, List.mem_singleton_self _, by decide⟩, by decide, by decide, by decide, by decide⟩

/-- A walk of a page that has none, that has one, and with sixteen others at work; its end; a line for a slot that waits; a TLBINV; a load
and a store at a network port, first and then. -/
theorem test_wit_PagesAndLinesArrive :
    let f := { acc0 0 (.load 64 false) with agent := .fetch 0, uid := fetchKey (on.core 0).ptbase 66, row := 3 }
    let s := ev (.accAns f { bytes := List.replicate 64 1 }) ((th (fun t => { t with hold := .fetch }) on).onColumn 0 fun k =>
      { k with filling := [(fetchKey (on.core 0).ptbase 66, [0])] })
    let l := { acc0 0 (.load 8 false) with space := .loc, va := 2 ^ 18 - 64, off := 56 }
    let st := { acc0 0 (.store [1, 2]) with space := .loc, va := 2 ^ 18 - 64, off := 62 }
    let w : Walk := { tables := tablesKey (on.core 0).ptbase, page := 0, quadrant := walkerCluster 0, ids := [0], running := true }
    let walks := fun (n : Nat) (ws : List Walk) =>
      { (ev (.walk (.thread 0 0) 0 (on.core 0).ptbase 0) on).onStack 0 (fun k => { k with walks := ws }) with subj := { sub := n } }
    (∀ n ws, Delivers (walks n ws) (.walk (.thread 0 0) 0 (on.core 0).ptbase 0)) ∧
    ((∀ v ∈ ((walks 0 []).stack (0 / 1024)).walks, v.page ≠ 0) ∧ ((walks 0 [w]).stack 0).walks = [w] ∧
      (let q := ((walks 0 (List.replicate 16 { w with page := 7 })).stack 0).walks;
        (∀ v ∈ q, ¬ v.page = 0 / 49152) ∧ (∀ v ∈ q, v.running = true) ∧ 16 ≤ (q.filter fun v => decide (v.quadrant = walkerCluster 0)).length) ∧
      (((walks 1 [w]).stack 0).walks.find? fun v => v.ids.contains (walks 1 [w]).subj.item) = some w ∧ ∀ i ∈ w.ids, i < (walks 1 [w]).nextId) ∧
    (on.walk (on.core 0).ptbase 0 = none ∧ ∃ x, { on with lp := [(0, 3), (7, 0xC0)] }.walk (3 * 2 ^ 62) 0 = some x ∧ pageSize x.level = 3221225472) ∧
    (ev (.acc l) on).subj.sub ≠ 1 ∧
    ({ (ev (.acc l) on) with subj := { sub := 1 } } : State).subj.sub = 1 ∧
    Delivers s (.accAns f { bytes := List.replicate 64 1 }) ∧
    (f.uid ∉ (s.column 0).refill ∧ 16 * 0 + 0 ∈ look (s.column 0).filling f.uid [] ∧ (s.thread 0 0).hold = .fetch ∧
      fetchKey (s.core 0).ptbase (s.thread 0 0).pc.toNat = f.uid) ∧
    Delivers (ev (.tlbInv 0 0 0 1 2) on) (.tlbInv 0 0 0 1 2) ∧ Delivers (ev (.acc l) on) (.acc l) ∧ Delivers (ev (.acc st) on) (.acc st) ∧
    (((ev (.acc l) on).cluster 0).up = true ∧ l.off + 8 ≤ 64 ∧ st.off + 2 ≤ 64) :=
  ⟨fun _ _ => rfl, by decide, ⟨by decide, _, rfl, by decide⟩, by decide, rfl, rfl, by decide, rfl, rfl, rfl, by decide⟩

/-- Own column, the last column of the tenant's cluster, column 2048; a thread of 16 registers and of 24. A column with a slot free, and one
with 15 and 16 migrants waiting. -/
theorem test_wit_MigrationMovesThreadsAndMigrants :
    let s := fun (lim col : Nat) => rg [(5, col)] (th (fun t => { t with limit := lim }) on)
    let m : Migrant := { th := { pc := 66, limit := 8 }, regs := [(1, 7)], col := 0, fromCore := 2, fromSlot := 3 }
    let q := fun (n : Nat) => ev (.migrant m) (on.onColumn 0 fun k => { k with migrants := List.replicate n m })
    let held := fun (h : Hold) => sj 0 0 (th (fun t => { t with hold := h, pend := some { instr := .migrGoto 5, left := 1 } }) on)
    let low := fun (n : Nat) => (List.range n).foldl (fun (u : State) c => u.onCore c fun k => { k with pre := .preempted }) (q 0)
    Runs (s 16 7) 0 0 [5] [] ∧ Runs (s 16 7) 0 0 [4] [4] ∧ 2047 < ((s 16 2048).reg64 0 0 5).toNat ∧ ((s 16 0).reg64 0 0 5).toNat = 0 ∧
    (((s 16 7).reg64 0 0 5).toNat = 7 ∧ (s 16 7).tenantOf (7 / 8) = (s 16 7).tenantOf 0 ∧ (s 16 7).tenantOf 0 ≠ none ∧
      ((s 16 7).thread 0 0).world = true ∧ ((s 16 7).thread 0 0).limit ≤ 16 ∧ ((s 16 7).thread 0 0).engine = [] ∧
      ((s 16 7).column 0).twinctl.getLsbD 0 = false ∧ 16 < ((s 24 7).thread 0 0).limit) ∧
    (Delivers (q 0) (.migrant m) ∧ ((q 0).column 0).migrants = [] ∧ ((q 0).core 0).pre = .running ∧ freeBase ((q 0).core 0) ((q 0).cyc 0) m.th.limit = some 128 ∧
      m.th.tiller = none) ∧ (m.regs.map fun p => p.1).Nodup ∧
    (List.range 15).find? (fun j => decide (((q 0).slot 0 j).st = .free) && decide (((q 0).slot 0 j).freeAt ≤ (q 0).cyc 0) &&
      !((q 0).paired 0 j)) = some 1 ∧
    (((q 1).column 0).migrants = m :: [] ∧ ((q 15).column 0).migrants.length < 16 ∧ 16 ≤ ((q 16).column 0).migrants.length) ∧
    (((held (.migrate 7)).slot 0 0).st = .run ∧ ((held (.migrate 7)).thread 0 0).hold = .migrate 7 ∧
      ((held (.migrate 7)).thread 0 0).pend = some { instr := .migrGoto 5, left := 1 } ∧ ((held .retry).thread 0 0).hold = .retry ∧
      ((held .retry).core 0).pre = .running) ∧ NoInvalidations (s 16 7) ∧ 7 / 512 = 0 / 1024 ∧
    ¬ FitsCore (low 1) 0 m.th.limit ∧ ¬ FitsCore (low 2) 0 m.th.limit ∧ ¬ FitsCore (low 2) 1 m.th.limit ∧
    ((List.range 15).find? fun j => decide (((low 1).slot 1 j).st = .free) && decide (((low 1).slot 1 j).freeAt ≤ (low 1).cyc 1) && !((low 1).paired 1 j)) = some 0 ∧
    freeBase ((low 1).core 1) ((low 1).cyc 1) m.th.limit = some 0 :=
  ⟨runs_of (by decide), runs_of (by decide), by decide, by decide, by decide, ⟨rfl, by decide⟩, by decide, by decide, by decide, by decide,
    noInv_of rfl, by decide, fun h => (nomatch h.1), fun h => (nomatch h.1), fun h => (nomatch h.1), by decide, by decide⟩

/-! ### Witnesses: the copy engine -/

/-- A FIFO of 15 and of 16, a tag free and in use. A mask of zero, one with its bit set, and one without. Requests that end. -/
theorem test_wit_TagsAndCopyRequests :
    let q : Req := { w0 := 0, w1 := 0, w2 := 0, w3 := 0, world := false, tenant := none, ptbase := 0, core := 0, slot := 0 }
    let s := fun (n : Nat) (used : List Nat) => rg [(5, 63 * 2 ^ 50)] (kr (fun k => { k with fifo := List.replicate n q, inUse := used }) on)
    let w := fun (m : Nat) => rg [(5, m)] (kr (fun k => { k with tagdone := BitVec.ofNat 64 (2 ^ 63) }) on)
    let r := fun (freed ending : Bool) => sj 0 0 (kr (fun k => { k with running := some { req := q, total := 1, freed := freed, ending := ending } }) on)
    Runs (s 15 []) 0 0 (5 :: 6 :: 7 :: 8 :: (some 4).toList) (some 4).toList ∧
    (((s 15 []).core 0).fifo.length < 16 ∧ ((s 15 []).reg64 0 0 5).toNat / 2 ^ 50 % 64 = 63 ∧ 63 ∉ ((s 15 []).core 0).inUse ∧
      16 ≤ ((s 16 []).core 0).fifo.length ∧ 63 ∈ ((s 15 [63]).core 0).inUse) ∧
    Runs (w 0) 0 0 [4, 5] [4] ∧ ((w 0).thread 0 0).holding = none ∧
    ((w 0).reg64 0 0 5 = 0 ∧ ((w (2 ^ 63)).core 0).tagdone &&& (w (2 ^ 63)).reg64 0 0 5 = (w (2 ^ 63)).reg64 0 0 5 ∧
      (w 1).reg64 0 0 5 ≠ 0 ∧ ((w 1).core 0).tagdone &&& (w 1).reg64 0 0 5 = 0) ∧
    ((((w (2 ^ 63)).core 0).tagdone &&& (w (2 ^ 63)).reg64 0 0 5).getLsbD 63 = true ∧
      ∀ j < 63, (((w (2 ^ 63)).core 0).tagdone &&& (w (2 ^ 63)).reg64 0 0 5).getLsbD j = false) ∧
    ((r false true).core 0).running = some { req := q, total := 1, freed := false, ending := true } :=
  ⟨runs_of (by decide), by decide, runs_of (by decide), by decide, by decide, by decide, by decide⟩

/-- Core 0's oldest request. -/
def asks (w0 w1 w2 w3 : Nat) : Req :=
  { w0 := BitVec.ofNat 64 w0, w1 := BitVec.ofNat 64 w1, w2 := BitVec.ofNat 64 w2, w3 := BitVec.ofNat 64 w3, world := true, tenant := some 1,
    ptbase := BitVec.ofNat 64 (2 ^ 63), core := 0, slot := 0 }
/-- The engine about to take it. -/
def takes (q : Req) : State := sj 0 0 (kr (fun k => { k with fifo := [q] }) on)

/-- A refused request, a KIND without a row, and one of each KIND, at the largest tag, counter, scope and AUX. -/
theorem test_wit_EngineTakesRequests :
    let word := fun (k ssp dsp aux : Nat) => requestWord k 63 15 5 ssp dsp aux
    let copy := asks (word 1 1 2 0) (2 ^ 21 - 64) (2 ^ 18 - 64) (64 * 2 ^ 32)
    let fill := asks (word 3 0 1 0) 5 (2 ^ 21 - 64) (64 * 2 ^ 32)
    let wbr := asks (word 5 0 0 0) (2 ^ 48 - 1) 0 (2 ^ 32)
    let mc := asks (word 4 0 2 0xFFFF) 64 (2 ^ 20 - 64) (64 * 2 ^ 32)
    TakesRequest (takes copy) 0 copy [] ∧
    ((asks 1 0 0 0).w0.toNat % 2 ^ 16 ≠ 0 ∧ (∀ p ∈ requestKinds, p.2 ≠ (asks (0x12 * 2 ^ 56) 0 0 0).w0.toNat / 2 ^ 56)) ∧
    OwnBlock (takes copy) 0 copy copy.w1 ∧ OwnBlock (takes fill) 0 fill fill.w2 ∧
    (copy.w0.toNat = word 1 1 2 0 ∧ copy.w2.toNat % 64 = 0 ∧ copy.w3.toNat % 2 ^ 32 = 0 ∧ copy.w3.toNat / 2 ^ 32 = 64) ∧
    ((asks (word 2 1 2 0xFFFF) 0 0 (2 ^ 32)).w0.toNat = word 2 1 2 0xFFFF ∧ (asks (word 2 1 2 0xFFFF) 0 0 (2 ^ 32)).w3.toNat / 2 ^ 32 = 1) ∧
    ((asks (word 16 1 2 0) 0 0 (8 * 2 ^ 32 + 2 ^ 30 + 2 * 2 ^ 28 + 4095 * 2 ^ 16)).w3.toNat % 2 ^ 32 = 1 * 2 ^ 30 + 2 * 2 ^ 28 + 4095 * 2 ^ 16 ∧
      (asks (word 17 1 2 0) 0 0 (16 * 2 ^ 32)).w0.toNat = word 17 1 2 0) ∧
    (fill.w0.toNat = word 3 0 1 0 ∧ (takes fill).columns = []) ∧
    (((takes wbr).cluster 0).engineTc = [] ∧ wbr.ptbase.getLsbD 63 = true ∧ wbr.w1.toNat < 2 ^ 48 ∧ wbr.w2 = 0 ∧ wbr.w0.toNat = word 5 0 0 0 ∧
      wbr.w3.toNat / 2 ^ 32 = 1 ∧ (asks (word 6 0 0 0) 0 0 0).w0.toNat = word 6 0 0 0) ∧
    (mc.w0.toNat = word 4 0 2 0xFFFF ∧ mc.w1.toNat % 64 = 0 ∧ mc.w2.toNat % 64 = 0 ∧ mc.w2.toNat / 2 ^ 20 % 16 = 0 ∧
      mc.w2.toNat % 2 ^ 20 + 64 ≤ 2 ^ 20) :=
  ⟨⟨rfl, rfl, rfl, rfl, rfl, by decide⟩, by decide, ⟨by decide, by decide, by decide, by decide, .inl rfl⟩,
    ⟨by decide, by decide, by decide, by decide, .inl rfl⟩, by decide⟩

/-- A line request whose line is valid at its home and one whose line is missing; a sector to be sent; a destination with both sectors of its
first block. -/
theorem test_wit_MulticastsServeLines :
    let r : McReq := { core := 0, tenant := some 1, lo := 0, len := 192, dsp := 2, cl := 0, off := 0, mask := 1, access := acc0 0 (.mcast 0) }
    let d : McReq := { r with dsp := 1 }
    let s := fun (ls : List (Nat × Line)) => ev (.mcLine r) (slice ls)
    let x : McSend := { id := 3, no := 3, home := 0, reqs := [r], data := List.replicate 192 7, bad := [], next := 2, last := 3, dests := [(0, 1)] }
    let t := sj 0 0 (cr (fun q => { q with mcast := [x] }) on)
    let x1 : McSend := { x with reqs := [d], dests := [(0, 2 ^ 15 + 1)] }
    let u := ev (.mcSector 3 d 1 (List.replicate 48 1) false 0 (2 ^ 14)) (cr (fun q => { q with mcParts := [(mcKey 3 14 0, (List.replicate 48 2, true))] }) on)
    (Delivers (s []) (.mcLine r) ∧ (s []).subj.sub ≠ 1 ∧ ((s []).cluster 0).up = true ∧ ((s []).cluster 0).passes = [] ∧
      ((s []).cluster 0).roleChange = none ∧ ((s []).cluster 0).mcast = [] ∧ r.access.tagchk = false ∧ r.dsp = 2 ∧ r.access.hashed = false) ∧
    ((s [(0, line0)]).mcLine 0 r = some line0 ∧ (s []).mcLine 0 r = none) ∧
    ((t.cluster 0).mcast = [x] ∧ x.home = t.subj.unit ∧ x.readyAt ≤ (t.cluster 0).t ∧ x.reqs = r :: [] ∧ x.isTail = false ∧ x.next < x.last ∧
      x1.reqs = d :: [] ∧ d.dsp = 1 ∧ ∀ p ∈ x1.dests, p.2.testBit 15 = true ∧ p.2.testBit 0 = true) ∧
    (Delivers u (.mcSector 3 d 1 (List.replicate 48 1) false 0 (2 ^ 14)) ∧ 14 % 2 = 0 ∧ d.dsp = 1 ∧ d.lo = 0 ∧ 64 ≤ d.len ∧
      find (u.cluster 0).mcParts (mcKey 3 14 0) = some (List.replicate 48 2, true)) :=
  ⟨⟨rfl, by decide⟩, by decide, by decide, ⟨rfl, by decide⟩⟩

/-! ### Witnesses: vector instructions -/

theorem test_wit_VectorIntegerLanes : ∃ q, viLanes (.viAdd 7 5 6 .w8 0) (on.reg 0 0) = some q ∧ Runs on 0 0 (q.d :: q.reads) [q.d] :=
  ⟨_, rfl, runs_of (by decide)⟩
theorem test_wit_VectorFloatLanes : (∃ q, floatLanes (.vfSqrt 7 5 .f16 .rtz 0) (on.reg 0 0) = some q ∧ Runs on 0 0 (q.d :: q.reads) [q.d]) ∧
    ∃ q, floatLanes (.vfmaFnms 7 5 6 4 .f64 .rne 7) (on.reg 0 0) = some q ∧ Runs on 0 0 (q.d :: q.reads) [q.d] :=
  ⟨⟨_, rfl, runs_of (by decide)⟩, _, rfl, runs_of (by decide)⟩
/-- One and zero as numbers of FP32, the most negative byte, and LOG6's zero. -/
theorem f32_numbers : Denotes (laneRow .f32) 0x3F800000 1 ∧ Denotes (laneRow .f32) 0 0 ∧ FmtValue .f32 0x3F800000 1 ∧ FmtValue .i8 128 (-128) ∧
    FmtValue .log6 0 0 := by
  have one : Denotes (laneRow .f32) 0x3F800000 1 := ⟨by decide, by decide, by
    have h : Nat.testBit 0x3F800000 31 = false := by decide
    norm_num [laneRow, h]⟩
  exact ⟨one, ⟨by decide, by decide, by simp [laneRow]⟩, one, by simp [FmtValue, binaryRow, sextI, fmtWidth],
    ⟨by decide, fun _ => rfl, fun h => absurd rfl h⟩⟩

/-- One over one, a sum of zeros, one over zero and a root of a NaN. -/
theorem test_wit_FloatsAreRounded :
    (∃ q ex sg, exactForm (.vfDiv 7 5 5 .f32 .rup 0) = some (.f32, .rup, ex, sg) ∧
      floatLanes (.vfDiv 7 5 5 .f32 .rup 0) ((rg [(5, 0x3F800000)] on).reg 0 0) = some q ∧
      (∀ k, k < q.reads.length → Denotes (laneRow .f32) (partOf ((rg [(5, 0x3F800000)] on).reg 0 0 (q.reads.getD k 0)) 0 q.w) 1) ∧ ex 1 1 0 1) ∧
    (∃ q ex sg, exactForm (.vfAdd 7 5 6 .f32 .rdn 0) = some (.f32, .rdn, ex, sg) ∧ floatLanes (.vfAdd 7 5 6 .f32 .rdn 0) (on.reg 0 0) = some q ∧
      (∀ k, k < q.reads.length → Denotes (laneRow .f32) (partOf (on.reg 0 0 (q.reads.getD k 0)) 15 q.w) 0) ∧ ex 0 0 0 0) ∧
    floatSpecial (.vfDiv 7 5 6 .f32 .rne 0) 32 23 0x3F800000 0 0 = some (0x7F800000, 8) ∧
    floatSpecial (.vfSqrt 7 5 .f16 .rne 0) 16 10 0x7D00 0 0 = some (0x7E00, 16) := by
  refine ⟨⟨_, _, _, rfl, rfl, ?_, one_ne_zero, one_mul 1⟩, ⟨_, _, _, rfl, rfl, ?_, (add_zero 0).symm⟩, by decide, by decide⟩
  · rintro (_ | _ | k) h
    · exact f32_numbers.1
    · exact f32_numbers.1
    · exact absurd h (by simp)
  · rintro (_ | _ | k) h
    · exact f32_numbers.2.1
    · exact f32_numbers.2.1
    · exact absurd h (by simp)
/-- EXP of zero is named; the cube root of one is exact, as are HYPOT of one and zero, and a power and a logarithm. -/
theorem test_wit_VmathNamedValues : mathForm (.vmathExp 7 5 false 0) = some (0, 7, [5], 0, false) ∧ Runs on 0 0 [7, 5] [7] ∧
    (mathSpecial 0 false (partOf (on.reg 0 0 5) 7 64) 0).isSome = true ∧ mathForm (.vmathHypot 7 5 6 true 0) = some (20, 7, [5, 6], 0, true) ∧
    Runs (rg [(5, 0x3F800000)] on) 0 0 [7, 5, 6] [7] ∧ Denotes (laneRow .f32) (partOf ((rg [(5, 0x3F800000)] on).reg 0 0 5) 0 32) 1 ∧
    Denotes (laneRow .f32) (partOf ((rg [(5, 0x3F800000)] on).reg 0 0 6) 0 32) 0 ∧ mathExact 20 1 0 1 ∧ mathExact 19 1 0 1 ∧ mathExact 1 1 0 2 ∧
    mathExact 2 1 0 10 ∧ mathExact 5 2 0 1 ∧ mathExact 6 10 0 1 :=
  ⟨rfl, runs_of (by decide), by decide, rfl, runs_of (by decide), f32_numbers.1, f32_numbers.2.1, ⟨zero_le_one, by norm_num⟩, one_pow 3,
    ⟨1, by norm_num, by norm_num⟩, ⟨1, by norm_num, by norm_num, by norm_num⟩, ⟨1, by norm_num, by norm_num⟩,
    ⟨1, by norm_num, by norm_num, by norm_num⟩⟩
theorem test_wit_VectorComparesWriteMasks : (∃ rel, cmpForm (.vcmpLt 7 5 6 (.flt .f32) 0) = some (7, 5, 6, 0, 32, rel)) ∧
    (∃ rel, cmpForm (.vcmpGen 1 5 6 .w8 7) = some (1, 5, 6, 7, 8, rel)) ∧ Runs on 0 0 [5, 6] [] :=
  ⟨⟨_, rfl⟩, ⟨_, rfl⟩, runs_of (by decide)⟩
/-- Numbers of each kind of format, an infinity and a NaN; a sum of one lane that is one. -/
theorem test_wit_ConversionsAndReductions : Runs on 0 0 [7, 5] [7] ∧ (∃ r fl, redForm (.vredIsum 7 5 .w8 0) on 0 0 = some (7, 5, r, fl)) ∧
    (∃ r fl, redForm (.vredSum 7 5 .f32 .rne 0) on 0 0 = some (7, 5, r, fl)) ∧
    (FmtValue .f32 0x3F800000 1 ∧ FmtValue .i8 128 (-128) ∧ FmtValue .log6 0 0 ∧ 0x3F800000 < 2 ^ fmtWidth .f32) ∧
    (∃ g, binaryRow .f16 = some g ∧ g.saturates = false ∧ 0xFC00 = g.infinite true ∧ 0x7C01 = g.infinite false + 1 ∧ 0x7C01 < 2 ^ g.w) ∧
    let s := rg [(5, 0x3F800000)] (th (fun t => { t with masks := [(1, 1)] }) on)
    Runs s 0 0 [7, 5] [7] ∧ (∃ res fl, redForm (.vredSumx 7 5 .f32 .rne 1) s 0 0 = some (7, 5, res, fl)) ∧
    List.Forall₂ (Denotes (laneRow .f32)) (activeParts s 0 0 5 1 32) [1] ∧ ([1] : List ℝ).sum ≠ 0 := by
  refine ⟨runs_of (by decide), ⟨_, _, rfl⟩, ⟨_, _, rfl⟩, ⟨f32_numbers.2.2.1, f32_numbers.2.2.2.1, f32_numbers.2.2.2.2, by decide⟩, ⟨_, rfl, by decide⟩,
    runs_of (by decide), ⟨_, _, rfl⟩, ?_, by norm_num⟩
  have e : activeParts (rg [(5, 0x3F800000)] (th (fun t => { t with masks := [(1, 1)] }) on)) 0 0 5 1 32 = [0x3F800000] := by decide
  exact e ▸ .cons f32_numbers.1 .nil
theorem test_wit_LanesMove : (∃ q, permForm (.vpermRot 7 5 .w8 63) (fun m j => ((on.thread 0 0).mask m).getLsbD j) = some q ∧ q.1 = [5] ∧ q.2.1 = 7) ∧
    Runs on 0 0 [7, 5] [7] ∧ Runs on 0 0 (planeRegs .w16 126 ++ planeRegs .w16 4) (planeRegs .w16 126) :=
  ⟨⟨_, rfl, rfl, rfl⟩, runs_of (by decide), runs_of (by decide)⟩

/-! ### Witnesses: the matrix unit -/

/-- A capability for every right, of tenant 1 in cluster 0, with a check code. -/
def cap (a b : Byte) : Nat := 2 ^ 24 + 15 * 2 ^ 16 + (256 * a.toNat + b.toNat)
/-- A command of the core in cluster 0. -/
def cmd (op : Nat) (c : Word) : MxCmd :=
  { core := 0, slot := 0, tenant := some 1, world := true, cl := 0, channel := 3, op := op, w0 := 0, w1 := 0, cap := c, tag := some 63 }

/-- An MX whose tag is in use and one whose tag is free; one to be sent again; the three answers; a queue of 31 and of 32, and a remote
command with every remote context bound to others. -/
theorem test_wit_MatrixCommandsAreSent :
    let i : Instr := .mxZero (some 9) 5 6 7 (some 63)
    let s := fun (used : List Nat) => kr (fun k => { k with inUse := used }) on
    let s := fun (used : List Nat) (h : Hold) => rg [(7, 0xFFFF * 2 ^ 48 + 3)] (th (fun t => { t with hold := h, pend := some { instr := i, left := 1 } }) (s used))
    let u := fun (n : Nat) => cr (fun q => { q with matrix := { q.matrix with ctxs := [(0, { queue := List.replicate n (cmd 6 0) }),
      (16, { bound := some 1 }), (17, { bound := some 2 }), (18, { bound := some 3 }), (19, { bound := some 4 })] } }) on
    (∃ q, commandForm i = some q ∧ Runs (s [63] .ready) 0 0 (q.a :: q.k :: q.e :: (q.b.toList ++ q.busy.toList)) q.busy.toList ∧
      q.tag = some 63 ∧ 63 ∈ ((s [63] .ready).core 0).inUse ∧ (∀ g, q.tag = some g → g ∉ ((s [] .ready).core 0).inUse) ∧
      ((s [] .ready).reg64 0 0 q.e).toNat / 2 ^ 48 = 0xFFFF ∧ (∀ d, q.busy = some d → HasEntry (s [] .answer) 0 0 d)) ∧
    (((s [] .retry).slot 0 0).st = .run ∧ ((s [] .retry).thread 0 0).hold = .retry ∧ ((s [] .retry).thread 0 0).posted = 0 ∧
      ((s [] .retry).core 0).pre = .running) ∧ NoInvalidations (s [] .ready) ∧ NoInvalidations (s [] .retry) ∧
    WaitsAt (s [] .answer) 0 0 i ∧ (∀ a, Delivers (ev (.mxAns (cmd 3 0) a) (s [] .answer)) (.mxAns (cmd 3 0) a)) ∧
    Delivers (ev (.mxCmd (cmd 6 0)) (u 31)) (.mxCmd (cmd 6 0)) ∧ (cmd 6 0).dev = on.devNo ∧
    ((((u 31).cluster 0).matrix.ctx 0).queue.length < 32 ∧ 32 ≤ (((u 32).cluster 0).matrix.ctx 0).queue.length) ∧
    ({ cmd 6 0 with core := 16 }.core / 16 ≠ 0 ∧ ∀ j < 20, 16 ≤ j → (((u 0).cluster 0).matrix.ctx j).bound ≠ none ∧
      (((u 0).cluster 0).matrix.ctx j).bound ≠ some (4096 * 0 + 16)) :=
  ⟨⟨_, rfl, runs_of (by decide), rfl, by decide, fun _ _ => List.not_mem_nil, by decide, fun _ _ => hasEntry_of rfl⟩, by decide, noInv_of rfl, noInv_of rfl,
    ⟨rfl, _, rfl, rfl⟩, fun _ => rfl, rfl, rfl, by decide, by decide, by decide⟩

/-- Blocks below row 1536 of cluster 0's banks are in range where some bank has the space's role. -/
theorem blocks_of {s : State} {space : Mode} {n : Nat} (hs : space = .spread ∨ space = .tob) (hn : n ≤ 1536)
    (hl : (banksUnder (s.cluster 0).bankrole space 0).length ≠ 0) : BlocksInRange s 0 space 0 n := by
  refine ⟨rfl, fun j hj => ⟨by omega, ?_⟩⟩
  have ha : addrCluster space (0 * 2 ^ 24 + 0 + 64 * j) = 0 ∧ addrOffset space (0 * 2 ^ 24 + 0 + 64 * j) = 64 * j ∧
      banksUnder (s.cluster 0).bankrole space (0 * 2 ^ 24 + 0 + 64 * j) = banksUnder (s.cluster 0).bankrole space 0 := by
    rcases hs with rfl | rfl <;> exact ⟨by simp only [addrCluster, bits]; omega, by simp only [addrOffset, bits]; omega, rfl⟩
  have hd : 64 * j / 64 / (banksUnder (s.cluster 0).bankrole space 0).length ≤ j :=
    Nat.le_trans (Nat.div_le_self _ _) (by omega)
  simp only [State.mapBank, ha.1, mapUnder, ha.2.1, ha.2.2, hl, ↓reduceIte, ne_eq]
  rw [if_neg (by omega)]
  exact nofun

/-- ORDER passes where its capability does. -/
theorem order_passes {s : State} {k : Word} (h : CapabilityPasses s (cmd 6 k)) : CommandPasses s 19 (cmd 6 k) :=
  ⟨h, fun _ h => absurd rfl h, rfl⟩

/-- A run of op, all of its blocks read. -/
def run_ (op : Nat) (computing : Bool) : MxRun :=
  { cmd := cmd op 0, ctx := 19, computing := computing, ending := decide (op = 7), got := (List.range 48).map fun j => (j, List.replicate 64 1) }
/-- Cluster 0's matrix unit executes it. -/
def mx (op : Nat) : State :=
  sj 0 (if op = 1 then 1 else 0) (cr (fun q => { q with matrix := { q.matrix with ctxs := [(19, { fmt := 6 })], run := some (run_ op (op == 1)) } }) on)
/-- ORDER with a capability k waits at the unit; tenant 1's key is empty. -/
def mxq (k : Word) : State :=
  sj 0 0 { (cr (fun q => { q with matrix := { q.matrix with ctxs := [(19, { queue := [cmd 6 k] })] } }) on) with keys := [(1, [])] }

/-- The fields of a capability. -/
theorem cap_fields (a b : Byte) : cap a b / 2 ^ 24 % 256 = 1 ∧ cap a b / 2 ^ 16 % 256 = 15 ∧ cap a b / 2 ^ 20 % 16 = 0 ∧
    cap a b % 2 ^ 16 = 256 * a.toNat + b.toNat ∧ (BitVec.ofNat 64 (cap a b) : Word).toNat = cap a b := by
  have h1 := a.isLt
  have h2 := b.isLt
  simp only [cap, BitVec.toNat_ofNat]
  omega

/-- Cluster 0 is tenant 1's. -/
theorem mxq_tenant (k : Word) : (mxq k).tenantOf 0 = some 1 := by
  have h : ((mxq k).cluster 0).tenant = 17 := rfl
  simp only [State.tenantOf, h]
  decide

/-- The one with its key's check code passes. -/
theorem order_capability (a b : Byte) (ha : (hmac512 [] [BitVec.ofNat 8 1, BitVec.ofNat 8 15, BitVec.ofNat 8 0]).getD 62 0 = a)
    (hb : (hmac512 [] [BitVec.ofNat 8 1, BitVec.ofNat 8 15, BitVec.ofNat 8 0]).getD 63 0 = b) :
    CapabilityPasses (mxq (BitVec.ofNat 64 (cap a b))) (cmd 6 (BitVec.ofNat 64 (cap a b))) := by
  obtain ⟨h1, h2, h3, h4, h5⟩ := cap_fields a b
  have e : (cmd 6 (BitVec.ofNat 64 (cap a b))).cap.toNat = cap a b := h5
  have ecl : (cmd 6 (BitVec.ofNat 64 (cap a b))).cl = 0 := rfl
  have eco : (cmd 6 (BitVec.ofNat 64 (cap a b))).core = 0 := rfl
  simp only [CapabilityPasses, e, h1, h2, h3, h4, ecl, eco]
  refine ⟨rfl, mxq_tenant _, trivial, .inl rfl, fun h => (nomatch h), fun h => ?_, fun h => ?_, fun h => ?_, [], rfl, ?_⟩
  · rcases h with h | h | h <;> nomatch h
  · rcases h with h | h <;> nomatch h
  · exact absurd (h.resolve_left fun h => h rfl) (by decide)
  · rw [← ha, ← hb]

/-- A command that passes, one that does not, and a run of each op; blocks that are all read. -/
theorem test_wit_MatrixCommandsRun :
    (∀ k, ((mxq k).cluster 0).matrix.run = none ∧ ((mxq k).cluster 0).matrix.ctxs = [(19, { queue := [cmd 6 k] })] ∧ (cmd 6 k).cl = 0 ∧
      (((mxq k).cluster 0).matrix.ctx 19).lateAt ≤ ((mxq k).cluster 0).t) ∧
    (∃ k, CommandPasses (mxq k) 19 (cmd 6 k)) ∧ ¬ CommandPasses (mxq 0) 19 (cmd 6 0) ∧
    (∀ op, op < 7 → Executes (mx op) 0 (run_ op (op == 1)) op) ∧
    BlocksInRange (mx 4) 0 .spread 0 (64 * outBytes { fmt := 6 } 2) ∧ BlocksInRange (cr (fun q => { q with bankrole := 2 }) (mx 2)) 0 .tob 0 24 ∧
    4 * planesOf { fmt := 6 } = 24 ∧ (∀ j < 2 * 24, (look (run_ 1 true).got (128 * 0 + j) []).length = 64) ∧
    ((mx 7).cluster 0).matrix.run = some (run_ 7 false) ∧ (run_ 7 false).ending = true ∧ (cmd 7 0).okAt ≤ ((mx 7).cluster 0).t ∧
    ((mx 7).cluster 0).matrix.doneAt ≤ ((mx 7).cluster 0).t ∧ (mx 7).subj.sub ≠ 1 ∧ (cmd 7 0).dev = on.devNo ∧ (cmd 7 0).tag = some 63 := by
  refine ⟨fun _ => ⟨rfl, rfl, rfl, Nat.le_refl _⟩, ⟨_, order_passes (order_capability _ _ rfl rfl)⟩, fun h => absurd h.1.1 (by decide), fun op h => ?_,
    blocks_of (.inl rfl) (by decide) (by decide +kernel), blocks_of (.inr rfl) (by decide) (by decide +kernel), by decide, by decide +kernel, rfl, rfl,
    by decide, by decide, by decide, by decide, rfl⟩
  exact ⟨rfl, rfl, by simp only [run_, decide_eq_false_iff_not]; omega, rfl⟩

/-! ### Witnesses: barriers, link values, monitors, fences and MEMOP -/

/-- A number of 127 and of 128, a core that is no member, counts of 0, 1, 65535 and 65536, three records and four, a phase that has passed
and one that has not. A cell in use by the group, at its last arrival but one and at its last, and by another. Answers to each. -/
theorem test_wit_BarriersCountAndHold :
    let s := fun (n e : Nat) => rg [(5, e), (6, n)] (grp [0, 1] on)
    let r : BarRec := { group := 9, bar := 1, phase := 0 }
    let held := fun (n : Nat) => th (fun t => { t with records := List.replicate n r }) (s 127 1)
    let late := th (fun t => { t with wo := true, heldWait := some { group := 9, bar := 127, phase := 65535 } }) (s 127 1)
    let cell := fun (g n : Nat) => kr (fun k => { k with cells := [(127, { group := some g, expected := 2, count := n })] }) (grp [0, 1] on)
    let busy := kr (fun k => { k with cells := [(127, { group := some 9, expected := 2, count := 0, nextAt := on.cyc 0 + 1 })] }) (grp [0, 1] on)
    let again := kr (fun k => { k with mirrors := [(127, 1)], mirrorAt := on.cyc 0, mirrorWas := [(127, 0)] }) (th (fun t => { t with hold := .again }) late)
    let waits := fun (i : Instr) => { ev (.barAns 0 0 .done) (th (fun t => { t with hold := .answer, pend := some { instr := i, left := 1 } }) (s 127 1)) with
      subj := { sub := 1 } }
    (Runs (s 127 1) 0 0 (5 :: barRegs (.reg 6)) [] ∧ ((s 127 1).barNum 0 0 (.reg 6)).toNat = 127 ∧ 127 < ((s 128 1).barNum 0 0 (.reg 6)).toNat) ∧
    (∀ j, j < 4 → (look (on.core 0).memb j 0).getLsbD 32 = true → (look (on.core 0).memb j 0).toNat % 256 ≠ 9) ∧
    (((s 127 1).core 0).membOf 9 = some 0 ∧ (s 127 1).members 9 = some (0 :: [1])) ∧
    (((s 127 1).reg64 0 0 5).toNat = 1 ∧ ((s 127 65535).reg64 0 0 5).toNat ≤ 65535 ∧ ((s 127 0).reg64 0 0 5).toNat = 0 ∧
      65535 < ((s 127 65536).reg64 0 0 5).toNat) ∧
    (((held 3).thread 0 0).records.length < 4 ∧ 4 ≤ ((held 4).thread 0 0).records.length ∧ ((held 3).thread 0 0).posted = 0 ∧
      (((held 4).thread 0 0).records.filter fun x => !(decide (x.group = 9) && decide (x.bar = 127))) = ((held 4).thread 0 0).records ∧
      0 < ((th (fun t => { t with posted := 1 }) (held 3)).thread 0 0).posted) ∧
    ((late.thread 0 0).wo = true ∧ look (late.core 0).mirrors (128 * 0 + 127) 0 ≠ 65535 ∧ ((s 127 1).thread 0 0).wo = false ∧
      (again.thread 0 0).hold = .again ∧ (again.core 0).mirrorAt = again.cyc 0 ∧ look (again.core 0).mirrorWas (128 * 0 + 127) 1 = 0) ∧
    (NoInvalidations (s 127 1) ∧ ((cell 9 0).core 0).refused = [] ∧ (look (busy.core 0).cells 127 {}).nextAt > busy.cyc 0 ∧
      (look ((cell 9 0).core 0).cells 127 {}).nextAt ≤ (cell 9 0).cyc 0 ∧ (cell 9 0).agenda = [] ∧
      ((late.thread 0 0).heldWait.toList.find? fun r => decide (r.group = 9) && decide (r.bar = 127)) =
        some { group := 9, bar := 127, phase := 65535 }) ∧
    (((cell 9 0).core 0).pre = .running ∧ (look ((cell 9 0).core 0).cells 127 {}).group = some 9 ∧ (look ((cell 9 0).core 0).cells 127 {}).count = 0 ∧
      (look ((cell 9 0).core 0).cells 127 {}).count + 1 ≠ (look ((cell 9 0).core 0).cells 127 {}).expected ∧
      (look ((cell 9 1).core 0).cells 127 {}).count + 1 = (look ((cell 9 1).core 0).cells 127 {}).expected ∧
      (look ((cell 8 1).core 0).cells 127 {}).group ≠ some 9) ∧
    Delivers (ev (.barArrive 9 127 0 1 2) (cell 9 0)) (.barArrive 9 127 0 1 2) ∧ Delivers (ev (.barInit 9 127 0 2 1 2) (cell 9 0)) (.barInit 9 127 0 2 1 2) ∧
    Delivers (ev (.phase 0 9 127 4) (grp [0, 1] on)) (.phase 0 9 127 4) ∧
    (∀ i, WaitsAt (waits i) 0 0 i ∧ Delivers (waits i) (.barAns 0 0 .done) ∧ (waits i).subj.sub = 1) :=
  ⟨⟨runs_of (by decide), by decide⟩, by decide, by decide, by decide, by decide, by decide, ⟨noInv_of rfl, by decide⟩, by decide, rfl, rfl, rfl,
    fun _ => ⟨⟨rfl, _, rfl, rfl⟩, rfl, rfl⟩⟩

/-- The keeper and another core, a count at its end, a scale that is none, the least and the largest product that is one. A queue of 15
values and of 16, one seen and one not. -/
theorem test_wit_LinkValuesReachMembers :
    let s := fun (x : Nat) => rg [(5, x), (6, 0x3F800000)] (grp [0, 1] on)
    let done := { (s 0x3F800000) with groups := [(9, { tenant := 1, members := [0], seq := 2 ^ 32 - 1 })] }
    let w := fun (acks : Nat) => { ev (.linkAck 0 0 7) (th (fun t => { t with hold := .answer, acks := acks, pend := some { instr := .skMul 4 5 6 9, left := 1 } }) (s 0)) with
      subj := { sub := 1 } }
    let q := fun (n : Nat) => ev (.linkVal 0 9 7 1 2) (kr (fun k => { k with links := [(0, List.replicate n (BitVec.ofNat 64 (2 ^ 32)))] }) (grp [0, 1] on))
    (Runs (s 0x3F800000) 0 0 [4, 5, 6] [4] ∧ ((s 0).cluster 0).keeper = 0 ∧ ((cr (fun k => { k with keeper := 15 }) (s 0)).cluster 0).keeper ≠ 0) ∧
    (find (s 0).groups 9 = some { tenant := 1, members := [0, 1] } ∧ (s 0).tenantOf 0 = some 1 ∧ find on.groups 9 = none ∧
      find done.groups 9 = some { tenant := 1, members := [0], seq := 2 ^ 32 - 1 }) ∧
    (∀ x ∈ [2 ^ 23, 255 * 2 ^ 23 - 1], GoodScale x ∧ GoodScale 0x3F800000 ∧ GoodScale (linkProduct x 0x3F800000)) ∧ ¬ GoodScale 0 ∧ ¬ GoodScale (255 * 2 ^ 23) ∧
    (∀ n, WaitsAt (w n) 0 0 (.skMul 4 5 6 9) ∧ ((w n).thread 0 0).acks = n ∧ Delivers (w n) (.linkAck 0 0 7) ∧ HasEntry (w n) 0 0 4) ∧
    (Delivers { ev (.skReq 0 0 9 7) (s 0) with subj := { sub := 1 } } (.skReq 0 0 9 7) ∧ Delivers (q 15) (.linkVal 0 9 7 1 2)) ∧
    (NoInvalidations (s 0x3F800000) ∧ ((q 15).core 0).pre = .running ∧ ((q 15).core 0).refused = []) ∧
    (((q 15).core 0).membOf 9 = some 0 ∧ (look ((q 15).core 0).links 0 []).length < 16 ∧ (look ((q 16).core 0).links 0 []).length = 16 ∧
      ((look ((q 1).core 0).links 0 []).filter fun v => decide (look ((q 1).thread 0 0).seen 0 0 < v.toNat / 2 ^ 32)) = BitVec.ofNat 64 (2 ^ 32) :: [] ∧
      ((look ((q 0).core 0).links 0 []).filter fun v => decide (look ((q 0).thread 0 0).seen 0 0 < v.toNat / 2 ^ 32)) = []) ∧ Runs (s 0) 0 0 [4] [4] :=
  ⟨⟨runs_of (by decide), by decide⟩, by decide, by unfold GoodScale; decide, by unfold GoodScale; decide, by unfold GoodScale; decide,
    fun _ => ⟨⟨rfl, _, rfl, rfl⟩, rfl, rfl, hasEntry_of rfl⟩, ⟨rfl, rfl⟩, ⟨noInv_of rfl, by decide⟩, by decide, runs_of (by decide)⟩

/-- A line of the core's own slice, an address beyond GLOBAL; a monitor armed, fired and disarmed; an ARM that is answered; a notice of its
registration and of another; a store outstanding, and an invalidation, of the thread's and of another's to its stack. -/
theorem test_wit_MonitorsAndFences :
    let s := rg [(5, 192)] (own on)
    let m := fun (x : Monitor) => th (fun t => { t with monitor := x }) s
    let waits := th (fun t => { t with monitor := .armed 1 7, monBefore := some (.fired 1 5), hold := .answer
                                       pend := some { instr := .monArm 5, left := 1 } }) s
    let held := { ev (.accAns (acc0 192 .watch) {}) waits with subj := { sub := 1 } }
    let bad := { ev (.accAns (acc0 192 .watch) { fault := some .page }) held with subj := { sub := 1 } }
    let inv := { s with items := [(3, .copyInv 0 5 false (.thread 1 0) 2)] }
    (Runs s 0 0 [4, 5] [4] ∧ globalLayout (s.reg64 0 0 5).toNat = true ∧ globalLayout ((rg [(5, 2 ^ 61)] s).reg64 0 0 5).toNat = false) ∧
    OwnSlice s 0 (untagged (s.reg64 0 0 5)) 1 ∧
    (((m (.fired 3 1)).thread 0 0).monitor = .fired 3 1 ∧ (s.thread 0 0).monitor = .disarmed ∧ ((m (.armed 1 7)).thread 0 0).monitor = .armed 1 7) ∧
    (Delivers held (.accAns (acc0 192 .watch) {}) ∧ Delivers bad (.accAns (acc0 192 .watch) { fault := some .page }) ∧
      (acc0 192 .watch).uid = (held.thread 0 0).uid ∧ (held.thread 0 0).monitor = .armed 1 7 ∧ (bad.thread 0 0).monBefore = some (.fired 1 5)) ∧
    HeldFor held 0 0 (.monArm 5) 1 ∧
    (∀ r, Delivers { ev (.monFire 0 0 r 1) (m (.armed 1 7)) with subj := { sub := 1 } } (.monFire 0 0 r 1)) ∧ Runs s 0 0 [] [] ∧
    ((0 < ((th (fun t => { t with posted := 1 }) s).thread 0 0).posted ∧ 0 < ((th (fun t => { t with invals := 1 }) s).thread 0 0).invals ∧
      (s.thread 0 0).posted = 0 ∧ (s.thread 0 0).invals = 0) ∧ (inv.thread 0 0).mark = 0 ∧ (3, .copyInv 0 5 false (.thread 1 0) 2) ∈ inv.items ∧
      NoInvalidations s) :=
  ⟨⟨runs_of (by decide), by decide⟩, ⟨by decide, by decide, ⟨_, [], rfl, by decide⟩, by decide⟩, by decide, ⟨rfl, rfl, by decide⟩, ⟨rfl, _, rfl, rfl, rfl, rfl, rfl⟩, fun _ => rfl,
    runs_of (by decide), by decide, by decide, List.mem_singleton_self _, noInv_of rfl⟩

/-- An address beyond GLOBAL, one off a sector, a length of 2^24 and of one more, of one byte and of none; at the home a line with a valid
sector, one that is poisoned, and a dirty one; the answers. -/
theorem test_wit_MemopsActAtTheHome :
    let s := fun (ea len : Nat) => rg [(5, ea), (6, len)] (own on)
    let a := fun (op : AccOp) => acc0 144 op
    let t := fun (op : AccOp) => ev (.acc (a op)) (slice [(0, line0)])
    let dirty : Line := { line0 with sectors := List.replicate 4 { valid := true, dirty := true, poison := true } }
    let h := fun (i : Instr) => { ev (.accAns (acc0 0 .ltag) {}) (th (fun t => { t with hold := .answer, pend := some { instr := i, left := 1 } }) (s 0 1)) with
      subj := { sub := 1 } }
    (Runs (s 48 1) 0 0 [4, 5, 6] [4] ∧ globalLayout ((s (2 ^ 61) 1).reg64 0 0 5).toNat = false ∧ globalLayout ((s 48 1).reg64 0 0 5).toNat = true ∧
      ((s 49 1).reg64 0 0 5).toNat % 2 ^ 48 % 48 ≠ 0 ∧ ((s 48 1).reg64 0 0 5).toNat % 2 ^ 48 % 48 = 0 ∧ 2 ^ 24 < ((s 0 (2 ^ 24 + 1)).reg64 0 0 6).toNat ∧
      ((s 0 (2 ^ 24)).reg64 0 0 6).toNat ≤ 2 ^ 24 ∧ ((s 0 0).reg64 0 0 6).toNat = 0 ∧ 192 * (48 / 192 + 0) < 48 + 1) ∧
    OwnSlice (s 48 1) 0 (untagged ((s 48 1).reg64 0 0 5)) 1 ∧ OwnSlice (s 48 1) 0 (BitVec.ofNat 64 (192 * 0)) 1 ∧
    (∀ op, Delivers (t op) (.acc (a op)) ∧ AtItsHome (t op) (a op)) ∧ (homeBankSet ((slice []).cluster 0).bankrole ((a .ltag).pa / 192) 0 = some (0, 0) ∧
      line0.sectors[(a .ltag).pa % 192 / 48]? = some { valid := true }) ∧
    (∃ y ∈ dirty.sectors, y.valid = true ∧ y.dirty = true) ∧ (∀ y ∈ line0.sectors, y.valid = true) ∧
    (∀ i, HeldFor (h i) 0 0 i 1 ∧ Delivers (h i) (.accAns (acc0 0 .ltag) {}) ∧ HasEntry (h i) 0 0 4) :=
  ⟨⟨runs_of (by decide), by decide⟩, ⟨by decide, by decide, ⟨_, [], rfl, by decide⟩, by decide⟩, ⟨by decide, by decide, ⟨_, [], rfl, by decide⟩, by decide⟩,
    fun _ => ⟨rfl, home0 _ _ _⟩, by decide, by decide, by decide,
    fun _ => ⟨⟨rfl, _, rfl, rfl, rfl, rfl, rfl⟩, rfl, hasEntry_of rfl⟩⟩

/-! ### Witnesses: faults of the fetch, twins, pre-emption -/

/-- The slot's line: the words given, at its PC. -/
def ln (ws : List (BitVec 16)) (s : State) : State :=
  th (fun t => { t with line := some (64, ws.flatMap fun w => [BitVec.ofNat 8 w.toNat, BitVec.ofNat 8 (w.toNat / 256)]) }) s

/-- Its line is the two words and zeros, and it has a handler. -/
def lineOf (h k : Nat) : State := th (fun t => { t with thandler := 130 }) (ln (BitVec.ofNat 16 h :: BitVec.ofNat 16 k :: List.replicate 30 0) on)
/-- A line of one head of 16 bits is not malformed. -/
theorem line_sound : ¬ Malformed ((lineOf 2048 0xB803).thread 0 0) := by
  rintro (h | h | h | ⟨i, h1, h2, h3⟩)
  · exact absurd h (by decide)
  · exact absurd h (by decide)
  · exact absurd h (by decide)
  · have k : ∀ i, i < 32 → 1 < i → halfword ((lineOf 2048 0xB803).thread 0 0) i = 0 := by decide
    exact h3 (k i (by omega) (Nat.lt_of_le_of_lt (by decide) h1))

/-- A faulted fetch, a header with a reserved bit, heads 0 and 2 of a line of one, and NOP with a reserved bit; each of a thread that has a
handler and is not there. A line whose fault is POISON. -/
theorem test_wit_FetchFaultsTrap :
    let at_ := fun (p : Nat) => th (fun t => { t with pc := BitVec.ofNat 64 p }) (lineOf 2048 0)
    let faulted := th (fun t => { t with lineFault := some .page }) (lineOf 2048 0)
    FetchFault (faulted.thread 0 0) .page 0 66 ∧ FetchFault ((lineOf 2049 0).thread 0 0) .illine 2049 64 ∧
    FetchFault ((at_ 68).thread 0 0) .illine 2048 64 ∧ FetchFault ((at_ 64).thread 0 0) .illine (2048 * 2 ^ 16 + 2048) 64 ∧
    FetchFault ((lineOf 2048 0xB803).thread 0 0) .illegal 0xB803 0 ∧
    (∀ s ∈ [faulted, lineOf 2049 0, at_ 68, at_ 64, lineOf 2048 0xB803], s.curr = true ∧ s.curCore = 0 ∧ s.curSlot = 0 ∧
      headAddress (s.thread 0 0).thandler = true ∧ (s.thread 0 0).pc ≠ (s.thread 0 0).thandler ∧ (s.thread 0 0).sup = true) ∧
    ((th (fun t => { t with lineFault := some .poison }) (lineOf 2048 0)).thread 0 0).lineFault = some .poison := by
  refine ⟨.inl ⟨rfl, by decide, rfl, rfl⟩, .inr (.inl ⟨rfl, .inl (.inr (.inl (by decide))), rfl, by decide, by decide⟩),
    .inr (.inl ⟨rfl, .inr (.inl (by decide)), rfl, by decide, by decide⟩), .inr (.inl ⟨rfl, .inr (.inr (by decide)), rfl, by decide, by decide⟩),
    .inr (.inr ⟨rfl, line_sound, by decide, by decide, by decide, rfl, by decide, rfl⟩), by decide, rfl⟩

/-- A bit of a slot in use and one of a free slot; entries that agree and that differ; a hold past its limit, told and not, and within it. -/
theorem test_wit_TwinsAndWatchdog :
    let w := fun (v : Nat) => { sj 0 0 on with subj := { val := BitVec.ofNat 64 v } }
    let changed := fun (s : State) (j : Nat) => j < 15 ∧ (s.column 0).twinctl.getLsbD j ≠ s.subj.val.getLsbD j
    let free := fun (s : State) (j : Nat) => ∀ c ∈ [2 * 0, 2 * 0 + 1], (s.slot c j).st = .free ∧ (s.slot c j).freeAt ≤ s.cyc (2 * 0)
    let p := fun (b : Word) => ({ sj 0 0 on with columns := [(0, { twins := [(0, { lead := some [1, 2], trail := some [1, b] })] })] } : State)
    let h := fun (told : Bool) => sj 0 0 (kr (fun k => { k with wdog := 2 ^ 16 }) (cr (fun q => { q with t := 1025 })
      (th (fun t => { t with holding := some (.waitt, 0, told) }) on)))
    (∃ j, changed (w 1) j ∧ ¬ free (w 1) j) ∧ (∀ j, changed (w 2) j → free (w 2) j) ∧
    (∀ b, ((p b).pair 0 0).lead = some [1, 2] ∧ ((p b).pair 0 0).trail = some [1, b]) ∧ ([1, 2] : List Word) = [1] ++ 2 :: [] ∧
    ([1, 3] : List Word) = [1] ++ 3 :: [] ∧
    (∀ b, ((h b).slot 0 0).st = .run ∧ ((h b).core 0).pre = .running ∧ ((h b).thread 0 0).holding = some (.waitt, 0, b)) ∧
    1024 * (((h false).core 0).wdog.toNat / 2 ^ 16 % 2 ^ 16) = 1024 ∧ 0 + 1024 < (h false).cyc 0 := by
  refine ⟨⟨0, by decide⟩, ?_, fun _ => ⟨rfl, rfl⟩, rfl, rfl, fun _ => ⟨rfl, rfl, rfl⟩, by decide, by decide⟩
  rintro j ⟨hj, h⟩
  have k : ∀ j < 15, (({ sj 0 0 on with subj := { val := BitVec.ofNat 64 2 } } : State).column 0).twinctl.getLsbD j ≠
      ({ sj 0 0 on with subj := { val := BitVec.ofNat 64 2 } } : State).subj.val.getLsbD j →
      ∀ c ∈ [2 * 0, 2 * 0 + 1], (({ sj 0 0 on with subj := { val := BitVec.ofNat 64 2 } } : State).slot c j).st = .free ∧
        (({ sj 0 0 on with subj := { val := BitVec.ofNat 64 2 } } : State).slot c j).freeAt ≤ on.cyc (2 * 0) := by decide
  exact k j hj h

/-- PREEMPT with both areas and without one, in other states; a stop that has passed a boundary and one that has not; a core that owes
nothing and one that owes a command; a block's turn and its write; the last block. -/
theorem test_wit_PreemptionSavesAndRestores :
    let s := fun (p : PreSt) => sj 0 0 (kr (fun k => { k with pre := p, savebase := 2 ^ 63, spillbase := 2 ^ 63, stopAt := 5 }) on)
    let at_ := fun (p : PreSt) (t : Nat) => cr (fun q => { q with t := t }) (s p)
    let d := ev (.preempt 0) (s .running)
    let r := ev (.resume 0) (s .preempted)
    let wr := fun (n : Nat) => { s .saving with subj := { sub := 1, item := n } }
    let zeros := fun (n : Nat) => List.replicate n (List.replicate 64 (0 : Byte))
    let rst := fun (first : List Byte) => { kr (fun k => { k with areaIn := zeros 1024 ++ [first] ++ zeros 146 }) (s .restoring) with subj := { item := 1171 } }
    let rec_ := rst ([66, 0, 0, 0, 0, 0, 0, 0, 1, 0, 0, 0, 0, 0, 0, 0x80] ++ List.replicate 48 0)
    let blocks := fun (q : State) => (q.core 0).areaIn ++ [q.tierRead (savePlace (q.core 0) 1171).1 (savePlace (q.core 0) 1171).2 64]
    let m : Msg := { remop := false, srcDev := 0, srcCore := 0, srcSlot := 0, world := true, tenant := some 1, dstDev := 0, dstCore := 0, channel := 0, words := [] }
    let sp := { kr (fun k => { k with spill := [.msg m] }) (s .restoring) with subj := { sub := 1 } }
    Delivers d (.preempt 0) ∧ ((d.core 0).pre = .running ∧ (d.core 0).savebase.getLsbD 63 = true ∧ (d.core 0).spillbase.getLsbD 63 = true) ∧
    ((kr (fun k => { k with savebase := 0 }) d).core 0).savebase.getLsbD 63 = false ∧ ((s .stopping).core 0).pre ≠ .running ∧
    (((at_ .stopping 16).core 0).pre = .stopping ∧ (at_ .stopping 16).cyc 0 % 16 = 0 ∧ ((at_ .stopping 16).core 0).stopAt < (at_ .stopping 16).cyc 0) ∧
    (at_ .stopping 15).cyc 0 % 16 ≠ 0 ∧ (at_ .stopping 0).cyc 0 ≤ ((at_ .stopping 0).core 0).stopAt ∧
    ((s .draining).subj.sub ≠ 1 ∧ ((s .draining).core 0).pre = .draining ∧ Settled (s .draining) 0) ∧
    ((kr (fun k => { k with mxOut := 1 }) (s .draining)).core 0).mxOut ≠ 0 ∧
    ((s .saving).subj.sub ≠ 1 ∧ ((at_ .saving 15).core 0).pre = .saving ∧ (at_ .saving 15).cyc 0 % 16 = 15 ∧ ((at_ .saving 15).core 0).saveNext < 4096) ∧
    ((wr 0).subj.sub = 1 ∧ (wr 0).subj.item = 0 ∧ (wr 4095).subj.item = 4095 ∧ ((wr 1171).slot 0 0).st = .run ∧ ((wr 1171).thread 0 0).limit = 128 ∧
      (wr 1171).subj.item = 1024 + 148 * 0 + 20 + 127) ∧
    Delivers r (.resume 0) ∧ (r.core 0).pre = .preempted ∧ (d.core 0).pre ≠ .preempted ∧
    ((rec_.core 0).pre = .restoring ∧ rec_.subj.sub = 0 ∧ rec_.subj.item = 1024 + 148 * 0 + 147 ∧ (rec_.core 0).areaIn.length = 1171 ∧
      (∀ x ∈ (rec_.core 0).areaIn, x.length = 64) ∧ ctxOk (((blocks rec_).drop (1024 + 148 * 0)).flatMap id) = true ∧
      readWord (blocks rec_) (8192 + 1184 * 0 + 1) = 2 ^ 63 + 1 ∧ readWord (blocks (rst (List.replicate 64 0))) (8192 + 1184 * 0 + 1) = 0) ∧
    ((at_ .restoring 5).cyc 0 % 16 ≠ 0 ∧ (at_ .restoring 16).cyc 0 % 16 = 0 ∧ (sp.core 0).saveNext < (sp.core 0).spill.length) ∧
    ((sp.core 0).pre = .restoring ∧ sp.subj.sub = 1 ∧ ((s .restoring).core 0).spill.length ≤ ((s .restoring).core 0).saveNext ∧
      (sp.core 0).spill = .msg m :: [] ∧ (sp.core 0).saveNext = 0 ∧ (sp.core 0).arrivals.length < 64) := by
  refine ⟨rfl, by decide, by decide, by decide, by decide, by decide, by decide, ⟨by decide, by decide, ?_⟩, by decide, by decide, by decide, rfl, rfl,
    by decide, ⟨rfl, rfl, rfl, by decide +kernel, by decide +kernel, by decide +kernel, by decide +kernel, by decide +kernel⟩, by decide,
    rfl, rfl, by decide, rfl, rfl, by decide⟩
  refine ⟨rfl, rfl, rfl, rfl, by decide, fun sl => ?_⟩
  rcases sl with _ | n
  · exact ⟨rfl, fun _ => ⟨rfl, rfl⟩⟩
  · exact ⟨rfl, fun _ => ⟨rfl, rfl⟩⟩

/-! ### Witnesses: the fabric and the platform -/

/-- A packet of tenant 1's clusters from 0 to 1, with a header at a router. -/
def pk (at_ e n : Nat) (esc : Bool) (s : State) : State :=
  { s with packets := [(0, { edition := e, seq := n, len := 3, cls := 0, esc := esc, scl := 0, sep := 0, dcl := 1, dep := 0, content := 0, at_ := at_ })]
           items := [(0, .crownRel 0 0)], subj := {}, nextId := 1, curr := false }
/-- Its stream. -/
def st01 : Stream := { scl := 0, sep := 0, dcl := 1, dep := 0, cls := 0 }

/-- A header at its destination, on its way, with its output dead, in the escape channel with its output alive and dead, of the next edition
and of an old one; a multicast sector with a destination here and one further on; a packet that is next, one that is early, and one
delivered before, for a home and for another unit; an acknowledgement. The link of port 0 at its eighth failed retry, without training,
silent, dead, and heard of; charts and the turn. -/
theorem test_wit_PacketsAndDeadLinks :
    let dead := fun (s : State) => { s with routers := [(0, { dead := [0] })] }
    let open_ := fun (s : State) (o : Nat) => o < 4 ∧ (s.chartOf 0 1).allowed / 2 ^ o % 2 = 1 ∧ productive 0 1 o = true ∧
      o ∉ (s.router 0).dead ∧ (neighbour 0 o).isSome = true ∧ 0 < s.adaptiveFree 0 o 0
    let pkt := fun (at_ e n : Nat) (esc : Bool) => ({ edition := e, seq := n, len := 3, cls := 0, esc := esc, scl := 0, sep := 0, dcl := 1, dep := 0
                                                      content := 0, at_ := at_ } : Packet)
    let cast : Packet := { pkt 1 0 0 false with cast := 5, more := [{ dcl := 2, dep := 8, seq := 0, content := 0 }] }
    let down := fun (heard : List Nat) (fd : Option (List Nat)) => ({ ev (.linkDown 0 0) on with subj := { sub := 1 }, fmHeard := heard, fmDead := fd } : State)
    let ack : State := { on with subj := { item := 3, val := st01.word } }
    let lk := fun (n v : Nat) => ({ on with routers := [(0, { retries := [(0, n)] })], subj := { val := BitVec.ofNat 64 v } } : State)
    let ch : List (Nat × ChartEntry) := [(1, { allowed := 2, esc := 1 })]
    let inst := fun (all : Bool) => ({ on with fmDead := some [0], subj := {}, routers := (List.range 256).map fun k => (k, { shadowAck := all }) } : State)
    let turn : State := { pk 0 0 0 false on with routers := [(0, { shadow := some ch })], streams := [{ id := st01, retry := [pkt 0 0 0 false] }] }
    (∀ a e n x, find (pk a e n x on).packets (pk a e n x on).subj.item = some (pkt a e n x)) ∧
    (cast.cast ≠ 0 ∧ cast.edition = (on.router cast.at_).edition ∧ 0 < (pk 0 0 0 false on).nextId ∧ cast.branch.dcl = cast.at_ ∧
      cast.more.map (fun b => b.dcl) = [2]) ∧
    ((rowOf (.crownRel 0 0)).1 = .crownRelease ∧ (rowOf (.barArrive 9 1 0 0 0)).1 = .barrierArrival) ∧
    (0 = (on.router 1).edition ∧ (pkt 1 0 0 false).at_ = (pkt 1 0 0 false).dcl ∧ (pkt 0 0 0 false).at_ ≠ (pkt 0 0 0 false).dcl) ∧
    open_ (pk 0 0 0 false on) 0 ∧ (∀ o, ¬ open_ (dead (pk 0 0 0 false on)) o) ∧
    ((((dead on).chartOf 0 1).esc ∈ ((dead on).router 0).dead) ∧ (on.chartOf 0 1).esc ∉ (on.router 0).dead ∧ 0 < on.escapeFree 0 (on.chartOf 0 1).esc ∧
      neighbour 0 (on.chartOf 0 1).esc = some 1) ∧ OrderedRoute [0] 2 1 ∧
    TakenAtOnce on (pkt 1 0 0 false) ∧ ¬ TakenAtOnce (on.onCluster 1 fun q => { q with up := true, phase := 1 }) (pkt 1 0 0 false) ∧
    (1 ≠ (on.router 0).edition ∧ 1 = ((on.router 0).edition + 1) % 256 ∧ 255 ≠ ((on.router 0).edition + 1) % 256) ∧
    ((0 + 65536 - (on.stream st01).expect % 65536) % 65536 = 0 ∧ 0 < (5 + 65536 - (on.stream st01).expect % 65536) % 65536 ∧
      32768 ≤ (32768 + 65536 - (on.stream st01).expect % 65536) % 65536 ∧ (on.stream st01).early = [] ∧ (pkt 1 0 0 false).stream = st01) ∧
    (ack.subj.val = st01.word ∧ ack.subj.sub = (ack.router ack.subj.unit).edition ∧ (ack.stream st01).waiting = []) ∧
    ((lk 7 1).subj.val = 1 ∧ look ((lk 7 1).router 0).retries 0 0 + 1 = 8 ∧ look ((lk 6 1).router 0).retries 0 0 + 1 < 8 ∧ (lk 6 0).subj.val = 0 ∧
      (lk 0 2).subj.val = 2 ∧ (lk 0 3).subj.val = 3 ∧ (lk 0 3).subj.item < 4096) ∧
    ((∀ x y, Delivers (down x y) (.linkDown 0 0)) ∧ (down [0] none).subj.sub = 1 ∧ 4 * 0 + 0 ∈ (down [0] none).fmHeard ∧
      4 * 0 + 0 ∉ (down [] (some [])).fmHeard ∧ (down [] none).fmDead = none ∧ (down [] (some [])).fmDead ≠ none) ∧
    (neighbour 0 0 = some 1 ∧ 0 ∉ (on.router 0).dead ∧ on.fmDead = none ∧ (inst true).fmDead ≠ none) ∧
    ((inst true).fmDead = some [0] ∧ ∀ k < 256, ((inst true).router k).shadowAck = true) ∧
    ((turn.router 0).shadow = some ch ∧ (turn.packets.map fun x => x.1).Nodup ∧ (turn.streams.map fun x => x.id).Nodup ∧
      (∃ x ∈ turn.packets, x.2.at_ = 0 ∧ x.2.via = none ∧ x.2.edition = (turn.router 0).edition ∧ x.1 < turn.nextId) ∧
      ∃ x ∈ turn.streams, x.id.scl = 0 ∧ x.id.far = none) := by
  refine ⟨fun _ _ _ _ => rfl, by decide, by decide, by decide, by decide, ?_, by decide, .hop 1 2 (by decide) (by decide) .there, .inr (.inl rfl),
    fun h => absurd h (by unfold TakenAtOnce; decide), by decide, by decide, by decide, by decide,
    ⟨fun _ _ => rfl, by decide⟩, by decide, ⟨rfl, by decide +kernel⟩,
    rfl, by decide, by decide, ⟨_, List.mem_singleton_self _, by decide⟩, ⟨_, List.mem_singleton_self _, by decide⟩⟩
  rintro o ⟨h1, _, h3, h4, _⟩
  have k : ∀ o < 4, productive 0 1 o = true → o = 0 := by decide
  exact h4 (by rw [k o h1 h3]; exact List.mem_singleton_self _)

/-- A frame of device 2 from port 0. -/
def fr (ty src e : Nat) (good : Bool) (x : List (Packet × Content)) : Frame :=
  { etherType := ty, version := 1, flags := 0, edition := e, src := src, dst := 0, srcMac := 7, port := 0, packets := x, goodFcs := good }

/-- Frames with a bad check sum, of PAUSE and of another type, from an unknown source, of an old, the next and the present edition; a failed
port and a failed path; an unacknowledged packet to another device. -/
theorem test_wit_FramesEnterAndLeave :
    let m : Msg := { remop := false, srcDev := 2, srcCore := 0, srcSlot := 0, world := true, tenant := none, dstDev := 0, dstCore := 0, channel := 0, words := [] }
    let p : Packet := { edition := 0, seq := 0, len := 3, cls := 0, scl := 0, sep := 0, dcl := 1, dep := 0, ddev := 2, content := 0 }
    let e : DevEntry := { mac := 7, ports := [0], tenant := 1, world := true }
    let s := fun (f : Frame) => ({ on with ethIn := [f], devMap := [(2, e)], sysEdition := 5 } : State)
    let known := fun (f : Frame) (e : DevEntry) => find (s f).devMap f.src = some e ∧ e.mac = f.srcMac ∧ f.port ∈ e.ports
    let right := fun (f : Frame) => f.goodFcs = true ∧ f.etherType = 0x8A7E ∧ f.dst = (s f).devNo ∧ f.version = 1 ∧ f.flags = 0 ∧ f.zero = 0 ∧
      f.count = f.packets.length ∧ f.dstMac = look ((s f).devMap.map fun x => (x.1, x.2.mac)) (s f).devNo 0
    let o : State := { on with sysChart := [(2, [0])], items := [(0, .msg m)], streams := [{ id := { st01 with far := some 2 }, retry := [p] }] }
    (∀ f, (s f).ethIn = f :: []) ∧ (fr 0x8A7E 2 5 false []).goodFcs = false ∧ (fr 0x8808 2 5 true []).etherType = 0x8808 ∧
    ((fr 0x0800 2 5 true []).goodFcs = true ∧ (fr 0x0800 2 5 true []).etherType ≠ 0x8808 ∧ (fr 0x0800 2 5 true []).etherType ≠ 0x8A7E) ∧
    (right (fr 0x8A7E 3 5 true []) ∧ ∀ e, ¬ known (fr 0x8A7E 3 5 true []) e) ∧ (∀ n, right (fr 0x8A7E 2 n true []) ∧ known (fr 0x8A7E 2 n true []) e) ∧
    (4 ≠ (s (fr 0x8A7E 2 4 true [])).sysEdition ∧ 4 ≠ ((s (fr 0x8A7E 2 4 true [])).sysEdition + 1) % 256 ∧
      6 = ((s (fr 0x8A7E 2 6 true [])).sysEdition + 1) % 256) ∧
    ((fr 0x8A7E 2 5 true [(p, .msg m)]).packets = [(p, .msg m)] ∧ (fr 0x8A7E 2 5 true [(p, .msg m)]).edition = (s (fr 0x8A7E 2 5 true [(p, .msg m)])).sysEdition ∧
      p.seq = (on.stream { p.stream with far := some 2 }).expect % 65536 ∧ (on.stream { p.stream with far := some 2 }).early = [] ∧ (p.seq + 65536 - 1 % 65536) % 65536 ≥ 32768 ∧ on.farIn = [] ∧
      (let q := { p with far := some (2, 0) }; q.stream = { p.stream with far := some 2 } ∧ ∃ y ∈ [(portCluster 0, q)], y.2.stream = q.stream ∧ y.2.seq = p.seq) ∧
      (acc0 0 .watch).homeCore / 16 = { p with dcl := 0 }.dcl) ∧
    (p.len ≤ 143 ∧ (fr 0x8A7E 2 5 true []).packets = [] ∧ ∃ q ∈ (fr 0x8A7E 2 5 true [({ p with len := 144 }, .msg m)]).packets, 143 < q.1.len) ∧
    ((sj 3 0 on).subj.sub ≠ 1 ∧ (sj 3 1 on).subj.sub = 1) ∧
    ∃ x ∈ o.streams, ∃ q ∈ x.retry, x.id.far ≠ none ∧ find o.items q.content = some (.msg m) ∧ 0 ∈ look o.sysChart q.ddev [] :=
  ⟨fun _ => rfl, rfl, rfl, by decide, ⟨by unfold fr; decide, fun _ h => nomatch h.1⟩, fun _ => ⟨⟨rfl, rfl, rfl, rfl, rfl, rfl, rfl, rfl⟩, rfl, rfl, List.mem_singleton_self _⟩, by decide,
    by decide, ⟨by decide, rfl, _, List.mem_singleton_self _, by decide⟩, by decide, _, List.mem_singleton_self _, _, List.mem_singleton_self _, by decide, rfl,
    by decide⟩

/-- A stage in flash, whatever its check answers, the end of the flash after a stage; a planned cluster of a stack that has booted, and not;
a neighbour that has asked for a frequency, and a swap of its quad that is pending. -/
theorem test_wit_ResetBootAndBringUp :
    let s := fun (n : Nat) => ({ State.reset with flash := [([1, 2], [3])], baseDies := [(0, { m := List.replicate 64 0, stage := n })] } : State)
    let b := fun (x up : Bool) => ({ cr (fun q => { q with up := up }) on with baseDies := [(0, { m := [], booted := x })], plan := [(0, { tenant := some 1 })] } : State)
    (∀ n, ((s n).stack 0).halted = false ∧ ((s n).stack 0).booted = false ∧ ((s n).stack 0).stage = n) ∧ (s 0).flash[0]? = some ([1, 2], [3]) ∧
    (Config.sigOk (sha512 [1, 2]) [3] = true ∨ Config.sigOk (sha512 [1, 2]) [3] = false) ∧ (s 1).flash[1]? = none ∧
    (((b true false).stack 0).booted = true ∧ ((b true false).cluster 0).up = false ∧ ((b false false).stack 0).booted = false ∧
      ((b true true).cluster 0).up = true ∧ ((b true false).quad 0).outer = [0xE4] ∧
      (({ b true false with quads := [(0, { outer := [0xE4, 0xE4] })] } : State).quad 0).outer ≠ [0xE4]) ∧
    (∀ k, k / 4 = 0 / 4 → k ≠ 0 → ((b true false).cluster k).mhzReq = none) ∧
    (((b true false).onCluster 1 fun q => { q with mhzReq := some 500 }).cluster 1).mhzReq ≠ none ∧ ¬ OuterSwapPending (b true false) 0 ∧
    OuterSwapPending { b true false with clusters := [(0, { Cluster.reset 0 with up := true, swap := true })]
                                         quads := [(0, { outerShadow := [0xE4, 0xE4], sout := 2 })] } 0 ∧ (b true false).planDev < 0xFFFE := by
  refine ⟨fun _ => ⟨rfl, rfl, rfl⟩, rfl, (Bool.eq_false_or_eq_true _), rfl, by decide, fun k h _ => ?_, by decide, fun h => absurd h.1 (by decide),
    ⟨rfl, by decide⟩, by decide⟩
  have h4 : k < 4 := by omega
  interval_cases k <;> rfl

/-- Each clock, a throttle to 400 and below with a supervisor to tell, a quiescent island and one with a thread; a core of it in another
tenant's group, in use at another core and not. -/
theorem test_wit_IslandsChange :
    let s := fun (v : Nat) => ({ sj 0 1 on with subj := { sub := 1, val := BitVec.ofNat 64 v } } : State)
    let q := fun (v : Nat) => kr (fun _ => {}) (s v)
    let two : State := { s 400 with quads := [(0, { outer := [0xE4, 0xE4] })] }
    let stray := fun (n : Nat) => ({ (q 1).onCore 16 (fun k => { k with cells := [(1, { group := some 9, count := n })] }) with
      groups := [(9, { tenant := 1, members := [16, 0] })] } : State)
    (((s 400).quad 0).outer = [0xE4] ∧ ((s 400).cluster (0 / 4 * 4)).swap = false ∧ (two.quad 0).outer ≠ [0xE4]) ∧
    (400 ≤ (s 400).subj.val.toNat ∧ (s 400).subj.val.toNat < ((s 400).cluster 0).mhzReq.getD ((s 400).cluster 0).mhz ∧ (s 399).subj.val.toNat < 400) ∧
    ((s 400).tenantOf 0 = some 1 ∧ (s 400).firstCluster 1 = some 0 ∧
      ((kr (fun k => { k with errlog := 4 }) (s 400)).core (16 * 0)).errlog.getLsbD 2 = true) ∧
    (((q 0).cluster 0).up = true ∧ (q 0).quiescent [0] = true ∧ (s 0).quiescent [0] = false) ∧
    ((s 15).subj.val.toNat / 16 = 0 ∧ (s 16).subj.val.toNat / 16 ≠ 0) ∧ (q 1).subj.sub = 1 ∧ (sj 0 0 (q 1)).subj.sub ≠ 1 ∧
    ((stray 1).quiescent [0] = true ∧ (stray 1).groupUsed 9 = true ∧ (stray 0).groupUsed 9 = false ∧ (stray 0).quiescent [0] = true ∧
      some 1 ≠ (some ((stray 0).subj.item % 16) : Option Nat) ∧ (stray 0).subj.sub = 1) := by
  decide +kernel

/-- A request of core 0's thread to the firmware: its code, with channel 2 of core 0 for the answer, and its operands. -/
def fwm (code : Nat) (ws : List Nat) : Msg :=
  { remop := false, srcDev := 0, srcCore := 0, srcSlot := 0, world := true, tenant := some 1, dstDev := 0xFFFE, dstCore := 0, channel := 0
    words := BitVec.ofNat 64 (code + 2 * 2 ^ 30) :: ws.map (BitVec.ofNat 64) }
/-- It is delivered, for the first time or at a later stage. -/
def fw (m : Msg) (stage : Nat) (s : State) : State := { ev (.msg m) s with subj := { sub := stage } }

/-- Such a request of a state where cluster 0 is tenant 1's is one that the firmware serves. -/
theorem fw_request {s : State} {code : Nat} {ws : List Nat} (hc : 1 ≤ code ∧ code ≤ 8) (ht : s.cluster 0 = on.cluster 0) (hb : s.fwBusy = []) :
    FwRequest (fw (fwm code ws) 0 s) (fwm code ws) 1 := by
  have w : ((fwm code ws).words.getD 0 0).toNat = code + 2 * 2 ^ 30 := by simp [fwm]; omega
  refine ⟨rfl, (by decide : (0 : Nat) < 1), rfl, rfl, ?_, by simp [fw, ev, hb], by rw [w]; omega, by rw [w]; omega⟩
  have e : ((fwm code ws).words.getD 0 0).toNat / 2 ^ 36 % 4096 / 16 = 0 := by rw [w]; omega
  have k : (fw (fwm code ws) 0 s).tenantOf 0 = on.tenantOf 0 := by
    have hcl : (fw (fwm code ws) 0 s).cluster 0 = on.cluster 0 := ht
    simp only [State.tenantOf, hcl]
  rw [e, k]
  decide

/-- An operand of the tenant and one of another; a core that can obey, one that cannot and one that has; a bank that is retired, one that may
not be, and one that may. -/
theorem test_wit_FirmwareServesCores :
    let s := fun (p : PreSt) => kr (fun k => { k with pre := p, savebase := 2 ^ 63, spillbase := 2 ^ 63 }) on
    let c := fun (r : Nat) (ls : List (Nat × Line)) => cr (fun q => { q with bankrole := BitVec.ofNat 64 r, lines := ls }) on
    let new := fun (k : Cluster) => k.bankrole ||| BitVec.ofNat 64 (3 * 4 ^ 0)
    (∀ p code ws, 1 ≤ code ∧ code ≤ 8 → FwRequest (fw (fwm code ws) 0 (s p)) (fwm code ws) 1) ∧
    (∀ p code ws, FwStage (fw (fwm code ws) 1 (s p)) (fwm code ws) 1) ∧
    (∀ x y, x < 2 ^ 64 → y < 2 ^ 64 → ((fwm 1 [x, y]).words.getD 1 0).toNat = x ∧ ((fwm 1 [x, y]).words.getD 2 0).toNat = y) ∧
    (on.tenantOf 0 = some 1 ∧ on.tenantOf 255 ≠ some 1) ∧
    (((s .running).cluster (0 / 16)).up = true ∧ ((s .running).core 0).pre = .running ∧ ((s .running).core 0).savebase.getLsbD 63 = true ∧
      ((s .running).core 0).spillbase.getLsbD 63 = true ∧ ((s .preempted).core 0).pre = .preempted) ∧
    (roleOf ((c 3 []).cluster 0).bankrole 0 = 3 ∧ roleOf ((c 0 []).cluster 0).bankrole 0 ≠ 3 ∧ ((c 0 []).cluster 0).roleChange = none) ∧
    RoleIsKept ((c 1 [(8, { l := 1, tier := false, dom := none, sectors := [], data := [] })]).cluster 0)
      (new ((c 1 [(8, { l := 1, tier := false, dom := none, sectors := [], data := [] })]).cluster 0)) 0 ∧
    ∀ b, ¬ RoleIsKept ((c 0 []).cluster 0) (new ((c 0 []).cluster 0)) b := by
  refine ⟨fun _ _ _ h => fw_request h rfl rfl, fun _ _ _ => ⟨rfl, (by decide : (0 : Nat) < 1), rfl, rfl⟩, fun x y hx hy => ?_, by decide, by decide,
    by decide, ⟨by decide, by decide, .inl ⟨by decide, _, List.mem_singleton_self _, by decide⟩⟩, ?_⟩
  · exact ⟨(BitVec.toNat_ofNat ..).trans (Nat.mod_eq_of_lt hx), (BitVec.toNat_ofNat ..).trans (Nat.mod_eq_of_lt hy)⟩
  · rintro b ⟨hb, h1, h2⟩
    have k : ∀ b < 32, roleOf ((cr (fun q => { q with bankrole := BitVec.ofNat 64 0, lines := [] }) on).cluster 0).bankrole b = 0 := by decide
    have k := k b hb
    rcases h2 with ⟨h, _⟩ | ⟨h, _⟩ <;> exact absurd (k.symm.trans h) (by decide)

/-- A map of no core, of core 0, and of core 16, which is another's; a map off the address space; an entry in use, a core in four other
groups, an entry of another tenant. A nonce read; a buffer that may be written and one that may not. -/
theorem test_wit_FirmwareWritesGroupsAndQuotes :
    let m := fwm 5 [9, 0]
    let s := fun (map : Memory) => fw m 0 { kr (fun k => { k with ptbase := 3 * 2 ^ 62 }) on with hbm := map, lp := [(0, 3), (7, 0xC0)] }
    let bs := fun (map : Memory) => ((s map).fwTaken m 1).fwRead m 0 512 8
    let four : List (Nat × Group) := [(1, { tenant := 1, members := [0] }), (2, { tenant := 1, members := [0] }), (3, { tenant := 1, members := [0] }), (4, { tenant := 1, members := [0] })]
    let used := kr (fun k => { k with cells := [(1, { group := some 9, count := 1 })] }) (s [])
    let others := fun (gs : List (Nat × Group)) => (gs.filter fun x => decide (x.1 ≠ 9) && x.2.members.contains 0).length
    bs [] = some (List.replicate 512 0) ∧ bs [(0, 1)] = some (1 :: List.replicate 511 0) ∧ bs [(2, 1)] = some (0 :: 0 :: 1 :: List.replicate 509 0) ∧
    ((s []).fwTaken m 1).fwRead m (2 ^ 61) 512 8 = none ∧ (s []).tenantOf (0 / 16) = some 1 ∧ (s []).tenantOf (16 / 16) ≠ some 1 ∧
    used.groupUsed 9 = true ∧ (s []).groupUsed 9 = false ∧ others four = 4 ∧ others [] < 4 ∧ (four.map fun x => x.1).Pairwise (· < ·) ∧
    (∃ e, find [((9 : Nat), ({ tenant := 2, members := [] } : Group))] 9 = some e ∧ e.tenant ≠ 1) ∧
    ((s []).fwTaken m 1).fwRead m 0 64 2 = some (List.replicate 64 0) ∧ ((s []).fwTaken m 1).fwMayWrite m 0 4096 65 = true ∧
    ((s []).fwTaken m 1).fwMayWrite m (2 ^ 61) 4096 65 = false := by
  refine ⟨by decide +kernel, by decide +kernel, by decide +kernel, by decide +kernel, by decide +kernel, by decide +kernel, by decide +kernel,
    by decide +kernel, by decide, by decide, by decide, ⟨_, rfl, by decide⟩, by decide +kernel, by decide +kernel, by decide +kernel⟩

/-- Storage of the tenant and none; an image with a group of another tenant's, of another MATHREV, of the same clusters and of others, quiescent; cores that can be
pre-empted, that cannot, and that have been; a page. -/
theorem test_wit_FirmwareSavesAndResets :
    let m := fwm 6 [2, 7, 77]
    let img := fun (rev : Nat) (quiet : Bool) (cls : List Nat) => ({ id := 77, storage := 2, tenant := 1, device := 0, stackCount := 4, mathrev := rev, quiescent := quiet
                                                                     clusters := cls.map fun cl => { cl := cl, idom := [], bankrole := 0, inner := [], outer := [], cols := [], banks := [], entries := [] }
                                                                     groups := [], areas := [], pages := [] } : CkImage)
    let s := fun (im : List CkImage) => fw m 0 { kr (fun k => { k with pre := .preempted }) on with images := im, devMap := [(2, { mac := 7, ports := [0], tenant := 1, world := true })] }
    let all : State := { fw m 1 { on with cores := (List.range 16).map fun c => (c, { pre := .preempted, ptbase := 3 * 2 ^ 62 }), lp := [(0, 3), (7, 0xC0)] } with subj := { sub := 1, val := 15 } }
    let found := fun (im : List CkImage) => im.find? fun x => decide (x.id = BitVec.ofNat 64 77) && decide (x.storage = 2) && decide (x.tenant = 1)
    (∀ im, FwRequest (s im) m 1) ∧ (∃ e, find (s []).devMap 2 = some e ∧ e.tenant = 1) ∧ (∀ e, find on.devMap 2 = some e → e.tenant ≠ 1) ∧ found [] = none ∧
    (∀ r q cls, found [img r q cls] = some (img r q cls)) ∧ (img 2 true []).mathrev ≠ 1 ∧ (img 1 false [0]).stackCount = 4 ∧
    ((img 1 false [0]).clusters.map fun x => x.cl) = [0] ∧ (s []).clustersOf 1 = [0] ∧ ((img 1 true [8]).clusters.map fun x => x.cl).Nodup ∧
    (∀ r q cls, (s []).pagesFit (img r q cls) 1 = true) ∧ (s []).groupsFit (img 1 true [0]) 1 = true ∧
    ({ s [] with groups := [(9, { tenant := 2, members := [] })] } : State).groupsFit { img 1 true [0] with groups := [(9, [0])] } 1 = false ∧ on.canPreempt 1 = false ∧ all.canPreempt 1 = true ∧ FwStage all m 1 ∧ AllPreempted all 1 ∧
    ∃ p ∈ all.tablesOf 1, p.leaf = true ∧ p.place.2.1 ≤ 0 ∧ 0 < p.place.2.1 + p.place.2.2 := by
  refine ⟨fun _ => fw_request (by decide) rfl rfl, ⟨_, rfl, rfl⟩, fun _ h => (nomatch h), rfl, fun _ _ _ => rfl, by decide, rfl, rfl, by decide +kernel,
    by decide, fun _ _ _ => rfl, by decide +kernel, by decide +kernel, by decide +kernel, by decide +kernel, ⟨rfl, (by decide : (0 : Nat) < 1), rfl, rfl⟩, ⟨by decide +kernel, by decide +kernel⟩,
    { tableLp := true, at_ := 0, level := 0, entry := 3 * 2 ^ 62 + 3 }, ?_, by decide, by decide, by decide⟩
  simp only [State.tablesOf, List.mem_eraseDups, List.mem_flatMap]
  refine ⟨3 * 2 ^ 62, by decide +kernel, ?_⟩
  simp only [State.tableEntries, List.mem_flatMap]
  exact ⟨0, by simp, by decide +kernel⟩

/-- A request to restore a page of an image to where a page of another tenant stands. -/
theorem test_wit_pages_do_not_fit :
    let m := fwm 6 [2, 7, 77]
    let p : CkPage := { tableLp := true, at_ := 0, level := 0, entry := 3 * 2 ^ 62 + 3 }
    let img : CkImage := { id := 77, storage := 2, tenant := 1, device := 0, stackCount := 4, mathrev := 1, quiescent := true, clusters := [], groups := []
                           areas := [], pages := [p] }
    let s : State := fw m 0 { on with
      clusters := on.clusters ++ [(1, { Cluster.reset 1 with up := true, tenant := 18 })]
      cores := [(16, { ptbase := 3 * 2 ^ 62 })], lp := [(0, 3), (7, 0xC0)], images := [img]
      devMap := [(2, { mac := 7, ports := [0], tenant := 1, world := true })] }
    FwRequest s m 1 ∧ (s.images.find? fun x => decide (x.id = BitVec.ofNat 64 77) && decide (x.storage = 2) && decide (x.tenant = 1)) = some img ∧
    (∃ e, find s.devMap 2 = some e ∧ e.tenant = 1) ∧ s.pagesFit img 1 = false := by
  refine ⟨fw_request (by decide) rfl rfl, rfl, ⟨_, rfl, rfl⟩, ?_⟩
  simp only [Bool.eq_false_iff, ne_eq, State.pagesFit, List.all_eq_true, List.mem_flatMap]
  intro h
  refine absurd (h (true, 0, 8) ⟨_, List.mem_singleton_self _, List.mem_cons_self⟩ (true, 0, 8)
    ⟨{ tableLp := true, at_ := 0, level := 0, entry := 3 * 2 ^ 62 + 3 }, ⟨2, by decide +kernel, ?_⟩, List.mem_cons_self⟩) (by decide)
  simp only [State.tablesOf, List.mem_eraseDups, List.mem_flatMap]
  refine ⟨3 * 2 ^ 62, by decide +kernel, ?_⟩
  simp only [State.tableEntries, List.mem_flatMap]
  exact ⟨0, by simp, by decide +kernel⟩

/-! ### Witnesses: the machine as a whole -/

/-- A turn of a thread with its line, whose words are an instruction, are illegal, or which is malformed, and with a faulted fetch; a hold
that ended; a slot that waits; an event. -/
theorem test_wit_StepRunsTheDecodedInstruction :
    let s := fun (h k : Nat) => { ln (BitVec.ofNat 16 h :: BitVec.ofNat 16 k :: List.replicate 30 0) on with agenda := [.issue 0 0], curr := false }
    let ld := fun (h k : Nat) => { s h k with agenda := [.turn 0 0] }
    let d := fun (h k : Nat) => decodeAt ((s h k).thread 0 0).lineCopy (((s h k).thread 0 0).pc.toNat % 64 / 2)
    (s 2048 0xB802).agenda = .issue 0 0 :: [] ∧ ((s 2048 0xB802).slot 0 0).st = .run ∧ ((s 2048 0xB802).core 0).pre = .running ∧
    ((s 2048 0xB802).thread 0 0).hold = .ready ∧ ((s 2048 0xB802).column (0 / 2)).twinctl.getLsbD 0 = false ∧
    ((s 2048 0xB802).thread 0 0).issueAt ≤ (s 2048 0xB802).cyc 0 ∧ ((s 2048 0xB802).thread 0 0).lineFault = none ∧
    ((s 2048 0xB802).thread 0 0).line ≠ none ∧ d 2048 0xB802 = .op .sysqExit ∧ d 2049 0xB802 = .illine ∧ d 2048 0xB803 = .illegal ∧
    ((th (fun t => { t with lineFault := some .perm }) (s 2048 0)).thread 0 0).lineFault = some .perm ∧
    ((th (fun t => { t with hold := .again }) (s 2048 0)).thread 0 0).hold = .again ∧ waitType (.waittAll false 5) = true ∧
    ((s 2048 0).slot 0 1).st ≠ .run ∧ (s 2048 0).cyc 0 < ((th (fun t => { t with issueAt := 16 }) (s 2048 0)).thread 0 0).issueAt ∧
    (∃ i x, State.reset.agenda.head? = some (.dev i x)) ∧
    ((ld 2048 0xB802).agenda = .turn 0 0 :: [] ∧ (ld 2048 0xB802).localLoad 0 0 = false) ∧
    (th (fun t => { t with line := (packLines [.ld 5 4 0 false .b32z .loc 0]).map fun l => (64, lineBytes l) }) on).localLoad 0 0 = true := by
  refine ⟨rfl, rfl, rfl, rfl, by decide, by decide, by decide, by decide, by decide, by decide, by decide, by decide, by decide, rfl, by decide,
    by decide, ⟨_, _, rfl⟩, ⟨rfl, by decide +kernel⟩, by decide +kernel⟩

theorem test_wit_EveryStepAnswers : encode .sysqExit ≠ none ∧ on.curr = true ∧ encode .arrival = none ∧
    ∀ i x, .dev i x ∈ State.reset.agenda → encode i = none ∧ i ≠ .illegalEncoding := by
  refine ⟨by decide, rfl, by decide, fun i x h => ?_⟩
  have k : i = .bootStage := by
    simp only [State.reset, List.mem_map, Move.dev.injEq] at h
    obtain ⟨_, _, rfl, _⟩ := h
    rfl
  exact k ▸ by decide

theorem test_wit_DecodeEncodeAgree : Instr.wf (.agen 1 2 3 (-64) 7) = true ∧ encode (.agen 1 2 3 (-64) 7) = some (0x3202, 0x040E0007) := by decide

theorem test_wit_StepsKeepMemoryCanonical : MemoriesAreCanonical State.reset ∧ ∃ t, step State.reset = .next t :=
  ⟨⟨rfl, rfl, rfl, rfl⟩, _, rfl⟩

theorem test_wit_ResetValues : (0x101, 2 ^ 32 + 32 * 2 ^ 24 + 2 ^ 17 + 2 ^ 8 + 32) ∈ resetCsrs 0 ∧ (0x106, 0xE4) ∈ resetCsrs 0 := by decide

theorem test_wit_MemoriesReadAndWrite : Memory.wf [(3, 5)] = true ∧ (0 : Nat) < ([7, 0] : List Byte).length := by decide

/-! ### Single steps on values of the spec's worked cases -/

/-- The number in register d after an instruction. -/
def res (i : Instr) (s : State) (d : Nat) : Option Nat := match exec i s with
  | .next t => some (t.reg 0 0 d).toNat
  | _ => none

/-- 07_issue, R170: 7 over 0, the most negative number over -1, and -7 over 2, whose remainder is -1. -/
theorem test_div : res (.aluDiv 7 5 6) (rg [(5, 7)] on) 7 = some (2 ^ 64 - 1) ∧
    res (.aluDiv 7 5 6) (rg [(5, 2 ^ 63), (6, 2 ^ 64 - 1)] on) 7 = some (2 ^ 63) ∧
    res (.aluRem 7 5 6) (rg [(5, 2 ^ 64 - 7), (6, 2)] on) 7 = some (2 ^ 64 - 1) := by decide +kernel
/-- 07_issue, R164: a scalar result leaves bits [511:64] of its register zero, and a write of g0 leaves it zero. -/
theorem test_upper_bits : res (.aluqAdd 5 5 6) (rg [(5, 2 ^ 500 + 2 ^ 64 - 1), (6, 1)] on) 5 = some 0 ∧
    res (.liZ32 0 9) on 0 = some 0 := by decide +kernel
/-- 12_vector: the nibbles i mod 16 of g5 as four planes, and back. -/
theorem test_planes :
    let g5 := 0xFEDCBA9876543210FEDCBA9876543210FEDCBA9876543210FEDCBA9876543210
    let g6 := 0xFF00FF00FF00FF00F0F0F0F0F0F0F0F0CCCCCCCCCCCCCCCCAAAAAAAAAAAAAAAA
    res (.vplPlane 6 5 .w4) (rg [(5, g5)] on) 6 = some g6 ∧ res (.vplUnplane 7 6 .w4) (rg [(6, g6)] on) 7 = some g5 := by decide +kernel
/-- 12_vector, the clamped sum: 2 * 1.5 - 3 is +0, and 2 * -2 - 3 is -7. -/
theorem test_fma : (res (.vfmaFma 8 4 6 7 .f32 .rne 0) (rg [(4, 0xC00000003FC00000), (6, 0x4000000040000000), (7, 0xC0400000C0400000)] on) 8).map
    (· % 2 ^ 64) = some 0xC0E0000000000000 := by decide +kernel
/-- 10_engines: four FP32 values squeezed with e = -4 and ORDER = 1. -/
theorem test_squeeze : sqzStream (sqzPar 0x1FFC0000) ([0, 0, 0x80, 0x3F, 0xCD, 0xCC, 0x8C, 0x3F, 0, 0, 0xA0, 0x3F, 0x66, 0x66, 0xA6, 0x3F]) =
    [0x5A, 0x51, 0x10, 0x01, 0xFC, 0xFF, 0, 0, 4, 0, 0, 0, 0x14, 0, 0, 0, 5, 0x50, 8, 0] ++ List.replicate 44 0 := by decide +kernel
/-- 11_numbers, R278: 0.3 is LOG6 code 0x09. -/
theorem test_log6 : (convert .f32 .log6 .rne 0x3E99999A).1 = 9 := by decide +kernel
/-- 13_matrix: one rounding per chunk; 1 + 31 * 2^-25 is 0x3F800008, and twice as much onto that is 0x40000008. -/
theorem test_chunk :
    let row := 0x3F80 :: List.replicate 31 0x3300
    let m : MxCmd := { core := 0, slot := 0, tenant := some 1, world := true, cl := 0, channel := 0, op := 1, w0 := 0, w1 := 0, cap := 0, tag := none }
    afterChunk { fmt := 2 } m 0 row (List.replicate 32 0x3F80) = 0x3F800008 ∧
    afterChunk { fmt := 2 } m 0x3F800008 row (List.replicate 32 0x3F80) = 0x40000008 := by decide +kernel
/-- 13_matrix: LOG6 codes 0x19 and 0x32 have the product 0xC0D744FD. -/
theorem test_log6_product :
    let m : MxCmd := { core := 0, slot := 0, tenant := some 1, world := true, cl := 0, channel := 0, op := 1, w0 := 0, w1 := 0, cap := 0, tag := none }
    afterChunk { fmt := 6 } m 0 (0x19 :: List.replicate 31 0) (0x32 :: List.replicate 31 0) = 0xC0D744FD := by decide +kernel
/-- 07_issue, R184, and 20_traps: SVC of a thread with a handler goes there, with cause 14, the code in TADDR and the next PC saved. -/
theorem test_svc : (match exec (.sysSvc 100) (th (fun t => { t with thandler := 130 }) (ln (0x1000 :: List.replicate 31 0) on)) with
  | .next t => some ((t.thread 0 0).pc.toNat, (t.thread 0 0).tepc.toNat, (t.thread 0 0).tcause.toNat, (t.thread 0 0).taddr.toNat)
  | _ => none) = some (130, 68, 14, 100) := by decide +kernel

/-! ### Lines, data and relocations (03_odx) -/

/-- The worked kernel before linking. -/
def sum2 : List Instr := [.liZ32 4 0, .liHi 4 4 0, .ld 5 4 0 false .b32z .global 0, .ld 6 4 0 false .b32z .global 4, .aluAdd 7 5 6, .sysqExit]
/-- The halfwords of its line in the linked image, as the chapter lists them. -/
def sum2Line : List Nat := [0x3000, 0x2308, 0x2308, 0x430A, 0x430C, 0x1A0E, 0xB802, 0, 0, 0, 0, 0, 0, 0, 0, 0, 0, 0, 0, 0x0A18, 0x04A0, 0, 0x0800, 0x00A0,
  0, 0x0800, 2, 0, 0x0801, 0x8000, 1, 2]
/-- 03_odx: `vals` at 0x2_0001_8000; LO32 at place 2 and HI32 at place 4 make the object's line that of the image. -/
theorem test_link_line : (((packLines sum2).map lineBytes).bind fun bs =>
    ((Reloc.apply { place := 2, addend := 0, sym := 0, type := 4 } 0x400000 bs 0x200018000).bind fun bs =>
      Reloc.apply { place := 4, addend := 0, sym := 0, type := 5 } 0x400000 bs 0x200018000).map fun bs =>
        (halfwords bs).map fun h => h.toNat) = some sum2Line := by decide +kernel
/-- 03_odx, R61: the examples of literals; and 0.1 in f64. -/
theorem test_literals : (Lit.encode .bf16 (.num false 3 2), Lit.encode .bf16 (.num true 0 1), Lit.encode .bf16 (.inf false),
    Lit.encode .e4m3 (.num false 500 1), Lit.encode .log6 (.num false 1 1), Lit.encode .log6 (.num true 2 1)) =
      (some 0x3FC0, some 0x8000, some 0x7F80, some 0x7E, some 0x10, some 0x34) ∧
    (Lit.encode .e4m3 (.inf true), Lit.encode .log6 (.inf false), Lit.encode .log6 (.inf true), Lit.encode .e5m2 (.inf false)) =
      (some 0xFE, some 0x1F, some 0x3F, some 0x7C) ∧ Lit.encode .f64 (.num false 1 10) = some 0x3FB999999999999A := by decide +kernel
/-- 03_odx, R62: `.planes int, 2, dup(32, 1), dup(32, -1)`. -/
theorem test_planes_directive : (DataItem.bytes 0 (.planesInt 2 (List.replicate 32 1 ++ List.replicate 32 (-1)))).map (fun bs => bs.map fun b => b.toNat) =
    some (List.replicate 8 255 ++ List.replicate 4 0 ++ List.replicate 4 255) := by decide +kernel
/-- 03_odx, the worked program: its object has the line with hw26, hw29 and hw30 zero, LO32 at place 2 and HI32 at place 4 against `vals`, and
the data. A procedure whose instruction names g8 at a limit of 8 is an error (R56), and so is a channel of 64. -/
theorem test_assemble :
    let nm := fun (s : List Nat) => s.map (BitVec.ofNat 8)
    let data : List Stmt := [.section_ (nm [46, 100]) .data none, .align 64, .label 0, .data (.ints 4 [.one (.lit 7), .one (.lit 9)])]
    let text := fun (limit ch : Nat) => ([.section_ (nm [46, 116]) .text none, .proc 1 (some limit), .label 1, .op (.liZ32 4 0) (some (.lo32 (.sym 0))),
      .op (.liHi 4 4 0) (some (.hi32 (.sym 0))), .op (.ld 5 4 0 false .b32z .global 0) none, .op (.ld 6 4 0 false .b32z .global 4) none,
      .op (.aluAdd 7 5 6) none, .op (.aluAdd 7 8 6) none, .op .sysqExit none, .endproc, .record (.task [(48, 48)] ch (.sym 1) 1 0 false false)] : List Stmt)
    let right := (text 8 5).filter fun x => x != .op (.aluAdd 7 8 6) none
    let src := fun (t : List Stmt) => ({ names := [nm [118], nm [115]], stmts := data ++ t } : Source)
    ((assemble (src right)).map fun o => o.sections.map fun x => ((halfwords x.contents).map BitVec.toNat, x.relocs)) =
      some [([7, 0, 9, 0], []), ((sum2Line.set 26 0).set 29 0 |>.set 30 0, [{ place := 2, addend := 0, sym := 0, type := 4 }, { place := 4, addend := 0, sym := 0, type := 5 }])] ∧
    (assemble (src (text 8 5))).isNone = true ∧ (assemble (src (text 16 5))).isSome = true ∧ (assemble (src (text 16 64))).isNone = true := by decide +kernel
/-- 03_odx, R66: the worked task record reads back, and its entry is that of R70. -/
theorem test_task_record : (OdxRecord.bytes (.task 48 48 5 1 0 false false { sym := none, val := 0x400002 })).bind (fun bs => readRecord bs true 0) =
    some (.task 48 48 5 1 0 false false { sym := none, val := 0x400002 }, 32) ∧ taskEntry 1 0 false false 0x400002 = 0x8800000000400002 := by
  decide +kernel
/-- 03_odx, R52: precedence is the parser's; -7 / 2 and -7 % 2 truncate, hi32 of -1 is 0xFFFFFFFF, and 2^63 overflows. -/
theorem test_expressions : (Expr.bin .div (.neg (.lit 7)) (.lit 2)).eval (fun _ => .unknown) = some (-3) ∧
    (Expr.bin .mod (.neg (.lit 7)) (.lit 2)).eval (fun _ => .unknown) = some (-1) ∧
    (Expr.hi32 (.neg (.lit 1))).eval (fun _ => .unknown) = some 0xFFFFFFFF ∧ (Expr.bin .shl (.lit 1) (.lit 63)).eval (fun _ => .unknown) = none := by
  decide +kernel

theorem test_wit_PackedLinesDecode : ∃ ls, packLines (sum2 ++ sum2 ++ sum2) = some ls ∧ ls.length = 3 ∧
    ls.flatMap (fun l => (List.range (lineN l)).map fun k => decodeAt l (k + 1)) = (sum2 ++ sum2 ++ sum2).map Fetch.op :=
  ⟨_, rfl, by decide +kernel, by decide +kernel⟩

end Sys2Proof.Tests
end

section
/-!
Every step keeps the four byte memories in canonical form (log 28), an unlisted byte reading 0 (log 1).

The canonical form is lost only where a memory is written, and the model writes one in six places: a block of a bank or of a column store
(performBank, performColumn), bytes of a tier (tierWrite), a way left (leaveWay), and the parts that a restore or a reset of a tenant puts
back (restorePage, restoreCluster, execFwTenantReset). Every other operation on the state is a chain of operations already treated, so there
is one lemma for each operation, in the model's own order, whose proof is that chain: h.setCore.coreToCore says that the operation first
sets a core and then sends. An update of other fields is .frame, an if is .ite, a loop is .foldl, and a match is split into its cases.
-/
namespace Sys2Proof.Machine

open Sys2Proof

/-! ### Writing a byte memory -/

theorem Memory.wf_foldl {α : Type} {f : Memory → α → Memory} {l : List α} {m : Memory} (h : m.wf = true)
    (hf : ∀ m x, m.wf = true → (f m x).wf = true) : Memory.wf (l.foldl f m) = true :=
  List.foldlRecOn (motive := fun m => Memory.wf m = true) l f h fun m hm x _ => hf m x hm

theorem Memory.wf_setPart {m : Memory} (base n : Nat) (p : Memory) (h : m.wf = true) : (m.setPart base n p).wf = true := by
  refine Memory.wf_foldl (Memory.wf_filter _ m h) fun m x hm => ?_
  split
  · exact Memory.wf_write _ _ _ hm
  · exact hm

theorem performBlock_wf {m : Memory} (bad : List Nat) (base : Nat) (a : Access) (h : m.wf = true) :
    (performBlock m bad base a).1.wf = true := by
  unfold performBlock
  dsimp only
  split
  · split
    · exact h
    · split
      · exact Memory.wf_writeN _ _ _ h
      · exact h
  · split
    · exact Memory.wf_writeN _ _ _ h
    · exact h

/-! ### The rules -/

/-- What an instruction or an event answers: where it is a next state, one with canonical memories. -/
def YieldsCanonical (o : Host.Outcome State Fault Refusal) : Prop := ∀ t, o = .next t → MemoriesAreCanonical t

/-- A state that an operation may answer has canonical memories. -/
def SomeCanonical (o : Option State) : Prop := ∀ t, o = some t → MemoriesAreCanonical t

/-- The state after the first part of a turn of a paired slot has canonical memories. -/
def TwinCanonical (x : TwinTurn) : Prop := match x with
  | .run s | .pass s => MemoriesAreCanonical s

/-- The state after the first part of a turn has canonical memories. -/
def TurnCanonical (x : Turn) : Prop := match x with
  | .pass s | .run _ s => MemoriesAreCanonical s

variable {s : State}

/-- An update of any fields but the four memories. -/
theorem MemoriesAreCanonical.frame (h : MemoriesAreCanonical s)
    {now clusters cores columns quads baseDies routers bankBad colBad bankErr colErr sectors groups keys devNo devMap sysEdition sysChart
      portsDown pathsDown ethIn ethEarly ethOut fwCounts streams devAcks packets farIn items undeliverable fwBusy fwStopped fwNotes images
      flash plan planDev fmDead fmAgain fmOrder fmHeard curCore curSlot curr subj agenda events nextId fresh} :
    MemoriesAreCanonical { s with
      now := now, clusters := clusters, cores := cores, columns := columns, quads := quads, baseDies := baseDies, routers := routers,
      bankBad := bankBad, colBad := colBad, bankErr := bankErr, colErr := colErr, sectors := sectors, groups := groups, keys := keys,
      devNo := devNo, devMap := devMap, sysEdition := sysEdition, sysChart := sysChart, portsDown := portsDown, pathsDown := pathsDown,
      ethIn := ethIn, ethEarly := ethEarly, ethOut := ethOut, fwCounts := fwCounts, streams := streams, devAcks := devAcks,
      packets := packets, farIn := farIn, items := items, undeliverable := undeliverable, fwBusy := fwBusy, fwStopped := fwStopped,
      fwNotes := fwNotes, images := images, flash := flash, plan := plan, planDev := planDev, fmDead := fmDead, fmAgain := fmAgain,
      fmOrder := fmOrder, fmHeard := fmHeard, curCore := curCore, curSlot := curSlot, curr := curr, subj := subj, agenda := agenda,
      events := events, nextId := nextId, fresh := fresh } := h

theorem MemoriesAreCanonical.ite {c : Prop} [Decidable c] {a b : State} (ha : MemoriesAreCanonical a)
    (hb : MemoriesAreCanonical b) : MemoriesAreCanonical (if c then a else b) := by split; exacts [ha, hb]
theorem YieldsCanonical.ite {c : Prop} [Decidable c] {a b : Host.Outcome State Fault Refusal} (ha : YieldsCanonical a)
    (hb : YieldsCanonical b) : YieldsCanonical (if c then a else b) := by split; exacts [ha, hb]
theorem SomeCanonical.ite {c : Prop} [Decidable c] {a b : Option State} (ha : SomeCanonical a) (hb : SomeCanonical b) :
    SomeCanonical (if c then a else b) := by split; exacts [ha, hb]

theorem TwinCanonical.ite {c : Prop} [Decidable c] {a b : TwinTurn} (ha : TwinCanonical a) (hb : TwinCanonical b) :
    TwinCanonical (if c then a else b) := by split; exacts [ha, hb]

theorem MemoriesAreCanonical.next (h : MemoriesAreCanonical s) : YieldsCanonical (.next s) := by rintro t ⟨⟩; exact h
theorem YieldsCanonical.fault {f : Fault} : YieldsCanonical (.fault f) := by rintro t ⟨⟩
theorem YieldsCanonical.refused {r : Refusal} : YieldsCanonical (.refused r) := by rintro t ⟨⟩
theorem MemoriesAreCanonical.some (h : MemoriesAreCanonical s) : SomeCanonical (some s) := by rintro t ⟨⟩; exact h
theorem SomeCanonical.none : SomeCanonical none := by rintro t ⟨⟩
theorem MemoriesAreCanonical.run (h : MemoriesAreCanonical s) : TwinCanonical (.run s) := h
theorem MemoriesAreCanonical.pass (h : MemoriesAreCanonical s) : TwinCanonical (.pass s) := h

/-- The state of a pair, once the pair is taken apart. -/
theorem MemoriesAreCanonical.fst {α : Type} {p : State × α} {x : α} (h : MemoriesAreCanonical p.1) (e : p = (s, x)) :
    MemoriesAreCanonical s := by subst e; exact h

@[inherit_doc MemoriesAreCanonical.fst]
theorem MemoriesAreCanonical.snd {α : Type} {p : α × State} {x : α} (h : MemoriesAreCanonical p.2) (e : p = (x, s)) :
    MemoriesAreCanonical s := by subst e; exact h

theorem MemoriesAreCanonical.foldl {α : Type} {f : State → α → State} {l : List α} (h : MemoriesAreCanonical s)
    (hf : ∀ s x, MemoriesAreCanonical s → MemoriesAreCanonical (f s x)) : MemoriesAreCanonical (l.foldl f s) :=
  List.foldlRecOn l f h fun s hs x _ => hf s x hs

theorem MemoriesAreCanonical.foldlFst {α β : Type} {f : State × β → α → State × β} {l : List α} {p : State × β}
    (h : MemoriesAreCanonical p.1) (hf : ∀ p x, MemoriesAreCanonical p.1 → MemoriesAreCanonical (f p x).1) :
    MemoriesAreCanonical (l.foldl f p).1 :=
  List.foldlRecOn (motive := fun p => MemoriesAreCanonical p.1) l f h fun p hp x _ => hf p x hp

theorem MemoriesAreCanonical.foldlSnd {α β : Type} {f : β × State → α → β × State} {l : List α} {p : β × State}
    (h : MemoriesAreCanonical p.2) (hf : ∀ p x, MemoriesAreCanonical p.2 → MemoriesAreCanonical (f p x).2) :
    MemoriesAreCanonical (l.foldl f p).2 :=
  List.foldlRecOn (motive := fun p => MemoriesAreCanonical p.2) l f h fun p hp x _ => hf p x hp

/-- A part of a tier is put back. -/
theorem MemoriesAreCanonical.setTierPart {lp : Bool} {pa n : Nat} {p : Memory} (h : MemoriesAreCanonical s) :
    MemoriesAreCanonical (if lp then { s with lp := s.lp.setPart pa n p } else { s with hbm := s.hbm.setPart pa n p }) := by
  obtain ⟨hbank, hcol, hhbm, hlp⟩ := h
  exact .ite ⟨hbank, hcol, hhbm, Memory.wf_setPart _ _ _ hlp⟩ ⟨hbank, hcol, Memory.wf_setPart _ _ _ hhbm, hlp⟩

/-! ### The named operations: units, events, contents, registers, reports, traps -/

theorem MemoriesAreCanonical.setCore {c : Nat} {v : Core} (h : MemoriesAreCanonical s) : MemoriesAreCanonical (s.setCore c v) := h
theorem MemoriesAreCanonical.onCore {c : Nat} {f : Core → Core} (h : MemoriesAreCanonical s) :
    MemoriesAreCanonical (s.onCore c f) := h.setCore
theorem MemoriesAreCanonical.onColumn {k : Nat} {f : Column → Column} (h : MemoriesAreCanonical s) :
    MemoriesAreCanonical (s.onColumn k f) := h
theorem MemoriesAreCanonical.onCluster {k : Nat} {f : Cluster → Cluster} (h : MemoriesAreCanonical s) :
    MemoriesAreCanonical (s.onCluster k f) := h
theorem MemoriesAreCanonical.onQuad {k : Nat} {f : Quad → Quad} (h : MemoriesAreCanonical s) : MemoriesAreCanonical (s.onQuad k f) := h
theorem MemoriesAreCanonical.onStack {k : Nat} {f : Stack → Stack} (h : MemoriesAreCanonical s) : MemoriesAreCanonical (s.onStack k f) := h
theorem MemoriesAreCanonical.onRouter {k : Nat} {f : Router → Router} (h : MemoriesAreCanonical s) :
    MemoriesAreCanonical (s.onRouter k f) := h
theorem MemoriesAreCanonical.setSlot {c sl : Nat} {v : Slot} (h : MemoriesAreCanonical s) :
    MemoriesAreCanonical (s.setSlot c sl v) := h.onCore
theorem MemoriesAreCanonical.setThread {c sl : Nat} {th : Thread} (h : MemoriesAreCanonical s) :
    MemoriesAreCanonical (s.setThread c sl th) := h.setSlot
theorem MemoriesAreCanonical.onThread {c sl : Nat} {f : Thread → Thread} (h : MemoriesAreCanonical s) :
    MemoriesAreCanonical (s.onThread c sl f) := h.setThread
theorem MemoriesAreCanonical.draw (h : MemoriesAreCanonical s) : MemoriesAreCanonical s.draw.2 := h
theorem MemoriesAreCanonical.atCycle {cl due : Nat} {row : Instr} {subj : Subject} (h : MemoriesAreCanonical s) :
    MemoriesAreCanonical (s.atCycle cl due row subj) := h
theorem MemoriesAreCanonical.inCycles {cl d : Nat} {row : Instr} {subj : Subject} (h : MemoriesAreCanonical s) :
    MemoriesAreCanonical (s.inCycles cl d row subj) := h.atCycle
theorem MemoriesAreCanonical.inNs {d : Nat} {row : Instr} {subj : Subject} (h : MemoriesAreCanonical s) :
    MemoriesAreCanonical (s.inNs d row subj) := h
theorem MemoriesAreCanonical.inAtLeast {d : Nat} {row : Instr} {subj : Subject} (h : MemoriesAreCanonical s) :
    MemoriesAreCanonical (s.inAtLeast d row subj) := h.frame.inNs
theorem MemoriesAreCanonical.addItem {c : Content} (h : MemoriesAreCanonical s) : MemoriesAreCanonical (s.addItem c).2 := h
theorem MemoriesAreCanonical.takeItem {id : Nat} (h : MemoriesAreCanonical s) : MemoriesAreCanonical (s.takeItem id).2 := h
theorem MemoriesAreCanonical.notify {cl d : Nat} {c : Content} (h : MemoriesAreCanonical s) :
    MemoriesAreCanonical (s.notify cl d c) := h.frame.inCycles
theorem MemoriesAreCanonical.setStream {v : StreamSt} (h : MemoriesAreCanonical s) : MemoriesAreCanonical (s.setStream v) := h
theorem MemoriesAreCanonical.land {cl : Nat} {row : Instr} {subj : Subject} (h : MemoriesAreCanonical s) :
    MemoriesAreCanonical (s.land cl row subj) := h
theorem MemoriesAreCanonical.launchAt {at_ lag : Nat} {p : Packet} (h : MemoriesAreCanonical s) :
    MemoriesAreCanonical (s.launchAt at_ lag p) := h.frame.inNs
theorem MemoriesAreCanonical.launch {p : Packet} {lag : Nat} (h : MemoriesAreCanonical s) :
    MemoriesAreCanonical (s.launch p lag) := h.launchAt

theorem MemoriesAreCanonical.number {scl sep dcl dep cls len cast : Nat} {c : Content} (h : MemoriesAreCanonical s) :
    MemoriesAreCanonical (s.number scl sep dcl dep cls len cast c).1 := by
  unfold State.number
  dsimp only
  split
  · exact h.addItem.setStream
  · exact h.addItem.setStream

theorem MemoriesAreCanonical.shipAfter {lag scl sep dcl dep cls len : Nat} {c : Content} (h : MemoriesAreCanonical s) :
    MemoriesAreCanonical (s.shipAfter lag scl sep dcl dep cls len c) := by
  unfold State.shipAfter
  split
  next e => exact (h.number.fst e).launch
  next e => exact h.number.fst e

theorem MemoriesAreCanonical.launchAll {ps : List Packet} (h : MemoriesAreCanonical s) :
    MemoriesAreCanonical (s.launchAll ps) := h.foldl fun _ _ h => h.launch

theorem MemoriesAreCanonical.shipCast {scl sep cls len : Nat} {ds : List (Nat × Nat × Content)} (h : MemoriesAreCanonical s) :
    MemoriesAreCanonical (s.shipCast scl sep cls len ds) := by
  refine .launchAll (h.frame.foldlFst fun x d h => ?_)
  split
  next e => exact h.number.fst e
  next e => exact h.number.fst e

theorem MemoriesAreCanonical.ship {scl sep dcl dep cls len : Nat} {c : Content} (h : MemoriesAreCanonical s) :
    MemoriesAreCanonical (s.ship scl sep dcl dep cls len c) := h.shipAfter
theorem MemoriesAreCanonical.convey {scl sep dcl dep cls len d : Nat} {c : Content} (h : MemoriesAreCanonical s) :
    MemoriesAreCanonical (s.convey scl sep dcl dep cls len d c) := .ite h.notify h.ship
theorem MemoriesAreCanonical.within {n : Nat} (h : MemoriesAreCanonical s) : MemoriesAreCanonical (s.within n).2 := h
theorem MemoriesAreCanonical.coreToCore {src dst cls len : Nat} {c : Content} (h : MemoriesAreCanonical s) :
    MemoriesAreCanonical (s.coreToCore src dst cls len c) := .ite h.notify (.ite h.frame.onCore.notify h.ship)
theorem MemoriesAreCanonical.setEntry {c ev : Nat} {v : VWord} (h : MemoriesAreCanonical s) :
    MemoriesAreCanonical (s.setEntry c ev v) := h.onCore

theorem MemoriesAreCanonical.setReg {c sl r : Nat} {v : VWord} (h : MemoriesAreCanonical s) : MemoriesAreCanonical (s.setReg c sl r v) := by
  unfold State.setReg
  dsimp only
  split
  · exact h
  · split
    · exact h.setEntry
    · split
      · exact h.setEntry
      · split
        · exact h.setThread.setEntry
        · exact h

theorem MemoriesAreCanonical.put {c sl d : Nat} {w : Word} (h : MemoriesAreCanonical s) : MemoriesAreCanonical (s.put c sl d w) := h.setReg
theorem MemoriesAreCanonical.askWalk {g : Agent} {c : Nat} {ptbase : Word} {va : Nat} (h : MemoriesAreCanonical s) :
    MemoriesAreCanonical (s.askWalk g c ptbase va) := h.ship

theorem MemoriesAreCanonical.askLine {c sl pc : Nat} (h : MemoriesAreCanonical s) : MemoriesAreCanonical (s.askLine c sl pc) := by
  unfold State.askLine
  dsimp only
  split
  · exact .ite h h.onColumn
  · exact h.onColumn.askWalk

theorem MemoriesAreCanonical.takeLine {c sl : Nat} (h : MemoriesAreCanonical s) : MemoriesAreCanonical (s.takeLine c sl) := by
  unfold State.takeLine
  dsimp only
  split
  · exact h.setThread
  · split
    · exact h.setThread
    · exact h.setThread.askLine

theorem MemoriesAreCanonical.jumpTo {c sl : Nat} {pc : Word} (h : MemoriesAreCanonical s) :
    MemoriesAreCanonical (s.jumpTo c sl pc) := h.onThread.takeLine
theorem MemoriesAreCanonical.advance {c sl : Nat} (h : MemoriesAreCanonical s) :
    MemoriesAreCanonical (s.advance c sl) := .ite h.setThread h.jumpTo
theorem MemoriesAreCanonical.turns {c sl k : Nat} (h : MemoriesAreCanonical s) : MemoriesAreCanonical (s.turns c sl k) := h.onThread
theorem MemoriesAreCanonical.after {c sl : Nat} (h : MemoriesAreCanonical s) : MemoriesAreCanonical (s.after c sl) := h.onThread
theorem MemoriesAreCanonical.finish {c sl : Nat} (h : MemoriesAreCanonical s) : MemoriesAreCanonical (s.finish c sl) := h.onThread.advance
theorem MemoriesAreCanonical.finishPut {c sl d : Nat} {w : Word} (h : MemoriesAreCanonical s) :
    MemoriesAreCanonical (s.finishPut c sl d w) := h.put.finish
theorem MemoriesAreCanonical.stay {c sl : Nat} {k : Option HoldClass} (h : MemoriesAreCanonical s) :
    MemoriesAreCanonical (s.stay c sl k) := h.onThread
theorem MemoriesAreCanonical.await {c sl : Nat} {i : Instr} {k : Option HoldClass} (h : MemoriesAreCanonical s) :
    MemoriesAreCanonical (s.await c sl i k) := h.onThread

theorem MemoriesAreCanonical.tierWrite {lp : Bool} {pa : Nat} {bs : List Byte} (h : MemoriesAreCanonical s) :
    MemoriesAreCanonical (s.tierWrite lp pa bs) := by
  obtain ⟨hbank, hcol, hhbm, hlp⟩ := h
  exact .ite ⟨hbank, hcol, hhbm, Memory.wf_writeN _ _ _ hlp⟩ ⟨hbank, hcol, Memory.wf_writeN _ _ _ hhbm, hlp⟩

theorem MemoriesAreCanonical.sendReport {c : Nat} (h : MemoriesAreCanonical s) : MemoriesAreCanonical (s.sendReport c) := by
  unfold State.sendReport
  dsimp only
  split
  · exact .ite h h.setCore.coreToCore
  · exact h

theorem MemoriesAreCanonical.report {c : Nat} {addr w0 : Word} (h : MemoriesAreCanonical s) :
    MemoriesAreCanonical (s.report c addr w0) := .ite h.setCore.sendReport h.setCore
theorem MemoriesAreCanonical.record {c : Nat} {r : ErrRec} (h : MemoriesAreCanonical s) :
    MemoriesAreCanonical (s.record c r) := .ite (.ite h.setCore.tierWrite h.setCore.tierWrite.report) h
theorem MemoriesAreCanonical.clearEntries {c : Nat} {of_ : Nat → Bool} (h : MemoriesAreCanonical s) :
    MemoriesAreCanonical (s.clearEntries c of_) := h.onCore

theorem MemoriesAreCanonical.zeroRegs {c sl : Nat} (h : MemoriesAreCanonical s) : MemoriesAreCanonical (s.zeroRegs c sl) := by
  unfold State.zeroRegs
  dsimp only
  split
  · exact h.clearEntries
  · exact h.clearEntries.setThread

theorem MemoriesAreCanonical.halt {c sl cause : Nat} (h : MemoriesAreCanonical s) :
    MemoriesAreCanonical (s.halt c sl cause) := h.zeroRegs.setSlot
theorem MemoriesAreCanonical.park {c sl : Nat} {r : ErrRec} (h : MemoriesAreCanonical s) :
    MemoriesAreCanonical (s.park c sl r) := h.halt.record
theorem MemoriesAreCanonical.wakeIdle {c : Nat} (h : MemoriesAreCanonical s) :
    MemoriesAreCanonical (s.wakeIdle c) := h.foldl fun _ _ h => .ite h.finish.after h
theorem MemoriesAreCanonical.acceptOwn {c : Nat} {m : Msg} (h : MemoriesAreCanonical s) :
    MemoriesAreCanonical (s.acceptOwn c m) := .ite h.setCore.wakeIdle h.setCore

theorem MemoriesAreCanonical.enterTrap {c sl : Nat} {k : Cause} {tword addr : Word} {run : Bool} (h : MemoriesAreCanonical s) :
    MemoriesAreCanonical (s.enterTrap c sl k tword addr run) := by
  unfold State.enterTrap
  dsimp only
  split
  · exact h.setThread.park
  · split
    · exact .ite h.setThread.setSlot.acceptOwn h.setThread.park
    · exact .ite h.setThread.setThread.jumpTo h.setThread.park

theorem MemoriesAreCanonical.trap {c sl : Nat} {k : Cause} {addr : Word} (h : MemoriesAreCanonical s) :
    MemoriesAreCanonical (s.trap c sl k addr) := h.enterTrap
theorem MemoriesAreCanonical.eret {c sl : Nat} (h : MemoriesAreCanonical s) :
    MemoriesAreCanonical (s.eret c sl) := .ite h.trap (.ite h.trap h.onThread.jumpTo)
theorem MemoriesAreCanonical.sendDec {c hd : Nat} {fail : Bool} (h : MemoriesAreCanonical s) :
    MemoriesAreCanonical (s.sendDec c hd fail) := .ite h.notify h.coreToCore

theorem MemoriesAreCanonical.endThread {c sl : Nat} {fail : Bool} (h : MemoriesAreCanonical s) :
    MemoriesAreCanonical (s.endThread c sl fail) := by
  unfold State.endThread
  dsimp only
  split
  · exact h.setSlot
  · split
    · refine .coreToCore ?_
      split
      · exact h.setSlot
      · exact h.setSlot.onColumn.sendDec
    · split
      · exact h.setSlot
      · exact h.setSlot.onColumn.sendDec

theorem MemoriesAreCanonical.failTiller {c sl : Nat} {k : Cause} {pc : Word} (h : MemoriesAreCanonical s) :
    MemoriesAreCanonical (s.failTiller c sl k pc) := by
  unfold State.failTiller
  dsimp only
  split
  · exact h
  · exact .ite h.stay h.onThread.endThread.record

theorem YieldsCanonical.current {f : Nat → Nat → State} (hf : ∀ c sl, MemoriesAreCanonical (f c sl)) : YieldsCanonical (current s f) :=
  .ite (hf _ _).next .fault

theorem MemoriesAreCanonical.reading {c sl : Nat} {rs : List Nat} {after : State} (h : MemoriesAreCanonical s)
    (hafter : MemoriesAreCanonical after) : MemoriesAreCanonical (s.reading c sl rs after) := by
  unfold State.reading
  dsimp only
  split
  · exact h.park
  · exact hafter.foldl fun _ _ h => h.onCore.record

theorem MemoriesAreCanonical.guarded {priv : Bool} {names writes : List Nat} {f : Nat → Nat → State} (h : MemoriesAreCanonical s)
    (hf : ∀ c sl, MemoriesAreCanonical (f c sl)) : YieldsCanonical (guarded s priv names writes f) := by
  refine .current fun _ _ => .ite h.trap ?_
  split
  · exact h.trap
  · exact .ite h.failTiller (h.reading (hf _ _))

theorem MemoriesAreCanonical.scalar {names : List Nat} {d k : Nat} {f : Nat → Nat → Word} (h : MemoriesAreCanonical s) :
    YieldsCanonical (scalar s names d k f) := h.guarded fun _ _ => h.put.finish.turns

/-! ### Domains -/

theorem MemoriesAreCanonical.keepDomain {core cl d : Nat} (h : MemoriesAreCanonical s) :
    MemoriesAreCanonical (s.keepDomain core cl d) := .ite h h.onCore

/-! ### Accesses to banks, columns and homes -/

theorem MemoriesAreCanonical.foundError {a : Access} {core store unit : Nat} {hard : Bool} (h : MemoriesAreCanonical s) :
    MemoriesAreCanonical (s.foundError a core store unit hard) := .ite h h.record

theorem MemoriesAreCanonical.performBank {a : Access} (h : MemoriesAreCanonical s) : MemoriesAreCanonical (s.performBank a).1 := by
  obtain ⟨hbank, hcol, hhbm, hlp⟩ := h
  have hnew : MemoriesAreCanonical { s with bankMem := (performBlock s.bankMem (withFound s.bankBad (bankAddr a.cl a.bank a.row / 64)
      (errorFound s.bankErr (bankAddr a.cl a.bank a.row / 64) a)) (bankAddr a.cl a.bank a.row) a).1 } :=
    ⟨performBlock_wf _ _ _ hbank, hcol, hhbm, hlp⟩
  unfold State.performBank
  dsimp only
  split
  · exact hnew.frame.foundError
  · exact hnew.frame

theorem MemoriesAreCanonical.performColumn {a : Access} (h : MemoriesAreCanonical s) : MemoriesAreCanonical (s.performColumn a).1 := by
  obtain ⟨hbank, hcol, hhbm, hlp⟩ := h
  have hnew : MemoriesAreCanonical { s with colMem := (performBlock s.colMem (withFound s.colBad (colAddr a.va / 64)
      (errorFound s.colErr (colAddr a.va / 64) a)) (colAddr a.va) a).1 } := ⟨hbank, performBlock_wf _ _ _ hcol, hhbm, hlp⟩
  unfold State.performColumn
  dsimp only
  split
  · exact hnew.frame.foundError
  · exact hnew.frame

theorem MemoriesAreCanonical.atRiderFrom {cl rider d : Nat} {a : Access} (h : MemoriesAreCanonical s) :
    MemoriesAreCanonical (s.atRiderFrom cl rider d a) := h.onCluster
theorem MemoriesAreCanonical.atRider {cl rider : Nat} {a : Access} (h : MemoriesAreCanonical s) :
    MemoriesAreCanonical (s.atRider cl rider a) := h.atRiderFrom

theorem MemoriesAreCanonical.atNetwork {a : Access} (h : MemoriesAreCanonical s) : MemoriesAreCanonical (s.atNetwork a) := by
  unfold State.atNetwork
  dsimp only
  split
  · exact h.atRider
  · exact h.convey

theorem MemoriesAreCanonical.requestBank {src rider : Nat} {a : Access} (h : MemoriesAreCanonical s) :
    MemoriesAreCanonical (s.requestBank src rider a) := .ite h.atRider h.ship

theorem MemoriesAreCanonical.sendHome {core : Nat} {a : Access} (h : MemoriesAreCanonical s) :
    MemoriesAreCanonical (s.sendHome core a) := by
  unfold State.sendHome
  dsimp only
  split
  · split
    · exact h.notify
    · exact h.atRider
    · exact h.onCore.notify
  · split
    · split
      · exact h.draw.notify
      · exact h.draw.onStack.shipAfter
    · exact h.shipAfter

theorem MemoriesAreCanonical.requestHome {core : Nat} {a : Access} (h : MemoriesAreCanonical s) :
    MemoriesAreCanonical (s.requestHome core a) := by
  unfold State.requestHome
  dsimp only
  split
  · exact .ite h.setCore h.setCore.keepDomain.sendHome
  · exact h.sendHome

theorem MemoriesAreCanonical.requestAnew {core : Nat} {a : Access} (h : MemoriesAreCanonical s) :
    MemoriesAreCanonical (s.requestAnew core a) := .ite h.notify h.requestHome
theorem MemoriesAreCanonical.releaseBehind {c : Nat} {a : Access} (h : MemoriesAreCanonical s) :
    MemoriesAreCanonical (s.releaseBehind c a) := h.setCore.foldl fun _ _ h => h.requestAnew

theorem MemoriesAreCanonical.landed {a : Access} (h : MemoriesAreCanonical s) : MemoriesAreCanonical (s.landed a) := by
  unfold State.landed
  split
  · exact h.onCore.releaseBehind
  · exact h

theorem MemoriesAreCanonical.requestPort {g : Agent} {a : Access} (h : MemoriesAreCanonical s) :
    MemoriesAreCanonical (s.requestPort g a) := h.frame.convey

theorem MemoriesAreCanonical.request {g : Agent} {core : Nat} {a : Access} (h : MemoriesAreCanonical s) :
    MemoriesAreCanonical (s.request g core a) := by
  unfold State.request
  split
  · exact h.requestHome
  · exact h.requestPort
  · exact h.requestBank

theorem MemoriesAreCanonical.answer {cl ep d : Nat} {a : Access} {r : AccResult} (h : MemoriesAreCanonical s) :
    MemoriesAreCanonical (s.answer cl ep d a r) := h.convey

/-! ### Messages, channels, admission and steals -/

theorem MemoriesAreCanonical.putFrame {dev port : Nat} {q : Packet × Content} (h : MemoriesAreCanonical s) :
    MemoriesAreCanonical (s.putFrame dev port q) := h

theorem MemoriesAreCanonical.frameOut {p : Packet} (h : MemoriesAreCanonical s) : MemoriesAreCanonical (s.frameOut p) := by
  unfold State.frameOut
  split
  · exact h.putFrame
  · exact h

theorem MemoriesAreCanonical.toDevice {dev scl sep dcl dep cls len : Nat} {c : Content} (h : MemoriesAreCanonical s) :
    MemoriesAreCanonical (s.toDevice dev scl sep dcl dep cls len c) := .ite h.frame.setStream.frameOut h.frame.setStream
theorem MemoriesAreCanonical.answerMsg {m : Msg} {from_ : Nat} {a : Ans} (h : MemoriesAreCanonical s) :
    MemoriesAreCanonical (s.answerMsg m from_ a) := .ite (.ite h.frame.inNs h) (.ite h.coreToCore h.toDevice)
theorem MemoriesAreCanonical.transmit {c : Nat} {m : Msg} {sup : Bool} (h : MemoriesAreCanonical s) :
    MemoriesAreCanonical (s.transmit c m sup) := .ite (.ite h.ship h.notify) (.ite h.coreToCore (.ite h.toDevice h.notify))
theorem MemoriesAreCanonical.answerTurns {c sl : Nat} (h : MemoriesAreCanonical s) :
    MemoriesAreCanonical (s.answerTurns c sl) := h.frame.turns
theorem MemoriesAreCanonical.send {remop : Bool} {busy : Option Nat} {a b count : Nat} {i : Instr} (h : MemoriesAreCanonical s) :
    YieldsCanonical (send remop busy a b count i s) := h.guarded fun _ _ => .ite h.stay (.ite h.transmit.await.answerTurns h.transmit.await)
theorem MemoriesAreCanonical.heldFull {c sl : Nat} (h : MemoriesAreCanonical s) : MemoriesAreCanonical (s.heldFull c sl) := h.onThread

theorem MemoriesAreCanonical.sendAnswered {c sl : Nat} {a : Ans} (h : MemoriesAreCanonical s) :
    MemoriesAreCanonical (s.sendAnswered c sl a) := by
  unfold State.sendAnswered
  split
  · split
    · split
      · exact h.finishPut.after
      · exact h.heldFull.inCycles
      · exact h.finishPut.after
      · exact h.trap.after
      · exact h.finishPut.after
      · exact h.finish.after
    · exact h
  · exact h

theorem MemoriesAreCanonical.execSendAnswer (h : MemoriesAreCanonical s) : YieldsCanonical (execSendAnswer s) := by
  unfold Machine.execSendAnswer
  split
  next e => exact (h.takeItem.snd e).sendAnswered.next
  next e1 => exact (h.takeItem.snd e1).next

theorem MemoriesAreCanonical.execSendRetransmit (h : MemoriesAreCanonical s) : YieldsCanonical (execSendRetransmit s) := by
  unfold Machine.execSendRetransmit
  dsimp only
  split
  · split
    · split
      · exact h.transmit.onThread.next
      · exact h.next
    · exact h.next
  · exact h.next

theorem MemoriesAreCanonical.pushSpill {core : Nat} {c : Content} (h : MemoriesAreCanonical s) :
    MemoriesAreCanonical (s.pushSpill core c) := h.setCore.tierWrite
theorem MemoriesAreCanonical.spilled {core : Nat} {c : Content} (h : MemoriesAreCanonical s) :
    SomeCanonical (s.spilled core c) := .ite .none (.ite h.pushSpill.some h.frame.onCore.inCycles.some)

theorem MemoriesAreCanonical.execSpillRetry (h : MemoriesAreCanonical s) : YieldsCanonical (execSpillRetry s) := by
  unfold Machine.execSpillRetry
  dsimp only
  split
  · exact .ite h.onCore.frame.next h.inCycles.next
  · exact h.next

theorem MemoriesAreCanonical.queueArrival {c : Nat} {m : Msg} (h : MemoriesAreCanonical s) :
    MemoriesAreCanonical (s.queueArrival c m) := h.onCore

theorem MemoriesAreCanonical.refill {c : Nat} (h : MemoriesAreCanonical s) : MemoriesAreCanonical (s.refill c) := by
  unfold State.refill
  dsimp only
  split
  · split
    · exact h.setCore.queueArrival
    · split
      · exact h.setCore.queueArrival.wakeIdle
      · exact h
  · exact h

theorem MemoriesAreCanonical.acceptMsg {m : Msg} (h : MemoriesAreCanonical s) : MemoriesAreCanonical (s.acceptMsg m).1 := by
  unfold State.acceptMsg
  dsimp only
  split
  · split
    · exact .ite h.pushSpill.wakeIdle h.pushSpill
    · exact h
  · split
    · dsimp only
      exact h.queueArrival.wakeIdle
    · exact h

theorem MemoriesAreCanonical.execArrival (h : MemoriesAreCanonical s) : YieldsCanonical (execArrival s) := by
  unfold Machine.execArrival
  dsimp only
  split
  · exact .ite h.frame.next (.ite h.takeItem.acceptMsg.answerMsg.next h.takeItem.answerMsg.next)
  · exact h.next

theorem MemoriesAreCanonical.deliverHeld {core ch : Nat} (h : MemoriesAreCanonical s) : MemoriesAreCanonical (s.deliverHeld core ch) := h

theorem MemoriesAreCanonical.reportAnswered {c : Nat} {a : Ans} (h : MemoriesAreCanonical s) :
    MemoriesAreCanonical (s.reportAnswered c a) := by
  unfold State.reportAnswered
  dsimp only
  split
  · split
    · exact h.inCycles
    · exact h.setCore.sendReport
    · exact h.setCore.sendReport
  · exact h

theorem MemoriesAreCanonical.place {c sl : Nat} {th : Thread} {words : List Word} (h : MemoriesAreCanonical s) :
    MemoriesAreCanonical (s.place c sl th words) := .jumpTo (h.clearEntries.frame.setSlot.foldl fun _ _ h => h.put)
theorem MemoriesAreCanonical.pushRec {c : Nat} {r : Rec} (h : MemoriesAreCanonical s) :
    MemoriesAreCanonical (s.pushRec c r) := h.frame.onCore
theorem MemoriesAreCanonical.releaseParked {c k : Nat} (h : MemoriesAreCanonical s) : MemoriesAreCanonical (s.releaseParked c k) := h.onCore
theorem MemoriesAreCanonical.setCnt {c k v : Nat} (h : MemoriesAreCanonical s) :
    MemoriesAreCanonical (s.setCnt c k v) := .ite h.onCore.releaseParked h.onCore
theorem MemoriesAreCanonical.decCnt {c k : Nat} (h : MemoriesAreCanonical s) : MemoriesAreCanonical (s.decCnt c k) := h.setCnt

theorem MemoriesAreCanonical.execSpawn {busy : Option Nat} {a b c pri : Nat} {park : Option Nat} {lim : Nat} (h : MemoriesAreCanonical s) :
    YieldsCanonical (execSpawn busy a b c pri park lim s) := by
  refine h.guarded fun _ _ => .ite h.trap (.ite h.trap (.ite ?_ ?_))
  · split
    · exact h.finishPut
    · exact h.stay
  · dsimp only
    split
    · exact h.pushRec.finishPut
    · exact h.pushRec.finish

theorem MemoriesAreCanonical.putTt {c ch : Nat} {ev : Word} (h : MemoriesAreCanonical s) :
    MemoriesAreCanonical (s.putTt c ch ev) := h.onCore
theorem MemoriesAreCanonical.setTt {c ch : Nat} {v : Word} (h : MemoriesAreCanonical s) :
    MemoriesAreCanonical (s.setTt c ch v) := h.putTt.deliverHeld

theorem MemoriesAreCanonical.chanAt {op c ch : Nat} {w : Word} {secure : Bool} (h : MemoriesAreCanonical s) :
    MemoriesAreCanonical (s.chanAt op c ch w secure).1 := by
  unfold State.chanAt
  dsimp only
  split
  · split
    · exact h
    · exact h.putTt
  · split
    · exact h
    · exact h.putTt
  · exact h
  · exact h.setTt

theorem MemoriesAreCanonical.chan {c sl op : Nat} {d : Option Nat} {word w : Word} {i : Instr} (h : MemoriesAreCanonical s) :
    MemoriesAreCanonical (s.chan c sl op d word w i) := by
  unfold State.chan
  dsimp only
  split
  · exact h.trap
  · split
    · exact h.trap
    · split
      · exact h.trap
      · split
        · split
          · exact h.chanAt.trap
          · exact h.chanAt.finishPut
          · exact h.chanAt.finish
        · exact h.coreToCore.await

theorem MemoriesAreCanonical.execChanRemote (h : MemoriesAreCanonical s) : YieldsCanonical (execChanRemote s) := by
  unfold Machine.execChanRemote
  split
  next e =>
    split
    next e1 => exact ((h.takeItem.snd e).spilled _ e1).next
    · refine .next (.coreToCore ?_)
      split
      · split
        · exact h.takeItem.snd e
        · exact (h.takeItem.snd e).putTt
      · split
        · exact h.takeItem.snd e
        · exact (h.takeItem.snd e).putTt
      · exact h.takeItem.snd e
      · exact (h.takeItem.snd e).setTt
  next e1 => exact (h.takeItem.snd e1).next

theorem MemoriesAreCanonical.discard {c : Nat} {ev : Word} {m : Msg} {code : Nat} (h : MemoriesAreCanonical s) :
    MemoriesAreCanonical (s.discard c ev m code) := h.record
theorem MemoriesAreCanonical.removeArrival {c : Nat} {a : Arrival} (h : MemoriesAreCanonical s) :
    MemoriesAreCanonical (s.removeArrival c a) := h.onCore.refill
theorem MemoriesAreCanonical.clearPair {c sl : Nat} (h : MemoriesAreCanonical s) : MemoriesAreCanonical (s.clearPair c sl) := h.onColumn

theorem MemoriesAreCanonical.admitThread {c sl : Nat} {th : Thread} {words : List Word} (h : MemoriesAreCanonical s) :
    MemoriesAreCanonical (s.admitThread c sl th words) := by
  unfold State.admitThread
  dsimp only
  split
  · split
    · exact h.clearPair.place.place
    · exact h.clearPair
  · exact h.place

theorem MemoriesAreCanonical.execAdmission (h : MemoriesAreCanonical s) : YieldsCanonical (execAdmission s) := by
  unfold Machine.execAdmission
  dsimp only
  split
  · exact h.next
  · split
    · exact h.next
    · split
      · split
        · exact h.setCore.next
        · split
          · exact h.setCore.next
          · split
            · exact h.setCore.removeArrival.discard.next
            · split
              · exact h.next
              · exact h.setCore.removeArrival.admitThread.next
      · split
        · exact h.setCore.next
        · split
          · exact h.next
          · split
            · exact h.next
            · exact h.setCore.admitThread.next
      · exact h.next

theorem MemoriesAreCanonical.execRemopAdmission (h : MemoriesAreCanonical s) : YieldsCanonical (execRemopAdmission s) := by
  unfold Machine.execRemopAdmission
  dsimp only
  split
  · exact h.next
  · split
    · exact h.next
    · split
      · exact h.removeArrival.discard.next
      · exact h.removeArrival.place.next

theorem MemoriesAreCanonical.execStealRequest (h : MemoriesAreCanonical s) : YieldsCanonical (execStealRequest s) := by
  unfold Machine.execStealRequest
  dsimp only
  split
  · split
    · exact h.next
    · split
      · exact h.next
      · exact h.setCore.coreToCore.next
  · exact h.next

theorem MemoriesAreCanonical.execStealAnswer (h : MemoriesAreCanonical s) : YieldsCanonical (execStealAnswer s) := by
  unfold Machine.execStealAnswer
  dsimp only
  split
  next e =>
    split
    · exact (h.takeItem.snd e).coreToCore.next
    · split
      · exact (h.takeItem.snd e).coreToCore.next
      · split
        · exact (h.takeItem.snd e).coreToCore.next
        · exact .ite (h.takeItem.snd e).setCore.coreToCore.next (h.takeItem.snd e).setCore.coreToCore.next
  next e1 => exact (h.takeItem.snd e1).next

theorem MemoriesAreCanonical.fetchImage {c hd : Nat} (h : MemoriesAreCanonical s) : MemoriesAreCanonical (s.fetchImage c hd) := by
  unfold State.fetchImage
  split
  · exact h
  · split
    · exact h
    · exact h.onCore.coreToCore

theorem MemoriesAreCanonical.execStealReceive (h : MemoriesAreCanonical s) : YieldsCanonical (execStealReceive s) := by
  unfold Machine.execStealReceive
  dsimp only
  split
  next e =>
    split
    · exact (h.takeItem.snd e).onCore.onCore.next
    · exact .next (.ite (h.takeItem.snd e).onCore.pushRec.fetchImage (h.takeItem.snd e).onCore.pushRec)
  next e1 => exact (h.takeItem.snd e1).next

/-! ### Crowns -/

theorem MemoriesAreCanonical.onCrown {c hd : Nat} {f : CrownSlot → CrownSlot} (h : MemoriesAreCanonical s) :
    MemoriesAreCanonical (s.onCrown c hd f) := h.onCore

theorem MemoriesAreCanonical.freezeDone {c sl hd d : Nat} (h : MemoriesAreCanonical s) : MemoriesAreCanonical (s.freezeDone c sl hd d) := by
  refine .finishPut (.setThread ?_)
  dsimp only
  split
  · exact h
  · split
    · exact h
    · exact .ite h (.ite h.onCrown h.onCrown.onColumn)

theorem MemoriesAreCanonical.execFreeze {d a b : Nat} (h : MemoriesAreCanonical s) : YieldsCanonical (execFreeze d a b s) := by
  refine h.guarded fun _ _ => ?_
  dsimp only
  split
  · exact h.trap
  · split
    · exact h.stay
    · split
      · exact h.stay
      · split
        · split
          · exact .freezeDone (h.setCore.onThread.foldl fun _ _ h => h.coreToCore)
          · exact .onThread (.await (h.setCore.onThread.foldl fun _ _ h => h.coreToCore))
        · split
          · exact .freezeDone (h.setCore.onThread.foldl fun _ _ h => h.coreToCore)
          · exact .onThread (.await (h.setCore.onThread.foldl fun _ _ h => h.coreToCore))

theorem MemoriesAreCanonical.imageConfirmed {c hd member : Nat} {spilled : Bool} (h : MemoriesAreCanonical s) :
    MemoriesAreCanonical (s.imageConfirmed c hd member spilled) := by
  unfold State.imageConfirmed
  dsimp only
  split
  · split
    · split
      · exact h.onCrown.freezeDone
      · exact h.onCrown
    · exact h.onCrown
  · exact h.onCrown

theorem MemoriesAreCanonical.execImageInstall (h : MemoriesAreCanonical s) : YieldsCanonical (execImageInstall s) := by
  unfold Machine.execImageInstall
  dsimp only
  split
  · split
    next e1 => exact (h.spilled _ e1).takeItem.coreToCore.next
    · split
      · exact h.inCycles.next
      · exact h.takeItem.onCore.coreToCore.next
  · exact h.next

theorem MemoriesAreCanonical.execImageFetch (h : MemoriesAreCanonical s) : YieldsCanonical (execImageFetch s) := by
  unfold Machine.execImageFetch
  dsimp only
  split
  next e =>
    split
    next e1 => exact ((h.takeItem.snd e).spilled _ e1).next
    · exact (h.takeItem.snd e).onCrown.coreToCore.next
  next e1 => exact (h.takeItem.snd e1).next

theorem MemoriesAreCanonical.imageArrived {c hd : Nat} {img : Option Image} (h : MemoriesAreCanonical s) :
    MemoriesAreCanonical (s.imageArrived c hd img) := h.onCrown.coreToCore

theorem MemoriesAreCanonical.execDealerSendSheaf (h : MemoriesAreCanonical s) : YieldsCanonical (execDealerSendSheaf s) := by
  unfold Machine.execDealerSendSheaf
  dsimp only
  split
  · split
    · exact .ite h.next (.ite h.onCrown.next (.ite h.next h.onCrown.coreToCore.next))
    · exact h.next
  · exact h.next

theorem MemoriesAreCanonical.sheafArrived {m : Nat} {r : Rec} {home : Nat} (h : MemoriesAreCanonical s) :
    MemoriesAreCanonical (s.sheafArrived m r home) := .ite h.notify h.pushRec.onCrown
theorem MemoriesAreCanonical.placeTiller {c sl : Nat} {th : Thread} {d : Nat} {idx : Word} (h : MemoriesAreCanonical s) :
    MemoriesAreCanonical (s.placeTiller c sl th d idx) := .jumpTo (.ite h.frame.setSlot h.frame.setSlot.put)
theorem MemoriesAreCanonical.dropFirst {c uid : Nat} (h : MemoriesAreCanonical s) : MemoriesAreCanonical (s.dropFirst c uid) := h.onCore

theorem MemoriesAreCanonical.execTillerAdmission (h : MemoriesAreCanonical s) : YieldsCanonical (execTillerAdmission s) := by
  unfold Machine.execTillerAdmission
  dsimp only
  split
  · exact h.next
  · split
    · split
      · exact h.next
      · split
        · exact h.next
        · split
          · exact h.fetchImage.next
          · split
            · exact h.fetchImage.next
            · split
              · split
                · exact h.next
                · exact .next (.ite h.onColumn.dropFirst.placeTiller.placeTiller h.onColumn.dropFirst.placeTiller)
              · exact h.next
    · exact h.next

theorem MemoriesAreCanonical.retire {hd : Nat} (h : MemoriesAreCanonical s) : MemoriesAreCanonical (s.retire hd) := by
  unfold State.retire
  dsimp only
  split
  · exact h
  · exact h.onColumn.onCore.foldl fun _ _ h => h.coreToCore

theorem MemoriesAreCanonical.execJoinDecrement (h : MemoriesAreCanonical s) : YieldsCanonical (execJoinDecrement s) := by
  unfold Machine.execJoinDecrement
  dsimp only
  split
  next e =>
    split
    next e1 => exact ((h.takeItem.snd e).spilled _ e1).next
    · split
      · exact .next (.ite (h.takeItem.snd e).onCrown.retire (h.takeItem.snd e).onCrown)
      · exact (h.takeItem.snd e).onCrown.next
  next e1 => exact (h.takeItem.snd e1).next

theorem MemoriesAreCanonical.crownThreadEnded {hd : Nat} (h : MemoriesAreCanonical s) : MemoriesAreCanonical (s.crownThreadEnded hd) := by
  unfold State.crownThreadEnded
  split
  · exact .ite h.retire h.onCrown
  · exact h

theorem MemoriesAreCanonical.execCrownRelease (h : MemoriesAreCanonical s) : YieldsCanonical (execCrownRelease s) := by
  unfold Machine.execCrownRelease
  dsimp only
  split
  next e => exact .ite (h.takeItem.snd e).notify.next (h.takeItem.snd e).onCore.next
  next e1 => exact (h.takeItem.snd e1).next

theorem MemoriesAreCanonical.joinAt {hd : Nat} {test : Bool} (h : MemoriesAreCanonical s) : MemoriesAreCanonical (s.joinAt hd test).1 := by
  unfold State.joinAt
  split
  · exact h
  · split
    · exact h.retire
    · split
      · exact h
      · exact h

theorem MemoriesAreCanonical.joinAnswered {c sl d : Nat} {test : Bool} {a : Ans} (h : MemoriesAreCanonical s) :
    MemoriesAreCanonical (s.joinAnswered c sl d test a) := by
  unfold State.joinAnswered
  dsimp only
  split
  · exact h.trap
  · exact .finishPut (.ite h.onThread h)
  · exact h.stay

theorem MemoriesAreCanonical.join {c sl d a : Nat} {test : Bool} {i : Instr} (h : MemoriesAreCanonical s) :
    MemoriesAreCanonical (s.join c sl d a test i) := by
  unfold State.join
  dsimp only
  exact .ite h.trap (.ite h.joinAt.joinAnswered h.coreToCore.await)

/-! ### Flags -/

theorem MemoriesAreCanonical.orFlags {c sl fl : Nat} (h : MemoriesAreCanonical s) : MemoriesAreCanonical (s.orFlags c sl fl) := h.onThread

/-! ### Vector operations -/

theorem MemoriesAreCanonical.lanewise {names : List Nat} {d m w k : Nat} {f : Nat → Nat → Nat → FRes} (h : MemoriesAreCanonical s) :
    YieldsCanonical (lanewise s names d m w k f) := h.guarded fun _ _ => h.setReg.orFlags.finish.turns
theorem MemoriesAreCanonical.whole {names : List Nat} {d : Nat} {f : Nat → Nat → VWord} (h : MemoriesAreCanonical s) :
    YieldsCanonical (whole s names d f) := h.guarded fun _ _ => h.setReg.finish
theorem MemoriesAreCanonical.vf2 {d a b m k : Nat} {ty : FType} {op : Nat → Nat → FRes} (h : MemoriesAreCanonical s) :
    YieldsCanonical (vf2 s d a b m k ty op) := h.lanewise
theorem MemoriesAreCanonical.vf1 {d a m k : Nat} {ty : FType} {op : Nat → FRes} (h : MemoriesAreCanonical s) :
    YieldsCanonical (vf1 s d a m k ty op) := h.lanewise
theorem MemoriesAreCanonical.vfma {d a b c m : Nat} {ty : FType} {rnd : Round} {negP negC : Bool} (h : MemoriesAreCanonical s) :
    YieldsCanonical (vfma s d a b c m ty rnd negP negC) := h.lanewise
theorem MemoriesAreCanonical.vi2 {d a b m : Nat} {w : LaneW} {op : Nat → Nat → Int} (h : MemoriesAreCanonical s) :
    YieldsCanonical (vi2 s d a b m w op) := h.lanewise
theorem MemoriesAreCanonical.vcmp {md a b m w : Nat} {rel : Nat → Nat → Bool × Nat} (h : MemoriesAreCanonical s) :
    YieldsCanonical (vcmp s md a b m w rel) := h.guarded fun _ _ => h.onThread.orFlags.finish

theorem MemoriesAreCanonical.vcmpTy {md a b m : Nat} {ty : CmpT} {ordering : Bool} {rel : Option Ordering → Bool}
    (h : MemoriesAreCanonical s) : YieldsCanonical (vcmpTy s md a b m ty ordering rel) := by
  unfold Machine.vcmpTy
  split
  · exact h.vcmp
  · exact h.vcmp

theorem MemoriesAreCanonical.reduce {d a : Nat} {f : Nat → Nat → FRes} (h : MemoriesAreCanonical s) :
    YieldsCanonical (reduce s d a f) := h.guarded fun _ _ => h.setReg.orFlags.finish
theorem MemoriesAreCanonical.permute {names : List Nat} {d : Nat} {w : LaneW} {f : Nat → Nat → Nat → Nat} (h : MemoriesAreCanonical s) :
    YieldsCanonical (permute s names d w f) := h.whole

theorem MemoriesAreCanonical.vpl {d a : Nat} {pw : PlaneW} {f : Nat → Nat} (h : MemoriesAreCanonical s) :
    YieldsCanonical (vpl s d a pw f) := by
  refine h.guarded fun _ _ => .finish ?_
  split
  · exact h.setReg.setReg
  · exact h.setReg

/-! ### Memory instructions and their answers -/

theorem MemoriesAreCanonical.readFrozen {a : Access} (h : MemoriesAreCanonical s) : MemoriesAreCanonical (s.readFrozen a).1 := by
  unfold State.readFrozen
  split
  next e => exact h.performColumn.fst e

theorem MemoriesAreCanonical.localNow {c sl : Nat} {a : Access} (h : MemoriesAreCanonical s) :
    MemoriesAreCanonical (s.localNow c sl a).1 := by
  unfold State.localNow
  dsimp only
  split
  · split
    · exact h.performColumn
    · split
      · refine .setThread ?_
        split
        · exact h
        · exact h.readFrozen
      · split
        · exact h
        · exact h.readFrozen
  · exact h.performColumn

theorem MemoriesAreCanonical.unwatch {c sl : Nat} (h : MemoriesAreCanonical s) : MemoriesAreCanonical (s.unwatch c sl) := h
theorem MemoriesAreCanonical.unwatchBut {c sl reg : Nat} (h : MemoriesAreCanonical s) : MemoriesAreCanonical (s.unwatchBut c sl reg) := h
theorem MemoriesAreCanonical.move {c sl col : Nat} {i : Instr} (h : MemoriesAreCanonical s) :
    MemoriesAreCanonical (s.move c sl col i) := .ite h.stay h.unwatch.onThread.coreToCore

theorem MemoriesAreCanonical.putLoad {c sl d : Nat} {w : Width} {bs : List Byte} (h : MemoriesAreCanonical s) :
    MemoriesAreCanonical (s.putLoad c sl d w bs) := by
  unfold State.putLoad
  split
  · exact h.setReg
  · exact h.put

theorem MemoriesAreCanonical.putLanes {c sl d n : Nat} {p : Plan} {got : List (Nat × AccResult)} (h : MemoriesAreCanonical s) :
    MemoriesAreCanonical (s.putLanes c sl d n p got) := h.setReg

theorem MemoriesAreCanonical.writeBack {c sl : Nat} {i : Instr} {p : Plan} {got : List (Nat × AccResult)} {below : Nat}
    (h : MemoriesAreCanonical s) : MemoriesAreCanonical (s.writeBack c sl i p got below) := by
  unfold State.writeBack
  dsimp only
  split
  · exact h.putLoad
  · exact .ite h h.putLoad
  · exact h.foldl fun _ _ h => h.setReg
  · exact h.foldl fun _ _ h => h.setReg
  · exact h.setReg
  · exact h.putLanes
  · exact h.putLanes
  · exact h.put
  · exact h.put
  · exact h.put
  · exact h.put
  · exact h.put
  · exact h.put
  · exact h.put
  · exact h.put
  · exact h.put
  · exact h.put
  · exact h.put
  · exact h.put
  · exact h

theorem MemoriesAreCanonical.runTrap {c sl f : Nat} {k : Cause} {addr : Word} (h : MemoriesAreCanonical s) :
    MemoriesAreCanonical (s.runTrap c sl f k addr) := h.onThread.enterTrap
theorem MemoriesAreCanonical.parkPoison {c sl : Nat} {ea : Word} {r : AccResult} (h : MemoriesAreCanonical s) :
    MemoriesAreCanonical (s.parkPoison c sl ea r) := h.park
theorem MemoriesAreCanonical.onHandle {c sl hd : Nat} {f : Handle → Handle} (h : MemoriesAreCanonical s) :
    MemoriesAreCanonical (s.onHandle c sl hd f) := h.onThread
theorem MemoriesAreCanonical.takeTurn {c sl : Nat} (h : MemoriesAreCanonical s) : MemoriesAreCanonical (s.takeTurn c sl) := h
theorem MemoriesAreCanonical.resumeNow {c sl : Nat} (h : MemoriesAreCanonical s) :
    MemoriesAreCanonical (s.resumeNow c sl) := h.onThread.takeTurn
theorem MemoriesAreCanonical.rereadIn {c sl d : Nat} (h : MemoriesAreCanonical s) :
    MemoriesAreCanonical (s.rereadIn c sl d) := h.onThread.inCycles
theorem MemoriesAreCanonical.ringAgain {c sl : Nat} (h : MemoriesAreCanonical s) : MemoriesAreCanonical (s.ringAgain c sl) := h.rereadIn

theorem MemoriesAreCanonical.ringDone {c sl : Nat} {i : Instr} {bs : List Byte} (h : MemoriesAreCanonical s) :
    MemoriesAreCanonical (s.ringDone c sl i bs) := by
  unfold State.ringDone
  dsimp only
  split
  · exact h.onThread.finish
  · exact .ite h.onHandle.finish h.onHandle.ringAgain
  · exact .ite h.onHandle.finish h.onHandle.ringAgain
  · exact h.onHandle.finish
  · exact h.onHandle.finish
  · split
    · exact h.onHandle.finishPut
    · exact h.onHandle.finish
  · exact .ite h.onHandle.finish h.onThread.rereadIn
  · exact h.finish

theorem MemoriesAreCanonical.completeMem {c sl : Nat} {i : Instr} {p : Plan} {q : Pending} (h : MemoriesAreCanonical s) :
    MemoriesAreCanonical (s.completeMem c sl i p q) := by
  unfold State.completeMem
  dsimp only
  split
  · exact .ite h.writeBack.runTrap h.trap
  · exact h.parkPoison
  · split
    · exact h.writeBack.runTrap
    · exact .ringDone (.ite h.writeBack.onThread h.writeBack)

theorem MemoriesAreCanonical.outstanding {c sl : Nat} {i : Instr} {n : Nat} {stop : Option (Nat × Cause × Word)} {start : Option Word}
    (h : MemoriesAreCanonical s) : MemoriesAreCanonical (s.outstanding c sl i n stop start) := h.onThread

theorem MemoriesAreCanonical.walkFor {c sl : Nat} {i : Instr} {va : Nat} (h : MemoriesAreCanonical s) :
    MemoriesAreCanonical (s.walkFor c sl i va) := h.onThread.askWalk

theorem MemoriesAreCanonical.runBlock {c sl : Nat} {i : Instr} {a : Access} {r : AccResult} (h : MemoriesAreCanonical s) :
    MemoriesAreCanonical (s.runBlock c sl i a r) := by
  unfold State.runBlock
  split
  · exact h.setReg
  · exact h

theorem MemoriesAreCanonical.gotAnswer {c sl : Nat} {a : Access} {r : AccResult} {ready : Nat} (h : MemoriesAreCanonical s) :
    MemoriesAreCanonical (s.gotAnswer c sl a r ready) := by
  unfold State.gotAnswer
  split
  · exact h.runBlock.onThread
  · exact h

theorem MemoriesAreCanonical.usePort {c : Nat} (h : MemoriesAreCanonical s) : MemoriesAreCanonical (s.usePort c) := h.onColumn
theorem MemoriesAreCanonical.onPort {c at_ : Nat} {a : Access} (h : MemoriesAreCanonical s) :
    MemoriesAreCanonical (s.onPort c at_ a) := h.onColumn

theorem MemoriesAreCanonical.throughPort {c sl from_ : Nat} {a : Access} (h : MemoriesAreCanonical s) :
    MemoriesAreCanonical (s.throughPort c sl from_ a).1 := by
  unfold State.throughPort
  dsimp only
  split
  · exact h.usePort.localNow.gotAnswer
  · exact h.onPort

theorem MemoriesAreCanonical.issueAccesses {c sl : Nat} {i : Instr} {p : Plan} {accs : List Access} {stop : Option (Nat × Cause × Word)}
    (h : MemoriesAreCanonical s) : MemoriesAreCanonical (s.issueAccesses c sl i p accs stop) := by
  unfold State.issueAccesses
  dsimp only
  split
  next x _ a _ =>
    split
    · exact h.outstanding.requestPort
    · split
      · exact h.usePort.localNow.completeMem
      · refine .onThread (h.outstanding.foldlFst fun x a h => ?_)
        split
        · exact h.throughPort
        · exact h.requestPort
  next x _ _ _ =>
    refine .onThread (h.outstanding.foldlFst fun x a h => ?_)
    split
    · exact h.throughPort
    · exact h.requestPort
  · exact .ite h.onThread.requestHome.finish h.outstanding.requestHome
  · exact h.outstanding.foldl fun _ _ h => h.requestHome
  · exact h.outstanding.foldl fun _ _ h => h.requestBank

theorem MemoriesAreCanonical.access {c sl : Nat} {i : Instr} {p : Plan} (h : MemoriesAreCanonical s) :
    MemoriesAreCanonical (s.access c sl i p) := by
  unfold State.access
  dsimp only
  split
  · split
    · exact h.onThread.finish
    · split
      · exact h.walkFor
      · split
        · exact h.trap
        · split
          · split
            · exact h.runTrap
            · exact .ite h.stay h.writeBack.finish
          · split
            · exact h.move
            · split
              · exact h.stay
              · split
                · exact .ite h.failTiller h.issueAccesses
                · exact h.issueAccesses
  · split
    · exact h.onThread.finish
    · split
      · exact h.walkFor
      · split
        · exact h.trap
        · split
          · split
            · exact h.runTrap
            · exact .ite h.stay h.writeBack.finish
          · split
            · exact h.move
            · split
              · exact h.stay
              · split
                · exact .ite h.failTiller h.issueAccesses
                · exact h.issueAccesses

theorem MemoriesAreCanonical.memory {names writes : List Nat} {i : Instr} (h : MemoriesAreCanonical s) :
    YieldsCanonical (memory names writes i s) := by
  refine h.guarded fun _ _ => ?_
  split
  · exact h.access
  · exact h.trap
  · exact h.finish

theorem MemoriesAreCanonical.ringWait {i : Instr} (h : MemoriesAreCanonical s) : YieldsCanonical (ringWait i s) := by
  refine h.guarded fun _ _ => ?_
  split
  · exact .ite h.finish h.onThread.access
  · exact h.trap
  · exact h.finish

/-! ### Barriers, monitors, fences, links and MEMOP -/

theorem MemoriesAreCanonical.bar {c sl : Nat} {b : BarSel} {g : Nat} {f : Nat → List Nat → Nat → State} (h : MemoriesAreCanonical s)
    (hf : ∀ n ms k, MemoriesAreCanonical (f n ms k)) : MemoriesAreCanonical (s.bar c sl b g f) := by
  unfold State.bar
  dsimp only
  split
  · exact h.trap
  · split
    · exact hf _ _ _
    · exact h.trap

theorem MemoriesAreCanonical.homeTurns {c sl home : Nat} (h : MemoriesAreCanonical s) :
    MemoriesAreCanonical (s.homeTurns c sl home) := .ite h.answerTurns h
theorem MemoriesAreCanonical.arriveAt {c sl g bn : Nat} {ms : List Nat} {i : Instr} (h : MemoriesAreCanonical s) :
    MemoriesAreCanonical (s.arriveAt c sl g bn ms i) := .ite h.trap (.ite h.stay h.coreToCore.await.homeTurns)
theorem MemoriesAreCanonical.waitAt {c sl g bn j : Nat} (h : MemoriesAreCanonical s) :
    MemoriesAreCanonical (s.waitAt c sl g bn j) := .ite h.setThread.onThread.finish h.setThread.onThread.stay

theorem MemoriesAreCanonical.barAnswered {c sl : Nat} {a : Ans} (h : MemoriesAreCanonical s) :
    MemoriesAreCanonical (s.barAnswered c sl a) := by
  refine .after ?_
  dsimp only
  split
  · exact h.trap
  · exact h.onThread.finish
  · exact h.onThread
  · exact h.finish
  · exact h

theorem MemoriesAreCanonical.sendPhase {home g bn ph : Nat} (h : MemoriesAreCanonical s) :
    MemoriesAreCanonical (s.sendPhase home g bn ph) := h.foldl fun _ _ h => h.coreToCore

theorem MemoriesAreCanonical.cellTurn {row : Instr} {f : State → Content → State} (h : MemoriesAreCanonical s)
    (hf : ∀ s y, MemoriesAreCanonical s → MemoriesAreCanonical (f s y)) : MemoriesAreCanonical (s.cellTurn row f) := by
  unfold State.cellTurn
  dsimp only
  split
  · split
    · exact h
    · split
      · split
        · exact h.inCycles
        · split
          next e4 => exact h.takeItem.spilled _ e4
          · exact hf _ _ h.takeItem.onCore
      · split
        · exact h.inCycles
        · split
          next e4 => exact h.takeItem.spilled _ e4
          · exact hf _ _ h.takeItem.onCore
  · exact h

theorem MemoriesAreCanonical.applyArrive {x : Content} (h : MemoriesAreCanonical s) : MemoriesAreCanonical (s.applyArrive x) := by
  unfold State.applyArrive
  dsimp only
  split
  · exact .ite h.coreToCore (.coreToCore (.ite h.onCore.sendPhase h.onCore))
  · exact h

theorem MemoriesAreCanonical.applyInit {x : Content} (h : MemoriesAreCanonical s) : MemoriesAreCanonical (s.applyInit x) := by
  unfold State.applyInit
  dsimp only
  split
  · exact .ite h.coreToCore h.onCore.sendPhase.coreToCore
  · exact h

theorem MemoriesAreCanonical.execPhaseNotice (h : MemoriesAreCanonical s) : YieldsCanonical (execPhaseNotice s) := by
  unfold Machine.execPhaseNotice
  split
  next e =>
    split
    next e1 => exact ((h.takeItem.snd e).spilled _ e1).next
    · split
      · exact (h.takeItem.snd e).onCore.next
      · exact (h.takeItem.snd e).next
  next e1 => exact (h.takeItem.snd e1).next

theorem MemoriesAreCanonical.homeOp {c sl : Nat} {ea : Word} {need : Need} {op : AccOp} {i : Instr} {bad : Cause → State}
    (h : MemoriesAreCanonical s) (hbad : ∀ k, MemoriesAreCanonical (bad k)) : MemoriesAreCanonical (s.homeOp c sl ea need op i bad) := by
  unfold State.homeOp
  split
  · exact hbad _
  · exact h.walkFor
  · exact h.outstanding.requestHome

theorem MemoriesAreCanonical.execMonArm {a : Nat} (h : MemoriesAreCanonical s) : YieldsCanonical (execMonArm a s) := by
  refine h.guarded fun _ _ => ?_
  dsimp only
  split
  · exact h.trap
  · exact h.walkFor
  · exact h.frame.onThread.outstanding.requestHome

theorem MemoriesAreCanonical.execMonWait {d : Nat} (h : MemoriesAreCanonical s) : YieldsCanonical (execMonWait d s) := by
  refine h.guarded fun _ _ => ?_
  split
  · exact h.stay
  · exact h.onThread.finishPut
  · exact h.finishPut

theorem MemoriesAreCanonical.fireMonitor {c sl reg cause : Nat} (h : MemoriesAreCanonical s) :
    MemoriesAreCanonical (s.fireMonitor c sl reg cause) := .ite h (.ite h.onThread.after h.onThread)
theorem MemoriesAreCanonical.fence {scope : Scope} (h : MemoriesAreCanonical s) :
    YieldsCanonical (fence scope s) := h.guarded fun _ _ => .ite h.stay h.finish

theorem MemoriesAreCanonical.execSkMul {d a b group : Nat} (h : MemoriesAreCanonical s) : YieldsCanonical (execSkMul d a b group s) := by
  refine h.guarded fun _ _ => .ite h.trap ?_
  dsimp only
  split
  · exact h.trap
  · split
    · exact h.trap
    · split
      · exact h.trap
      · exact .ite h.stay h.ship.await

theorem MemoriesAreCanonical.numberLink {kc ks g : Nat} {p : Word} (h : MemoriesAreCanonical s) :
    MemoriesAreCanonical (s.numberLink kc ks g p) := by
  unfold State.numberLink
  dsimp only
  split
  · exact .ite h.coreToCore (h.frame.onThread.foldl fun _ _ h => h.ship)
  · exact h.coreToCore

theorem MemoriesAreCanonical.wakeLink {c g : Nat} (h : MemoriesAreCanonical s) :
    MemoriesAreCanonical (s.wakeLink c g) := h.foldl fun _ _ h => .ite h.after h

theorem MemoriesAreCanonical.execLinkValueDelivery (h : MemoriesAreCanonical s) : YieldsCanonical (execLinkValueDelivery s) := by
  unfold Machine.execLinkValueDelivery
  dsimp only
  split
  next e =>
    split
    next e1 => exact ((h.takeItem.snd e).spilled _ e1).next
    · refine .next (.coreToCore ?_)
      split
      · exact (h.takeItem.snd e).onCore.wakeLink
      · exact h.takeItem.snd e
  next e1 => exact (h.takeItem.snd e1).next

theorem MemoriesAreCanonical.linkAcked {c sl : Nat} {v : Word} (h : MemoriesAreCanonical s) :
    MemoriesAreCanonical (s.linkAcked c sl v) := by
  unfold State.linkAcked
  dsimp only
  split
  · exact .ite h.finishPut.after h.onThread
  · exact h

theorem MemoriesAreCanonical.execSkLink {d group : Nat} (h : MemoriesAreCanonical s) : YieldsCanonical (execSkLink d group s) := by
  refine h.guarded fun _ _ => ?_
  split
  · exact h.trap
  · split
    · exact h.onThread.finishPut
    · exact h.stay

theorem MemoriesAreCanonical.pinLines {c sl a b : Nat} {op : AccOp} {i : Instr} (h : MemoriesAreCanonical s) :
    MemoriesAreCanonical (s.pinLines c sl a b op i) := .ite h.trap (.ite h.trap (.ite h.finish (h.homeOp fun _ => h.trap)))

theorem MemoriesAreCanonical.execMemopPf {a : Nat} (h : MemoriesAreCanonical s) : YieldsCanonical (execMemopPf a s) := by
  refine h.guarded fun _ _ => .ite h.trap ?_
  split
  · exact h.finish
  · exact h.walkFor
  · exact h.requestHome.finish

theorem MemoriesAreCanonical.unregister {c sl reg : Nat} (h : MemoriesAreCanonical s) : MemoriesAreCanonical (s.unregister c sl reg) := h

theorem MemoriesAreCanonical.cancelOlder {c sl : Nat} (h : MemoriesAreCanonical s) : MemoriesAreCanonical (s.cancelOlder c sl) := by
  unfold State.cancelOlder
  split
  · exact h.unwatchBut
  · exact h.unwatch

theorem MemoriesAreCanonical.completeHomeOp {c sl : Nat} {i : Instr} {r : AccResult} (h : MemoriesAreCanonical s) :
    MemoriesAreCanonical (s.completeHomeOp c sl i r) := by
  unfold State.completeHomeOp
  dsimp only
  split
  · split
    · exact h.trap
    · exact h.finishPut
  · split
    · exact h.unregister.onThread.trap
    · exact h.trap
    · exact h.cancelOlder.onThread.finish
  · split
    · exact h.trap
    · exact h.onThread.resumeNow
  · split
    · exact h.trap
    · exact h.onThread.resumeNow
  · split
    · exact h.trap
    · exact h.finish
  · split
    · exact h.trap
    · exact h.finish
  · exact h.finish

/-! ### Lines, ways and the home of a line -/

theorem MemoriesAreCanonical.writeSector {tier : Bool} {l j : Nat} {bs : List Byte} {x : LineSector} (h : MemoriesAreCanonical s) :
    MemoriesAreCanonical (s.writeSector tier l j bs x) := h.tierWrite.frame
theorem MemoriesAreCanonical.writeLine {x : Line} (h : MemoriesAreCanonical s) :
    MemoriesAreCanonical (s.writeLine x) := h.foldl fun _ _ h => .ite h.writeSector h

theorem MemoriesAreCanonical.leaveWay {cl w : Nat} {x : Line} (h : MemoriesAreCanonical s) : MemoriesAreCanonical (s.leaveWay cl w x) := by
  obtain ⟨hbank, hcol, hhbm, hlp⟩ := h
  refine ⟨Memory.wf_foldl hbank fun m p hm => ?_, hcol, hhbm, hlp⟩
  split
  · exact Memory.wf_writeN _ _ _ hm
  · exact hm

theorem MemoriesAreCanonical.readWay {cl w : Nat} {x : Line} {bs : List Nat} {pc : Word} {eaten : Bool} (h : MemoriesAreCanonical s) :
    MemoriesAreCanonical (s.readWay cl w x bs pc eaten).1 := h.foldlFst fun _ _ h => .ite h.frame h.frame.record
theorem MemoriesAreCanonical.newWay {cl w : Nat} (h : MemoriesAreCanonical s) : MemoriesAreCanonical (s.newWay cl w) := h

theorem MemoriesAreCanonical.writeWay {cl w : Nat} {x : Line} (h : MemoriesAreCanonical s) :
    MemoriesAreCanonical (s.writeWay cl w x).1 := by
  unfold State.writeWay
  split
  · exact .writeLine (h.foldlFst fun _ _ h => .ite h.frame h.frame.record)
  · exact h

theorem MemoriesAreCanonical.allocate {cl w : Nat} {x : Line} (h : MemoriesAreCanonical s) : MemoriesAreCanonical (s.allocate cl w x) := by
  refine .onCluster (.newWay ?_)
  split
  · exact h.writeWay.leaveWay
  · exact h

theorem MemoriesAreCanonical.tellMonitor {home cause : Nat} {w : Watch} (h : MemoriesAreCanonical s) :
    MemoriesAreCanonical (s.tellMonitor home cause w) := h.coreToCore
theorem MemoriesAreCanonical.fireLine {home l : Nat} {tier : Bool} {cause : Nat} (h : MemoriesAreCanonical s) :
    MemoriesAreCanonical (s.fireLine home l tier cause) := h.onCore.foldl fun _ _ h => h.tellMonitor
theorem MemoriesAreCanonical.dropCopy {st l : Nat} {tier : Bool} (h : MemoriesAreCanonical s) :
    MemoriesAreCanonical (s.dropCopy st l tier) := h.onStack

theorem MemoriesAreCanonical.owes {g : Agent} {uid n : Nat} (h : MemoriesAreCanonical s) : MemoriesAreCanonical (s.owes g uid n) := by
  unfold State.owes
  split
  · exact h.onThread
  · exact h.onCore
  · split
    · exact h
    · exact h
  · exact h

theorem MemoriesAreCanonical.homeReply {a : Access} {len : Nat} {c : Content} (h : MemoriesAreCanonical s) :
    MemoriesAreCanonical (s.homeReply a len c) := by
  unfold State.homeReply
  dsimp only
  split
  · exact h.toDevice
  · exact .ite h.notify h.shipAfter

theorem MemoriesAreCanonical.tellDone {a : Access} {r : AccResult} (h : MemoriesAreCanonical s) :
    MemoriesAreCanonical (s.tellDone a r) := h.homeReply
theorem MemoriesAreCanonical.sayDone {a : Access} {r : AccResult} (h : MemoriesAreCanonical s) :
    MemoriesAreCanonical (s.sayDone a r) := .ite h.frame h.tellDone

theorem MemoriesAreCanonical.paid {g : Agent} {uid : Nat} (h : MemoriesAreCanonical s) : MemoriesAreCanonical (s.paid g uid) := by
  unfold State.paid
  dsimp only
  split
  · exact h.onThread
  · exact h.onCore
  · split
    · split
      · exact h
      · split
        · exact h.frame.tellDone
        · exact h
    · exact h
  · exact h

theorem MemoriesAreCanonical.invalidateCopies {home l : Nat} {tier : Bool} {g : Agent} {uid : Nat} (h : MemoriesAreCanonical s) :
    MemoriesAreCanonical (s.invalidateCopies home l tier g uid) := h.foldl fun _ _ h => .ite h (.ite h.dropCopy h.owes.ship)

theorem MemoriesAreCanonical.execCopyInvalidation (h : MemoriesAreCanonical s) : YieldsCanonical (execCopyInvalidation s) := by
  unfold Machine.execCopyInvalidation
  split
  next e => exact (h.takeItem.snd e).dropCopy.ship.next
  next e1 => exact (h.takeItem.snd e1).next

theorem MemoriesAreCanonical.touchSends {home l : Nat} {tier : Bool} (h : MemoriesAreCanonical s) :
    MemoriesAreCanonical (s.touchSends home l tier) := h.onCluster
theorem MemoriesAreCanonical.wrote {a : Access} (h : MemoriesAreCanonical s) :
    MemoriesAreCanonical (s.wrote a) := h.onCore.fireLine.invalidateCopies.touchSends
theorem MemoriesAreCanonical.homeAnswer {a : Access} {r : AccResult} {x : Option Line} (h : MemoriesAreCanonical s) :
    MemoriesAreCanonical (s.homeAnswer a r x) := .ite (.sayDone (.ite h.dropCopy h)) h.shipAfter

theorem MemoriesAreCanonical.execStackCopyFill (h : MemoriesAreCanonical s) : YieldsCanonical (execStackCopyFill s) := by
  unfold Machine.execStackCopyFill
  dsimp only
  split
  next e =>
    split
    · exact (h.takeItem.snd e).onStack.draw.onStack.ship.next
    · refine .next (.ship ?_)
      split
      · exact (h.takeItem.snd e).onStack
      · exact (h.takeItem.snd e).onStack.onStack
  next e1 => exact (h.takeItem.snd e1).next

theorem MemoriesAreCanonical.logSector {a : Access} {j : Nat} (h : MemoriesAreCanonical s) : MemoriesAreCanonical (s.logSector a j) := by
  unfold State.logSector
  dsimp only
  split
  · exact h
  · exact h.record
  · exact h.record
  · exact h.record

theorem MemoriesAreCanonical.performTier {a : Access} (h : MemoriesAreCanonical s) : MemoriesAreCanonical (s.performTier a).1 := by
  unfold State.performTier
  dsimp only
  split
  · exact h.foldl fun _ _ h => h.logSector
  · exact h.foldl fun _ _ h => h.logSector
  · exact h.foldl fun _ _ h => h.logSector
  · exact h.foldl fun _ _ h => h.logSector
  · split
    · exact h.foldl fun _ _ h => h.logSector
    · split
      · exact .wrote (.writeLine (h.foldl fun _ _ h => h.logSector))
      · exact h.foldl fun _ _ h => h.logSector

theorem MemoriesAreCanonical.holdHome {a : Access} {id d : Nat} (h : MemoriesAreCanonical s) :
    MemoriesAreCanonical (s.holdHome a id d) := h.inCycles

theorem MemoriesAreCanonical.leaveHome {a : Access} {id : Nat} (h : MemoriesAreCanonical s) : MemoriesAreCanonical (s.leaveHome a id) := by
  unfold State.leaveHome
  dsimp only
  split
  · exact h.takeItem.onCore
  · exact h.takeItem.onCore.frame

theorem MemoriesAreCanonical.askTier {a : Access} {id : Nat} (h : MemoriesAreCanonical s) :
    MemoriesAreCanonical (s.askTier a id) := .ite h.frame h.atCycle

theorem MemoriesAreCanonical.writeBackLine {a : Access} {id w : Nat} {x : Line} (h : MemoriesAreCanonical s) :
    MemoriesAreCanonical (s.writeBackLine a id w x) := by
  unfold State.writeBackLine
  dsimp only
  exact .ite h.leaveHome.writeWay.addItem.onCluster.inCycles h.leaveHome.homeAnswer

theorem MemoriesAreCanonical.invalidateLine {a : Access} {w : Option Nat} (h : MemoriesAreCanonical s) :
    MemoriesAreCanonical (s.invalidateLine a w) := by
  unfold State.invalidateLine
  dsimp only
  refine .invalidateCopies (.fireLine ?_)
  split
  · refine .onCluster ?_
    split
    · exact h.leaveWay
    · exact h
  · exact h

theorem MemoriesAreCanonical.performHome {a : Access} {id w : Nat} {x : Line} (h : MemoriesAreCanonical s) :
    MemoriesAreCanonical (s.performHome a id w x) :=
  .homeAnswer (.leaveHome (.ite (.wrote (.onCluster (.frame (.frame (h.foldlFst fun _ _ h => .ite h.frame h.frame.record))))) (.onCluster
      (.frame (.frame (h.foldlFst fun _ _ h => .ite h.frame h.frame.record))))))

theorem MemoriesAreCanonical.atHome {a : Access} {id : Nat} (h : MemoriesAreCanonical s) : MemoriesAreCanonical (s.atHome a id) := by
  unfold State.atHome
  dsimp only
  split
  · exact h.leaveHome.invalidateLine.homeAnswer
  · split
    · exact h.writeBackLine
    · exact h.leaveHome.homeAnswer
  · split
    · exact h.performHome
    · exact h.leaveHome.homeAnswer
  · split
    · exact .ite h.performHome h.askTier
    · split
      · exact h.leaveHome.homeAnswer
      · split
        · split
          · split
            · exact h.leaveHome.homeAnswer
            · exact h.allocate.performHome
          · exact h.askTier
        · exact h.askTier

theorem MemoriesAreCanonical.serveHome {a : Access} {id : Nat} (h : MemoriesAreCanonical s) :
    MemoriesAreCanonical (s.serveHome a id) := .ite h.holdHome h.atHome
theorem MemoriesAreCanonical.acceptHome {a : Access} {id : Nat} (h : MemoriesAreCanonical s) :
    MemoriesAreCanonical (s.acceptHome a id) := .ite h.frame.onCore.serveHome h.frame.onCore

theorem MemoriesAreCanonical.execHomeSliceAccess (h : MemoriesAreCanonical s) : YieldsCanonical (execHomeSliceAccess s) := by
  unfold Machine.execHomeSliceAccess
  dsimp only
  split
  · split
    · exact h.serveHome.next
    · split
      · exact h.inNs.next
      · split
        · exact h.holdHome.next
        · exact h.takeItem.homeReply.next
        · exact h.takeItem.homeReply.next
        · exact h.acceptHome.next
  · exact h.next

theorem MemoriesAreCanonical.execTierFill (h : MemoriesAreCanonical s) : YieldsCanonical (execTierFill s) := by
  unfold Machine.execTierFill
  dsimp only
  split
  · split
    · exact h.performTier.leaveHome.homeAnswer.next
    · split
      · split
        · exact h.performTier.leaveHome.homeAnswer.next
        · exact .ite h.leaveHome.homeAnswer.next h.onCluster.performTier.leaveHome.homeAnswer.next
      · split
        · exact .next (.homeAnswer (.leaveHome (h.foldl fun _ _ h => h.logSector)))
        · refine .next ?_
          split
          · exact .frame (.onCluster (h.foldl fun _ _ h => h.logSector))
          · exact .frame (.allocate (h.foldl fun _ _ h => h.logSector))
  · exact h.next

theorem MemoriesAreCanonical.execTierWriteAck (h : MemoriesAreCanonical s) : YieldsCanonical (execTierWriteAck s) := by
  unfold Machine.execTierWriteAck
  split
  next e => exact (h.takeItem.snd e).homeAnswer.next
  next e1 => exact (h.takeItem.snd e1).next

theorem MemoriesAreCanonical.sendLineRequest {core : Nat} {a : Access} (h : MemoriesAreCanonical s) :
    MemoriesAreCanonical (s.sendLineRequest core a) := by
  unfold State.sendLineRequest
  split
  · exact h.ship
  · exact h

theorem MemoriesAreCanonical.replayHome {core : Nat} {old a : Access} (h : MemoriesAreCanonical s) :
    MemoriesAreCanonical (s.replayHome core old a) := by
  unfold State.replayHome
  dsimp only
  split
  · exact h.onCore.sendHome.releaseBehind
  · exact h.sendHome

theorem MemoriesAreCanonical.execRehomeReplay (h : MemoriesAreCanonical s) : YieldsCanonical (execRehomeReplay s) := by
  unfold Machine.execRehomeReplay
  dsimp only
  split
  next e =>
    split
    · exact (h.takeItem.snd e).onCore.notify.next
    · split
      · exact (h.takeItem.snd e).onCore.sendLineRequest.next
      · exact (h.takeItem.snd e).onCore.replayHome.next
  next e1 => exact (h.takeItem.snd e1).next

theorem MemoriesAreCanonical.writeIdom {cl d mask : Nat} (h : MemoriesAreCanonical s) :
    MemoriesAreCanonical (s.writeIdom cl d mask) := .ite h (.ite h.onCluster h.onCluster.onCluster.inCycles)
theorem MemoriesAreCanonical.runPass {cl : Nat} {sel : Nat → Line → Bool} (h : MemoriesAreCanonical s) :
    MemoriesAreCanonical (s.runPass cl sel) := .onCluster (h.foldl fun _ _ h => h.leaveWay)
theorem MemoriesAreCanonical.loseWatches {core : Nat} {gone : Watch → Bool} (h : MemoriesAreCanonical s) :
    MemoriesAreCanonical (s.loseWatches core gone) := h.onCore.foldl fun _ _ h => h.tellMonitor

theorem MemoriesAreCanonical.enterWatch {hd : Nat} {w : Watch} (h : MemoriesAreCanonical s) : MemoriesAreCanonical (s.enterWatch hd w) := by
  refine .onCore ?_
  split
  · exact .ite h.setCore.tellMonitor h
  · exact h

theorem MemoriesAreCanonical.spurious {c sl : Nat} (h : MemoriesAreCanonical s) : MemoriesAreCanonical (s.spurious c sl) := by
  unfold State.spurious
  dsimp only
  split
  · refine .onThread ?_
    split
    · exact h.unwatch.enterWatch
    · exact h
  · exact h

theorem MemoriesAreCanonical.execMonitorRegistration (h : MemoriesAreCanonical s) : YieldsCanonical (execMonitorRegistration s) := by
  unfold Machine.execMonitorRegistration
  dsimp only
  split
  · split
    · exact h.inCycles.next
    · exact h.takeItem.homeReply.next
    · split
      · exact .next (.homeAnswer (.ite h.takeItem.tellMonitor h.takeItem.enterWatch))
      · exact h.takeItem.next
  · exact h.next

theorem MemoriesAreCanonical.onWalks {st : Nat} {f : List Walk → List Walk} (h : MemoriesAreCanonical s) :
    MemoriesAreCanonical (s.onWalks st f) := h.onStack
theorem MemoriesAreCanonical.beginWalk {ptbase : Word} {va id : Nat} (h : MemoriesAreCanonical s) :
    MemoriesAreCanonical (s.beginWalk ptbase va id) := h.inNs

theorem MemoriesAreCanonical.startWalks {st quadrant : Nat} (h : MemoriesAreCanonical s) :
    MemoriesAreCanonical (s.startWalks st quadrant) := by
  unfold State.startWalks
  dsimp only
  split
  · exact h
  · split
    · exact h
    · split
      · split
        · exact h.onWalks.beginWalk
        · exact h.onWalks
      · exact h.onWalks

theorem MemoriesAreCanonical.joinWalk {c : Nat} {ptbase : Word} {va id : Nat} (h : MemoriesAreCanonical s) :
    MemoriesAreCanonical (s.joinWalk c ptbase va id) := .ite h.onWalks h.onWalks.startWalks

theorem MemoriesAreCanonical.tellWalk {id : Nat} (h : MemoriesAreCanonical s) : MemoriesAreCanonical (s.tellWalk id) := by
  unfold State.tellWalk
  split
  · exact h.takeItem.ship
  · exact h

theorem MemoriesAreCanonical.execPageWalk (h : MemoriesAreCanonical s) : YieldsCanonical (execPageWalk s) := by
  unfold Machine.execPageWalk
  dsimp only
  split
  · split
    · exact h.joinWalk.next
    · split
      · exact h.tellWalk.next
      · exact .next (.startWalks (h.onWalks.foldl fun _ _ h => h.tellWalk))
  · exact h.next

theorem MemoriesAreCanonical.lineReady {col key : Nat} {f : Nat → Nat → State → State} (h : MemoriesAreCanonical s)
    (hf : ∀ c sl s, MemoriesAreCanonical s → MemoriesAreCanonical (f c sl s)) : MemoriesAreCanonical (s.lineReady col key f) :=
  h.onColumn.foldl fun _ _ h => .ite h (.ite (hf _ _ _ h) h.takeLine)

theorem MemoriesAreCanonical.lineFaulted {col key : Nat} {k : Cause} (h : MemoriesAreCanonical s) :
    MemoriesAreCanonical (s.lineFaulted col key k) := h.lineReady fun _ _ _ h => h.onThread

theorem MemoriesAreCanonical.fetchWalked {col c : Nat} {ptbase : Word} {va : Nat} {leaf : Option Leaf} (h : MemoriesAreCanonical s) :
    MemoriesAreCanonical (s.fetchWalked col c ptbase va leaf) := by
  unfold State.fetchWalked
  dsimp only
  split
  · exact h.lineFaulted
  · split
    · exact h.requestHome
    · exact h.lineFaulted
    · exact h

theorem MemoriesAreCanonical.execLineFill (h : MemoriesAreCanonical s) : YieldsCanonical (execLineFill s) := by
  unfold Machine.execLineFill
  dsimp only
  split
  next e =>
    split
    · split
      · exact (h.takeItem.snd e).onColumn.askWalk.next
      · split
        · exact (h.takeItem.snd e).lineFaulted.next
        · exact .next ((h.takeItem.snd e).onColumn.lineReady fun _ _ _ h => h.onThread)
    · exact (h.takeItem.snd e).next
  next e1 => exact (h.takeItem.snd e1).next

theorem MemoriesAreCanonical.execNetworkPortAccess (h : MemoriesAreCanonical s) : YieldsCanonical (execNetworkPortAccess s) := by
  unfold Machine.execNetworkPortAccess
  dsimp only
  split
  · exact .ite h.takeItem.performColumn.answer.next (.ite h.inNs.next h.onColumn.atCycle.next)
  · exact h.next

/-! ### The copy engine -/

theorem MemoriesAreCanonical.setTag {c tag : Nat} {free done miss : Bool} (h : MemoriesAreCanonical s) :
    MemoriesAreCanonical (s.setTag c tag free done miss) := h.onCore
theorem MemoriesAreCanonical.engineDone {c sl tag : Nat} (h : MemoriesAreCanonical s) :
    MemoriesAreCanonical (s.engineDone c sl tag) := h.onThread

theorem MemoriesAreCanonical.endRequest {c : Nat} {r : Running} {refused : Bool} (h : MemoriesAreCanonical s) :
    MemoriesAreCanonical (s.endRequest c r refused) := by
  refine .engineDone (.onCore (.ite (.setTag ?_) (.decCnt (.setTag ?_))))
  · split
    · exact h.record
    · exact h
  · split
    · exact h.record
    · exact h

theorem MemoriesAreCanonical.execTagfreeSet (h : MemoriesAreCanonical s) : YieldsCanonical (execTagfreeSet s) := by
  unfold Machine.execTagfreeSet
  dsimp only
  split
  · exact .ite h.next h.onCore.setTag.next
  · exact h.next

theorem MemoriesAreCanonical.execTagdoneSet (h : MemoriesAreCanonical s) : YieldsCanonical (execTagdoneSet s) := by
  unfold Machine.execTagdoneSet
  dsimp only
  split
  · exact .ite h.endRequest.next h.next
  · exact h.next

theorem MemoriesAreCanonical.onRun {c : Nat} {f : Running → Running} (h : MemoriesAreCanonical s) :
    MemoriesAreCanonical (s.onRun c f) := h.onCore
theorem MemoriesAreCanonical.setRun {c : Nat} {r : Running} (h : MemoriesAreCanonical s) : MemoriesAreCanonical (s.setRun c r) := h.onCore

theorem MemoriesAreCanonical.engineAccess {c : Nat} {r : Running} {space : Nat} {ea : Word} {width : Nat} {need : Need} {off code : Nat}
    {f : Access → Access} {go : Running → Running} (h : MemoriesAreCanonical s) :
    MemoriesAreCanonical (s.engineAccess c r space ea width need off code f go) := by
  unfold State.engineAccess
  split
  · exact h.onRun.askWalk
  · exact h.onRun
  · exact h.onRun.request

theorem MemoriesAreCanonical.engineIssue {c : Nat} (h : MemoriesAreCanonical s) : SomeCanonical (s.engineIssue c) := by
  unfold State.engineIssue
  split
  · exact .none
  next r _ =>
    refine .ite .none ?_
    have hwrite : SomeCanonical (match r.ready with
        | .some (a, bs, bad, off) =>
          if r.mayWrite a then
            Option.some (s.engineAccess c r r.req.dsp a (if bs.length = 64 then 64 else 1) { r := false, w := true } off
              (if r.req.kind = 0x10 then 7 else 0) (fun x => { x with op := .store bs, idx := r.nextWrite, poison := bad })
              fun r => { r with nextWrite := r.nextWrite + 1, got := unset r.got r.nextWrite, writes := r.writes ++ [(r.nextWrite, a)] })
          else Option.none
        | .none => .none) := by
      split
      · exact .ite h.engineAccess.some .none
      · exact .none
    dsimp only
    split
    next e => exact (hwrite _ e).some
    · exact .ite .none (.ite h.engineAccess.some h.engineAccess.some)

theorem MemoriesAreCanonical.nextPhase {c : Nat} {r : Running} (h : MemoriesAreCanonical s) : SomeCanonical (s.nextPhase c r) := by
  unfold State.nextPhase
  dsimp only
  split
  · split
    · exact .none
    · split
      · exact h.onRun.some
      · exact .ite h.endRequest.some h.onRun.some
  · exact .ite (.ite h.setRun.some (.ite .none h.setRun.some)) .none

theorem MemoriesAreCanonical.pumpFor {c fuel : Nat} (h : MemoriesAreCanonical s) : MemoriesAreCanonical (s.pumpFor c fuel) := by
  induction fuel generalizing s with
  | zero => exact h
  | succ fuel ih =>
    unfold State.pumpFor
    split
    next e => exact ih (h.engineIssue _ e)
    · split
      · exact h
      · split
        · exact h
        · split
          · split
            next e => exact ih (h.nextPhase _ e)
            · exact h
          · exact .ite (.inCycles (.onRun (.ite h.frame h))) (.ite h.frame h)

theorem MemoriesAreCanonical.pump {c : Nat} (h : MemoriesAreCanonical s) : MemoriesAreCanonical (s.pump c) := by
  unfold State.pump
  split
  · exact h.pumpFor
  · exact h

theorem MemoriesAreCanonical.engineAnswered {c : Nat} {a : Access} {x : AccResult} (h : MemoriesAreCanonical s) :
    MemoriesAreCanonical (s.engineAnswered c a x) := h.onRun.pump

theorem MemoriesAreCanonical.engineWalked {c va : Nat} {leaf : Option Leaf} (h : MemoriesAreCanonical s) :
    MemoriesAreCanonical (s.engineWalked c va leaf) := by
  unfold State.engineWalked
  dsimp only
  split
  · exact h
  · refine .pump (.onRun ?_)
    split
    · exact h.onCluster
    · exact h

theorem MemoriesAreCanonical.take {row : Instr} {go : State → Nat → Running → State} (h : MemoriesAreCanonical s)
    (hgo : ∀ s c r, MemoriesAreCanonical s → MemoriesAreCanonical (go s c r)) : MemoriesAreCanonical (s.take row go) := by
  unfold State.take
  dsimp only
  split
  · exact .ite (.ite h.onCore.onCluster.frame.endRequest (hgo _ _ _ h.onCore.onCluster.frame.onCore)) h
  · exact h

theorem MemoriesAreCanonical.beginBlocks {c : Nat} {r : Running} (h : MemoriesAreCanonical s) :
    MemoriesAreCanonical (beginBlocks s c r) := h.pump

theorem MemoriesAreCanonical.execCpq {busy : Option Nat} {a b c ev : Nat} (h : MemoriesAreCanonical s) :
    YieldsCanonical (execCpq busy a b c ev s) := by
  refine h.guarded fun _ _ => .ite ?_ ?_
  · dsimp only
    split
    · exact h.onCore.onThread.finishPut
    · exact h.onCore.onThread.finish
  · split
    · exact h.finishPut
    · exact h.stay

/-! ### The matrix unit -/

theorem MemoriesAreCanonical.mxTransmit {c dev : Nat} {m : MxCmd} (h : MemoriesAreCanonical s) :
    MemoriesAreCanonical (s.mxTransmit c dev m) := .ite (.ite h.frame.onCore.notify h.ship) (.ite h.toDevice h.notify)

theorem MemoriesAreCanonical.mxTry {c sl : Nat} {f : MxForm} {i : Instr} (h : MemoriesAreCanonical s) :
    MemoriesAreCanonical (s.mxTry c sl f i) := by
  unfold State.mxTry
  dsimp only
  split
  · split
    · split
      · exact h.finishPut
      · exact h.stay
    · exact .ite h.stay (.ite h.mxTransmit.await.answerTurns h.mxTransmit.await)
  · split
    · split
      · exact h.finishPut
      · exact h.stay
    · exact .ite h.stay (.ite h.mxTransmit.await.answerTurns h.mxTransmit.await)

theorem MemoriesAreCanonical.mx {i : Instr} (h : MemoriesAreCanonical s) : YieldsCanonical (mx i s) := by
  unfold Machine.mx
  split
  · exact h.guarded fun _ _ => h.mxTry
  · exact h.next

theorem MemoriesAreCanonical.execMxRetry (h : MemoriesAreCanonical s) : YieldsCanonical (execMxRetry s) := by
  unfold Machine.execMxRetry
  dsimp only
  split
  · split
    · split
      · exact h.mxTry.next
      · exact h.next
    · exact h.next
  · exact h.next

theorem MemoriesAreCanonical.mxAccepted {m : MxCmd} (h : MemoriesAreCanonical s) :
    MemoriesAreCanonical (s.mxAccepted m) := h.onCore.onThread

theorem MemoriesAreCanonical.execMxAnswer (h : MemoriesAreCanonical s) : YieldsCanonical (execMxAnswer s) := by
  unfold Machine.execMxAnswer
  dsimp only
  split
  next e =>
    split
    · split
      · exact (h.takeItem.snd e).finishPut.after.next
      · exact (h.takeItem.snd e).onThread.inCycles.next
      · exact (h.takeItem.snd e).finishPut.after.next
      · exact (h.takeItem.snd e).trap.after.next
      · exact (h.takeItem.snd e).mxAccepted.finishPut.after.next
      · exact (h.takeItem.snd e).mxAccepted.finish.after.next
    · exact (h.takeItem.snd e).next
  next e1 => exact (h.takeItem.snd e1).next

theorem MemoriesAreCanonical.onMatrix {cl : Nat} {f : Matrix → Matrix} (h : MemoriesAreCanonical s) :
    MemoriesAreCanonical (s.onMatrix cl f) := h.onCluster
theorem MemoriesAreCanonical.mxReply {m : MxCmd} {d : Nat} {a : Ans} (h : MemoriesAreCanonical s) :
    MemoriesAreCanonical (s.mxReply m d a) := .ite h.toDevice h.convey

theorem MemoriesAreCanonical.execMatrixAccept (h : MemoriesAreCanonical s) : YieldsCanonical (execMatrixAccept s) := by
  unfold Machine.execMatrixAccept
  dsimp only
  split
  next e =>
    split
    · exact .ite (h.takeItem.snd e).within.mxReply.next (h.takeItem.snd e).within.onMatrix.mxReply.next
    · exact (h.takeItem.snd e).within.mxReply.next
  next e1 => exact (h.takeItem.snd e1).next

theorem MemoriesAreCanonical.execMatrixGrant (h : MemoriesAreCanonical s) : YieldsCanonical (execMatrixGrant s) := by
  unfold Machine.execMatrixGrant
  dsimp only
  split
  · exact h.next
  · split
    · exact h.next
    · split
      · exact h.onMatrix.inCycles.next
      · exact h.onMatrix.frame.next

theorem MemoriesAreCanonical.onMxRun {cl : Nat} {f : MxRun → MxRun} (h : MemoriesAreCanonical s) :
    MemoriesAreCanonical (s.onMxRun cl f) := h.onMatrix

theorem MemoriesAreCanonical.mxRequest {cl : Nat} {space : Mode} {world : Bool} {l : List (Nat × Nat × AccOp)}
    (h : MemoriesAreCanonical s) : MemoriesAreCanonical (s.mxRequest cl space world l) := by
  refine h.foldlFst fun st b h => ?_
  dsimp only
  split
  · exact h.onMxRun
  · exact h.onMxRun.requestBank

theorem MemoriesAreCanonical.mxAskChunk {cl n : Nat} (h : MemoriesAreCanonical s) : MemoriesAreCanonical (s.mxAskChunk cl n) := by
  unfold State.mxAskChunk
  dsimp only
  split
  · exact h.mxRequest
  · exact h

theorem MemoriesAreCanonical.mxEnd {cl d : Nat} (h : MemoriesAreCanonical s) :
    MemoriesAreCanonical (s.mxEnd cl d) := .ite h.onMxRun.frame h.onMxRun.inCycles

theorem MemoriesAreCanonical.mxCompute {cl : Nat} (h : MemoriesAreCanonical s) : MemoriesAreCanonical (s.mxCompute cl) := by
  unfold State.mxCompute
  dsimp only
  split
  · exact .ite h (.ite h.mxEnd (.inCycles (.ite h.onMxRun.mxAskChunk h.onMxRun)))
  · exact h

theorem MemoriesAreCanonical.mxComputed {cl : Nat} (h : MemoriesAreCanonical s) : MemoriesAreCanonical (s.mxComputed cl) := by
  unfold State.mxComputed
  dsimp only
  split
  · exact .ite h (.ite h.onMatrix.onMxRun.mxEnd h.onMatrix.onMxRun.mxCompute)
  · exact h

theorem MemoriesAreCanonical.mmaRow {op : Nat} (h : MemoriesAreCanonical s) : MemoriesAreCanonical (mmaRow op s) := by
  unfold Machine.mmaRow
  dsimp only
  split
  · exact .ite h (.ite h.mxComputed h.mxAskChunk.mxCompute)
  · exact h

theorem MemoriesAreCanonical.oneCycle {op : Nat} {f : MxRun → Matrix → Matrix} (h : MemoriesAreCanonical s) :
    YieldsCanonical (oneCycle op s f) := by
  unfold Machine.oneCycle
  dsimp only
  split
  · exact .ite h.next h.onMatrix.mxEnd.next
  · exact h.next

theorem MemoriesAreCanonical.execDrain (h : MemoriesAreCanonical s) : YieldsCanonical (execDrain s) := by
  unfold Machine.execDrain
  dsimp only
  split
  · split
    · exact h.next
    · split
      · exact .next (.ite h.mxRequest.mxEnd h.mxRequest)
      · exact h.mxRequest.next
  · exact h.next

theorem MemoriesAreCanonical.execLoadc (h : MemoriesAreCanonical s) : YieldsCanonical (execLoadc s) := by
  unfold Machine.execLoadc
  dsimp only
  split
  · split
    · exact h.next
    · split
      · exact .next (.ite h.mxRequest.mxEnd h.mxRequest)
      · exact h.mxRequest.next
  · exact h.next

theorem MemoriesAreCanonical.mxLoaded {cl : Nat} {r : MxRun} (h : MemoriesAreCanonical s) :
    MemoriesAreCanonical (s.mxLoaded cl r) := h.onMatrix

theorem MemoriesAreCanonical.matrixAnswered {cl : Nat} {a : Access} {x : AccResult} (h : MemoriesAreCanonical s) :
    MemoriesAreCanonical (s.matrixAnswered cl a x) := by
  unfold State.matrixAnswered
  dsimp only
  split
  · exact .ite h.onMxRun (.ite h.onMxRun.mxCompute (.ite h.onMxRun.mxLoaded.mxEnd h.onMxRun.mxEnd))
  · exact h.onMxRun

theorem MemoriesAreCanonical.mxCompleted {m : MxCmd} {check : Option Nat} (h : MemoriesAreCanonical s) :
    MemoriesAreCanonical (s.mxCompleted m check) := by
  unfold State.mxCompleted
  dsimp only
  split
  · split
    · refine .record (.ite (.engineDone ?_) ?_)
      · split
        · exact h.onCore.setTag
        · exact h.onCore
      · split
        · exact h.onCore.setTag
        · exact h.onCore
    · split
      · exact .ite h.onCore.setTag.engineDone h.onCore.setTag
      · exact .ite h.onCore.engineDone h.onCore
  · split
    · exact .ite h.onCore.setTag.engineDone h.onCore.setTag
    · exact .ite h.onCore.engineDone h.onCore

theorem MemoriesAreCanonical.mxTell {cl : Nat} {m : MxCmd} {check : Option Nat} (h : MemoriesAreCanonical s) :
    MemoriesAreCanonical (s.mxTell cl m check) := .ite h.toDevice (.ite h.mxCompleted h.ship)

theorem MemoriesAreCanonical.execMatrixComplete (h : MemoriesAreCanonical s) : YieldsCanonical (execMatrixComplete s) := by
  unfold Machine.execMatrixComplete
  dsimp only
  split
  · split
    next e1 => exact (h.takeItem.snd e1).onMatrix.mxTell.next
    next e2 => exact (h.takeItem.snd e2).next
  · split
    · exact .ite h.next (.ite h.onMatrix.mxTell.next h.onMatrix.addItem.atCycle.next)
    · exact h.next

/-! ### Bank meetings, rose tables, clocks and bank roles -/

theorem MemoriesAreCanonical.reachHome {a : Access} (h : MemoriesAreCanonical s) : MemoriesAreCanonical (s.reachHome a) := h.frame.frame

theorem MemoriesAreCanonical.execBankMeeting (h : MemoriesAreCanonical s) : YieldsCanonical (execBankMeeting s) := by
  unfold Machine.execBankMeeting
  dsimp only
  split
  · exact h.next
  · exact .ite h.onCluster.reachHome.next h.onCluster.performBank.answer.next

theorem MemoriesAreCanonical.writeRose2 {cl : Nat} {v : Word} (h : MemoriesAreCanonical s) :
    MemoriesAreCanonical (s.writeRose2 cl v) := .ite h h.onCluster
theorem MemoriesAreCanonical.writeOutrose {cl : Nat} {v : Word} (h : MemoriesAreCanonical s) :
    MemoriesAreCanonical (s.writeOutrose cl v) := .ite h h.onQuad
theorem MemoriesAreCanonical.alignQuad {q period : Nat} (h : MemoriesAreCanonical s) :
    MemoriesAreCanonical (s.alignQuad q period) := h.foldl fun _ _ h => h.onCluster
theorem MemoriesAreCanonical.freeQuad {q : Nat} (h : MemoriesAreCanonical s) :
    MemoriesAreCanonical (s.freeQuad q) := h.foldl fun _ _ h => h.onCluster
theorem MemoriesAreCanonical.setFrequency {cl mhz : Nat} (h : MemoriesAreCanonical s) :
    MemoriesAreCanonical (s.setFrequency cl mhz) := h.onCluster

theorem MemoriesAreCanonical.writeRosectl {cl : Nat} {v : Word} (h : MemoriesAreCanonical s) :
    MemoriesAreCanonical (s.writeRosectl cl v) := by
  unfold State.writeRosectl
  dsimp only
  split
  · exact h
  · split
    · exact .ite h.onCluster.onQuad h.onCluster
    · split
      · exact .ite h.onCluster.onQuad.onCluster.alignQuad h.onCluster.onQuad.onCluster
      · exact .ite h.onCluster.onCluster.alignQuad h.onCluster.onCluster

theorem MemoriesAreCanonical.realignQuad {q : Nat} (h : MemoriesAreCanonical s) :
    MemoriesAreCanonical (s.realignQuad q) := .ite h.alignQuad (.ite h.alignQuad (.ite h.freeQuad h))
theorem MemoriesAreCanonical.goOn {cl rider : Nat} {a : Access} (h : MemoriesAreCanonical s) :
    MemoriesAreCanonical (s.goOn cl rider a) := .ite h.onCluster h.requestBank
theorem MemoriesAreCanonical.releaseHeld {q : Nat} (h : MemoriesAreCanonical s) :
    MemoriesAreCanonical (s.releaseHeld q) := h.foldl fun _ _ h => h.foldl fun _ _ h => h.onCluster.foldl fun _ _ h => h.goOn

theorem MemoriesAreCanonical.execRoseSwap (h : MemoriesAreCanonical s) : YieldsCanonical (execRoseSwap s) := by
  unfold Machine.execRoseSwap
  dsimp only
  split
  · exact h.next
  · split
    · exact .next (.releaseHeld (.ite h.onCluster.freeQuad h.onCluster))
    · exact .next (.releaseHeld (.ite (.freeQuad (.ite h.onCluster.onQuad h.onCluster)) (.ite h.onCluster.onQuad h.onCluster)))

theorem MemoriesAreCanonical.holdNew {cl : Nat} (h : MemoriesAreCanonical s) :
    MemoriesAreCanonical (s.holdNew cl) := h.foldl fun _ _ h => h.onCluster
theorem MemoriesAreCanonical.askRoles {cl : Nat} {new : Word} {writer : Option (Nat × Nat)} (h : MemoriesAreCanonical s) :
    MemoriesAreCanonical (s.askRoles cl new writer) := h.onCluster.holdNew

theorem MemoriesAreCanonical.execBankroleWrite (h : MemoriesAreCanonical s) : YieldsCanonical (execBankroleWrite s) := by
  unfold Machine.execBankroleWrite
  dsimp only
  split
  · exact h.next
  · exact .ite h.next h.askRoles.next

theorem MemoriesAreCanonical.remap {cl rider : Nat} {a : Access} (h : MemoriesAreCanonical s) :
    MemoriesAreCanonical (s.remap cl rider a) := by
  unfold State.remap
  dsimp only
  split
  · exact .ite h.goOn h.onCluster
  · split
    · exact .ite h.goOn h.onCluster
    · exact h.reachHome
  · split
    · exact .ite h.goOn h.onCluster
    · exact h.answer

theorem MemoriesAreCanonical.remapAll {cl : Nat} (h : MemoriesAreCanonical s) :
    MemoriesAreCanonical (s.remapAll cl) := h.foldl fun _ _ h => h.foldl fun _ _ h => h.onCluster.foldl fun _ _ h => h.remap
theorem MemoriesAreCanonical.slicePass {cl c : Nat} {old new : Word} (h : MemoriesAreCanonical s) :
    MemoriesAreCanonical (s.slicePass cl c old new) := .ite h (.ite h.onCluster.loseWatches h.onCluster.loseWatches.onCluster.inCycles)

theorem MemoriesAreCanonical.execBankroleChange (h : MemoriesAreCanonical s) : YieldsCanonical (execBankroleChange s) := by
  unfold Machine.execBankroleChange
  dsimp only
  split
  · exact h.next
  · split
    · exact h.next
    · refine .next (.foldl (.foldl (.remapAll (.onCluster (h.foldl fun _ _ h => h.writeWay.leaveWay))) fun _ _ h => h.slicePass)
        fun _ _ h => ?_)
      split
      · exact h.finishPut
      · exact h

/-! ### Control registers, TLBINV, saved contexts and SCRUB -/

theorem MemoriesAreCanonical.setTwins {col : Nat} {v : Word} (h : MemoriesAreCanonical s) :
    MemoriesAreCanonical (s.setTwins col v) := h.onColumn

theorem MemoriesAreCanonical.execTwinctlWrite (h : MemoriesAreCanonical s) : YieldsCanonical (execTwinctlWrite s) := by
  unfold Machine.execTwinctlWrite
  split
  · exact h.next
  · exact h.setTwins.next

theorem MemoriesAreCanonical.clearMxstat {c : Nat} {v : Word} (h : MemoriesAreCanonical s) :
    MemoriesAreCanonical (s.clearMxstat c v) := h.onCore

theorem MemoriesAreCanonical.writeCsr {c sl n op : Nat} {x v : Word} (h : MemoriesAreCanonical s) :
    MemoriesAreCanonical (s.writeCsr c sl n op x v) := by
  unfold State.writeCsr
  dsimp only
  split
  · exact h.onThread
  · exact h.onThread
  · exact h.onThread
  · exact h.onThread
  · exact h.onThread
  · exact h.onThread
  · exact h.onThread
  · exact h.onThread
  · exact h.onThread
  · exact .ite h.clearMxstat h
  · exact h.onCore
  · exact h.writeRosectl
  · exact .ite h h.onCluster
  · exact .ite h h.onCluster
  · exact .ite h h.onCluster
  · exact h.writeRose2
  · exact h.writeOutrose
  · exact h.onCore
  · exact h.onCore
  · exact h.setTwins
  · exact h.onCore
  · exact h.onCore
  · exact h.onCore
  · exact h.onCluster
  · exact h.onCluster
  · exact .ite h.setCnt (.ite h.writeIdom (.ite h.setTt.deliverHeld h))

theorem MemoriesAreCanonical.csrRoles {c sl d : Nat} {old v : Word} {i : Instr} (h : MemoriesAreCanonical s) :
    MemoriesAreCanonical (s.csrRoles c sl d old v i) := by
  unfold State.csrRoles
  dsimp only
  split
  · split
    · exact h.stay
    · split
      · exact h.trap
      · exact h.askRoles.await
  · split
    · exact h.trap
    · exact .ite h.finishPut h.askRoles.await

theorem MemoriesAreCanonical.csr {c sl d n op : Nat} {x : Word} {i : Instr} (h : MemoriesAreCanonical s) :
    MemoriesAreCanonical (s.csr c sl d n op x i) := by
  unfold State.csr
  dsimp only
  split
  · exact h.finishPut
  · split
    · exact h.csrRoles
    · split
      · split
        · exact h.trap
        · exact h.writeCsr.finishPut
      · exact .ite h.await h.writeCsr.finishPut

theorem MemoriesAreCanonical.dropPage {c va : Nat} (h : MemoriesAreCanonical s) :
    MemoriesAreCanonical (s.dropPage c va) := h.onCore.onColumn
theorem MemoriesAreCanonical.dropEngine {cl va : Nat} (h : MemoriesAreCanonical s) :
    MemoriesAreCanonical (s.dropEngine cl va) := h.onCluster.foldl fun _ _ h => h.onRun

theorem MemoriesAreCanonical.execSysTlbinv {a : Nat} {scope : Scope} (h : MemoriesAreCanonical s) :
    YieldsCanonical (execSysTlbinv a scope s) := by
  refine h.guarded fun _ _ => ?_
  dsimp only
  split
  · exact h.dropPage.finish.turns
  · exact h.dropPage.dropPage.finish.turns
  · split
    · exact .finish (.ite h.dropPage.dropEngine.turns h.dropPage.dropEngine.onThread)
    · exact .foldl (.onThread (.await (.ite h.dropPage.dropEngine.turns h.dropPage.dropEngine.onThread))) fun _ _ h => h.coreToCore

theorem MemoriesAreCanonical.execTlbinvRemote (h : MemoriesAreCanonical s) : YieldsCanonical (execTlbinvRemote s) := by
  unfold Machine.execTlbinvRemote
  split
  next e => exact (h.takeItem.snd e).dropPage.dropEngine.coreToCore.next
  next e1 => exact (h.takeItem.snd e1).next

theorem MemoriesAreCanonical.acked {c sl : Nat} (h : MemoriesAreCanonical s) :
    MemoriesAreCanonical (s.acked c sl) := .ite h.finish.after h.setThread
theorem MemoriesAreCanonical.ctxRegs {c sl : Nat} {bs : List Byte} {rs : List Nat} (h : MemoriesAreCanonical s) :
    MemoriesAreCanonical (s.ctxRegs c sl bs rs) := h.foldl fun _ _ h => h.setReg

theorem MemoriesAreCanonical.ctxAccess {c sl : Nat} {i : Instr} {p : Plan} {undo : State → State} (h : MemoriesAreCanonical s)
    (hundo : ∀ s, MemoriesAreCanonical s → MemoriesAreCanonical (undo s)) : MemoriesAreCanonical (s.ctxAccess c sl i p undo) := by
  unfold State.ctxAccess
  dsimp only
  split
  · exact h.walkFor
  · split
    · exact (hundo _ h).trap
    · exact h.outstanding.foldl fun _ _ h => h.requestHome

theorem MemoriesAreCanonical.execSysSavectx {a b : Nat} (h : MemoriesAreCanonical s) : YieldsCanonical (execSysSavectx a b s) := by
  refine h.guarded fun _ _ => ?_
  split
  · exact h.trap
  · exact .ite h.trap (h.ctxAccess fun _ h => h)

theorem MemoriesAreCanonical.savectxDone {c sl a b : Nat} {q : Pending} (h : MemoriesAreCanonical s) :
    MemoriesAreCanonical (s.savectxDone c sl a b q) := by
  unfold State.savectxDone
  split
  · exact h.trap
  · exact h.parkPoison
  · split
    · exact h.trap
    · exact h.finish

theorem MemoriesAreCanonical.unreserve {c t : Nat} (h : MemoriesAreCanonical s) : MemoriesAreCanonical (s.unreserve c t) := .ite h.setSlot h
theorem MemoriesAreCanonical.loadTrap {c sl t : Nat} {k : Cause} {addr : Word} (h : MemoriesAreCanonical s) :
    MemoriesAreCanonical (s.loadTrap c sl t k addr) := h.unreserve.trap

theorem MemoriesAreCanonical.ctxAdmit {c sl t : Nat} {bs : List Byte} (h : MemoriesAreCanonical s) :
    MemoriesAreCanonical (s.ctxAdmit c sl t bs) := by
  unfold State.ctxAdmit
  dsimp only
  split
  · exact h.stay
  · exact .finish (.ite h.admitThread.ctxRegs.ctxRegs h.admitThread.ctxRegs)

theorem MemoriesAreCanonical.ctxInstall {c sl t : Nat} {bs : List Byte} (h : MemoriesAreCanonical s) :
    MemoriesAreCanonical (s.ctxInstall c sl t bs) := by
  unfold State.ctxInstall
  dsimp only
  split
  · exact .ite (.ite h.stay h.failTiller.finish) h.setThread.ctxRegs.setSlot.jumpTo.finish
  · exact .ite h.finish h.setThread.ctxRegs.setSlot.jumpTo.finish

theorem MemoriesAreCanonical.ctxLoad {c sl a : Nat} {bs : List Byte} (h : MemoriesAreCanonical s) :
    MemoriesAreCanonical (s.ctxLoad c sl a bs) := by
  unfold State.ctxLoad
  dsimp only
  split
  · exact .ite h.ctxInstall h.trap
  · exact .ite h.ctxAdmit h.loadTrap
  · exact h.trap

theorem MemoriesAreCanonical.loadctxDone {c sl a b : Nat} {i : Instr} {q : Pending} (h : MemoriesAreCanonical s) :
    MemoriesAreCanonical (s.loadctxDone c sl a b i q) := by
  unfold State.loadctxDone
  dsimp only
  split
  · exact h.loadTrap
  · exact h.unreserve.parkPoison
  · split
    · exact h.loadTrap
    · exact .ite (h.ctxAccess fun _ h => h.unreserve) h.ctxLoad

theorem MemoriesAreCanonical.execSysLoadctx {a b : Nat} (h : MemoriesAreCanonical s) : YieldsCanonical (execSysLoadctx a b s) := by
  refine h.guarded fun _ _ => ?_
  dsimp only
  split
  · exact h.trap
  · split
    · exact h.trap
    · split
      · exact h.trap
      · split
        · exact .ite (.ctxLoad (.ite h.setSlot h)) (.ctxAccess (.ite h.setSlot h) fun _ h => h.unreserve)
        · exact .ctxAccess (.ite h.setSlot h) fun _ h => h.unreserve

theorem MemoriesAreCanonical.scrubSlot {c t : Nat} (h : MemoriesAreCanonical s) : MemoriesAreCanonical (s.scrubSlot c t) := by
  unfold State.scrubSlot
  dsimp only
  split
  · exact h.zeroRegs.endThread.record
  · exact h.zeroRegs.endThread

theorem MemoriesAreCanonical.execSysScrub {a : Nat} (h : MemoriesAreCanonical s) : YieldsCanonical (execSysScrub a s) := by
  refine h.guarded fun _ _ => ?_
  dsimp only
  split
  · exact h.trap
  · split
    · exact h.stay
    · exact .finish (.ite (.clearPair (.ite h.scrubSlot.scrubSlot h.scrubSlot)) (.ite h.scrubSlot.scrubSlot h.scrubSlot))

theorem MemoriesAreCanonical.execIllegalEncoding (h : MemoriesAreCanonical s) : YieldsCanonical (execIllegalEncoding s) := by
  refine .current fun _ _ => ?_
  dsimp only
  split
  · exact .ite h.park h.enterTrap
  · exact h.enterTrap
  · exact h.trap
  · exact h

/-! ### Pre-emption and resumption -/

theorem MemoriesAreCanonical.tellFirmware {code what : Nat} (h : MemoriesAreCanonical s) :
    MemoriesAreCanonical (s.tellFirmware code what) := h

theorem MemoriesAreCanonical.execPreempt (h : MemoriesAreCanonical s) : YieldsCanonical (execPreempt s) := by
  unfold Machine.execPreempt
  dsimp only
  split
  next e =>
    split
    · exact (h.takeItem.snd e).tellFirmware.next
    · exact .ite (h.takeItem.snd e).wakeIdle.tellFirmware.next (h.takeItem.snd e).setCore.next
  next e1 => exact (h.takeItem.snd e1).next

theorem MemoriesAreCanonical.freezesDone {c : Nat} (h : MemoriesAreCanonical s) : MemoriesAreCanonical (s.freezesDone c) := by
  refine h.foldl fun _ _ h => ?_
  dsimp only
  split
  · split
    · exact .ite h.freezeDone h
    · exact h
  · exact h

theorem MemoriesAreCanonical.execPreemptSaving (h : MemoriesAreCanonical s) : YieldsCanonical (execPreemptSaving s) := by
  unfold Machine.execPreemptSaving
  dsimp only
  split
  · exact .next (.ite h.tierWrite.frame h.tierWrite)
  · split
    · exact .next (.ite h.freezesDone.onCore h.freezesDone)
    · exact .ite h.setCore.inCycles.next h.next
    · exact h.next

theorem MemoriesAreCanonical.execResume (h : MemoriesAreCanonical s) : YieldsCanonical (execResume s) := by
  unfold Machine.execResume
  dsimp only
  split
  next e => exact .ite (h.takeItem.snd e).setCore.inCycles.next (h.takeItem.snd e).wakeIdle.tellFirmware.next
  next e1 => exact (h.takeItem.snd e1).next

theorem MemoriesAreCanonical.installCore {c : Nat} (h : MemoriesAreCanonical s) : MemoriesAreCanonical (s.installCore c) := h.frame.onCore
theorem MemoriesAreCanonical.parkRecord {c sl : Nat} (h : MemoriesAreCanonical s) :
    MemoriesAreCanonical (s.parkRecord c sl) := .ite h.park h.setSlot.record

theorem MemoriesAreCanonical.installSlot {c sl : Nat} (h : MemoriesAreCanonical s) : MemoriesAreCanonical (s.installSlot c sl) := by
  unfold State.installSlot
  dsimp only
  split
  · exact h.setSlot
  · split
    · exact h.parkRecord
    · split
      · split
        · exact h.parkRecord
        · split
          · exact h.setSlot.ctxRegs
          · exact h.setSlot.ctxRegs
      · exact .ite h.parkRecord h.setSlot.ctxRegs

theorem MemoriesAreCanonical.installTillers {c : Nat} (h : MemoriesAreCanonical s) :
    MemoriesAreCanonical (s.installTillers c) := .foldl (h.foldl fun _ _ h => h.onThread) fun _ _ h => h.installSlot
theorem MemoriesAreCanonical.installBlock {c b : Nat} (h : MemoriesAreCanonical s) :
    MemoriesAreCanonical (s.installBlock c b) := .ite h.installCore (.ite h.installTillers (.ite h.installSlot h))
theorem MemoriesAreCanonical.restoreBlock {c b : Nat} (h : MemoriesAreCanonical s) :
    MemoriesAreCanonical (s.restoreBlock c b) := h.setCore.installBlock

theorem MemoriesAreCanonical.applySpill {c : Nat} (h : MemoriesAreCanonical s) : MemoriesAreCanonical (s.applySpill c) := by
  unfold State.applySpill
  dsimp only
  split
  · exact .ite h.frame h.atCycle
  · split
    · exact .ite h.setCore.queueArrival.inCycles h.setCore.inCycles
    · exact .ite h.setCore.fetchImage.inCycles h.setCore.addItem.inCycles.inCycles
    · exact h.setCore.addItem.frame

theorem MemoriesAreCanonical.execRestoreComplete (h : MemoriesAreCanonical s) : YieldsCanonical (execRestoreComplete s) := by
  unfold Machine.execRestoreComplete
  dsimp only
  split
  · exact h.next
  · split
    · exact h.restoreBlock.inCycles.next
    · exact h.applySpill.next
    · exact h.onCore.inCycles.next

theorem MemoriesAreCanonical.execResumeRunning (h : MemoriesAreCanonical s) : YieldsCanonical (execResumeRunning s) := by
  unfold Machine.execResumeRunning
  dsimp only
  split
  · exact h.next
  · split
    · exact h.applySpill.next
    · exact .next (.tellFirmware (h.setCore.foldl fun _ _ h => .ite h.spurious.jumpTo (.ite h.spurious h)))

/-! ### Packets, links, charts and frames -/

theorem MemoriesAreCanonical.freeBuffer {p : Packet} (h : MemoriesAreCanonical s) :
    MemoriesAreCanonical (s.freeBuffer p) := .ite h h.onRouter
theorem MemoriesAreCanonical.setPacket {id : Nat} {p : Packet} (h : MemoriesAreCanonical s) : MemoriesAreCanonical (s.setPacket id p) := h

theorem MemoriesAreCanonical.dropPacket {id : Nat} (h : MemoriesAreCanonical s) : MemoriesAreCanonical (s.dropPacket id) := by
  unfold State.dropPacket
  dsimp only
  split
  · exact h.freeBuffer.frame
  · exact h

theorem MemoriesAreCanonical.hop {id : Nat} {p : Packet} {o : Nat} (h : MemoriesAreCanonical s) : MemoriesAreCanonical (s.hop id p o) := by
  unfold State.hop
  dsimp only
  split
  · exact h.freeBuffer.onRouter.setPacket.inNs
  · exact h

theorem MemoriesAreCanonical.waitHere {id : Nat} {p : Packet} (h : MemoriesAreCanonical s) :
    MemoriesAreCanonical (s.waitHere id p) := h.setPacket.inNs
theorem MemoriesAreCanonical.handOver {id : Nat} {p : Packet} (h : MemoriesAreCanonical s) :
    MemoriesAreCanonical (s.handOver id p) := h.freeBuffer.setPacket.inNs
theorem MemoriesAreCanonical.forward {id : Nat} {p : Packet} (h : MemoriesAreCanonical s) :
    MemoriesAreCanonical (s.forward id p) := .ite h.waitHere h.hop
theorem MemoriesAreCanonical.addCopy {p : Packet} (h : MemoriesAreCanonical s) : MemoriesAreCanonical (s.addCopy p).2 := h

theorem MemoriesAreCanonical.fork {id : Nat} {p : Packet} (h : MemoriesAreCanonical s) : MemoriesAreCanonical (s.fork id p) := by
  unfold State.fork
  dsimp only
  split
  · exact .dropPacket (h.foldl fun _ _ h => h.addCopy.handOver)
  · exact .forward (.foldl (h.foldl fun _ _ h => h.addCopy.handOver) fun _ _ h => h.addCopy.forward)

theorem MemoriesAreCanonical.routeHeader {id : Nat} {p : Packet} (h : MemoriesAreCanonical s) :
    MemoriesAreCanonical (s.routeHeader id p) := by
  unfold State.routeHeader
  split
  · exact h.fork
  · split
    · exact h.handOver
    · split
      · exact h.forward
      · split
        · exact h.hop
        · exact h.waitHere

theorem MemoriesAreCanonical.execHeaderRouting (h : MemoriesAreCanonical s) : YieldsCanonical (execHeaderRouting s) := by
  unfold Machine.execHeaderRouting
  dsimp only
  split
  · exact h.next
  · exact .ite h.routeHeader.next (.ite h.setPacket.onRouter.next h.dropPacket.next)

theorem MemoriesAreCanonical.ackDevice {dev cls : Nat} {p : Packet} (h : MemoriesAreCanonical s) :
    MemoriesAreCanonical (s.ackDevice dev cls p) := by
  unfold State.ackDevice
  dsimp only
  split
  · exact h.putFrame
  · exact h

theorem MemoriesAreCanonical.acknowledge {p : Packet} (h : MemoriesAreCanonical s) : MemoriesAreCanonical (s.acknowledge p) := by
  unfold State.acknowledge
  split
  · exact h.inNs
  · exact h.frame.ackDevice

theorem MemoriesAreCanonical.enqueue {ms : List Move} (h : MemoriesAreCanonical s) : MemoriesAreCanonical (s.enqueue ms) := h

theorem MemoriesAreCanonical.arrivePacket {id : Nat} {p : Packet} (h : MemoriesAreCanonical s) :
    MemoriesAreCanonical (s.arrivePacket id p) := by
  unfold State.arrivePacket
  dsimp only
  split
  · exact h
  · split
    · exact h.frame.setStream.acknowledge
    · split
      · refine .foldl (h.frame.setStream.foldl fun _ _ h => h.acknowledge) fun _ _ h => ?_
        split
        · exact h.land
        · exact h
      · exact .enqueue (h.frame.setStream.foldl fun _ _ h => h.acknowledge)

theorem MemoriesAreCanonical.startCharts (h : MemoriesAreCanonical s) :
    MemoriesAreCanonical s.startCharts := h.frame.foldl fun _ _ h => h.inAtLeast

theorem MemoriesAreCanonical.heardDead {cl port : Nat} (h : MemoriesAreCanonical s) : MemoriesAreCanonical (s.heardDead cl port) := by
  unfold State.heardDead
  dsimp only
  split
  · exact h
  · exact .ite h (.ite h.frame.tellFirmware.frame h.frame.tellFirmware.startCharts)

theorem MemoriesAreCanonical.execLinkDead (h : MemoriesAreCanonical s) : YieldsCanonical (execLinkDead s) := by
  unfold Machine.execLinkDead
  dsimp only
  split
  · exact h.next
  · exact .ite h.next (.next (.ship (.ship (h.onRouter.onRouter.foldl fun _ _ h => h.dropPacket))))

theorem MemoriesAreCanonical.tellSupervisor {t : Nat} {words : List Nat} (h : MemoriesAreCanonical s) :
    MemoriesAreCanonical (s.tellSupervisor t words) := by
  unfold State.tellSupervisor
  dsimp only
  split
  · exact h
  · exact .ite h h.ship

theorem MemoriesAreCanonical.tellPartition {dl : List Nat} (h : MemoriesAreCanonical s) : MemoriesAreCanonical (s.tellPartition dl) := by
  refine h.foldl fun _ _ h => ?_
  split
  · exact h.tellSupervisor
  · exact h

theorem MemoriesAreCanonical.tellUnreached {old : List (Nat × List Nat)} (h : MemoriesAreCanonical s) :
    MemoriesAreCanonical (s.tellUnreached old) := h.foldl fun _ _ h => .ite h.tellSupervisor h

theorem MemoriesAreCanonical.execChartInstall (h : MemoriesAreCanonical s) : YieldsCanonical (execChartInstall s) := by
  unfold Machine.execChartInstall
  dsimp only
  split
  · exact h.next
  · exact .ite (.next (h.onRouter.tellFirmware.tellPartition.foldl fun _ _ h => h.inAtLeast)) h.onRouter.next

theorem MemoriesAreCanonical.replay {sts : List StreamSt} {ev : Nat} (h : MemoriesAreCanonical s) :
    MemoriesAreCanonical (s.replay sts ev) := .launchAll (h.foldl fun _ _ h => h.setStream)
theorem MemoriesAreCanonical.enterAt {mac : Nat} {p : Packet} (h : MemoriesAreCanonical s) :
    MemoriesAreCanonical (s.enterAt mac p) := .ite h h.launchAt
theorem MemoriesAreCanonical.reenter {cl ev : Nat} (h : MemoriesAreCanonical s) :
    MemoriesAreCanonical (s.reenter cl ev) := h.frame.foldl fun _ _ h => h.enterAt

theorem MemoriesAreCanonical.execEditionTurn (h : MemoriesAreCanonical s) : YieldsCanonical (execEditionTurn s) := by
  unfold Machine.execEditionTurn
  dsimp only
  split
  · exact h.next
  · split
    · exact .next (.ite (.startCharts (.reenter (.replay (.frame (.onRouter (h.foldl fun _ _ h => h.dropPacket)))))) (.frame (.reenter
        (.replay (.frame (.onRouter (h.foldl fun _ _ h => h.dropPacket)))))))
    · exact .next (.reenter (.replay (.frame (.onRouter (h.foldl fun _ _ h => h.dropPacket)))))

theorem MemoriesAreCanonical.fwCount {n : Nat} (h : MemoriesAreCanonical s) : MemoriesAreCanonical (s.fwCount n) := h
theorem MemoriesAreCanonical.ackedBy {dev scl sep dcl dep cls seq : Nat} (h : MemoriesAreCanonical s) :
    MemoriesAreCanonical (s.ackedBy dev scl sep dcl dep cls seq) := h.frame.setStream.foldl fun _ _ h => h.frameOut

theorem MemoriesAreCanonical.packetIn {f : Frame} {ev : DevEntry} {p : Packet} {c : Content} (h : MemoriesAreCanonical s) :
    MemoriesAreCanonical (s.packetIn f ev p c) := by
  unfold State.packetIn
  dsimp only
  split
  · exact h.ackedBy
  · split
    · exact h.acknowledge
    · split
      · exact h
      · split
        · exact h.addItem.frame.enterAt
        · exact h

theorem MemoriesAreCanonical.execEthernetFrameRx (h : MemoriesAreCanonical s) : YieldsCanonical (execEthernetFrameRx s) := by
  unfold Machine.execEthernetFrameRx
  dsimp only
  split
  · exact h.next
  · split
    · exact h.frame.next
    · split
      · exact h.frame.fwCount.next
      · split
        · exact h.frame.fwCount.next
        · split
          · exact h.frame.fwCount.next
          · split
            · exact h.frame.next
            · exact .ite h.frame.fwCount.next (.ite h.frame.next (.next (h.frame.foldl fun _ _ h => h.packetIn)))

/-! ### The platform and its firmware -/

theorem MemoriesAreCanonical.execResetInput : YieldsCanonical (execResetInput s) :=
  (MemoriesAreCanonical.frame State.reset_wf).next

theorem MemoriesAreCanonical.execBootStage (h : MemoriesAreCanonical s) : YieldsCanonical (execBootStage s) := by
  unfold Machine.execBootStage
  dsimp only
  split
  · exact h.next
  · split
    · exact .ite h.onStack.inAtLeast.next h.onStack.next
    · exact .ite h.onStack.next (.next (h.onStack.foldl fun _ _ h => h.inAtLeast))

theorem MemoriesAreCanonical.setMembs {c : Nat} {entry : Option Nat} (h : MemoriesAreCanonical s) :
    MemoriesAreCanonical (s.setMembs c entry) := h.onCore

theorem MemoriesAreCanonical.needKey {t : Nat} (h : MemoriesAreCanonical s) : MemoriesAreCanonical (s.needKey t) := by
  unfold State.needKey
  split
  · exact h
  · exact h.frame.frame

theorem MemoriesAreCanonical.setUpCore {c : Nat} {p : PlanEntry} (h : MemoriesAreCanonical s) : MemoriesAreCanonical (s.setUpCore c p) := by
  refine h.onCore.setMembs.foldl fun _ _ h => ?_
  split
  · exact h.setTt.deliverHeld
  · exact h

theorem MemoriesAreCanonical.execIslandBringUp (h : MemoriesAreCanonical s) : YieldsCanonical (execIslandBringUp s) := by
  unfold Machine.execIslandBringUp
  dsimp only
  split
  · exact h.next
  · refine .next (.foldl (.realignQuad ?_) fun _ _ h => h.setUpCore)
    split
    · exact h.frame.onCluster.needKey
    · exact h.frame.onCluster

theorem MemoriesAreCanonical.askFrequency {cl mhz : Nat} (h : MemoriesAreCanonical s) :
    MemoriesAreCanonical (s.askFrequency cl mhz) := h.atCycle

theorem MemoriesAreCanonical.execPowerLimitThrottle (h : MemoriesAreCanonical s) : YieldsCanonical (execPowerLimitThrottle s) := by
  unfold Machine.execPowerLimitThrottle
  dsimp only
  split
  · refine .next ?_
    split
    · exact h.askFrequency.tellFirmware.tellSupervisor
    · exact h.askFrequency.tellFirmware
  · exact h.next

theorem MemoriesAreCanonical.writeGroup {t g : Nat} {ms : List Nat} (h : MemoriesAreCanonical s) :
    MemoriesAreCanonical (s.writeGroup t g ms) := h.frame.foldl fun _ _ h => h.setMembs

theorem MemoriesAreCanonical.execTenantAssignment (h : MemoriesAreCanonical s) : YieldsCanonical (execTenantAssignment s) := by
  unfold Machine.execTenantAssignment
  dsimp only
  split
  · exact .ite h.next (.next (.onCluster (.needKey (h.foldl fun _ _ h => h.writeGroup))))
  · exact .ite h.next (.next (.onCluster (h.foldl fun _ _ h => h.writeGroup)))

theorem MemoriesAreCanonical.fwReply {id : Nat} {m : Msg} {t status result : Nat} (h : MemoriesAreCanonical s) :
    MemoriesAreCanonical (s.fwReply id m t status result) := h.frame.ship

theorem MemoriesAreCanonical.fwRequest {serve : State → Nat → Msg → Nat → State} (h : MemoriesAreCanonical s)
    (hserve : ∀ s id m t, MemoriesAreCanonical s → MemoriesAreCanonical (serve s id m t)) : YieldsCanonical (fwRequest s serve) := by
  unfold Machine.fwRequest
  dsimp only
  split
  · split
    · exact h.frame.next
    · split
      · exact (hserve _ _ _ _ h).next
      · split
        · exact h.ship.frame.fwCount.next
        · exact .ite h.ship.fwReply.frame.next (.ite h.ship.fwReply.next (hserve _ _ _ _ h.ship.frame).next)
  · exact h.next

theorem MemoriesAreCanonical.fwLater {row : Instr} {id stage val : Nat} (h : MemoriesAreCanonical s) :
    MemoriesAreCanonical (s.fwLater row id stage val) := h.inNs
theorem MemoriesAreCanonical.interrupt {c : Nat} {x : Content} (h : MemoriesAreCanonical s) :
    MemoriesAreCanonical (s.interrupt c x) := h.ship

theorem MemoriesAreCanonical.execFwPreemptCore (h : MemoriesAreCanonical s) :
    YieldsCanonical (execFwPreemptCore s) :=
  h.fwRequest fun _ _ _ _ h => .ite (.ite h.fwReply (.ite h.fwReply h.fwLater)) (.ite h.fwReply (.ite h.fwReply h.interrupt.fwLater))

theorem MemoriesAreCanonical.execFwResumeCore (h : MemoriesAreCanonical s) :
    YieldsCanonical (execFwResumeCore s) :=
  h.fwRequest fun _ _ _ _ h => .ite (.ite h.fwReply (.ite h.fwReply h.fwLater)) (.ite h.fwReply (.ite h.fwReply h.interrupt.fwLater))

theorem MemoriesAreCanonical.execFwRetireBank (h : MemoriesAreCanonical s) : YieldsCanonical (execFwRetireBank s) := by
  refine h.fwRequest fun _ _ _ _ h => .ite h.fwReply (.ite h.fwReply (.ite h.fwLater ?_))
  dsimp only
  split
  · exact h.fwReply
  · exact h.askRoles.fwLater

theorem MemoriesAreCanonical.fwAccess {a : Access} (h : MemoriesAreCanonical s) : MemoriesAreCanonical (s.fwAccess a).1 := by
  unfold State.fwAccess
  dsimp only
  split
  · exact h.performTier
  · split
    · exact h.performTier
    · split
      · exact h.performTier
      · split
        · exact h
        · exact .ite h.onCluster.wrote h.onCluster

theorem MemoriesAreCanonical.fwWrite {m : Msg} {ea : Nat} {bs : List Byte} {fuel : Nat} (h : MemoriesAreCanonical s) :
    MemoriesAreCanonical (s.fwWrite m ea bs fuel) := by
  induction fuel generalizing s ea bs with
  | zero => exact h
  | succ fuel ih =>
    unfold State.fwWrite
    split
    · exact h
    · dsimp only
      split
      · exact ih h.fwAccess
      · exact h

theorem MemoriesAreCanonical.execFwWriteGroup (h : MemoriesAreCanonical s) : YieldsCanonical (execFwWriteGroup s) := by
  refine h.fwRequest fun _ _ _ _ h => .ite h.fwReply ?_
  dsimp only
  split
  · exact h.fwReply
  · exact .ite h.fwReply (.ite h.fwReply h.writeGroup.fwReply)

theorem MemoriesAreCanonical.execFwAttestationQuote (h : MemoriesAreCanonical s) : YieldsCanonical (execFwAttestationQuote s) := by
  refine h.fwRequest fun _ _ _ _ h => ?_
  dsimp only
  split
  · exact h.fwReply
  · exact .ite h.fwReply h.fwWrite.fwReply

theorem MemoriesAreCanonical.letGo {id : Nat} (h : MemoriesAreCanonical s) : MemoriesAreCanonical (s.letGo id) := h
theorem MemoriesAreCanonical.undo {id : Nat} {m : Msg} {t : Nat} (h : MemoriesAreCanonical s) :
    MemoriesAreCanonical (s.undo id m t) := .fwReply (h.letGo.foldl fun _ _ h => h.interrupt)

theorem MemoriesAreCanonical.preemptAll {row : Instr} {id : Nat} {m : Msg} {t : Nat} {done : State → State} (h : MemoriesAreCanonical s)
    (hdone : ∀ s, MemoriesAreCanonical s → MemoriesAreCanonical (done s)) :
    MemoriesAreCanonical (s.preemptAll row id m t done) := by
  unfold State.preemptAll
  dsimp only
  split
  · exact hdone _ h.letGo
  · exact .ite (.ite (hdone _ h.letGo) h.fwLater) (.ite h.frame.interrupt.fwLater (.ite h.undo h.fwLater))

theorem MemoriesAreCanonical.cleanCaches {cls : List Nat} (h : MemoriesAreCanonical s) : MemoriesAreCanonical (s.cleanCaches cls) := by
  have hpass : ∀ (s : State) (orphans : Bool), MemoriesAreCanonical s → MemoriesAreCanonical (cls.foldl (fun s cl =>
      ((s.cluster cl).lines.filter fun x => x.2.orphan = orphans).foldl (fun s x =>
        (s.writeWay cl x.1 x.2).1.onCluster cl fun k => { k with lines := assign k.lines x.1 (s.writeWay cl x.1 x.2).2 }) s) s) :=
    fun s _ h => h.foldl fun _ _ h => h.foldl fun _ _ h => h.writeWay.onCluster
  exact (hpass _ false (hpass _ true h)).foldl fun _ _ h => h.onCluster

theorem MemoriesAreCanonical.execFwCheckpoint (h : MemoriesAreCanonical s) :
    YieldsCanonical (execFwCheckpoint s) :=
  h.fwRequest fun _ _ _ _ h => .ite (.ite h.fwReply h.inAtLeast) (.ite h.fwReply (.ite h.fwLater (h.preemptAll fun _ h => .fwReply
      (.ite h.cleanCaches.frame (h.cleanCaches.frame.foldl fun _ _ h => h.interrupt)))))

theorem MemoriesAreCanonical.dropPlace {lp : Bool} {pa n : Nat} (h : MemoriesAreCanonical s) :
    MemoriesAreCanonical (s.dropPlace lp pa n) := h.foldl fun _ _ h => h.onStack
theorem MemoriesAreCanonical.restorePage {img : CkImage} {cls : List Nat} {p : CkPage} (h : MemoriesAreCanonical s) :
    MemoriesAreCanonical (s.restorePage img cls p) := .ite h.tierWrite h.tierWrite.dropPlace.setTierPart.frame

theorem MemoriesAreCanonical.restoreCluster {x : CkCluster} {cl : Nat} (h : MemoriesAreCanonical s) :
    MemoriesAreCanonical (s.restoreCluster x cl) := by
  obtain ⟨hbank, hcol, hhbm, hlp⟩ := h
  have hparts : MemoriesAreCanonical { s with colMem := s.colMem.setPart (cl * colSpan) colSpan x.cols
                                              bankMem := s.bankMem.setPart (cl * bankSpan) bankSpan x.banks } :=
    ⟨Memory.wf_setPart _ _ _ hbank, Memory.wf_setPart _ _ _ hcol, hhbm, hlp⟩
  exact .foldl hparts.frame fun _ _ h => h.onCore.foldl fun _ _ h => h.putTt.deliverHeld

theorem MemoriesAreCanonical.restoreOuter {img : CkImage} {cls : List Nat} (h : MemoriesAreCanonical s) :
    MemoriesAreCanonical (s.restoreOuter img cls) := h.foldl fun _ _ h => h.onQuad.realignQuad
theorem MemoriesAreCanonical.restoreGroups {img : CkImage} {cls : List Nat} {t : Nat} (h : MemoriesAreCanonical s) :
    MemoriesAreCanonical (s.restoreGroups img cls t) := h.foldl fun _ _ h => .ite h h.writeGroup

theorem MemoriesAreCanonical.restoreStorage {img : CkImage} {t : Nat} (h : MemoriesAreCanonical s) :
    MemoriesAreCanonical (s.restoreStorage img t) := by
  unfold State.restoreStorage
  dsimp only
  split
  · exact .foldl (.foldl (h.foldl fun _ _ h => h.onCluster) fun _ _ h => h.restorePage) fun _ _ h => h.onCore.onColumn
  · refine .restoreGroups (.restoreOuter (.foldl (.foldl (.foldl (h.foldl fun _ _ h => h.onCluster) fun _ _ h => h.restorePage)
      fun _ _ h => h.onCore.onColumn) fun _ _ h => ?_))
    split
    · exact h.restoreCluster
    · exact h

theorem MemoriesAreCanonical.execFwRestore (h : MemoriesAreCanonical s) : YieldsCanonical (execFwRestore s) := by
  refine h.fwRequest fun _ _ _ _ h => ?_
  dsimp only
  split
  · exact h.fwReply
  · split
    · exact .ite h.fwReply (.ite h.fwReply (.ite h.restoreStorage.fwReply (.ite h.fwReply h.fwLater)))
    · exact h.preemptAll fun _ h => .ite (.fwReply (h.foldl fun _ _ h => h.interrupt)) (.fwReply (h.restoreStorage.foldl
        fun _ _ h => h.tierWrite.interrupt))

theorem MemoriesAreCanonical.execFwTenantReset (h : MemoriesAreCanonical s) : YieldsCanonical (execFwTenantReset s) := by
  refine h.fwRequest fun s id m t h => .ite (.ite h.fwReply h.fwLater) (h.preemptAll fun s h => ?_)
  have hpages := (h.foldl (l := s.clustersOf t)
    (f := fun s cl => s.onCluster cl fun k => { k with lines := [], engineTc := [] }) fun _ _ h => h.onCluster)
  exact .fwReply (.foldl (.needKey (.frame (.foldl hpages fun _ _ h => h.dropPlace.setTierPart.frame)))
    fun _ _ h => h.setCore.setUpCore)

/-! ### Migration -/

theorem MemoriesAreCanonical.placeMigrant {m : Migrant} {c sl base : Nat} (h : MemoriesAreCanonical s) :
    MemoriesAreCanonical (s.placeMigrant m c sl base) := .onThread (h.place.foldl fun _ _ h => h.setReg)

theorem MemoriesAreCanonical.tryMigrant {m : Migrant} (h : MemoriesAreCanonical s) : SomeCanonical (s.tryMigrant m) := by
  unfold State.tryMigrant
  split
  · exact h.placeMigrant.some
  · split
    · exact h.placeMigrant.some
    · exact .none

theorem MemoriesAreCanonical.execMigrantArrival (h : MemoriesAreCanonical s) : YieldsCanonical (execMigrantArrival s) := by
  unfold Machine.execMigrantArrival
  split
  next e =>
    have h := h.takeItem.snd e
    dsimp only
    split
    next e => exact (SomeCanonical.ite h.tryMigrant .none _ e).coreToCore.next
    · exact .ite h.onColumn.coreToCore.next h.coreToCore.next
  next e => exact (h.takeItem.snd e).next

theorem MemoriesAreCanonical.execMigrantQueueAdmit (h : MemoriesAreCanonical s) : YieldsCanonical (execMigrantQueueAdmit s) := by
  unfold Machine.execMigrantQueueAdmit
  split
  · split
    next e1 => exact (h.tryMigrant _ e1).onColumn.next
    · exact h.next
  · exact h.next

theorem MemoriesAreCanonical.migrantAnswered {c sl : Nat} {ok : Bool} (h : MemoriesAreCanonical s) :
    MemoriesAreCanonical (s.migrantAnswered c sl ok) := by
  unfold State.migrantAnswered
  dsimp only
  split
  · exact .ite h.setSlot h.setThread.inCycles
  · exact h

theorem MemoriesAreCanonical.execMigrationRetry (h : MemoriesAreCanonical s) : YieldsCanonical (execMigrationRetry s) := by
  unfold Machine.execMigrationRetry
  dsimp only
  split
  · exact .ite h.move.next h.next
  · exact h.next

/-! ### Multicast -/

theorem MemoriesAreCanonical.nextLine {c : Nat} (h : MemoriesAreCanonical s) : MemoriesAreCanonical (s.nextLine c) := by
  unfold State.nextLine
  dsimp only
  split
  · exact h
  · split
    · exact h
    · split
      · exact h.onRun.askWalk
      · exact h.onRun.pump
      · exact .ite h.onRun.sendLineRequest.inCycles h.onRun.sendLineRequest

theorem MemoriesAreCanonical.mcServed {id : Nat} {r : McReq} (h : MemoriesAreCanonical s) :
    MemoriesAreCanonical (s.mcServed id r) := h.onRun
theorem MemoriesAreCanonical.mcFailed {r : McReq} {k : Cause} (h : MemoriesAreCanonical s) :
    MemoriesAreCanonical (s.mcFailed r k) := h.onRun.pump
theorem MemoriesAreCanonical.mcJoin {home : Nat} {x : McSend} {r : McReq} (h : MemoriesAreCanonical s) :
    MemoriesAreCanonical (s.mcJoin home x r) := .ite h.mcFailed h.onCluster.mcServed
theorem MemoriesAreCanonical.mcStart {home : Nat} {r : McReq} {line : Line} (h : MemoriesAreCanonical s) :
    MemoriesAreCanonical (s.mcStart home r line) := .ite h.mcFailed h.frame.onCluster.mcServed

theorem MemoriesAreCanonical.mcRead {home : Nat} {r : McReq} {x : Line} (h : MemoriesAreCanonical s) :
    MemoriesAreCanonical (s.mcRead home r x).1 := by
  unfold State.mcRead
  dsimp only
  split
  · exact h
  · exact h.readWay.onCluster

theorem MemoriesAreCanonical.mcFill {home : Nat} {r : McReq} (h : MemoriesAreCanonical s) : MemoriesAreCanonical (s.mcFill home r).1 := by
  unfold State.mcFill
  dsimp only
  split
  · exact h.foldl fun _ _ h => h.logSector
  · split
    · exact .onCluster (h.foldl fun _ _ h => h.logSector)
    · split
      · exact .allocate (h.foldl fun _ _ h => h.logSector)
      · exact .onCluster (h.foldl fun _ _ h => h.logSector)
    · exact h.foldl fun _ _ h => h.logSector

theorem MemoriesAreCanonical.execMcreadLineRequest (h : MemoriesAreCanonical s) : YieldsCanonical (execMcreadLineRequest s) := by
  unfold Machine.execMcreadLineRequest
  dsimp only
  split
  · split
    · exact h.inNs.next
    · split
      · split
        · exact h.takeItem.mcRead.mcStart.next
        · split
          next e4 => exact (h.takeItem.mcFill.fst e4).mcFailed.next
          next e4 => exact (h.takeItem.mcFill.fst e4).mcStart.next
      · split
        · exact h.takeItem.convey.next
        · exact h.inCycles.next
        · split
          · exact h.takeItem.mcJoin.next
          · split
            · exact h.takeItem.mcRead.mcStart.next
            · exact h.inCycles.next
  · exact h.next

theorem MemoriesAreCanonical.execMulticastSectorSend (h : MemoriesAreCanonical s) : YieldsCanonical (execMulticastSectorSend s) := by
  unfold Machine.execMulticastSectorSend
  dsimp only
  split
  · exact h.next
  · split
    · exact h.onCluster.next
    · split
      · exact .next (.onCluster (h.onCore.shipCast.foldl fun _ _ h => h.ship))
      · exact .next (.onCluster (.frame (h.onCore.shipCast.foldl fun _ _ h => h.ship)))

theorem MemoriesAreCanonical.mcHeld {cl id core b : Nat} (h : MemoriesAreCanonical s) :
    MemoriesAreCanonical (s.mcHeld cl id core b) := h.onCluster.foldl fun _ _ h => h.onRun.pump

theorem MemoriesAreCanonical.mcBook {a : Access} (h : MemoriesAreCanonical s) : MemoriesAreCanonical (s.mcBook a) := by
  unfold State.mcBook
  dsimp only
  split
  · exact h.addItem.frame
  · exact h.addItem.frame

theorem MemoriesAreCanonical.mcMissed {cl id core b addr : Nat} (h : MemoriesAreCanonical s) :
    MemoriesAreCanonical (s.mcMissed cl id core b addr) := .mcHeld (h.foldl fun _ _ h => h.onRun)

theorem MemoriesAreCanonical.mcWrite {cl id core b : Nat} {r : McReq} {bs : List Byte} {bad : Bool} (h : MemoriesAreCanonical s) :
    MemoriesAreCanonical (s.mcWrite cl id core b r bs bad) := by
  unfold State.mcWrite
  dsimp only
  split
  · exact h.mcBook
  · split
    · exact h.atRiderFrom
    · exact h.mcMissed

theorem MemoriesAreCanonical.execMulticastBlockWrite (h : MemoriesAreCanonical s) : YieldsCanonical (execMulticastBlockWrite s) := by
  unfold Machine.execMulticastBlockWrite
  dsimp only
  split
  next e =>
    refine .next ((h.takeItem.snd e).onCluster.foldl fun _ _ h => h.foldl fun _ _ h => ?_)
    split
    · exact h.mcWrite
    · exact h
  next e1 => exact (h.takeItem.snd e1).next

theorem MemoriesAreCanonical.mcWritten {a : Access} {r : AccResult} (h : MemoriesAreCanonical s) :
    MemoriesAreCanonical (s.mcWritten a r) := by
  unfold State.mcWritten
  split
  · exact .ite h.mcMissed h.mcHeld
  · exact h

theorem MemoriesAreCanonical.mcNoticed {c : Nat} (h : MemoriesAreCanonical s) : MemoriesAreCanonical (s.mcNoticed c) := h.onRun.pump

/-! ### Paired slots -/

theorem MemoriesAreCanonical.onPair {col sl : Nat} {f : TwinPair → TwinPair} (h : MemoriesAreCanonical s) :
    MemoriesAreCanonical (s.onPair col sl f) := h.onColumn

theorem MemoriesAreCanonical.takeValue {c sl r : Nat} {v : TwinVal} (h : MemoriesAreCanonical s) :
    MemoriesAreCanonical (s.takeValue c sl r v) := by
  unfold State.takeValue
  split
  · exact .ite h.setReg h.onThread
  · exact h

theorem MemoriesAreCanonical.takeValues {c sl : Nat} {rs : List Nat} {vs : List TwinVal} (h : MemoriesAreCanonical s) :
    MemoriesAreCanonical (s.takeValues c sl rs vs) := h.foldl fun _ _ h => h.takeValue

theorem MemoriesAreCanonical.trailCsr {c sl : Nat} {i : Instr} {old : Word} (h : MemoriesAreCanonical s) :
    MemoriesAreCanonical (s.trailCsr c sl i old) := by
  unfold State.trailCsr
  dsimp only
  split
  · exact .ite h.writeCsr h
  · exact .ite h.writeCsr h
  · exact .ite h.writeCsr h
  · exact h

theorem MemoriesAreCanonical.trailTake {c sl : Nat} {i : Instr} {outs : List Nat} (h : MemoriesAreCanonical s) :
    MemoriesAreCanonical (s.trailTake c sl i outs) := by
  unfold State.trailTake
  dsimp only
  split
  next trap _ _ _ => exact h.onPair.trap
  · split
    · split
      · exact .takeValues (.ite h.onPair.trailCsr h.onPair)
      · exact .enterTrap (.onThread (.takeValues (.ite h.onPair.trailCsr h.onPair)))
    · split
      · exact .takeValues (.ite h.onPair.trailCsr h.onPair)
      · split
        · exact .enterTrap (.onThread (.takeValues (.ite h.onPair.trailCsr h.onPair)))
        · exact .finish (.onThread (.takeValues (.ite h.onPair.trailCsr h.onPair)))

theorem MemoriesAreCanonical.comparing {col sl : Nat} (h : MemoriesAreCanonical s) :
    MemoriesAreCanonical (s.comparing col sl) := .ite h.frame h
theorem MemoriesAreCanonical.pushOwed {c sl : Nat} (h : MemoriesAreCanonical s) :
    MemoriesAreCanonical (s.pushOwed c sl) := h.onPair.onThread

theorem MemoriesAreCanonical.leadTurn {c sl : Nat} {i : Instr} (h : MemoriesAreCanonical s) : TwinCanonical (s.leadTurn c sl i) := by
  unfold State.leadTurn
  dsimp only
  split
  · exact h.pushOwed.pass
  · split
    · exact h.pushOwed.onPair.onThread.run
    · split
      · split
        · exact h.pushOwed.onPair.onThread.onThread.run
        · exact h.pushOwed.onPair.onThread.onPair.onThread.comparing.pass
      · exact h.pushOwed.onPair.onThread.onThread.run

theorem MemoriesAreCanonical.trailTurn {c sl : Nat} {i : Instr} (h : MemoriesAreCanonical s) : TwinCanonical (s.trailTurn c sl i) := by
  unfold State.trailTurn
  dsimp only
  split
  · exact .ite h.pass h.trailTake.pass
  · split
    · exact .ite h.pass h.onThread.trailTake.pass
    · split
      · exact h.pass
      · split
        · exact h.onThread.run
        · split
          · exact .pass (.comparing (.onThread (.onPair (.ite h h.onThread))))
          · exact .ite h.pass h.onThread.trailTake.pass
          · exact h.onThread.run

theorem MemoriesAreCanonical.twinTurn {c sl : Nat} {i : Instr} (h : MemoriesAreCanonical s) :
    TwinCanonical (s.twinTurn c sl i) := .ite h.run (.ite h.leadTurn h.trailTurn)

theorem MemoriesAreCanonical.execTwinCompare (h : MemoriesAreCanonical s) : YieldsCanonical (execTwinCompare s) := by
  unfold Machine.execTwinCompare
  dsimp only
  split
  · exact .ite h.onPair.onThread.onThread.next h.onPair.onColumn.halt.park.next
  · exact h.next

theorem MemoriesAreCanonical.execWatchdogExpiry (h : MemoriesAreCanonical s) : YieldsCanonical (execWatchdogExpiry s) := by
  unfold Machine.execWatchdogExpiry
  dsimp only
  split
  · exact h.setThread.record.next
  · exact h.next

/-! ### Answers that come over the mesh -/

theorem MemoriesAreCanonical.threadDone {c sl : Nat} {r : AccResult} (h : MemoriesAreCanonical s) :
    MemoriesAreCanonical (s.threadDone c sl r) := by
  unfold State.threadDone
  split
  · exact h
  · split
    · exact h.completeMem
    · exact h.trap
    · split
      · exact h.savectxDone
      · exact h.loadctxDone
      · exact h.completeHomeOp

theorem MemoriesAreCanonical.threadAnswered {c sl : Nat} {a : Access} {r : AccResult} (h : MemoriesAreCanonical s) :
    MemoriesAreCanonical (s.threadAnswered c sl a r) := by
  unfold State.threadAnswered
  dsimp only
  split
  · exact h
  · split
    · exact h.setThread
    · split
      · exact .ite h.gotAnswer.threadDone h.gotAnswer
      · exact h

theorem MemoriesAreCanonical.accessAnswered {a : Access} {r : AccResult} (h : MemoriesAreCanonical s) :
    MemoriesAreCanonical (s.accessAnswered a r) := by
  unfold State.accessAnswered
  dsimp only
  split
  · exact h.landed.threadAnswered
  · exact .ite h.landed h.landed.engineAnswered
  · exact h.landed.matrixAnswered
  · exact h.landed.mcWritten
  · exact h.landed
  · exact h.landed

theorem MemoriesAreCanonical.walkAnswered {g : Agent} {c : Nat} {ptbase : Word} {va : Nat} {leaf : Option Leaf}
    (h : MemoriesAreCanonical s) : MemoriesAreCanonical (s.walkAnswered g c ptbase va leaf) := by
  unfold State.walkAnswered
  dsimp only
  split
  · exact h.askWalk
  · split
    · split
      · exact .ite h.onCore.onThread.resumeNow h
      · exact h
    · split
      · exact .ite h.engineWalked.frame h.engineWalked
      · exact h.engineWalked
    · exact h.fetchWalked
    · exact h

theorem MemoriesAreCanonical.threadTold {c sl : Nat} {a : Ans} (h : MemoriesAreCanonical s) :
    MemoriesAreCanonical (s.threadTold c sl a) := by
  unfold State.threadTold
  split
  · exact h.joinAnswered.after
  · exact h.joinAnswered.after
  · exact h.acked
  · exact h.trap.after
  · exact h.finishPut.after
  · exact h.finish.after
  · exact h

theorem MemoriesAreCanonical.takeIn {c : Content} (h : MemoriesAreCanonical s) : MemoriesAreCanonical (s.takeIn c) := by
  unfold State.takeIn
  dsimp only
  split
  · exact h.reportAnswered
  · exact h.threadTold
  · exact h.imageConfirmed
  · exact .ite h.notify h.imageArrived
  · exact h.joinAt.coreToCore
  · exact h.crownThreadEnded
  · exact h.sheafArrived
  · exact h.atNetwork
  · split
    · exact h.atRider
    · exact h.reachHome
  · exact h.accessAnswered
  · exact h.walkAnswered
  · split
    · exact h.paid.pump
    · exact h.paid
  · exact h.migrantAnswered
  · exact h.mcNoticed
  · exact h.mxCompleted
  · exact h.numberLink
  · exact h.linkAcked
  · exact h.barAnswered
  · exact h.fireMonitor
  · exact h.heardDead
  · exact h

theorem MemoriesAreCanonical.execPacketDelivery (h : MemoriesAreCanonical s) : YieldsCanonical (execPacketDelivery s) := by
  unfold Machine.execPacketDelivery
  dsimp only
  split
  · split
    · exact h.frame.fwRequest fun _ _ _ _ h => h.fwReply
    · exact h.takeItem.takeIn.next
    · exact h.next
  · split
    · exact h.arrivePacket.next
    · exact h.next

/-! ### Table functions -/

theorem MemoriesAreCanonical.vmath1 {d a m : Nat} {f32 : Bool} {k32 k64 : Nat} {g : FSpec → Nat → FRes} (h : MemoriesAreCanonical s) :
    YieldsCanonical (vmath1 s d a m f32 k32 k64 g) := h.lanewise

theorem MemoriesAreCanonical.vmath2 {d a b m : Nat} {f32 : Bool} {k32 k64 : Nat} {g : FSpec → Nat → Nat → FRes}
    (h : MemoriesAreCanonical s) : YieldsCanonical (vmath2 s d a b m f32 k32 k64 g) := h.lanewise

/-! ### Scalar instructions -/

theorem MemoriesAreCanonical.goTarget {c sl : Nat} {t : Int} {link : Option Nat} (h : MemoriesAreCanonical s) :
    MemoriesAreCanonical (goTarget s c sl t link) := by
  unfold Machine.goTarget
  dsimp only
  split
  · exact h.trap
  · refine .jumpTo (.onThread ?_)
    split
    · exact h
    · exact h.put

theorem MemoriesAreCanonical.branch {a : Nat} {delta : Int} {index : Nat} {holds : Int → Bool} (h : MemoriesAreCanonical s) :
    YieldsCanonical (branch s a delta index holds) := h.guarded fun _ _ => .ite h.goTarget h.finish
theorem MemoriesAreCanonical.binary {d a b k : Nat} {op : Word → Word → Word} (h : MemoriesAreCanonical s) :
    YieldsCanonical (binary s d a b k op) := h.scalar
theorem MemoriesAreCanonical.unary {d a : Nat} {op : Word → Word} (h : MemoriesAreCanonical s) :
    YieldsCanonical (unary s d a op) := h.scalar

theorem MemoriesAreCanonical.exitThread {c sl : Nat} (h : MemoriesAreCanonical s) : MemoriesAreCanonical (exitThread s c sl) := by
  unfold Machine.exitThread
  split
  · exact .ite h.stay h.endThread
  · exact h.endThread

/-! ### Turns and the passing of time -/

theorem MemoriesAreCanonical.withCurrent {c sl : Nat} (h : MemoriesAreCanonical s) : MemoriesAreCanonical (s.withCurrent c sl) := h
theorem MemoriesAreCanonical.afterTurn {i : Instr} {c sl : Nat} {held : Bool} (h : MemoriesAreCanonical s) :
    MemoriesAreCanonical (s.afterTurn i c sl held) := .ite h.frame.frame h.frame

theorem MemoriesAreCanonical.portPerform {a : Access} (h : MemoriesAreCanonical s) : MemoriesAreCanonical (s.portPerform a) := by
  unfold State.portPerform
  dsimp only
  split
  · split
    · exact .ite h (.ite h.localNow.gotAnswer.threadDone h.localNow.gotAnswer)
    · exact h
  · exact h

theorem MemoriesAreCanonical.portMove {col src : Nat} {loads : Bool} (h : MemoriesAreCanonical s) :
    MemoriesAreCanonical (s.portMove col src loads) := h.onColumn.foldl fun _ _ h => h.portPerform

theorem MemoriesAreCanonical.clockClusters (h : MemoriesAreCanonical s) : MemoriesAreCanonical s.clockClusters.2 := by
  refine h.foldlSnd fun p x h => ?_
  dsimp only
  split
  · exact h
  · split
    · exact h.onCluster
    · split
      · exact h.onCluster.onCluster
      · exact h.onCluster.onCluster

theorem MemoriesAreCanonical.tick (h : MemoriesAreCanonical s) : MemoriesAreCanonical s.tick := by
  refine .frame (.frame (h.frame.foldlSnd fun p x h => ?_))
  dsimp only
  split
  · exact h
  · split
    · exact h.onCluster
    · split
      · exact h.onCluster.onCluster
      · exact h.onCluster.onCluster

/-! ### Every instruction, every event row -/

/-- The dispatch (Dispatch.lean), arm by arm. -/
theorem MemoriesAreCanonical.exec (h : MemoriesAreCanonical s) (i : Instr) : YieldsCanonical (exec i s) := by
  cases i with
  | brEqz => rw [exec_brEqz]; exact h.branch
  | brNez => rw [exec_brNez]; exact h.branch
  | brLtz => rw [exec_brLtz]; exact h.branch
  | brGez => rw [exec_brGez]; exact h.branch
  | brGtz => rw [exec_brGtz]; exact h.branch
  | brLez => rw [exec_brLez]; exact h.branch
  | jmp => rw [exec_jmp]; exact h.guarded fun _ _ => h.goTarget
  | jr => rw [exec_jr]; exact h.guarded fun _ _ => .ite h.trap (.ite h.trap h.put.onThread.jumpTo)
  | csrRead => rw [exec_csrRead]; exact h.guarded fun _ _ => h.csr
  | csrWrite => rw [exec_csrWrite]; exact h.guarded fun _ _ => h.csr
  | csrSet => rw [exec_csrSet]; exact h.guarded fun _ _ => h.csr
  | csrClear => rw [exec_csrClear]; exact h.guarded fun _ _ => h.csr
  | sysTrap => rw [exec_sysTrap]; exact h.guarded fun _ _ => h.trap
  | sysSvc => rw [exec_sysSvc]; exact h.guarded fun _ _ => h.trap
  | sysIdle => rw [exec_sysIdle]; exact h.guarded fun _ _ => h.await
  | sysTlbinv => exact h.execSysTlbinv
  | sysSavectx => exact h.execSysSavectx
  | sysLoadctx => exact h.execSysLoadctx
  | sysScrub => exact h.execSysScrub
  | sysqNop => rw [exec_sysqNop]; exact h.guarded fun _ _ => h.finish
  | sysqExit => rw [exec_sysqExit]; exact h.guarded fun _ _ => h.exitThread
  | sysqEret => rw [exec_sysqEret]; exact h.guarded fun _ _ => h.eret
  | aluAdd => rw [exec_aluAdd]; exact h.binary
  | aluSub => rw [exec_aluSub]; exact h.binary
  | aluAnd => rw [exec_aluAnd]; exact h.binary
  | aluOr => rw [exec_aluOr]; exact h.binary
  | aluXor => rw [exec_aluXor]; exact h.binary
  | aluAndn => rw [exec_aluAndn]; exact h.binary
  | aluShl => rw [exec_aluShl]; exact h.binary
  | aluShr => rw [exec_aluShr]; exact h.binary
  | aluSar => rw [exec_aluSar]; exact h.binary
  | aluRol => rw [exec_aluRol]; exact h.binary
  | aluMin => rw [exec_aluMin]; exact h.binary
  | aluMax => rw [exec_aluMax]; exact h.binary
  | aluMinn => rw [exec_aluMinn]; exact h.binary
  | aluMaxn => rw [exec_aluMaxn]; exact h.binary
  | aluMul => rw [exec_aluMul]; exact h.binary
  | aluMulh => rw [exec_aluMulh]; exact h.binary
  | aluMulhn => rw [exec_aluMulhn]; exact h.binary
  | aluDiv => rw [exec_aluDiv]; exact h.binary
  | aluDivn => rw [exec_aluDivn]; exact h.binary
  | aluRem => rw [exec_aluRem]; exact h.binary
  | aluRemn => rw [exec_aluRemn]; exact h.binary
  | aluClz => rw [exec_aluClz]; exact h.unary
  | aluCtz => rw [exec_aluCtz]; exact h.unary
  | aluPopc => rw [exec_aluPopc]; exact h.unary
  | aluBrev => rw [exec_aluBrev]; exact h.unary
  | aluBswap => rw [exec_aluBswap]; exact h.unary
  | aluSel => rw [exec_aluSel]; exact h.scalar
  | aluAddw => rw [exec_aluAddw]; exact h.binary
  | aluSubw => rw [exec_aluSubw]; exact h.binary
  | aluMulw => rw [exec_aluMulw]; exact h.binary
  | aluqAdd => rw [exec_aluqAdd]; exact h.binary
  | aluqSub => rw [exec_aluqSub]; exact h.binary
  | aluqAnd => rw [exec_aluqAnd]; exact h.binary
  | aluqOr => rw [exec_aluqOr]; exact h.binary
  | addi => rw [exec_addi]; exact h.unary
  | liS32 => rw [exec_liS32]; exact h.scalar
  | liHi => rw [exec_liHi]; exact h.unary
  | liZ32 => rw [exec_liZ32]; exact h.scalar
  | logiAnd => rw [exec_logiAnd]; exact h.unary
  | logiOr => rw [exec_logiOr]; exact h.unary
  | logiXor => rw [exec_logiXor]; exact h.unary
  | logiSh => rw [exec_logiSh]; exact h.unary
  | cmpEq => rw [exec_cmpEq]; exact h.binary
  | cmpNe => rw [exec_cmpNe]; exact h.binary
  | cmpLt => rw [exec_cmpLt]; exact h.binary
  | cmpGe => rw [exec_cmpGe]; exact h.binary
  | cmpLtn => rw [exec_cmpLtn]; exact h.binary
  | cmpGen => rw [exec_cmpGen]; exact h.binary
  | bitExt => rw [exec_bitExt]; exact h.unary
  | bitIns => rw [exec_bitIns]; exact h.binary
  | agen => rw [exec_agen]; exact h.binary
  | sendTask => rw [exec_sendTask]; exact h.send
  | sendRemop => rw [exec_sendRemop]; exact h.send
  | chanBlock => rw [exec_chanBlock]; exact h.guarded fun _ _ => h.chan
  | chanUnblock => rw [exec_chanUnblock]; exact h.guarded fun _ _ => h.chan
  | chanQuery => rw [exec_chanQuery]; exact h.guarded fun _ _ => h.chan
  | chanTtset => rw [exec_chanTtset]; exact h.guarded fun _ _ => h.chan
  | spawn => exact h.execSpawn
  | freeze => exact h.execFreeze
  | joinWait => rw [exec_joinWait]; exact h.guarded fun _ _ => h.join
  | joinTest => rw [exec_joinTest]; exact h.guarded fun _ _ => h.join
  | migrGoto => rw [exec_migrGoto]; exact h.guarded fun _ _ => .ite h.trap (.ite h.finish (.ite h.trap (.ite h.trap h.move)))
  | migrHome => rw [exec_migrHome]; exact h.guarded fun _ _ => h.finishPut
  | ld => rw [exec_ld]; exact h.memory
  | ldLast => rw [exec_ldLast]; exact h.memory
  | st => rw [exec_st]; exact h.memory
  | ldm => rw [exec_ldm]; exact h.memory
  | stm => rw [exec_stm]; exact h.memory
  | sld => rw [exec_sld]; exact h.memory
  | sst => rw [exec_sst]; exact h.memory
  | amoAdd => rw [exec_amoAdd]; exact h.memory
  | amoAnd => rw [exec_amoAnd]; exact h.memory
  | amoOr => rw [exec_amoOr]; exact h.memory
  | amoXor => rw [exec_amoXor]; exact h.memory
  | amoMin => rw [exec_amoMin]; exact h.memory
  | amoMax => rw [exec_amoMax]; exact h.memory
  | amoMinn => rw [exec_amoMinn]; exact h.memory
  | amoMaxn => rw [exec_amoMaxn]; exact h.memory
  | amoSwap => rw [exec_amoSwap]; exact h.memory
  | amoCas => rw [exec_amoCas]; exact h.memory
  | amoFadd32 => rw [exec_amoFadd32]; exact h.memory
  | amoFadd64 => rw [exec_amoFadd64]; exact h.memory
  | ringInit => rw [exec_ringInit]; exact h.memory
  | ringWfill => rw [exec_ringWfill]; exact h.ringWait
  | ringWfree => rw [exec_ringWfree]; exact h.ringWait
  | ringAcons => rw [exec_ringAcons]; exact h.memory
  | ringAprod => rw [exec_ringAprod]; exact h.memory
  | ringStat => rw [exec_ringStat]; exact h.memory
  | waittAny => rw [exec_waittAny]; exact h.guarded fun _ _ => .ite h.stay h.finishPut
  | waittAll => rw [exec_waittAll]; exact h.guarded fun _ _ => .ite h.finish h.stay
  | waittFfr => rw [exec_waittFfr]; exact h.guarded fun _ _ => h.finishPut
  | waittClr => rw [exec_waittClr]; exact h.guarded fun _ _ => h.onCore.finish
  | waittTest => rw [exec_waittTest]; exact h.guarded fun _ _ => h.finishPut
  | cpq => exact h.execCpq
  | barInit => rw [exec_barInit]; exact h.guarded fun _ _ => h.bar fun _ _ _ => .ite h.trap h.coreToCore.await.homeTurns
  | barArrive => rw [exec_barArrive]; exact h.guarded fun _ _ => h.bar fun _ _ _ => h.arriveAt
  | barWait => rw [exec_barWait]; exact h.guarded fun _ _ => h.bar fun _ _ _ => h.waitAt
  | barSync => rw [exec_barSync]; exact h.guarded fun _ _ => h.bar fun _ _ _ => .ite h.waitAt h.arriveAt
  | monArm => exact h.execMonArm
  | monWait => exact h.execMonWait
  | monDisarm => rw [exec_monDisarm]; exact h.guarded fun _ _ => h.unwatch.onThread.finish
  | fenceFull => rw [exec_fenceFull]; exact h.guarded fun _ _ => .ite h.stay h.finish
  | fenceRelease => rw [exec_fenceRelease]; exact h.fence
  | fenceAcquire => rw [exec_fenceAcquire]; exact h.guarded fun _ _ => h.finish
  | fenceXpath => rw [exec_fenceXpath]; exact h.fence
  | memopStag => rw [exec_memopStag]; exact h.guarded fun _ _ => .ite h.trap (.ite h.trap (h.homeOp fun _ => h.trap))
  | memopLtag => rw [exec_memopLtag]; exact h.guarded fun _ _ => h.homeOp fun _ => h.trap
  | memopPin => rw [exec_memopPin]; exact h.guarded fun _ _ => h.pinLines
  | memopUnpin => rw [exec_memopUnpin]; exact h.guarded fun _ _ => h.pinLines
  | memopWbl => rw [exec_memopWbl]; exact h.guarded fun _ _ => h.homeOp fun _ => h.trap
  | memopPf => exact h.execMemopPf
  | vfAdd => rw [exec_vfAdd]; exact h.vf2
  | vfSub => rw [exec_vfSub]; exact h.vf2
  | vfMul => rw [exec_vfMul]; exact h.vf2
  | vfDiv => rw [exec_vfDiv]; exact h.vf2
  | vfMin => rw [exec_vfMin]; exact h.vf2
  | vfMax => rw [exec_vfMax]; exact h.vf2
  | vfAbs => rw [exec_vfAbs]; exact h.vf1
  | vfNeg => rw [exec_vfNeg]; exact h.vf1
  | vfSqrt => rw [exec_vfSqrt]; exact h.vf1
  | vfRsqrt => rw [exec_vfRsqrt]; exact h.vf1
  | vfCopysign => rw [exec_vfCopysign]; exact h.vf2
  | vfMinnum => rw [exec_vfMinnum]; exact h.vf2
  | vfMaxnum => rw [exec_vfMaxnum]; exact h.vf2
  | vfmaFma => rw [exec_vfmaFma]; exact h.vfma
  | vfmaFms => rw [exec_vfmaFms]; exact h.vfma
  | vfmaFnma => rw [exec_vfmaFnma]; exact h.vfma
  | vfmaFnms => rw [exec_vfmaFnms]; exact h.vfma
  | viAdd => rw [exec_viAdd]; exact h.vi2
  | viSub => rw [exec_viSub]; exact h.vi2
  | viMul => rw [exec_viMul]; exact h.vi2
  | viMulh => rw [exec_viMulh]; exact h.vi2
  | viMulhn => rw [exec_viMulhn]; exact h.vi2
  | viAnd => rw [exec_viAnd]; exact h.vi2
  | viOr => rw [exec_viOr]; exact h.vi2
  | viXor => rw [exec_viXor]; exact h.vi2
  | viAndn => rw [exec_viAndn]; exact h.vi2
  | viShl => rw [exec_viShl]; exact h.vi2
  | viShr => rw [exec_viShr]; exact h.vi2
  | viSar => rw [exec_viSar]; exact h.vi2
  | viMin => rw [exec_viMin]; exact h.vi2
  | viMax => rw [exec_viMax]; exact h.vi2
  | viMinn => rw [exec_viMinn]; exact h.vi2
  | viMaxn => rw [exec_viMaxn]; exact h.vi2
  | viAddsat => rw [exec_viAddsat]; exact h.vi2
  | viSubsat => rw [exec_viSubsat]; exact h.vi2
  | viAddsatn => rw [exec_viAddsatn]; exact h.vi2
  | viSubsatn => rw [exec_viSubsatn]; exact h.vi2
  | viAbs => rw [exec_viAbs]; exact h.lanewise
  | vcmpEq => rw [exec_vcmpEq]; exact h.vcmpTy
  | vcmpNe => rw [exec_vcmpNe]; exact h.vcmpTy
  | vcmpLt => rw [exec_vcmpLt]; exact h.vcmpTy
  | vcmpLe => rw [exec_vcmpLe]; exact h.vcmpTy
  | vcmpGt => rw [exec_vcmpGt]; exact h.vcmpTy
  | vcmpGe => rw [exec_vcmpGe]; exact h.vcmpTy
  | vcmpUnord => rw [exec_vcmpUnord]; exact h.vcmp
  | vcmpLtn => rw [exec_vcmpLtn]; exact h.vcmp
  | vcmpGen => rw [exec_vcmpGen]; exact h.vcmp
  | vcvt => rw [exec_vcvt]; exact h.guarded fun _ _ => h.setReg.orFlags.finish
  | vmathExp => rw [exec_vmathExp]; exact h.vmath1
  | vmathExp2 => rw [exec_vmathExp2]; exact h.vmath1
  | vmathExp10 => rw [exec_vmathExp10]; exact h.vmath1
  | vmathExpm1 => rw [exec_vmathExpm1]; exact h.vmath1
  | vmathLog => rw [exec_vmathLog]; exact h.vmath1
  | vmathLog2 => rw [exec_vmathLog2]; exact h.vmath1
  | vmathLog10 => rw [exec_vmathLog10]; exact h.vmath1
  | vmathLog1p => rw [exec_vmathLog1p]; exact h.vmath1
  | vmathSin => rw [exec_vmathSin]; exact h.vmath1
  | vmathCos => rw [exec_vmathCos]; exact h.vmath1
  | vmathTan => rw [exec_vmathTan]; exact h.vmath1
  | vmathAsin => rw [exec_vmathAsin]; exact h.vmath1
  | vmathAcos => rw [exec_vmathAcos]; exact h.vmath1
  | vmathAtan => rw [exec_vmathAtan]; exact h.vmath1
  | vmathAtan2 => rw [exec_vmathAtan2]; exact h.vmath2
  | vmathSinh => rw [exec_vmathSinh]; exact h.vmath1
  | vmathCosh => rw [exec_vmathCosh]; exact h.vmath1
  | vmathTanh => rw [exec_vmathTanh]; exact h.vmath1
  | vmathPow => rw [exec_vmathPow]; exact h.vmath2
  | vmathCbrt => rw [exec_vmathCbrt]; exact h.vmath1
  | vmathHypot => rw [exec_vmathHypot]; exact h.vmath2
  | vmathErf => rw [exec_vmathErf]; exact h.vmath1
  | vredSum => rw [exec_vredSum]; exact h.reduce
  | vredSumx => rw [exec_vredSumx]; exact h.reduce
  | vredMin => rw [exec_vredMin]; exact h.reduce
  | vredMax => rw [exec_vredMax]; exact h.reduce
  | vredIsum => rw [exec_vredIsum]; exact h.reduce
  | vredAnd => rw [exec_vredAnd]; exact h.reduce
  | vredOr => rw [exec_vredOr]; exact h.reduce
  | vredXor => rw [exec_vredXor]; exact h.reduce
  | vpermBcast => rw [exec_vpermBcast]; exact h.permute
  | vpermShuf => rw [exec_vpermShuf]; exact h.permute
  | vpermRot => rw [exec_vpermRot]; exact h.permute
  | vpermSlideup => rw [exec_vpermSlideup]; exact h.permute
  | vpermSlidedn => rw [exec_vpermSlidedn]; exact h.permute
  | vpermZiplo => rw [exec_vpermZiplo]; exact h.permute
  | vpermZiphi => rw [exec_vpermZiphi]; exact h.permute
  | vpermUnzipe => rw [exec_vpermUnzipe]; exact h.permute
  | vpermUnzipo => rw [exec_vpermUnzipo]; exact h.permute
  | vpermIns => rw [exec_vpermIns]; exact h.permute
  | vpermExt => rw [exec_vpermExt]; exact h.permute
  | vpermSel => rw [exec_vpermSel]; exact h.permute
  | vld => rw [exec_vld]; exact h.memory
  | vst => rw [exec_vst]; exact h.memory
  | vgsGather => rw [exec_vgsGather]; exact h.memory
  | vgsScatter => rw [exec_vgsScatter]; exact h.memory
  | vplPlane => rw [exec_vplPlane]; exact h.vpl
  | vplUnplane => rw [exec_vplUnplane]; exact h.vpl
  | mxCtx => rw [exec_mxCtx]; exact h.mx
  | mxMma => rw [exec_mxMma]; exact h.mx
  | mxMmas => rw [exec_mxMmas]; exact h.mx
  | mxZero => rw [exec_mxZero]; exact h.mx
  | mxDrain => rw [exec_mxDrain]; exact h.mx
  | mxLoadc => rw [exec_mxLoadc]; exact h.mx
  | mxOrder => rw [exec_mxOrder]; exact h.mx
  | skMul => exact h.execSkMul
  | skLink => exact h.execSkLink
  | resetInput => exact .execResetInput
  | bootStage => exact h.execBootStage
  | islandBringUp => exact h.execIslandBringUp
  | islandFrequencyChange => rw [exec_islandFrequencyChange]; exact h.setFrequency.next
  | arrival => exact h.execArrival
  | sendAnswer => exact h.execSendAnswer
  | sendRetransmit => exact h.execSendRetransmit
  | selection => rw [exec_selection]; exact .ite h.setCore.next h.next
  | admission => exact h.execAdmission
  | remopAdmission => exact h.execRemopAdmission
  | stealRequest => exact h.execStealRequest
  | stealAnswer => exact h.execStealAnswer
  | stealReceive => exact h.execStealReceive
  | chanRemote => exact h.execChanRemote
  | dealerSendSheaf => exact h.execDealerSendSheaf
  | imageInstall => exact h.execImageInstall
  | imageFetch => exact h.execImageFetch
  | tillerAdmission => exact h.execTillerAdmission
  | joinDecrement => exact h.execJoinDecrement
  | crownRelease => exact h.execCrownRelease
  | bankMeeting => exact h.execBankMeeting
  | rosedata2Write => rw [exec_rosedata2Write]; exact h.writeRose2.next
  | outroseSelect => rw [exec_outroseSelect]; exact h.writeOutrose.next
  | outroseWrite => rw [exec_outroseWrite]; exact h.writeOutrose.next
  | rosectlSwapRequest => rw [exec_rosectlSwapRequest]; exact h.writeRosectl.next
  | roseSwap => exact h.execRoseSwap
  | bankroleWrite => exact h.execBankroleWrite
  | bankroleChange => exact h.execBankroleChange
  | slicePassComplete => rw [exec_slicePassComplete]; exact h.runPass.onCluster.next
  | idomWrite => rw [exec_idomWrite]; exact .ite h.resumeNow.next (.ite h.frame.next h.writeIdom.next)
  | domainPassComplete => rw [exec_domainPassComplete]; exact .next (.foldl (h.runPass.onCluster.foldl fun _ _ h => h.loseWatches)
      fun _ _ h => h.resumeNow)
  | cntWrite => rw [exec_cntWrite]; exact h.setCnt.next
  | twinctlWrite => exact h.execTwinctlWrite
  | mxstatClear => rw [exec_mxstatClear]; exact h.clearMxstat.next
  | lineFill => exact h.execLineFill
  | pageWalk => exact h.execPageWalk
  | tlbinvRemote => exact h.execTlbinvRemote
  | homeSliceAccess => exact h.execHomeSliceAccess
  | rehomeReplay => exact h.execRehomeReplay
  | tierFill => exact h.execTierFill
  | tierWriteAck => exact h.execTierWriteAck
  | copyInvalidation => exact h.execCopyInvalidation
  | migrantArrival => exact h.execMigrantArrival
  | migrantQueueAdmit => exact h.execMigrantQueueAdmit
  | migrationRetry => exact h.execMigrationRetry
  | ringWaitReread => rw [exec_ringWaitReread]; exact .ite h.resumeNow.next h.next
  | copy => rw [exec_copy]; exact .next (h.take fun _ _ _ h => h.beginBlocks)
  | copy2d => rw [exec_copy2d]; exact .next (h.take fun _ _ _ h => h.beginBlocks)
  | fill => rw [exec_fill]; exact .next (h.take fun _ _ _ h => h.beginBlocks)
  | mcread => rw [exec_mcread]; exact .ite h.nextLine.next (.next (h.take fun _ _ _ h => .ite h.onRun.pump h.onRun.inCycles))
  | wbr => rw [exec_wbr]; exact .next (h.take fun _ _ _ h => h.beginBlocks)
  | invr => rw [exec_invr]; exact .next (h.take fun _ _ _ h => h.beginBlocks)
  | sqz => rw [exec_sqz]; exact .next (h.take fun _ _ _ h => h.beginBlocks)
  | xpnd => rw [exec_xpnd]; exact .next (h.take fun _ _ _ h => h.beginBlocks)
  | tagfreeSet => exact h.execTagfreeSet
  | tagdoneSet => exact h.execTagdoneSet
  | mcreadLineRequest => exact h.execMcreadLineRequest
  | multicastSectorSend => exact h.execMulticastSectorSend
  | multicastBlockWrite => exact h.execMulticastBlockWrite
  | matrixAccept => exact h.execMatrixAccept
  | matrixGrant => exact h.execMatrixGrant
  | ctx => rw [exec_ctx]; exact h.oneCycle
  | mma => rw [exec_mma]; exact h.mmaRow.next
  | mmas => rw [exec_mmas]; exact h.mmaRow.next
  | zero => rw [exec_zero]; exact h.oneCycle
  | drain => exact h.execDrain
  | loadc => exact h.execLoadc
  | order => rw [exec_order]; exact h.oneCycle
  | matrixComplete => exact h.execMatrixComplete
  | linkValueDelivery => exact h.execLinkValueDelivery
  | barrierArrival => rw [exec_barrierArrival]; exact .next (h.cellTurn fun _ _ h => h.applyArrive)
  | barrierInit => rw [exec_barrierInit]; exact .next (h.cellTurn fun _ _ h => h.applyInit)
  | phaseNotice => exact h.execPhaseNotice
  | monitorRegistration => exact h.execMonitorRegistration
  | watchdogExpiry => exact h.execWatchdogExpiry
  | reportRetry => rw [exec_reportRetry]; exact h.onCore.sendReport.next
  | twinCompare => exact h.execTwinCompare
  | preempt => exact h.execPreempt
  | preemptDraining => rw [exec_preemptDraining]; exact .ite h.setCore.next h.next
  | preemptSaving => exact h.execPreemptSaving
  | preemptSaved => rw [exec_preemptSaved]; exact .ite h.setCore.tellFirmware.next h.next
  | resume => exact h.execResume
  | restoreComplete => exact h.execRestoreComplete
  | resumeRunning => exact h.execResumeRunning
  | spillRetry => exact h.execSpillRetry
  | packetDelivery => exact h.execPacketDelivery
  | packetAck => rw [exec_packetAck]; exact .ite h.inNs.next (.ite h.next h.setStream.launchAll.next)
  | linkRetry => rw [exec_linkRetry]; exact .ite (.next (.ite h.onRouter.frame h.onRouter)) (.ite h.frame.next
      (.ite h.next h.onRouter.next))
  | linkDead => exact h.execLinkDead
  | chartInstall => exact h.execChartInstall
  | editionTurn => exact h.execEditionTurn
  | ethernetFrameRx => exact h.execEthernetFrameRx
  | systemEditionTurn => rw [exec_systemEditionTurn]; exact .next (.tellUnreached (h.frame.foldl fun _ _ h => h.foldl
      fun _ _ h => h.frameOut))
  | mxRetry => exact h.execMxRetry
  | fwMatrixCheckCode => rw [exec_fwMatrixCheckCode]; exact h.fwRequest fun _ _ _ _ h => .ite h.fwReply h.fwReply
  | fwPreemptCore => exact h.execFwPreemptCore
  | fwResumeCore => exact h.execFwResumeCore
  | fwIslandFrequency => rw [exec_fwIslandFrequency]; exact h.fwRequest fun _ _ _ _ h => .ite h.fwReply h.askFrequency.fwReply
  | fwRetireBank => exact h.execFwRetireBank
  | fwWriteGroup => exact h.execFwWriteGroup
  | fwCheckpoint => exact h.execFwCheckpoint
  | fwRestore => exact h.execFwRestore
  | fwAttestationQuote => exact h.execFwAttestationQuote
  | fwTenantReset => exact h.execFwTenantReset
  | illegalEncoding => exact h.execIllegalEncoding
  | refusedRequestKind => rw [exec_refusedRequestKind]; exact .next (h.take fun _ _ _ h => h.beginBlocks)
  | mxAnswer => exact h.execMxAnswer
  | stackCopyFill => exact h.execStackCopyFill
  | networkPortAccess => exact h.execNetworkPortAccess
  | headerRouting => exact h.execHeaderRouting
  | portFailure => rw [exec_portFailure]; exact .next (.inAtLeast (.tellFirmware (.ite h.frame h.frame)))
  | powerLimitThrottle => exact h.execPowerLimitThrottle
  | islandPowerDown => rw [exec_islandPowerDown]; exact .ite (.next (.onCluster (h.foldl fun _ _ h => h.writeWay))) h.next
  | keeperChange => rw [exec_keeperChange]; exact .ite h.onCluster.next h.next
  | tenantAssignment => exact h.execTenantAssignment

/-! ### A turn, and a step -/

theorem MemoriesAreCanonical.turnOf {c sl : Nat} (h : MemoriesAreCanonical s) : TurnCanonical (s.turnOf c sl) := by
  unfold State.turnOf
  dsimp only
  split
  · exact h
  · split
    · exact h.takeLine
    · split
      next i _ =>
        have hpair := h.twinTurn (c := c) (sl := sl) (i := i)
        split
        next e => rw [e] at hpair; exact hpair.withCurrent
        next e => rw [e] at hpair; exact hpair
      · exact h.withCurrent

theorem YieldsCanonical.afterRun {i : Instr} {c sl : Nat} {held : Bool} {o : Host.Outcome State Fault Refusal}
    (h : YieldsCanonical o) : YieldsCanonical (afterRun i c sl held o) := by
  cases o with
  | next s => exact (h s rfl).afterTurn.next
  | fault f => exact .fault
  | refused r => exact .refused

theorem MemoriesAreCanonical.issueTurn {c sl : Nat} (h : MemoriesAreCanonical s) : YieldsCanonical (issueTurn c sl s) := by
  have hturn := h.turnOf (c := c) (sl := sl)
  unfold Machine.issueTurn
  split
  next e => rw [e] at hturn; exact MemoriesAreCanonical.next hturn
  next i _ e => rw [e] at hturn; exact YieldsCanonical.afterRun (MemoriesAreCanonical.exec hturn i)

theorem MemoriesAreCanonical.step (h : MemoriesAreCanonical s) : YieldsCanonical (step s) := by
  unfold Machine.step
  split
  · exact h.tick.next
  · exact h.frame.exec _
  · exact h.frame.portMove.next
  · exact .ite h.frame.next h.frame.issueTurn
  · exact h.frame.issueTurn

/-- Settles O59: the next move's operation keeps each memory's canonical form, and so does the passing of a nanosecond. -/
theorem stepsKeepMemoryCanonical : Obligations.StepsKeepMemoryCanonical :=
  fun _ t hs hstep => hs.step t hstep

end Sys2Proof.Machine
end

section
/-!
Reset memories are empty, and a write is read back (01_device R13, 04_channels R133).
-/
namespace Sys2Proof.Machine

open Sys2Proof

/-- Settles O60: a write of some bytes is read back among them and leaves the bytes outside them alone. -/
theorem memoriesReadAndWrite : Obligations.MemoriesReadAndWrite := by
  refine ⟨State.reset_wf, rfl, rfl, rfl, rfl, fun m a bs => ⟨fun j hj => ?_, fun x hx => ?_, ?_⟩⟩
  · rw [Memory.read_writeN_in bs m a j hj, List.getD_eq_getElem _ _ hj]
  · exact Memory.read_writeN_out bs m a x hx
  · exact Memory.wf_writeN bs m a

end Sys2Proof.Machine

end

section
/-!
What a content sent leaves alone, and what arrives: arrivals at a core and the selection of a candidate (04_channels R74, R77, R92).
-/
namespace Sys2Proof.Machine

open Sys2Proof

variable {s : State}

/-! ### A content sent is on its way -/

theorem notify_onItsWay (s : State) (cl d : Nat) (x : Content) : OnItsWay (s.notify cl d x) x :=
  ⟨s.nextId, by simp [State.notify, State.addItem]⟩

/-- A content shipped stands under the next number, whether its packet leaves at once or waits at the source (R422). -/
theorem ship_items (s : State) (scl sep dcl dep cls len : Nat) (x : Content) :
    (s.ship scl sep dcl dep cls len x).items = assign s.items s.nextId x := by
  unfold State.ship State.shipAfter State.number State.launch
  dsimp only
  split <;> rename_i h <;> split at h <;> cases h <;> rfl

theorem ship_onItsWay (s : State) (scl sep dcl dep cls len : Nat) (x : Content) : OnItsWay (s.ship scl sep dcl dep cls len x) x :=
  ⟨s.nextId, by simp [ship_items]⟩

theorem coreToCore_onItsWay (s : State) (src dst cls len : Nat) (x : Content) : OnItsWay (s.coreToCore src dst cls len x) x := by
  unfold State.coreToCore
  split
  · exact notify_onItsWay ..
  · split
    · exact notify_onItsWay ..
    · exact ship_onItsWay ..

theorem notify_core (s : State) (cl d : Nat) (x : Content) (k : Nat) : (s.notify cl d x).core k = s.core k := rfl

/-- Of the cores, sending from one to another changes only the sender's next free cycle of its cluster's port. -/
theorem coreToCore_core (s : State) (src dst cls len : Nat) (x : Content) (k : Nat) :
    ∃ n, (s.coreToCore src dst cls len x).core k = { s.core k with outAt := n } := by
  unfold State.coreToCore
  split
  · exact ⟨_, rfl⟩
  · split
    · dsimp only [State.within, State.draw]
      by_cases hk : k = src
      · subst hk
        exact ⟨_, by rw [notify_core, State.core_onCore]; rfl⟩
      · exact ⟨(s.core k).outAt, by rw [notify_core, State.core_onCore_ne _ _ _ _ hk]; rfl⟩
    · exact ⟨_, by rw [State.ship_core]⟩

theorem coreToCore_arrivals (s : State) (src dst cls len : Nat) (x : Content) (k : Nat) :
    ((s.coreToCore src dst cls len x).core k).arrivals = (s.core k).arrivals := by
  obtain ⟨n, h⟩ := coreToCore_core s src dst cls len x k
  rw [h]

/-! ### Waking the threads that are idle keeps the queue -/

@[simp] theorem State.askLine_devNo (s : State) (c sl pc : Nat) : (s.askLine c sl pc).devNo = s.devNo := by
  unfold State.askLine
  dsimp only
  split
  · split <;> rfl
  · simp [State.askWalk]

@[simp] theorem State.takeLine_devNo (s : State) (c sl : Nat) : (s.takeLine c sl).devNo = s.devNo := by
  unfold State.takeLine
  dsimp only
  split
  · rfl
  · split <;> simp

@[simp] theorem State.finish_devNo (s : State) (c sl : Nat) : (s.finish c sl).devNo = s.devNo := by
  unfold State.finish State.advance
  dsimp only
  split <;> simp [State.jumpTo]

theorem State.wakeIdle_devNo (s : State) (c : Nat) : (s.wakeIdle c).devNo = s.devNo :=
  List.foldlRecOn (motive := fun t : State => t.devNo = s.devNo) _ _ rfl fun t ht sl _ => by
    split
    · simpa [State.after] using ht
    · exact ht

theorem Near.arrivals {s t : State} {c sl : Nat} (h : Near s t c sl) : (t.core c).arrivals = (s.core c).arrivals := by
  simpa using congrArg Core.arrivals h.core

theorem State.wakeIdle_arrivals (s : State) (c : Nat) : ((s.wakeIdle c).core c).arrivals = (s.core c).arrivals :=
  List.foldlRecOn (motive := fun t : State => (t.core c).arrivals = (s.core c).arrivals) _ _ rfl fun t ht sl _ => by
    split
    · exact ((near_finish t c sl).trans (near_setThread _ c sl _)).arrivals.trans ht
    · exact ht

/-! ### ARRIVAL -/

theorem admits_of_own_tenant {m : Msg} (h : s.tenantOf (m.dstCore / 16) ≠ none) (hm : m.tenant = s.tenantOf (m.dstCore / 16)) :
    s.admits m = true := by
  obtain ⟨t, ht⟩ := Option.ne_none_iff_exists'.1 h
  simp [State.admits, clusterOf, hm, ht]

theorem not_admits_of_other_tenant {m : Msg} (h : m.tenant ≠ none) (hm : m.tenant ≠ s.tenantOf (m.dstCore / 16)) :
    s.admits m = false := by
  obtain ⟨u, hu⟩ := Option.ne_none_iff_exists'.1 h
  cases ht : s.tenantOf (m.dstCore / 16) with
  | none => simp [State.admits, clusterOf, ht]
  | some t =>
    have hne : t ≠ u := by rintro rfl; exact hm (hu.trans ht.symm)
    simp [State.admits, clusterOf, ht, hu, hne]

/-- A core that runs and has no spilled message takes a message in while its queue has room (R77, R417). -/
theorem acceptMsg_of_room {m : Msg} (hrun : (s.core m.dstCore).pre = .running) (hspill : (s.core m.dstCore).spill = [])
    (hroom : (s.core m.dstCore).arrivals.length < 64) : s.acceptMsg m = ((s.queueArrival m.dstCore m).wakeIdle m.dstCore, .done) := by
  simp [State.acceptMsg, hrun, hspill, hroom]

theorem acceptMsg_of_full {m : Msg} (hrun : (s.core m.dstCore).pre = .running) (hspill : (s.core m.dstCore).spill = [])
    (hfull : 64 ≤ (s.core m.dstCore).arrivals.length) : s.acceptMsg m = (s, .full) := by
  simp [State.acceptMsg, hrun, hspill, Nat.not_lt.2 hfull]

theorem queueArrival_arrivals {m : Msg} (h : m.taken = none) : ((s.queueArrival m.dstCore m).core m.dstCore).arrivals =
    (s.core m.dstCore).arrivals ++ [{ msg := m, entered := s.cyc m.dstCore }] := by
  have hm : { m with taken := none } = m := by rw [← h]
  simp [State.queueArrival, h, hm]

/-- The answer to a message of the device's own thread is a SEND answer to its slot. -/
theorem answerMsg_own {m : Msg} (a : Ans) (hrep : m.report = false) (hsrc : m.srcDev = s.devNo) (hdev : s.devNo ≠ 0xFFFE) :
    s.answerMsg m m.dstCore a = s.coreToCore m.dstCore m.srcCore 1 1 (.sendAns m.srcCore m.srcSlot a) := by
  simp [State.answerMsg, hrep, hsrc, hdev]

/-- An island that is up takes the message of the event and answers it. -/
theorem execArrival_up {m : Msg} (hm : Delivers s (.msg m)) (hup : (s.cluster (m.dstCore / 16)).up = true) :
    execArrival s = .next (let u := (s.takeItem s.subj.item).2
      if u.admits m then (u.acceptMsg m).1.answerMsg m m.dstCore (u.acceptMsg m).2 else u.answerMsg m m.dstCore .refused) := by
  simp only [execArrival, show find s.items s.subj.item = some (.msg m) from hm, clusterOf, hup]
  simp only [Bool.not_true, Bool.false_eq_true, if_false]
  split <;> rfl

theorem arrivalsQueueOrTurnAway : Clause.ArrivalsQueueOrTurnAway := by
  intro s m hm hrep htaken hsrc hdev
  dsimp only
  rw [exec_arrival]
  refine ⟨fun hdown => ?_, fun hup hten hown hrun hspill => ⟨fun hroom => ?_, fun hfull => ?_⟩, fun hup hten hother => ?_⟩
  · refine ⟨{ s with undeliverable := s.undeliverable ++ [s.subj.item], fwCounts := assign s.fwCounts 3 (look s.fwCounts 3 0 + 1) },
      ?_, rfl, by simp, rfl⟩
    simp [execArrival, show find s.items s.subj.item = some (.msg m) from hm, clusterOf, hdown]
  · have hacc := acceptMsg_of_room (s := (s.takeItem s.subj.item).2) hrun hspill hroom
    have hadm := admits_of_own_tenant (s := (s.takeItem s.subj.item).2) hten hown
    refine ⟨_, execArrival_up hm hup, ?_⟩
    simp only [hadm, hacc, if_true]
    rw [answerMsg_own _ hrep (by simpa [State.wakeIdle_devNo, State.queueArrival] using hsrc)
      (by simpa [State.wakeIdle_devNo, State.queueArrival] using hdev)]
    refine ⟨?_, coreToCore_onItsWay ..⟩
    rw [coreToCore_arrivals, State.wakeIdle_arrivals, queueArrival_arrivals htaken]
    rfl
  · have hacc := acceptMsg_of_full (s := (s.takeItem s.subj.item).2) hrun hspill hfull
    have hadm := admits_of_own_tenant (s := (s.takeItem s.subj.item).2) hten hown
    refine ⟨_, execArrival_up hm hup, ?_⟩
    simp only [hadm, hacc, if_true]
    rw [answerMsg_own (s := (s.takeItem s.subj.item).2) _ hrep hsrc hdev]
    exact ⟨by rw [coreToCore_arrivals]; rfl, coreToCore_onItsWay ..⟩
  · have hadm := not_admits_of_other_tenant (s := (s.takeItem s.subj.item).2) hten hother
    refine ⟨_, execArrival_up hm hup, ?_⟩
    simp only [hadm, Bool.false_eq_true, if_false]
    rw [answerMsg_own (s := (s.takeItem s.subj.item).2) _ hrep hsrc hdev]
    exact ⟨by rw [coreToCore_arrivals]; rfl, coreToCore_onItsWay ..⟩

/-! ### SELECTION -/

/-- Keep the better of two: the newcomer a, where it is better than the one kept so far. -/
def keepBetter {α : Type} (better : α → α → Prop) [DecidableRel better] (kept : Option α) (a : α) : Option α := match kept with
  | none => some a
  | some x => if better x a then some a else kept

section
variable {α : Type} {better : α → α → Prop} [DecidableRel better]

section
variable {f : α → Nat} (h : ∀ x a, better x a → f x ≤ f a) (h' : ∀ x a, ¬ better x a → f a ≤ f x)
include h h'

/-- The one kept is the newcomer or the one kept before, and neither has a higher value. -/
theorem keepBetter_spec (kept : Option α) (a : α) :
    ∃ y, keepBetter better kept a = some y ∧ (y = a ∨ kept = some y) ∧ f a ≤ f y ∧ ∀ z, kept = some z → f z ≤ f y := by
  cases kept with
  | none => exact ⟨a, rfl, .inl rfl, le_rfl, by simp⟩
  | some z =>
    by_cases hb : better z a
    · exact ⟨a, by simp [keepBetter, hb], .inl rfl, le_rfl, by rintro _ ⟨⟩; exact h z a hb⟩
    · exact ⟨z, by simp [keepBetter, hb], .inr rfl, h' z a hb, by rintro _ ⟨⟩; exact le_rfl⟩

/-- The one kept of a list is of the list, and none of the list has a higher value. -/
theorem foldl_keepBetter_some (l : List α) (kept : Option α) (x : α) (hx : l.foldl (keepBetter better) kept = some x) :
    (x ∈ l ∨ kept = some x) ∧ (∀ y ∈ l, f y ≤ f x) ∧ ∀ z, kept = some z → f z ≤ f x := by
  induction l generalizing kept with
  | nil => exact ⟨.inr hx, by simp, by rintro z rfl; cases hx; exact le_rfl⟩
  | cons a l ih =>
    obtain ⟨hmem, hall, hkept⟩ := ih _ hx
    obtain ⟨y, hy, hya, hay, hzy⟩ := keepBetter_spec h h' kept a
    have hyx := hkept y hy
    refine ⟨?_, by simpa using ⟨hay.trans hyx, hall⟩, fun z hz => (hzy z hz).trans hyx⟩
    rcases hmem with hmem | hmem
    · exact .inl (List.mem_cons_of_mem _ hmem)
    · cases hy.symm.trans hmem
      rcases hya with rfl | hkeep
      · exact .inl List.mem_cons_self
      · exact .inr hkeep

end

theorem foldl_keepBetter_none (l : List α) (kept : Option α) (h : l.foldl (keepBetter better) kept = none) : l = [] := by
  by_contra hne
  have hsome : ∀ (l : List α) (x : α), ∃ y, l.foldl (keepBetter better) (some x) = some y := by
    intro l
    induction l with
    | nil => exact fun x => ⟨x, rfl⟩
    | cons a l ih =>
      intro x
      by_cases hb : better x a <;> simpa [keepBetter, hb] using ih _
  cases l with
  | nil => exact hne rfl
  | cons a l =>
    cases kept with
    | none => obtain ⟨y, hy⟩ := hsome l a; cases hy.symm.trans h
    | some x => obtain ⟨y, hy⟩ := hsome (a :: l) x; cases hy.symm.trans h

end

/-- The effective priority of an arrival at a core, and of a record (R92). -/
def Core.arrivalPri (k : Core) (now : Nat) (a : Arrival) : Nat := effective (ttPri (k.tt a.msg.channel)) now a.entered
@[inherit_doc Core.arrivalPri]
def Rec.effPri (r : Rec) (now : Nat) : Nat := effective r.pri now r.entered

/-- The best arrival of a core: the earliest of the highest priority. -/
def Core.bestArrival (k : Core) (now : Nat) : Option Arrival :=
  k.arrivalCandidates.foldl (keepBetter fun x a => k.arrivalPri now x < k.arrivalPri now a) none
/-- The best record of a core: the last of the highest priority. -/
def Core.bestRecord (k : Core) (now : Nat) : Option Rec :=
  k.poppable.foldl (keepBetter fun x r => x.effPri now ≤ r.effPri now) none

/-- Of the best arrival and the best record, the arrival on a tie. -/
def Core.choose (k : Core) (now : Nat) (arr : Option Arrival) (rec_ : Option Rec) : Option Chosen := match arr, rec_ with
  | some a, some r => if r.effPri now ≤ k.arrivalPri now a then some (.arrival a.msg.channel) else some (.record r.uid)
  | some a, none => some (.arrival a.msg.channel)
  | none, some r => some (.record r.uid)
  | none, none => none

theorem Core.pick_eq (k : Core) (now : Nat) : k.pick now = k.choose now (k.bestArrival now) (k.bestRecord now) := by
  have harr : (keepBetter fun x a => k.arrivalPri now x < k.arrivalPri now a) = fun b a => match b with
      | none => some a
      | some x => if k.arrivalPri now x < k.arrivalPri now a then some a else b := by
    funext b a
    cases b <;> rfl
  have hrec : (keepBetter fun (x r : Rec) => x.effPri now ≤ r.effPri now) = fun b r => match b with
      | none => some r
      | some x => if x.effPri now ≤ r.effPri now then some r else b := by
    funext b a
    cases b <;> rfl
  unfold Core.pick Core.choose Core.bestArrival Core.bestRecord
  rw [harr, hrec]
  rfl

/-- One arrival of the queue: the channels seen and the candidates found so far. -/
def Core.takeCandidate (k : Core) (x : List Nat × List Arrival) (a : Arrival) : List Nat × List Arrival :=
  if a.msg.remop || x.1.contains a.msg.channel then x
  else (a.msg.channel :: x.1, if ttOpen (k.tt a.msg.channel) then x.2 ++ [a] else x.2)

theorem Core.arrivalCandidates_eq (k : Core) : k.arrivalCandidates = (k.arrivals.foldl k.takeCandidate ([], [])).2 := rfl

/-- Going over a queue keeps, of each channel not seen before, the first TASK, where its entry is open. -/
theorem mem_foldl_candidates (k : Core) (a : Arrival) (l : List Arrival) (seen : List Nat) (out : List Arrival) :
    a ∈ (l.foldl k.takeCandidate (seen, out)).2 ↔ a ∈ out ∨ (a.msg.channel ∉ seen ∧ l.find? (fun x => !x.msg.remop && decide (x.msg.channel = a.msg.channel)) = some a ∧
      ttOpen (k.tt a.msg.channel) = true) := by
  induction l generalizing seen out with
  | nil => simp
  | cons b l ih =>
    rw [List.foldl_cons, List.find?_cons, Core.takeCandidate]
    by_cases hskip : b.msg.remop = true ∨ b.msg.channel ∈ seen
    · have hb : a.msg.channel ∉ seen → (!b.msg.remop && decide (b.msg.channel = a.msg.channel)) = false := by
        intro ha
        rcases hskip with h | h
        · simp [h]
        · simp [show b.msg.channel ≠ a.msg.channel from fun e => ha (e ▸ h)]
      rw [if_pos (by simpa using hskip), ih]
      refine or_congr_right (and_congr_right fun ha => ?_)
      rw [hb ha]
    · obtain ⟨htask, hnew⟩ := not_or.1 hskip
      rw [if_neg (by simpa using hskip), ih]
      by_cases hch : b.msg.channel = a.msg.channel
      · have hout : a ∈ (if ttOpen (k.tt b.msg.channel) then out ++ [b] else out) ↔
            a ∈ out ∨ (b = a ∧ ttOpen (k.tt a.msg.channel) = true) := by
          rw [hch]
          split <;> simp [*, @eq_comm _ a b]
        rw [hout]
        simp [htask, hch, show a.msg.channel ∉ seen from hch ▸ hnew]
      · have hout : a ∈ (if ttOpen (k.tt b.msg.channel) then out ++ [b] else out) ↔ a ∈ out := by
          have hab : a ≠ b := by rintro rfl; exact hch rfl
          split <;> simp [hab]
        rw [hout]
        simp [hch, Ne.symm hch]

theorem mem_arrivalCandidates (k : Core) (a : Arrival) : a ∈ k.arrivalCandidates ↔ Candidate k a := by
  have h := mem_foldl_candidates k a k.arrivals [] []
  simpa [Core.arrivalCandidates_eq, Candidate, ttOpen, ttValid, ttBlocked] using h

theorem mem_poppable (k : Core) (r : Rec) : r ∈ k.poppable ↔ r ∈ k.deque ∧ r.parked = none := by
  simp [Core.poppable]

theorem bestArrival_some {k : Core} {now : Nat} {a : Arrival} (h : k.bestArrival now = some a) :
    Candidate k a ∧ ∀ b, Candidate k b → k.arrivalPri now b ≤ k.arrivalPri now a := by
  obtain ⟨hmem, hall, _⟩ := foldl_keepBetter_some (f := k.arrivalPri now) (fun _ _ hb => hb.le) (fun _ _ hb => not_lt.1 hb) _ _ _ h
  exact ⟨(mem_arrivalCandidates k a).1 (hmem.resolve_right (by simp)), fun b hb => hall b ((mem_arrivalCandidates k b).2 hb)⟩

theorem bestArrival_none {k : Core} {now : Nat} (h : k.bestArrival now = none) (a : Arrival) : ¬ Candidate k a := by
  rw [← mem_arrivalCandidates, foldl_keepBetter_none _ _ h]
  exact List.not_mem_nil

theorem bestRecord_some {k : Core} {now : Nat} {r : Rec} (h : k.bestRecord now = some r) :
    (r ∈ k.deque ∧ r.parked = none) ∧ ∀ r' ∈ k.deque, r'.parked = none → r'.effPri now ≤ r.effPri now := by
  obtain ⟨hmem, hall, _⟩ := foldl_keepBetter_some (f := fun r : Rec => r.effPri now) (fun _ _ hb => hb)
    (fun _ _ hb => (not_le.1 hb).le) _ _ _ h
  exact ⟨(mem_poppable k r).1 (hmem.resolve_right (by rintro ⟨⟩)), fun r' hr' hp => hall r' ((mem_poppable k r').2 ⟨hr', hp⟩)⟩

theorem bestRecord_none {k : Core} {now : Nat} (h : k.bestRecord now = none) (r : Rec) (hr : r ∈ k.deque) : r.parked ≠ none := by
  intro hp
  have := (mem_poppable k r).2 ⟨hr, hp⟩
  rw [foldl_keepBetter_none _ _ h] at this
  exact List.not_mem_nil this

theorem pick_arrival {k : Core} {now ch : Nat} (h : k.pick now = some (.arrival ch)) : ∃ a, Candidate k a ∧ a.msg.channel = ch ∧
    (∀ b, Candidate k b → k.arrivalPri now b ≤ k.arrivalPri now a) ∧
    ∀ r ∈ k.deque, r.parked = none → r.effPri now ≤ k.arrivalPri now a := by
  rw [Core.pick_eq] at h
  cases ha : k.bestArrival now with
  | none => cases hr : k.bestRecord now <;> simp [ha, hr, Core.choose] at h
  | some a =>
    obtain ⟨hcand, hbest⟩ := bestArrival_some ha
    cases hr : k.bestRecord now with
    | none =>
      simp only [ha, hr, Core.choose, Option.some.injEq, Chosen.arrival.injEq] at h
      exact ⟨a, hcand, h, hbest, fun r hmem hp => absurd hp (bestRecord_none hr r hmem)⟩
    | some r =>
      by_cases hle : r.effPri now ≤ k.arrivalPri now a
      · simp only [ha, hr, Core.choose, hle, if_true, Option.some.injEq, Chosen.arrival.injEq] at h
        exact ⟨a, hcand, h, hbest, fun r' hmem hp => ((bestRecord_some hr).2 r' hmem hp).trans hle⟩
      · simp [ha, hr, Core.choose, hle] at h

theorem pick_record {k : Core} {now uid : Nat} (h : k.pick now = some (.record uid)) : ∃ r ∈ k.deque, r.parked = none ∧
    r.uid = uid ∧ (∀ b, Candidate k b → k.arrivalPri now b < r.effPri now) ∧
    ∀ r' ∈ k.deque, r'.parked = none → r'.effPri now ≤ r.effPri now := by
  rw [Core.pick_eq] at h
  cases hr : k.bestRecord now with
  | none => cases ha : k.bestArrival now <;> simp [ha, hr, Core.choose] at h
  | some r =>
    obtain ⟨⟨hmem, hpop⟩, hbest⟩ := bestRecord_some hr
    cases ha : k.bestArrival now with
    | none =>
      simp only [ha, hr, Core.choose, Option.some.injEq, Chosen.record.injEq] at h
      exact ⟨r, hmem, hpop, h, fun b hb => absurd hb (bestArrival_none ha b), hbest⟩
    | some a =>
      by_cases hle : r.effPri now ≤ k.arrivalPri now a
      · simp [ha, hr, Core.choose, hle] at h
      · simp only [ha, hr, Core.choose, hle, if_false, Option.some.injEq, Chosen.record.injEq] at h
        exact ⟨r, hmem, hpop, h, fun b hb => ((bestArrival_some ha).2 b hb).trans_lt (not_le.1 hle), hbest⟩

theorem pick_none {k : Core} {now : Nat} (h : k.pick now = none) : (∀ b, ¬ Candidate k b) ∧ ∀ r ∈ k.deque, r.parked ≠ none := by
  rw [Core.pick_eq] at h
  cases ha : k.bestArrival now with
  | some a =>
    cases hr : k.bestRecord now with
    | none => simp [ha, hr, Core.choose] at h
    | some r => by_cases hle : r.effPri now ≤ k.arrivalPri now a <;> simp [ha, hr, Core.choose, hle] at h
  | none =>
    cases hr : k.bestRecord now with
    | some r => simp [ha, hr, Core.choose] at h
    | none => exact ⟨bestArrival_none ha, bestRecord_none hr⟩

theorem selectionPicksTheHighest : Clause.SelectionPicksTheHighest := by
  intro s
  dsimp only
  intro hrun hfree hroom
  refine ⟨s.setCore s.subj.unit { s.core s.subj.unit with chosen := (s.core s.subj.unit).pick (s.cyc s.subj.unit) }, ?_, ?_⟩
  · simp [exec_selection, execSelection, hrun, hfree, hroom]
  · rw [State.core_setCore]
    split
    next ch h => exact pick_arrival h
    next uid h => exact pick_record h
    next h => exact pick_none h

/-- Settles O15: a message enters the queue or is turned away, and selection picks the best of the candidates. -/
theorem arrivalsAndSelection : Obligations.ArrivalsAndSelection := ⟨arrivalsQueueOrTurnAway, selectionPicksTheHighest⟩

end Sys2Proof.Machine
end

section
/-!
The reset input, the stages of the boot, and an island brought up: at its reset values, as planned, and on the clock of its quad
(01_device R14 to R20, 23_retire R445 and R446).
-/
namespace Sys2Proof.Machine

open Sys2Proof

variable {s : State}

/-! ### Events asked for -/

theorem inAtLeast_event (s : State) (d : Nat) (row : Instr) (x : Subject) :
    ∃ e ∈ (s.inAtLeast d row x).events, e.row = row ∧ e.subj = x :=
  ⟨_, List.mem_append_right _ List.mem_cons_self, rfl, rfl⟩

theorem mem_inAtLeast_events {e : Event} (d : Nat) (row : Instr) (x : Subject) (h : e ∈ s.events) : e ∈ (s.inAtLeast d row x).events :=
  List.mem_append_left _ h

theorem inAtLeast_stack (s : State) (d : Nat) (row : Instr) (x : Subject) (k : Nat) : (s.inAtLeast d row x).stack k = s.stack k := rfl

/-- One event each for a list of subjects, of one row. -/
theorem foldl_inAtLeast_events (d : Nat) (row : Instr) (f : Nat → Subject) (l : List Nat) (s : State) :
    let t := l.foldl (fun s j => s.inAtLeast d row (f j)) s
    (∀ e ∈ s.events, e ∈ t.events) ∧ ∀ j ∈ l, ∃ e ∈ t.events, e.row = row ∧ e.subj = f j := by
  induction l generalizing s with
  | nil => simp
  | cons i l ih =>
    obtain ⟨hold, hnew⟩ := ih (s.inAtLeast d row (f i))
    refine ⟨fun e he => hold e (mem_inAtLeast_events d row (f i) he), fun j hj => ?_⟩
    rcases List.mem_cons.1 hj with rfl | hj
    · obtain ⟨e, he, hrow⟩ := inAtLeast_event s d row (f j)
      exact ⟨e, hold e he, hrow⟩
    · exact hnew j hj

theorem foldl_inAtLeast_stack (d : Nat) (row : Instr) (f : Nat → Subject) (l : List Nat) (s : State) (k : Nat) :
    (l.foldl (fun s j => s.inAtLeast d row (f j)) s).stack k = s.stack k :=
  List.foldlRecOn (motive := fun (t : State) => t.stack k = s.stack k) l _ rfl fun _ h _ _ => h

/-! ### Reset and boot -/

theorem resetInput_resets (s : State) : ∃ t, exec .resetInput s = .next t ∧ t.cores = State.reset.cores ∧
    t.clusters = State.reset.clusters ∧ t.columns = State.reset.columns ∧ t.quads = State.reset.quads ∧
    t.routers = State.reset.routers ∧ t.groups = State.reset.groups ∧ t.events = State.reset.events ∧ t.agenda = State.reset.agenda ∧
    t.items = [] ∧ t.flash = s.flash ∧ ∀ cl, (t.cluster cl).up = false := by
  rw [exec_resetInput]
  exact ⟨_, rfl, rfl, rfl, rfl, rfl, rfl, rfl, rfl, rfl, rfl, rfl, fun _ => rfl⟩

section
variable (hhalted : (s.stack s.subj.unit).halted = false) (hbooted : (s.stack s.subj.unit).booted = false)
include hhalted hbooted

theorem bootStage_measures {bs : List Byte} {sig : List Byte} (hstage : s.flash[(s.stack s.subj.unit).stage]? = some (bs, sig))
    (hsig : Config.sigOk (sha512 bs) sig = true) :
    exec .bootStage s = .next ((s.onStack s.subj.unit fun k =>
      { k with m := sha512 (k.m ++ sha512 bs), stage := k.stage + 1 }).inAtLeast 1 .bootStage { unit := s.subj.unit }) := by
  rw [exec_bootStage]
  simp [execBootStage, hhalted, hbooted, hstage, hsig]

theorem bootStage_halts {bs : List Byte} {sig : List Byte} (hstage : s.flash[(s.stack s.subj.unit).stage]? = some (bs, sig))
    (hsig : Config.sigOk (sha512 bs) sig = false) :
    exec .bootStage s = .next (s.onStack s.subj.unit fun k => { k with halted := true }) := by
  rw [exec_bootStage]
  simp [execBootStage, hhalted, hbooted, hstage, hsig]

theorem bootStage_ends (hstage : s.flash[(s.stack s.subj.unit).stage]? = none) (hsome : (s.stack s.subj.unit).stage ≠ 0) :
    exec .bootStage s = .next ((List.range 64).foldl (fun u j => u.inAtLeast 1 .islandBringUp { unit := 64 * s.subj.unit + j })
      (s.onStack s.subj.unit fun k => { k with booted := true })) := by
  rw [exec_bootStage]
  simp [execBootStage, hhalted, hbooted, hstage, hsome]

end

/-! ### The clock of a quad (R15) -/

theorem State.oneClock_iff (s : State) (q : Nat) : s.oneClock q = true ↔ (s.quad q).outer ≠ [0xE4] ∨ OuterSwapPending s q := by
  simp [State.oneClock, identityOuter, OuterSwapPending, Quad.shadowRows, shadowOuter]

/-- A loop that changes some clusters, each by its own change. -/
theorem foldl_onCluster_cluster (g : Nat → Cluster → Cluster) (l : List Nat) (hl : l.Nodup) (s : State) (k : Nat) :
    (l.foldl (fun s j => s.onCluster j (g j)) s).cluster k = if k ∈ l then g k (s.cluster k) else s.cluster k := by
  induction l generalizing s with
  | nil => rfl
  | cons j l ih =>
    obtain ⟨hj, hl⟩ := List.nodup_cons.1 hl
    rw [List.foldl_cons, ih hl]
    by_cases hk : k = j
    · subst hk; simp [hj]
    · simp [hk, s.cluster_onCluster_ne j k (g j) hk]

theorem foldl_onCluster_frame (g : Nat → Cluster → Cluster) (l : List Nat) (s : State) :
    ∃ cs, l.foldl (fun s j => s.onCluster j (g j)) s = { s with clusters := cs } :=
  List.foldlRecOn (motive := fun (t : State) => ∃ cs, t = { s with clusters := cs }) l _ ⟨s.clusters, rfl⟩
    fun _ ⟨_, h⟩ _ _ => by rw [h]; exact ⟨_, rfl⟩

/-- The clusters of a quad. -/
def quadClusters (q : Nat) : List Nat := (List.range 4).map fun j => 4 * q + j

theorem mem_quadClusters (q k : Nat) : k ∈ quadClusters q ↔ k / 4 = q := by
  simp only [quadClusters, List.mem_map, List.mem_range]
  constructor
  · rintro ⟨j, hj, rfl⟩; omega
  · exact fun h => ⟨k % 4, by omega, by omega⟩

theorem quadClusters_nodup (q : Nat) : (quadClusters q).Nodup :=
  List.Nodup.map (fun _ _ h => Nat.add_left_cancel h) List.nodup_range

theorem foldl_min_le {α : Type} (g : α → Nat) (l : List α) (a : Nat) :
    l.foldl (fun a x => min a (g x)) a ≤ a ∧ ∀ x ∈ l, l.foldl (fun a x => min a (g x)) a ≤ g x := by
  induction l generalizing a with
  | nil => simp
  | cons x l ih =>
    obtain ⟨hstart, hrest⟩ := ih (min a (g x))
    refine ⟨hstart.trans (min_le_left _ _), fun y hy => ?_⟩
    rcases List.mem_cons.1 hy with rfl | hy
    · exact hstart.trans (min_le_right _ _)
    · exact hrest y hy

/-- The lowest of the frequencies asked for in a quad. -/
def State.lowestAsked (s : State) (q : Nat) : Nat :=
  (quadClusters q).foldl (fun a j => min a (s.cluster j).asked) (s.cluster (4 * q)).asked

theorem State.lowestAsked_le (s : State) {q k : Nat} (h : k / 4 = q) : s.lowestAsked q ≤ (s.cluster k).asked :=
  (foldl_min_le (fun j => (s.cluster j).asked) _ _).2 k ((mem_quadClusters q k).2 h)

/-- A cluster of a quad as alignQuad leaves it. -/
def State.alignedCluster (s : State) (q n j : Nat) (k : Cluster) : Cluster :=
  { k with mhzReq := some k.asked, mhz := s.lowestAsked q, phase := (s.cluster (4 * q)).phase
           stopped := if j = 4 * q then 0 else (k.t + max 1 n - (s.cluster (4 * q)).t % max 1 n) % max 1 n }

/-- A cluster with the frequency asked for it in effect. -/
def Cluster.freed (k : Cluster) : Cluster := { k with mhz := k.asked, mhzReq := none, stopped := 0 }

theorem State.alignQuad_eq (s : State) (q n : Nat) :
    s.alignQuad q n = (quadClusters q).foldl (fun u j => u.onCluster j (s.alignedCluster q n j)) s := rfl

theorem State.freeQuad_eq (s : State) (q : Nat) :
    s.freeQuad q = (quadClusters q).foldl (fun u j => u.onCluster j Cluster.freed) s := by
  rw [quadClusters, List.foldl_map]; rfl

theorem State.alignQuad_cluster_out (s : State) {q k : Nat} (n : Nat) (h : k / 4 ≠ q) : (s.alignQuad q n).cluster k = s.cluster k := by
  rw [State.alignQuad_eq, foldl_onCluster_cluster _ _ (quadClusters_nodup q), if_neg (mt (mem_quadClusters q k).1 h)]

theorem State.alignQuad_cluster_in (s : State) {q k : Nat} (n : Nat) (h : k / 4 = q) :
    (s.alignQuad q n).cluster k = s.alignedCluster q n k (s.cluster k) := by
  rw [State.alignQuad_eq, foldl_onCluster_cluster _ _ (quadClusters_nodup q), if_pos ((mem_quadClusters q k).2 h)]

theorem State.freeQuad_cluster (s : State) (q k : Nat) :
    (s.freeQuad q).cluster k = if k / 4 = q then (s.cluster k).freed else s.cluster k := by
  rw [State.freeQuad_eq, foldl_onCluster_cluster (fun _ => Cluster.freed) _ (quadClusters_nodup q)]
  simp only [mem_quadClusters]

/-- The islands of a quad for which a frequency is recorded. -/
def State.Recorded (s : State) (q : Nat) : Prop := ∃ k, k / 4 = q ∧ (s.cluster k).mhzReq ≠ none

theorem State.recorded_iff (s : State) (q : Nat) :
    ((List.range 4).any fun j => (s.cluster (4 * q + j)).mhzReq.isSome) = true ↔ s.Recorded q := by
  simp only [State.Recorded, ← mem_quadClusters, quadClusters, List.mem_map, List.any_eq_true, Option.isSome_iff_ne_none]
  constructor
  · exact fun ⟨j, hj, hreq⟩ => ⟨_, ⟨j, hj, rfl⟩, hreq⟩
  · rintro ⟨_, ⟨j, hj, rfl⟩, hreq⟩; exact ⟨j, hj, hreq⟩

theorem State.realignQuad_of_oneClock {q : Nat} (h : s.oneClock q = true) : ∃ n, s.realignQuad q = s.alignQuad q n := by
  unfold State.realignQuad
  dsimp only
  split
  · exact ⟨_, rfl⟩
  · exact ⟨_, rfl⟩

theorem State.outer_of_ownClocks {q : Nat} (h : s.oneClock q = false) : ((s.quad q).outer != identityOuter) = false :=
  (Bool.or_eq_false_iff.1 h).1

theorem State.realignQuad_of_recorded {q : Nat} (h : s.oneClock q = false) (hrec : s.Recorded q) : s.realignQuad q = s.freeQuad q := by
  simp only [State.realignQuad, State.outer_of_ownClocks h, h, (s.recorded_iff q).2 hrec, Bool.false_eq_true, if_false, if_true]

theorem State.realignQuad_of_not_recorded {q : Nat} (h : s.oneClock q = false) (hrec : ¬ s.Recorded q) : s.realignQuad q = s := by
  simp only [State.realignQuad, State.outer_of_ownClocks h, h, mt (s.recorded_iff q).1 hrec, Bool.false_eq_true, if_false]

theorem State.realignQuad_frame (s : State) (q : Nat) : ∃ cs, s.realignQuad q = { s with clusters := cs } := by
  cases hclock : s.oneClock q with
  | true =>
    obtain ⟨n, hn⟩ := State.realignQuad_of_oneClock hclock
    rw [hn, State.alignQuad_eq]
    exact foldl_onCluster_frame _ _ s
  | false =>
    by_cases hrec : s.Recorded q
    · rw [State.realignQuad_of_recorded hclock hrec, State.freeQuad_eq]
      exact foldl_onCluster_frame (fun _ => Cluster.freed) _ s
    · exact ⟨s.clusters, State.realignQuad_of_not_recorded hclock hrec⟩

@[simp] theorem State.realignQuad_devNo (s : State) (q : Nat) : (s.realignQuad q).devNo = s.devNo := by
  obtain ⟨_, h⟩ := s.realignQuad_frame q
  rw [h]

@[simp] theorem State.realignQuad_core (s : State) (q c : Nat) : (s.realignQuad q).core c = s.core c := by
  obtain ⟨_, h⟩ := s.realignQuad_frame q
  rw [h]; rfl

/-! ### What the firmware writes into a core (R20, R446) -/

/-- A core that the firmware has set up: its error log and page table are as planned, and everything that a launch uses is at reset. -/
structure Core.SetUp (k : Core) (p : PlanEntry) (j : Nat) : Prop where
  errlog : k.errlog = look p.errlog j 0 &&& errMask
  ptbase : k.ptbase = look p.ptbase j 0 &&& ptMask
  rf : k.rf = []
  rfErr : k.rfErr = []
  slots : k.slots = []
  deque : k.deque = []
  tagdone : k.tagdone = ({} : Core).tagdone
  pre : k.pre = .running

theorem Core.SetUp.setTt {p : PlanEntry} {j c ch : Nat} {w : Word} (h : (s.core c).SetUp p j) :
    (((s.setTt c ch w).deliverHeld c ch).core c).SetUp p j := by
  have hcore : ((s.setTt c ch w).deliverHeld c ch).core c = (s.putTt c ch (ttStore w)).core c := rfl
  rw [hcore, State.putTt, State.core_onCore]
  exact { h with }

theorem State.setTt_core_ne {c k : Nat} (ch : Nat) (w : Word) (h : k ≠ c) : ((s.setTt c ch w).deliverHeld c ch).core k = s.core k := by
  have hcore : ((s.setTt c ch w).deliverHeld c ch).core k = (s.putTt c ch (ttStore w)).core k := rfl
  rw [hcore, State.putTt, State.core_onCore_ne _ _ _ _ h]

theorem State.setMembs_core_ne {c k : Nat} (g : Option Nat) (h : k ≠ c) : (s.setMembs c g).core k = s.core k :=
  s.core_onCore_ne c k _ h

/-- A fact that holds once the registers are written, and that a task table's entry keeps, holds of a core set up. -/
theorem State.setUpCore_of {motive : State → Prop} (c : Nat) (p : PlanEntry)
    (hregs : motive ((s.onCore c fun k =>
      { k with errlog := look p.errlog (c % 16) 0 &&& errMask, ptbase := look p.ptbase (c % 16) 0 &&& ptMask }).setMembs c none))
    (htt : ∀ t ch w, motive t → motive ((t.setTt c ch w).deliverHeld c ch)) : motive (s.setUpCore c p) := by
  refine List.foldlRecOn (motive := motive) _ _ hregs fun t ht ch _ => ?_
  split
  · exact htt t ch _ ht
  · exact ht

theorem State.setUpCore_setUp {c : Nat} (p : PlanEntry) (h : s.core c = {}) : ((s.setUpCore c p).core c).SetUp p (c % 16) := by
  refine State.setUpCore_of (motive := fun t => (t.core c).SetUp p (c % 16)) c p ?_ fun t ch w ht => ht.setTt
  simp only [State.setMembs, State.core_onCore, h]
  constructor <;> rfl

theorem State.setUpCore_core_ne {c k : Nat} (p : PlanEntry) (h : k ≠ c) : (s.setUpCore c p).core k = s.core k := by
  refine State.setUpCore_of (motive := fun t => t.core k = s.core k) c p ?_ fun t ch w ht => (t.setTt_core_ne ch w h).trans ht
  exact (State.setMembs_core_ne none h).trans (s.core_onCore_ne c k _ h)

theorem State.setUpCore_clusters (s : State) (c : Nat) (p : PlanEntry) : (s.setUpCore c p).clusters = s.clusters :=
  State.setUpCore_of (motive := fun t => t.clusters = s.clusters) c p rfl fun _ _ _ h => h

theorem State.setUpCore_devNo (s : State) (c : Nat) (p : PlanEntry) : (s.setUpCore c p).devNo = s.devNo :=
  State.setUpCore_of (motive := fun t => t.devNo = s.devNo) c p rfl fun _ _ _ h => h

/-- The first n cores of a cluster are set up. -/
def State.setUpCores (s : State) (cl : Nat) (p : PlanEntry) (n : Nat) : State :=
  (List.range n).foldl (fun s j => s.setUpCore (16 * cl + j) p) s

theorem State.setUpCores_cluster (s : State) (cl : Nat) (p : PlanEntry) (n k : Nat) : (s.setUpCores cl p n).cluster k = s.cluster k :=
  List.foldlRecOn (motive := fun (t : State) => t.cluster k = s.cluster k) (List.range n) _ rfl fun t h j _ =>
    (congrArg (fun m => look m k (Cluster.reset k)) (t.setUpCore_clusters (16 * cl + j) p)).trans h

theorem State.setUpCores_devNo (s : State) (cl : Nat) (p : PlanEntry) (n : Nat) : (s.setUpCores cl p n).devNo = s.devNo :=
  List.foldlRecOn (motive := fun (t : State) => t.devNo = s.devNo) (List.range n) _ rfl fun t h _ _ => (t.setUpCore_devNo _ p).trans h

theorem State.setUpCores_succ (s : State) (cl : Nat) (p : PlanEntry) (n : Nat) :
    s.setUpCores cl p (n + 1) = (s.setUpCores cl p n).setUpCore (16 * cl + n) p := by
  simp [State.setUpCores, List.range_succ]

theorem State.setUpCores_core_of_le (s : State) (cl : Nat) (p : PlanEntry) {n j : Nat} (h : n ≤ j) :
    (s.setUpCores cl p n).core (16 * cl + j) = s.core (16 * cl + j) := by
  induction n with
  | zero => rfl
  | succ n ih => rw [State.setUpCores_succ, State.setUpCore_core_ne p (by omega), ih (by omega)]

theorem State.setUpCores_setUp {cl j n : Nat} (p : PlanEntry) (hj : j < n) (hn : n ≤ 16) (h : s.core (16 * cl + j) = {}) :
    ((s.setUpCores cl p n).core (16 * cl + j)).SetUp p j := by
  induction n with
  | zero => omega
  | succ n ih =>
    rw [State.setUpCores_succ]
    by_cases hjn : j = n
    · subst hjn
      have hj16 : (16 * cl + j) % 16 = j := by omega
      have := State.setUpCore_setUp p ((s.setUpCores_core_of_le cl p le_rfl).trans h)
      rwa [hj16] at this
    · rw [State.setUpCore_core_ne p (by omega)]
      exact ih (by omega) (by omega)

/-! ### An island comes up (R14, R20, R446) -/

/-- A cluster right after its island came up: as at reset but for what the plan gives it. -/
def islandUp (cl : Nat) (p : PlanEntry) : Cluster :=
  { Cluster.reset cl with up := true, mhz := max 400 (min 1000 p.mhz), world := p.world
                          tenant := tenantWord p.tenant
                          keeper := if p.keeper / 16 = cl then p.keeper else 16 * cl }

/-- The state with the units of an island at reset, its registers as planned, and its tenant's key made. -/
def State.withIslandUp (s : State) (cl : Nat) (p : PlanEntry) : State :=
  let s := { s with devNo := if s.planDev < 0xFFFE then s.planDev else s.devNo, cores := s.cores.filter fun x => clusterOf x.1 != cl
                    columns := s.columns.filter fun x => x.1 / 8 != cl }
  let s := s.onCluster cl fun _ => islandUp cl p
  match p.tenant with
  | some t => s.needKey t
  | none => s

theorem islandBringUp_up (hbooted : (s.stack (s.subj.unit / 64)).booted = true) (hup : (s.cluster s.subj.unit).up = false) :
    exec .islandBringUp s = .next (((s.withIslandUp s.subj.unit (look s.plan s.subj.unit {})).realignQuad (s.subj.unit / 4)).setUpCores
      s.subj.unit (look s.plan s.subj.unit {}) 16) := by
  have hgate : (!(s.stack (stackOf s.subj.unit)).booted || (s.cluster s.subj.unit).up) = false := by simp [stackOf, hbooted, hup]
  rw [exec_islandBringUp]
  simp only [execIslandBringUp, hgate, Bool.false_eq_true, if_false]
  rfl

theorem islandBringUp_idle (h : (s.stack (s.subj.unit / 64)).booted = false ∨ (s.cluster s.subj.unit).up = true) :
    exec .islandBringUp s = .next s := by
  have hgate : (!(s.stack (stackOf s.subj.unit)).booted || (s.cluster s.subj.unit).up) = true := by
    rcases h with h | h <;> simp [stackOf, h]
  rw [exec_islandBringUp]
  simp [execIslandBringUp, hgate]

theorem State.needKey_frame (s : State) (t : Nat) : ∃ ks n, s.needKey t = { s with keys := ks, fresh := n } := by
  unfold State.needKey
  split
  · exact ⟨s.keys, s.fresh, rfl⟩
  · exact ⟨_, _, rfl⟩

theorem State.withIslandUp_frame (s : State) (cl : Nat) (p : PlanEntry) : ∃ ks n, s.withIslandUp cl p =
    { s.onCluster cl fun _ => islandUp cl p with
        devNo := if s.planDev < 0xFFFE then s.planDev else s.devNo, cores := s.cores.filter fun x => clusterOf x.1 != cl
        columns := s.columns.filter fun x => x.1 / 8 != cl, keys := ks, fresh := n } := by
  unfold State.withIslandUp
  dsimp only
  split
  · exact State.needKey_frame _ _
  · exact ⟨s.keys, s.fresh, rfl⟩

@[simp] theorem State.withIslandUp_cluster_self (s : State) (cl : Nat) (p : PlanEntry) :
    (s.withIslandUp cl p).cluster cl = islandUp cl p := by
  obtain ⟨_, _, h⟩ := s.withIslandUp_frame cl p
  simp [h, State.cluster, State.onCluster]

theorem State.withIslandUp_cluster_ne (p : PlanEntry) {cl k : Nat} (hk : k ≠ cl) : (s.withIslandUp cl p).cluster k = s.cluster k := by
  obtain ⟨_, _, h⟩ := s.withIslandUp_frame cl p
  simp [h, State.cluster, State.onCluster, hk]

@[simp] theorem State.withIslandUp_quad (s : State) (cl : Nat) (p : PlanEntry) (q : Nat) : (s.withIslandUp cl p).quad q = s.quad q := by
  obtain ⟨_, _, h⟩ := s.withIslandUp_frame cl p
  rw [h]; rfl

@[simp] theorem State.withIslandUp_devNo (s : State) (cl : Nat) (p : PlanEntry) :
    (s.withIslandUp cl p).devNo = if s.planDev < 0xFFFE then s.planDev else s.devNo := by
  obtain ⟨_, _, h⟩ := s.withIslandUp_frame cl p
  rw [h]

theorem find_filter_none {α : Type} {p : Nat × α → Bool} {m : List (Nat × α)} {k : Nat} (h : ∀ v, p (k, v) = false) :
    find (m.filter p) k = none := by
  induction m with
  | nil => rfl
  | cons x m ih =>
    obtain ⟨k', v⟩ := x
    by_cases hp : p (k', v) = true
    · have hk : k' ≠ k := fun hk => by simp [hk, h] at hp
      simp [hp, find_cons, hk, ih]
    · simp [hp, ih]

theorem State.withIslandUp_core (s : State) {cl j : Nat} (p : PlanEntry) (hj : j < 16) : (s.withIslandUp cl p).core (16 * cl + j) = {} := by
  obtain ⟨_, _, h⟩ := s.withIslandUp_frame cl p
  have hcl : (16 * cl + j) / 16 = cl := by omega
  rw [h, State.core, look_eq_find, find_filter_none fun v => by simp [clusterOf, hcl]]
  rfl

/-- A swap that was pending at the quad's first cluster is gone when that cluster itself came up. -/
theorem State.withIslandUp_oneClock (s : State) (cl : Nat) (p : PlanEntry) : (s.withIslandUp cl p).oneClock (cl / 4) = true ↔
    (s.quad (cl / 4)).outer ≠ [0xE4] ∨ (cl % 4 ≠ 0 ∧ OuterSwapPending s (cl / 4)) := by
  rw [State.oneClock_iff, State.withIslandUp_quad, OuterSwapPending, State.withIslandUp_quad]
  by_cases hlead : cl % 4 = 0
  · have hcl : 4 * (cl / 4) = cl := by omega
    simp [hcl, hlead, islandUp, Cluster.reset]
  · rw [State.withIslandUp_cluster_ne p (by omega)]
    simp [hlead, OuterSwapPending]

/-- What an island that came up leaves in the clusters, in a quad whose islands run from their own clocks. -/
theorem islandUp_ownClocks (p : PlanEntry) {cl : Nat} (h : (s.withIslandUp cl p).oneClock (cl / 4) = false) :
    let t := (s.withIslandUp cl p).realignQuad (cl / 4)
    let asked := fun (j : Nat) => j / 4 = cl / 4 ∧ j ≠ cl ∧ (s.cluster j).mhzReq ≠ none
    t.cluster cl = islandUp cl p ∧ (∀ k, k / 4 ≠ cl / 4 → t.cluster k = s.cluster k) ∧
      ((∀ k, ¬ asked k) → ∀ k, k ≠ cl → t.cluster k = s.cluster k) ∧
      ((∃ k, asked k) → ∀ k, k / 4 = cl / 4 → k ≠ cl → t.cluster k =
        { s.cluster k with mhz := (s.cluster k).mhzReq.getD (s.cluster k).mhz, mhzReq := none, stopped := 0 }) := by
  have hne : ∀ k, k ≠ cl → (s.withIslandUp cl p).cluster k = s.cluster k := fun k => State.withIslandUp_cluster_ne p
  have hrec : (s.withIslandUp cl p).Recorded (cl / 4) ↔ ∃ k, k / 4 = cl / 4 ∧ k ≠ cl ∧ (s.cluster k).mhzReq ≠ none := by
    refine exists_congr fun k => and_congr_right fun _ => ?_
    by_cases hk : k = cl
    · subst hk; simp [islandUp, Cluster.reset]
    · simp [hk, hne k hk]
  dsimp only
  by_cases hsome : ∃ k, k / 4 = cl / 4 ∧ k ≠ cl ∧ (s.cluster k).mhzReq ≠ none
  · rw [State.realignQuad_of_recorded h (hrec.2 hsome)]
    refine ⟨?_, fun k hk => ?_, fun hnone => absurd hsome (not_exists.2 hnone), fun _ k hq hk => ?_⟩
    · rw [State.freeQuad_cluster, if_pos rfl, State.withIslandUp_cluster_self]; rfl
    · rw [State.freeQuad_cluster, if_neg hk, hne k fun h => hk (h ▸ rfl)]
    · rw [State.freeQuad_cluster, if_pos hq, hne k hk]; rfl
  · rw [State.realignQuad_of_not_recorded h (mt hrec.1 hsome)]
    exact ⟨s.withIslandUp_cluster_self cl p, fun k hk => hne k fun h => hk (h ▸ rfl), fun _ => hne, fun h => absurd h hsome⟩

/-- What an island that came up leaves in the clusters, in a quad that runs from one clock. -/
theorem islandUp_oneClock (p : PlanEntry) {cl : Nat} (h : (s.withIslandUp cl p).oneClock (cl / 4) = true) :
    let t := (s.withIslandUp cl p).realignQuad (cl / 4)
    (∃ f st ph, t.cluster cl = { islandUp cl p with mhz := f, mhzReq := some (max 400 (min 1000 p.mhz)), stopped := st, phase := ph } ∧
      ∀ j, j / 4 = cl / 4 → (t.cluster j).mhz = f ∧ f ≤ (t.cluster j).mhzReq.getD 0) ∧
    ∀ k, k / 4 ≠ cl / 4 → t.cluster k = s.cluster k := by
  obtain ⟨n, hn⟩ := State.realignQuad_of_oneClock h
  have hcl := (s.withIslandUp cl p).alignQuad_cluster_in (k := cl) n rfl
  rw [State.withIslandUp_cluster_self] at hcl
  dsimp only
  rw [hn]
  refine ⟨⟨(s.withIslandUp cl p).lowestAsked (cl / 4), _, _, hcl, fun j hj => ?_⟩, fun k hk => ?_⟩
  · rw [State.alignQuad_cluster_in _ n hj]
    exact ⟨rfl, State.lowestAsked_le _ hj⟩
  · rw [State.alignQuad_cluster_out _ n hk, State.withIslandUp_cluster_ne p (by rintro rfl; exact hk rfl)]

theorem errMask_eq : errMask = 0xFFFFFFFFFFFFE004 := by decide

theorem ptMask_eq : ptMask = 0xC00007FFFFFFF800 := by decide

/-- Settles O48: the reset input by the model's own reset, the boot by the branches of a stage, and the bring-up by what each of its parts
(the units at reset, the clock of the quad, the registers of the cores) changes. -/
theorem resetBootAndBringUp : Obligations.ResetBootAndBringUp := by
  refine ⟨resetInput_resets, fun s => ?_, fun s => ⟨islandBringUp_idle, fun hbooted hup => ?_⟩⟩
  · intro st k hhalted hbooted
    refine ⟨fun bs sig hstage => ⟨fun hsig => ?_, fun hsig => ?_⟩, fun hstage hsome => ?_⟩
    · refine ⟨_, bootStage_measures hhalted hbooted hstage hsig, ?_, ?_, inAtLeast_event _ _ _ _⟩ <;>
        rw [inAtLeast_stack, State.stack_onStack]
    · refine ⟨_, bootStage_halts hhalted hbooted hstage hsig, ?_, ?_, rfl⟩ <;> rw [State.stack_onStack]
    · have hevents := (foldl_inAtLeast_events 1 .islandBringUp (fun j => { unit := 64 * st + j }) (List.range 64)
        (s.onStack st fun k => { k with booted := true })).2
      refine ⟨_, bootStage_ends hhalted hbooted hstage hsome, ?_, ?_, fun j hj => hevents j (List.mem_range.2 hj)⟩ <;>
        rw [foldl_inAtLeast_stack, State.stack_onStack]
  · refine ⟨_, islandBringUp_up hbooted hup, ?_, fun hclock => ?_, fun hclock => ?_, fun j hj => ?_⟩
    · rw [State.setUpCores_devNo, State.realignQuad_devNo, State.withIslandUp_devNo]
    · simp only [State.setUpCores_cluster]
      exact islandUp_ownClocks _ (Bool.eq_false_iff.2 fun h => hclock ((s.withIslandUp_oneClock _ _).1 h))
    · simp only [State.setUpCores_cluster]
      exact islandUp_oneClock _ ((s.withIslandUp_oneClock _ _).2 hclock)
    · have h := State.setUpCores_setUp (cl := s.subj.unit) (look s.plan s.subj.unit {}) hj le_rfl
        ((State.realignQuad_core _ (s.subj.unit / 4) _).trans (s.withIslandUp_core (look s.plan s.subj.unit {}) hj))
      exact ⟨errMask_eq ▸ h.errlog, ptMask_eq ▸ h.ptbase, h.rf, h.rfErr, h.slots, h.deque, h.tagdone, h.pre⟩

end Sys2Proof.Machine
end

section
/-!
What changes an island: its frequency and a lowering of it, its power-down, its keeper, and its assignment to a tenant
(01_device R15, 13_matrix R336, 05_crowns R127, 23_retire R440 to R451).
-/
namespace Sys2Proof.Machine

open Sys2Proof

variable {s : State}

/-! ### Writing a line back leaves the clusters -/

@[simp] theorem State.coreToCore_clusters (s : State) (src dst cls len : Nat) (x : Content) :
    (s.coreToCore src dst cls len x).clusters = s.clusters := by
  unfold State.coreToCore
  split
  · rfl
  · split
    · rfl
    · exact State.ship_clusters ..

@[simp] theorem State.tierWrite_clusters (s : State) (lp : Bool) (pa : Nat) (bs : List Byte) :
    (s.tierWrite lp pa bs).clusters = s.clusters := by
  cases lp <;> rfl

@[simp] theorem State.sendReport_clusters (s : State) (c : Nat) : (s.sendReport c).clusters = s.clusters := by
  unfold State.sendReport
  dsimp only
  split
  · split
    · rfl
    · simp
  · rfl

@[simp] theorem State.report_clusters (s : State) (c : Nat) (addr w0 : Word) : (s.report c addr w0).clusters = s.clusters := by
  unfold State.report
  dsimp only
  split
  · simp
  · rfl

@[simp] theorem State.record_clusters (s : State) (c : Nat) (r : ErrRec) : (s.record c r).clusters = s.clusters := by
  unfold State.record
  dsimp only
  split
  · split <;> simp
  · rfl

theorem State.readWay_clusters (s : State) (cl w : Nat) (x : Line) (bs : List Nat) (pc : Word) (eaten : Bool) :
    (s.readWay cl w x bs pc eaten).1.clusters = s.clusters := by
  refine List.foldlRecOn (motive := fun (p : State × Line) => p.1.clusters = s.clusters) _ _ rfl fun p hp e _ => ?_
  dsimp only
  split
  · exact hp
  · rw [State.record_clusters]; exact hp

theorem State.writeLine_clusters (s : State) (x : Line) : (s.writeLine x).clusters = s.clusters := by
  refine List.foldlRecOn (motive := fun (t : State) => t.clusters = s.clusters) _ _ rfl fun t ht p _ => ?_
  split
  · exact (State.tierWrite_clusters ..).trans ht
  · exact ht

theorem State.writeWay_clusters (s : State) (cl w : Nat) (x : Line) : (s.writeWay cl w x).1.clusters = s.clusters := by
  unfold State.writeWay
  split
  · exact (State.writeLine_clusters _ _).trans (State.readWay_clusters ..)
  · rfl

/-! ### Frequency, power and keeper (R15, R336, R440, R451) -/

theorem frequencyChange_cluster (s : State) : ∃ t, exec .islandFrequencyChange s = .next t ∧ t.cluster s.subj.unit =
    if s.oneClock (s.subj.unit / 4) then { s.cluster s.subj.unit with mhzReq := some s.subj.val.toNat }
    else { s.cluster s.subj.unit with mhz := s.subj.val.toNat } := by
  rw [exec_islandFrequencyChange]
  exact ⟨_, rfl, s.cluster_onCluster _ _⟩

theorem mem_ship_events {e : Event} (scl sep dcl dep cls len : Nat) (x : Content) (h : e ∈ s.events) :
    e ∈ (s.ship scl sep dcl dep cls len x).events := by
  unfold State.ship State.shipAfter State.number State.launch
  dsimp only
  split <;> rename_i hp <;> split at hp <;> cases hp
  · exact List.mem_append_left _ h
  · exact h

theorem mem_tellSupervisor_events {e : Event} (t : Nat) (ws : List Nat) (h : e ∈ s.events) : e ∈ (s.tellSupervisor t ws).events := by
  unfold State.tellSupervisor
  split
  · exact h
  · dsimp only
    split
    · exact h
    · exact mem_ship_events _ _ _ _ _ _ _ h

theorem State.tellSupervisor_fwNotes (s : State) (t : Nat) (ws : List Nat) : (s.tellSupervisor t ws).fwNotes = s.fwNotes := by
  unfold State.tellSupervisor
  split
  · rfl
  · dsimp only
    split
    · rfl
    · exact State.ship_fwNotes ..

/-- A supervisor that takes reports is sent a REMOP to the core and the channel that ERRLOG of the tenant's first core names. -/
theorem tellSupervisor_onItsWay {t cl : Nat} (ws : List Nat) (hcl : s.firstCluster t = some cl)
    (hlv : errLv (s.core (16 * cl)).errlog = true) : ∃ m : Msg, OnItsWay (s.tellSupervisor t ws) (.msg m) ∧ m.remop = true ∧
      m.dstCore = errRcore (s.core (16 * cl)).errlog ∧ m.channel = errRch (s.core (16 * cl)).errlog := by
  simp only [State.tellSupervisor, hcl, hlv, Bool.not_true, Bool.false_eq_true, if_false]
  exact ⟨_, ship_onItsWay _ _ _ _ _ _ _ _, rfl, rfl, rfl⟩

/-- The state after an island's lower frequency is asked for and the firmware is told. -/
def State.lowered (s : State) (cl f : Nat) : State := (s.askFrequency cl f).tellFirmware 7 (cl * 65536 + f)

theorem powerLimitThrottle_lowers (hmin : 400 ≤ s.subj.val.toNat)
    (hlow : s.subj.val.toNat < (s.cluster s.subj.unit).mhzReq.getD (s.cluster s.subj.unit).mhz) :
    exec .powerLimitThrottle s = .next (match s.tenantOf s.subj.unit with
      | some tn => (s.lowered s.subj.unit s.subj.val.toNat).tellSupervisor tn [7, s.subj.unit, s.subj.val.toNat]
      | none => s.lowered s.subj.unit s.subj.val.toNat) := by
  have hgate : (decide (400 ≤ s.subj.val.toNat) && decide (s.subj.val.toNat < (s.cluster s.subj.unit).asked)) = true := by
    simp only [Cluster.asked, hmin, hlow, decide_true, Bool.and_self]
  rw [exec_powerLimitThrottle, execPowerLimitThrottle, if_pos hgate]
  rfl

theorem powerLimitThrottle_idle (h : s.subj.val.toNat < 400 ∨
    (s.cluster s.subj.unit).mhzReq.getD (s.cluster s.subj.unit).mhz ≤ s.subj.val.toNat) : exec .powerLimitThrottle s = .next s := by
  have hgate : ¬ (decide (400 ≤ s.subj.val.toNat) && decide (s.subj.val.toNat < (s.cluster s.subj.unit).asked)) = true := by
    rintro hgate
    obtain ⟨hmin, hlow⟩ := Bool.and_eq_true_iff.1 hgate
    exact h.elim (Nat.not_lt.2 (of_decide_eq_true hmin)) (Nat.not_le.2 (of_decide_eq_true hlow))
  rw [exec_powerLimitThrottle, execPowerLimitThrottle, if_neg hgate]

theorem nextBoundary_spec (t : Nat) : nextBoundary t % 16 = 0 ∧ t < nextBoundary t ∧ nextBoundary t ≤ t + 16 := by
  unfold nextBoundary
  omega

theorem lowered_event (s : State) (cl f : Nat) : ∃ e ∈ (s.lowered cl f).events, e.row = .islandFrequencyChange ∧ e.cl = some cl ∧
    e.subj = { unit := cl, val := BitVec.ofNat 64 f } ∧ e.due % 16 = 0 ∧ (s.cluster cl).t < e.due ∧ e.due ≤ (s.cluster cl).t + 16 :=
  ⟨_, List.mem_append_right _ List.mem_cons_self, rfl, rfl, rfl, nextBoundary_spec _⟩

theorem powerLimitThrottle_lowersAndTells (hmin : 400 ≤ s.subj.val.toNat)
    (hlow : s.subj.val.toNat < (s.cluster s.subj.unit).mhzReq.getD (s.cluster s.subj.unit).mhz) :
    ∃ t n, exec .powerLimitThrottle s = .next t ∧ t.fwNotes = s.fwNotes ++ [n] ∧
      (∀ tn far, s.tenantOf s.subj.unit = some tn → s.firstCluster tn = some far → (s.core (16 * far)).errlog.getLsbD 2 = true →
        ∃ r : Msg, OnItsWay t (.msg r) ∧ r.remop = true ∧ r.dstCore = errRcore (s.core (16 * far)).errlog ∧
          r.channel = errRch (s.core (16 * far)).errlog) ∧
      ∃ e ∈ t.events, e.row = .islandFrequencyChange ∧ e.cl = some s.subj.unit ∧
        e.subj = { unit := s.subj.unit, val := BitVec.ofNat 64 s.subj.val.toNat } ∧
        e.due % 16 = 0 ∧ (s.cluster s.subj.unit).t < e.due ∧ e.due ≤ (s.cluster s.subj.unit).t + 16 := by
  obtain ⟨e, he, hevent⟩ := lowered_event s s.subj.unit s.subj.val.toNat
  have hexec := powerLimitThrottle_lowers hmin hlow
  cases htn : s.tenantOf s.subj.unit with
  | none =>
    rw [htn] at hexec
    exact ⟨_, _, hexec, rfl, fun tn _ h => absurd h (by simp), e, he, hevent⟩
  | some tn =>
    rw [htn] at hexec
    refine ⟨_, _, hexec, State.tellSupervisor_fwNotes _ _ _, fun tn' far h hfar hlv => ?_, e, mem_tellSupervisor_events _ _ he, hevent⟩
    obtain rfl := Option.some.inj h
    exact tellSupervisor_onItsWay (s := s.lowered s.subj.unit s.subj.val.toNat) _ hfar hlv

theorem islandPowerDown_down (hup : (s.cluster s.subj.unit).up = true) (hq : s.quiescent [s.subj.unit] = true) :
    ∃ t, exec .islandPowerDown s = .next t ∧ (t.cluster s.subj.unit).up = false ∧ (t.cluster s.subj.unit).lines = [] ∧
      ∀ j, j ≠ s.subj.unit → t.cluster j = s.cluster j := by
  have hlines : ((s.cluster s.subj.unit).lines.foldl (fun u p => (u.writeWay s.subj.unit p.1 p.2).1) s).clusters = s.clusters :=
    List.foldlRecOn (motive := fun (t : State) => t.clusters = s.clusters) _ _ rfl fun t ht p _ => (t.writeWay_clusters _ _ _).trans ht
  rw [exec_islandPowerDown, execIslandPowerDown, if_pos (Bool.and_eq_true_iff.2 ⟨hup, hq⟩)]
  refine ⟨_, rfl, ?_, ?_, fun j hj => ?_⟩
  · rw [State.cluster_onCluster]
  · rw [State.cluster_onCluster]
  · rw [State.cluster_onCluster_ne _ _ _ _ hj, State.cluster, hlines, ← State.cluster]

theorem islandPowerDown_idle (h : (s.cluster s.subj.unit).up = false ∨ s.quiescent [s.subj.unit] = false) :
    exec .islandPowerDown s = .next s := by
  rw [exec_islandPowerDown, execIslandPowerDown, if_neg]
  rcases h with h | h <;> simp [h]

theorem keeperChange_own (h : s.subj.val.toNat / 16 = s.subj.unit) : ∃ t, exec .keeperChange s = .next t ∧
    t.cluster s.subj.unit = { s.cluster s.subj.unit with keeper := s.subj.val.toNat } := by
  rw [exec_keeperChange, execKeeperChange, if_pos (show clusterOf _ = _ from h)]
  exact ⟨_, rfl, s.cluster_onCluster _ _⟩

theorem keeperChange_other (h : s.subj.val.toNat / 16 ≠ s.subj.unit) : exec .keeperChange s = .next s := by
  rw [exec_keeperChange, execKeeperChange, if_neg (show ¬ clusterOf _ = _ from h)]

/-! ### Groups written (R127) -/

/-- Writing a group changes the table of groups and, of the rest, cores alone. -/
theorem State.writeGroup_frame (s : State) (t g : Nat) (ms : List Nat) : ∃ ks, s.writeGroup t g ms =
    { s with groups := if ms.isEmpty then unset s.groups g else assign s.groups g { tenant := t, members := ms }, cores := ks } :=
  List.foldlRecOn (motive := fun (u : State) => ∃ ks, u = { s with
    groups := if ms.isEmpty then unset s.groups g else assign s.groups g { tenant := t, members := ms }, cores := ks })
    _ _ ⟨s.cores, rfl⟩ fun _ ⟨_, h⟩ _ _ => by rw [h]; exact ⟨_, rfl⟩

theorem State.writeGroup_groups (s : State) (t g : Nat) (ms : List Nat) : (s.writeGroup t g ms).groups =
    if ms.isEmpty then unset s.groups g else assign s.groups g { tenant := t, members := ms } := by
  obtain ⟨_, h⟩ := s.writeGroup_frame t g ms
  rw [h]

theorem find_writeGroup_ne (t : Nat) (ms : List Nat) {g j : Nat} (h : j ≠ g) :
    find (s.writeGroup t g ms).groups j = find s.groups j := by
  rw [State.writeGroup_groups]
  split <;> simp [h]

theorem find_writeGroup_self {t g : Nat} {ms : List Nat} {e : Group} (h : find (s.writeGroup t g ms).groups g = some e) :
    e.members = ms := by
  rw [State.writeGroup_groups] at h
  split at h
  · simp at h
  · rw [find_assign_self] at h
    exact congrArg Group.members (Option.some.inj h).symm

/-! ### A cluster's cores leave groups -/

theorem find_mem {α : Type} {m : List (Nat × α)} {k : Nat} {v : α} (h : find m k = some v) : (k, v) ∈ m := by
  induction m with
  | nil => simp at h
  | cons x m ih =>
    obtain ⟨k', v'⟩ := x
    rw [find_cons] at h
    split at h
    next hk => subst hk; cases h; exact List.mem_cons_self
    next => exact List.mem_cons_of_mem _ (ih h)

/-- A group of another tenant than the given one, with a member in the cluster. -/
def Stray (cl : Nat) (new : Option Nat) (p : Nat × Group) : Prop := some p.2.tenant ≠ new ∧ ∃ c ∈ p.2.members, c / 16 = cl

theorem mem_strayGroups (cl : Nat) (new : Option Nat) (p : Nat × Group) :
    p ∈ s.strayGroups cl new ↔ p ∈ s.groups ∧ Stray cl new p := by
  simp only [State.strayGroups, Stray, List.mem_filter, Bool.and_eq_true, List.any_eq_true, bne_iff_ne, decide_eq_true_eq]
  exact Iff.rfl

/-- The cores of a cluster leave some groups. -/
def State.leaveGroups (s : State) (cl : Nat) (gs : List (Nat × Group)) : State :=
  gs.foldl (fun s g => s.writeGroup g.2.tenant g.1 (g.2.members.filter fun c => clusterOf c != cl)) s

theorem State.leaveGroups_frame (s : State) (cl : Nat) (gs : List (Nat × Group)) :
    (s.leaveGroups cl gs).clusters = s.clusters ∧ (s.leaveGroups cl gs).subj = s.subj := by
  refine List.foldlRecOn (motive := fun (t : State) => t.clusters = s.clusters ∧ t.subj = s.subj) _ _ ⟨rfl, rfl⟩ fun t ht g _ => ?_
  obtain ⟨_, h⟩ := t.writeGroup_frame g.2.tenant g.1 (g.2.members.filter fun c => clusterOf c != cl)
  rw [h]
  exact ht

/-- A group after the cores of a cluster left some: one of those, without members in the cluster, or another, as it was. -/
theorem find_leaveGroups {cl g : Nat} {gs : List (Nat × Group)} {e : Group} (h : find (s.leaveGroups cl gs).groups g = some e) :
    (∀ c ∈ e.members, c / 16 ≠ cl) ∨ (∀ x ∈ gs, x.1 ≠ g) ∧ find s.groups g = some e := by
  induction gs generalizing s with
  | nil => exact .inr ⟨by simp, h⟩
  | cons x gs ih =>
    rcases ih h with hout | ⟨hgs, hfind⟩
    · exact .inl hout
    · by_cases hx : x.1 = g
      · subst hx
        rw [find_writeGroup_self hfind]
        exact .inl fun c hc => by simpa [clusterOf] using (List.mem_filter.1 hc).2
      · rw [find_writeGroup_ne _ _ (Ne.symm hx)] at hfind
        exact .inr ⟨List.forall_mem_cons.2 ⟨hx, hgs⟩, hfind⟩

theorem leaveGroups_not_stray {cl g : Nat} {new : Option Nat} {e : Group}
    (h : find (s.leaveGroups cl (s.strayGroups cl new)).groups g = some e) : ¬ Stray cl new (g, e) := by
  intro hstray
  rcases find_leaveGroups h with hout | ⟨hgs, hfind⟩
  · obtain ⟨_, c, hc, hcl⟩ := hstray
    exact hout c hc hcl
  · exact hgs (g, e) ((mem_strayGroups cl new _).2 ⟨find_mem hfind, hstray⟩) rfl

/-! ### Assignment to a tenant (R449) -/

/-- The tenant that a TENANT_ASSIGNMENT gives the cluster to. -/
def State.newTenant (s : State) : Option Nat := if s.subj.sub = 1 then some (s.subj.item % 16) else none

/-- The state when the cores of a cluster that is assigned have left the groups of other tenants. -/
def State.withoutStrays (s : State) : State := s.leaveGroups s.subj.unit (s.strayGroups s.subj.unit s.newTenant)

theorem tenantAssignment_busy (h : s.quiescent [s.subj.unit] = false) : exec .tenantAssignment s = .next s := by
  rw [exec_tenantAssignment, execTenantAssignment]
  dsimp only
  rw [if_pos]
  simp [h]

theorem tenantAssignment_used (h : ∃ p ∈ s.groups, Stray s.subj.unit s.newTenant p ∧ s.groupUsed p.1 = true) :
    exec .tenantAssignment s = .next s := by
  obtain ⟨p, hp, hstray, hused⟩ := h
  have hany : ((s.strayGroups s.subj.unit s.newTenant).any fun g => s.groupUsed g.1) = true :=
    List.any_eq_true.2 ⟨p, (mem_strayGroups _ _ _).2 ⟨hp, hstray⟩, hused⟩
  rw [exec_tenantAssignment, execTenantAssignment]
  dsimp only
  rw [if_pos]
  exact Bool.or_eq_true_iff.2 (.inr hany)

section
variable (hq : s.quiescent [s.subj.unit] = true)
  (hfree : ∀ p ∈ s.groups, Stray s.subj.unit s.newTenant p → s.groupUsed p.1 = false)
include hq hfree

theorem tenantAssignment_gate :
    ¬ (!(s.quiescent [s.subj.unit]) || (s.strayGroups s.subj.unit s.newTenant).any fun g => s.groupUsed g.1) = true := by
  have hany : ((s.strayGroups s.subj.unit s.newTenant).any fun g => s.groupUsed g.1) = false :=
    List.any_eq_false.2 fun p hp => by
      obtain ⟨hmem, hstray⟩ := (mem_strayGroups _ _ _).1 hp
      simp [hfree p hmem hstray]
  simp [hq, hany]

theorem tenantAssignment_toTenant (hsub : s.subj.sub = 1) : exec .tenantAssignment s =
    .next (((s.withoutStrays).needKey (s.subj.item % 16)).onCluster s.subj.unit fun k =>
      { k with tenant := tenantWord (some (s.subj.item % 16)), world := s.withoutStrays.subj.val.getLsbD 0 }) := by
  have hgate := tenantAssignment_gate hq hfree
  have hnew : s.newTenant = some (s.subj.item % 16) := if_pos hsub
  rw [hnew] at hgate
  rw [exec_tenantAssignment, State.withoutStrays, hnew]
  simp only [execTenantAssignment, hsub, if_true, if_neg hgate]
  rfl

theorem tenantAssignment_toNone (hsub : s.subj.sub ≠ 1) : exec .tenantAssignment s =
    .next (s.withoutStrays.onCluster s.subj.unit fun k => { k with tenant := tenantWord none }) := by
  have hgate := tenantAssignment_gate hq hfree
  have hnew : s.newTenant = none := if_neg hsub
  rw [hnew] at hgate
  rw [exec_tenantAssignment, State.withoutStrays, hnew]
  simp only [execTenantAssignment, hsub, if_false, if_neg hgate]
  rfl

theorem tenantAssignment_assigns : ∃ t, exec .tenantAssignment s = .next t ∧
    (s.subj.sub = 1 → t.cluster s.subj.unit =
      { s.cluster s.subj.unit with tenant := BitVec.ofNat 64 (16 + s.subj.item % 16), world := s.subj.val.getLsbD 0 }) ∧
    (s.subj.sub ≠ 1 → t.cluster s.subj.unit = { s.cluster s.subj.unit with tenant := 0 }) ∧
    ∀ g e, find t.groups g = some e → ¬ Stray s.subj.unit s.newTenant (g, e) := by
  obtain ⟨hclusters, hsubj⟩ := s.leaveGroups_frame s.subj.unit (s.strayGroups s.subj.unit s.newTenant)
  have hcluster : s.withoutStrays.cluster s.subj.unit = s.cluster s.subj.unit := congrArg (look · _ _) hclusters
  by_cases hsub : s.subj.sub = 1
  · obtain ⟨ks, n, hkey⟩ := s.withoutStrays.needKey_frame (s.subj.item % 16)
    have hval : s.withoutStrays.subj = s.subj := hsubj
    refine ⟨_, tenantAssignment_toTenant hq hfree hsub, fun _ => ?_, fun h => absurd hsub h, ?_⟩
    · have hkeyed : (s.withoutStrays.needKey (s.subj.item % 16)).cluster s.subj.unit = s.cluster s.subj.unit := by
        rw [hkey]; exact hcluster
      rw [State.cluster_onCluster, hkeyed, hval, tenantWord, Nat.mod_mod]
    · rw [hkey]
      exact fun _ _ => leaveGroups_not_stray
  · refine ⟨_, tenantAssignment_toNone hq hfree hsub, fun h => absurd h hsub, fun _ => ?_, fun _ _ => leaveGroups_not_stray⟩
    rw [State.cluster_onCluster, hcluster]
    rfl

end

/-- Settles O49: each row by its branches, a power-down by the writes that leave the clusters, and an assignment by what is left of each
group that the cluster's cores leave. -/
theorem islandsChange : Obligations.IslandsChange := by
  intro s cl k v
  refine ⟨fun houter hswap => ?_, fun hone => ?_, powerLimitThrottle_lowersAndTells, powerLimitThrottle_idle, islandPowerDown_down,
    islandPowerDown_idle, keeperChange_own, keeperChange_other, tenantAssignment_busy, fun hq => ⟨tenantAssignment_used, fun hfree => ?_⟩⟩
  · obtain ⟨t, ht, hcl⟩ := frequencyChange_cluster s
    exact ⟨t, ht, hcl.trans (if_neg fun h => ((s.oneClock_iff _).1 h).elim (absurd houter) hswap)⟩
  · obtain ⟨t, ht, hcl⟩ := frequencyChange_cluster s
    exact ⟨t, ht, hcl.trans (if_pos ((s.oneClock_iff _).2 hone))⟩
  · obtain ⟨t, ht, hsome, hnone, hstray⟩ := tenantAssignment_assigns hq hfree
    exact ⟨t, ht, hsome, hnone, fun _ => hstray⟩

end Sys2Proof.Machine
end

section
/-!
Branches, jumps and returns (02_lines R29, R30, 07_issue R166, R167, R188, R190): each is one finish, jump or trap.
-/
namespace Sys2Proof.Machine

open Sys2Proof

/-! ### Branches, jumps and returns (R29, R30, R166, R167, R188, R190) -/

/-- A branch form is one of BR's six conditions, each a test of the register's value (R166). -/
theorem exec_branchForm (i : Instr) : (branchForm i).elim True fun (a, delta, index, p) =>
    ∃ holds : Int → Bool, (∀ x, holds x = true ↔ p x) ∧ ∀ s, exec i s = branch s a delta index holds := by
  induction i with
  | brEqz | brNez | brLtz | brGez | brGtz | brLez => exact ⟨_, fun _ => decide_eq_true_iff, fun _ => rfl⟩
  | _ => trivial

/-- A target within 0 to 2^48 - 1 is gone to, once the link is written (R29, R30). -/
theorem goTarget_inside {s : State} {c sl : Nat} {t : Int} (link : Option Nat) (h0 : 0 ≤ t) (h : t < 2 ^ 48) :
    goTarget s c sl t link = ((link.elim s fun d => s.put c sl d (s.thread c sl).nextPc).onThread c sl
      fun th => { th with entering := false }).jumpTo c sl (wordOf t) := by
  have hin : ¬ (t < 0 || (2 : Int) ^ 48 ≤ t) = true := by simp only [Bool.or_eq_true, decide_eq_true_eq]; omega
  unfold goTarget
  rw [if_neg hin]
  cases link <;> rfl

/-- Any other target traps PAGE (R29). -/
theorem goTarget_outside {s : State} {c sl : Nat} {t : Int} (link : Option Nat) (h : t < 0 ∨ 2 ^ 48 ≤ t) :
    goTarget s c sl t link = s.trap c sl .page (wordOf t) :=
  if_pos (Bool.or_eq_true_iff.2 (h.imp decide_eq_true decide_eq_true))

theorem branchesGoOrTrap : Clause.BranchesGoOrTrap := by
  intro i s c sl a delta index p hform hr
  have hi := exec_branchForm i
  rw [hform] at hi
  obtain ⟨holds, hp, he⟩ := hi
  have he := (he s).trans (guarded_runs hr _)
  refine ⟨fun hx => finish_goes (he.trans ?_), fun hx h0 h48 => jump_goes (he.trans ?_), fun hx hout => trap_takes (he.trans ?_)⟩
  · rw [if_neg fun h => hx ((hp _).1 h)]
  · rw [if_pos ((hp _).2 hx)]
    exact congrArg _ (goTarget_inside none h0 h48)
  · rw [if_pos ((hp _).2 hx)]
    exact congrArg _ (goTarget_outside none hout)

/-- The check of JR's target and of ERET's (R30, R190), apart: a head address passes, and any other word fails one of its two tests. -/
theorem checkTarget {x : Word} {α : Type} (f g k : α) :
    let r := if x.toNat % 2 = 1 || headOf x.toNat = 0 then f else if 2 ^ 48 ≤ x.toNat then g else k
    (headAddress x = true → r = k) ∧ (x.toNat % 2 = 1 ∨ x.toNat % 64 / 2 = 0 → r = f) ∧
      (x.toNat % 2 = 0 → x.toNat % 64 / 2 ≠ 0 → 2 ^ 48 ≤ x.toNat → r = g) := by
  intro r
  refine ⟨fun h => ?_, fun h => if_pos (Bool.or_eq_true_iff.2 (h.imp decide_eq_true decide_eq_true)), fun h1 h2 h3 => ?_⟩
  · simp only [headAddress, Bool.and_eq_true, decide_eq_true_eq] at h
    obtain ⟨⟨h1, h2⟩, h3⟩ := h
    exact (if_neg (by simp [h1, h2])).trans (if_neg (Nat.not_le.2 h3))
  · exact (if_neg (by simp [headOf, h1, h2])).trans (if_pos h3)

theorem jumpsLinkOrTrap : Clause.JumpsLinkOrTrap := by
  refine ⟨fun s c sl d delta index hr => ?_, fun s c sl d a hr => ?_⟩
  · have he := (exec_jmp d delta index s).trans (guarded_runs hr _)
    exact ⟨fun h0 h48 => link_jumps (hr.hasRoom (.head _)) (he.trans (congrArg _ (goTarget_inside (some d) h0 h48))),
      fun hout => trap_takes (he.trans (congrArg _ (goTarget_outside (some d) hout)))⟩
  · have he := (exec_jr d a s).trans (guarded_runs hr _)
    obtain ⟨hgo, hmis, hpage⟩ := checkTarget (x := s.reg64 c sl a) (s.trap c sl .misalign (s.reg64 c sl a)) (s.trap c sl .page (s.reg64 c sl a))
      (((s.put c sl d (s.thread c sl).nextPc).onThread c sl fun th => { th with entering := false }).jumpTo c sl (s.reg64 c sl a))
    exact ⟨fun h => link_jumps (hr.hasRoom (.head _)) (he.trans (congrArg _ (hgo h))),
      fun h => trap_takes (he.trans (congrArg _ (hmis h))), fun h1 h2 h3 => trap_takes (he.trans (congrArg _ (hpage h1 h2 h3)))⟩

theorem nopAndEret : Clause.NopAndEret := by
  intro s c sl hr
  have he := (exec_sysqEret s).trans (guarded_runs hr _)
  obtain ⟨hgo, hmis, hpage⟩ := checkTarget (x := (s.thread c sl).tepc) (s.trap c sl .misalign (s.thread c sl).tepc)
    (s.trap c sl .page (s.thread c sl).tepc) ((s.onThread c sl fun th => { th with entering := false }).jumpTo c sl (s.thread c sl).tepc)
  exact ⟨finish_goes ((exec_sysqNop s).trans (guarded_runs hr _)), fun h => jump_goes (he.trans (congrArg _ (hgo h))),
    fun h => trap_takes (he.trans (congrArg _ (hmis h))), fun h1 h2 h3 => trap_takes (he.trans (congrArg _ (hpage h1 h2 h3)))⟩

/-- Settles O2: past its checks each instruction is one finish, jump or trap, and what those change is known. -/
theorem branchesJumpsAndReturns : Obligations.BranchesJumpsAndReturns := ⟨branchesGoOrTrap, jumpsLinkOrTrap, nopAndEret⟩

end Sys2Proof.Machine
end

section
/-!
Error records (20_traps R403, R409 to R411): what a record, a report and the parking of a thread write, and what they leave alone.
-/
namespace Sys2Proof.Machine

open Sys2Proof

/-! ### Error records (R403, R409) -/

theorem Memory.readN_writeN_slice (m : Memory) (a k n : Nat) (bs : List Byte) (h : k + n ≤ bs.length) :
    (Memory.writeN m a bs).readN (a + k) n = (bs.drop k).take n := by
  refine List.ext_getElem (by simp [Memory.readN]; omega) fun i h1 h2 => ?_
  have hi : i < n := by simpa [Memory.readN] using h1
  simp only [Memory.readN, List.getElem_map, List.getElem_range, List.getElem_take, List.getElem_drop, Nat.add_assoc]
  exact Memory.read_writeN_in bs m a (k + i) (by omega)

/-- Word j of numbers laid out eight bytes each. -/
theorem take_drop_flatMap_toBytes (ws : List Nat) {j : Nat} (h : j < ws.length) :
    ((ws.flatMap (toBytes 8)).drop (8 * j)).take 8 = toBytes 8 (ws.getD j 0) := by
  induction ws generalizing j with
  | nil => cases h
  | cons w ws ih =>
    have hw := toBytes_length 8 w
    cases j with
    | zero => exact List.take_left' hw
    | succ j =>
      rw [List.flatMap_cons, Nat.mul_succ, Nat.add_comm, ← List.drop_drop, List.drop_left' hw]
      exact ih (Nat.lt_of_succ_lt_succ h)

theorem tierWord_tierWrite (s : State) (lp : Bool) (pa : Nat) (ws : List Nat) {j : Nat} (h : j < ws.length) :
    tierWord (s.tierWrite lp pa (ws.flatMap (toBytes 8))) lp (pa + 8 * j) = ws.getD j 0 % 2 ^ 64 := by
  have hl : (ws.flatMap (toBytes 8)).length = 8 * ws.length := by
    simp [List.length_flatMap, toBytes_length, Nat.mul_comm]
  have hr : (s.tierWrite lp pa (ws.flatMap (toBytes 8))).tierRead lp (pa + 8 * j) 8 = toBytes 8 (ws.getD j 0) := by
    rw [← take_drop_flatMap_toBytes ws h]
    cases lp <;> exact Memory.readN_writeN_slice _ _ _ _ _ (by omega)
  rw [tierWord, hr]
  exact ofBytes_toBytes 8 _

/-- A core without its reports and its port's next free cycle. -/
noncomputable def Core.unreported (k : Core) : Core := { k with reports := [], dropped := 0, outAt := 0 }

/-- A core without its reports and its place in the log of errors. -/
noncomputable def Core.unlogged (k : Core) : Core := { k.unreported with errNext := 0, errSeq := 0 }

/-- A report of core c, which its queue or a message takes, leaves every memory and the rest of the core alone (R411). -/
structure ReportOnly (s t : State) (c : Nat) : Prop where
  memory : SameMemory s t
  core : (t.core c).unreported = (s.core c).unreported

theorem sameMemory_coreToCore (s : State) (src dst cls len : Nat) (x : Content) : SameMemory s (s.coreToCore src dst cls len x) := by
  unfold State.coreToCore
  split
  · constructor <;> intros <;> rfl
  · split
    · constructor <;> intros <;> rfl
    · constructor <;> simp [State.cluster]

theorem reportOnly_coreToCore (s : State) (src dst cls len : Nat) (x : Content) (c : Nat) :
    ReportOnly s (s.coreToCore src dst cls len x) c := by
  obtain ⟨n, h⟩ := coreToCore_core s src dst cls len x c
  exact ⟨sameMemory_coreToCore .., by rw [h]; rfl⟩

theorem reportOnly_setCore {s : State} {c : Nat} {v : Core} (h : v.unreported = (s.core c).unreported) : ReportOnly s (s.setCore c v) c :=
  ⟨by constructor <;> intros <;> rfl, by rw [State.core_setCore, h]⟩

theorem ReportOnly.trans {s t u : State} {c : Nat} (h : ReportOnly s t c) (g : ReportOnly t u c) : ReportOnly s u c :=
  ⟨h.memory.trans g.memory, g.core.trans h.core⟩

theorem reportOnly_sendReport (s : State) (c : Nat) : ReportOnly s (s.sendReport c) c := by
  have hs : ReportOnly s s c := ⟨by constructor <;> intros <;> rfl, rfl⟩
  unfold State.sendReport
  dsimp only
  split
  · split
    · exact hs
    · exact .trans (reportOnly_setCore (by rfl)) (reportOnly_coreToCore ..)
  · exact hs

theorem reportOnly_report (s : State) (c : Nat) (addr w0 : Word) : ReportOnly s (s.report c addr w0) c := by
  unfold State.report
  dsimp only
  split
  · exact .trans (reportOnly_setCore (by rfl)) (reportOnly_sendReport ..)
  · exact reportOnly_setCore rfl

/-- A core once its log has taken another record (R403). -/
noncomputable def Core.logged (k : Core) : Core := { k with errNext := (k.errNext + 1) % 1024, errSeq := (k.errSeq + 1) % 2 ^ 32 }

/-- The eight words of a record (R403). -/
noncomputable def ErrRec.words (r : ErrRec) (c seq : Nat) : List Nat :=
  [(r.word0 c seq).toNat, r.pc.toNat, r.addr.toNat, r.tid % 65536, r.w4, r.w5, r.w6, r.w7]

/-- A record is its words at NEXT of the log, the log moved on, and perhaps a report. -/
theorem record_logs {s : State} {c : Nat} (r : ErrRec) (hlv : (s.core c).errlog.getLsbD 2 = true) :
    let k := s.core c
    ReportOnly ((s.setCore c k.logged).tierWrite (k.errlog.getLsbD 38)
      (k.errlog.toNat / 2 ^ 13 % 2 ^ 25 * 65536 + 64 * k.errNext) ((r.words c k.errSeq).flatMap (toBytes 8))) (s.record c r) c := by
  have hs (u : State) : ReportOnly u u c := ⟨by constructor <;> intros <;> rfl, rfl⟩
  have he : s.record c r = _ := if_pos hlv
  dsimp only
  rw [he]
  simp only [ErrRec.words, List.flatMap_cons, List.flatMap_nil, List.append_nil, ← List.append_assoc]
  split
  · exact hs _
  · exact reportOnly_report ..

theorem core_tierWrite (s : State) (lp : Bool) (pa : Nat) (bs : List Byte) (k : Nat) : (s.tierWrite lp pa bs).core k = s.core k := by
  cases lp <;> rfl

theorem SameMemory.tierWord {s t : State} (h : SameMemory s t) (lp : Bool) (pa : Nat) : tierWord t lp pa = tierWord s lp pa := by
  cases lp <;> simp only [Sys2Proof.Machine.tierWord, State.tierRead, Memory.readN, h.hbm, h.lp, Bool.false_eq_true, if_true, if_false]

theorem record_recorded (s : State) (c : Nat) (r : ErrRec) : Recorded s (s.record c r) c r.kind r.cause r.slot
    [r.pc.toNat, r.addr.toNat, r.tid % 65536, r.w4, r.w5, r.w6, r.w7] := by
  unfold Recorded
  dsimp only
  split
  case isTrue hlv =>
    obtain ⟨hm, hc⟩ := record_logs r hlv
    rw [core_tierWrite, State.core_setCore] at hc
    refine ⟨congrArg Core.errNext hc, congrArg Core.errSeq hc, fun j hj => ?_⟩
    rw [hm.tierWord, tierWord_tierWrite _ _ _ _ hj]
    cases j with
    | zero => simp only [ErrRec.words, ErrRec.word0, List.getD_cons_zero, BitVec.toNat_ofNat, Nat.mod_mod]
    | succ j => simp only [ErrRec.words, List.getD_cons_succ]
  case isFalse hlv =>
    simp only [State.record, show ¬ errLv (s.core c).errlog = true from hlv]
    exact ⟨rfl, rfl⟩

/-- What a record's place and number come from: ERRLOG, NEXT and SEQ. -/
noncomputable def Core.log (k : Core) : Word × Nat × Nat := (k.errlog, k.errNext, k.errSeq)

theorem Recorded.of_log {s s' t : State} {c kind cause sl : Nat} {ws : List Nat} (h : Recorded s' t c kind cause sl ws)
    (hlog : (s'.core c).log = (s.core c).log) : Recorded s t c kind cause sl ws := by
  obtain ⟨herr, hlog⟩ := Prod.mk.inj hlog
  obtain ⟨hnext, hseq⟩ := Prod.mk.inj hlog
  unfold Recorded at *
  dsimp only at *
  rwa [herr, hnext, hseq] at h

theorem log_onCore (s : State) (c : Nat) (f : Core → Core) (h : ∀ k, (f k).log = k.log) : ((s.onCore c f).core c).log = (s.core c).log := by
  rw [State.core_onCore, h]

theorem log_setSlot (s : State) (c sl : Nat) (v : Slot) : ((s.setSlot c sl v).core c).log = (s.core c).log :=
  log_onCore s c _ fun _ => rfl

theorem log_zeroRegs (s : State) (c sl : Nat) : ((s.zeroRegs c sl).core c).log = (s.core c).log := by
  unfold State.zeroRegs
  dsimp only
  split
  · exact log_onCore s c _ fun _ => rfl
  · exact (log_setSlot _ c sl _).trans (log_onCore s c _ fun _ => rfl)

theorem halt_log (s : State) (c sl cause : Nat) : ((s.halt c sl cause).core c).log = (s.core c).log :=
  (log_setSlot _ c sl _).trans (log_zeroRegs s c sl)

theorem park_recorded (s : State) (c sl : Nat) (r : ErrRec) : Recorded s (s.park c sl r) c r.kind r.cause sl
    [r.pc.toNat, r.addr.toNat, (s.thread c sl).tid % 65536, r.w4, r.w5, r.w6, r.w7] := by
  obtain ⟨t', -, hth⟩ := s.park_spec c sl r
  have htid : ((s.halt c sl r.cause).thread c sl).tid = (s.thread c sl).tid := by
    rw [State.park, State.thread, State.slot_record] at hth
    rw [State.thread, hth]
  have h := record_recorded (s.halt c sl r.cause) c { r with slot := sl, tid := ((s.halt c sl r.cause).thread c sl).tid }
  rw [← htid]
  exact h.of_log (halt_log s c sl r.cause)

end Sys2Proof.Machine
end

section
/-!
A fetch that finds no instruction (02_lines R22 to R26, R43, R44, R48): what the line is, and what is executed in the instruction's place.
-/
namespace Sys2Proof.Machine

open Sys2Proof

/-! ### Lines and their faults (R22, R25, R26, R43, R44) -/

theorem lineN_lineCopy (th : Thread) : lineN th.lineCopy = halfword th 0 / 2 ^ 11 :=
  Nat.mod_eq_of_lt (Nat.div_lt_of_lt_mul (th.lineCopy.getD 0 0).isLt)

theorem tailSum_lineCopy (th : Thread) (n : Nat) :
    tailSum th.lineCopy n = ((List.range n).map fun j => halfword th (j + 1) / 2 ^ 8 % 4).sum := by
  induction n with
  | zero => rfl
  | succ n ih =>
    rw [tailSum, ih, List.range_succ, List.map_append, List.sum_append]
    simp only [List.map_cons, List.map_nil, List.sum_cons, List.sum_nil]
    rfl

theorem lineOk_iff (th : Thread) : lineOk th.lineCopy = true ↔ ¬ Malformed th := by
  have hs : tailSum th.lineCopy (halfword th 0 / 2 ^ 11) = tailsOf th := tailSum_lineCopy th _
  have h0 : fld (hwAt th.lineCopy 0) 0 11 = halfword th 0 % 2 ^ 11 := congrArg (· % 2 ^ 11) (Nat.div_one _)
  unfold lineOk Malformed
  simp only [h0, lineN_lineCopy, hs, Bool.and_eq_true, decide_eq_true_eq, List.all_eq_true, List.mem_range, not_or, not_exists, not_and,
    not_not, and_assoc]
  refine and_congr Nat.one_le_iff_ne_zero (and_congr Iff.rfl (and_congr Nat.not_lt.symm (forall_congr' fun i => ?_)))
  have hi : hwAt th.lineCopy i = halfword th i := rfl
  rw [hi]
  constructor
  · intro h h1 h2
    have h3 := Nat.lt_sub_iff_add_lt.1 h2
    have := h (Nat.lt_of_le_of_lt (Nat.le_add_right ..) h3)
    rw [if_pos ⟨h1, h3⟩] at this
    exact eq_of_beq this
  · intro h h1
    split
    next h2 => exact beq_iff_eq.2 (h h2.1 (Nat.lt_sub_iff_add_lt.2 h2.2))
    next => rfl

theorem decodeAt_illine {th : Thread} {k : Nat} (h : Malformed th ∨ halfword th 0 / 2 ^ 11 < k ∨ k = 0) :
    decodeAt th.lineCopy k = .illine := by
  refine if_neg fun hok => ?_
  simp only [Bool.and_eq_true, decide_eq_true_eq, lineOk_iff, lineN_lineCopy] at hok
  obtain ⟨⟨hm, h1⟩, h2⟩ := hok
  rcases h with h | h | h
  · exact hm h
  · exact Nat.not_le.2 h h2
  · exact Nat.ne_of_gt h1 h

theorem decodeAt_illegal {th : Thread} {k : Nat} (hm : ¬ Malformed th) (h1 : 1 ≤ k) (hn : k ≤ halfword th 0 / 2 ^ 11)
    (hd : decode (halfword th k) (tailOf th.lineCopy k) = none) : decodeAt th.lineCopy k = .illegal := by
  unfold decodeAt
  rw [if_pos (by simp only [(lineOk_iff th).2 hm, lineN_lineCopy, h1, hn, decide_true, Bool.and_self])]
  rw [show decode (hwAt th.lineCopy k) (tailOf th.lineCopy k) = none from hd]

theorem current_turn {s : State} {c sl : Nat} (hcurr : s.curr = true) (hc : s.curCore = c) (hsl : s.curSlot = sl) (f : Nat → Nat → State) :
    current s f = .next (f c sl) := by
  rw [current, if_pos hcurr, hc, hsl]

theorem exec_of_fault {s : State} {c sl : Nat} {k : Cause} (hcurr : s.curr = true) (hc : s.curCore = c) (hsl : s.curSlot = sl)
    (hk : (s.thread c sl).lineFault = some k) : exec .illegalEncoding s = .next (if k.parks
      then s.park c sl { kind := 1, cause := k.code, pc := (s.thread c sl).pc, addr := (s.thread c sl).pc }
      else s.enterTrap c sl k 0 (s.thread c sl).pc false) := by
  have hat : (s.thread c sl).atPc = .fault k := by rw [Thread.atPc, hk]
  refine ((exec_illegalEncoding s).trans (current_turn hcurr hc hsl _)).trans (congrArg _ ?_)
  dsimp only
  rw [hat]

theorem exec_of_illine {s : State} {c sl : Nat} (hcurr : s.curr = true) (hc : s.curCore = c) (hsl : s.curSlot = sl)
    (hk : (s.thread c sl).lineFault = none) (hd : decodeAt (s.thread c sl).lineCopy (headOf (s.thread c sl).pc.toNat) = .illine) :
    exec .illegalEncoding s = .next (s.enterTrap c sl .illine (s.thread c sl).illineWord
      (BitVec.ofNat 64 (lineOf (s.thread c sl).pc.toNat)) false) := by
  have hat : (s.thread c sl).atPc = .illine := by
    rw [Thread.atPc, hk]
    dsimp only
    rw [hd]
  refine ((exec_illegalEncoding s).trans (current_turn hcurr hc hsl _)).trans (congrArg _ ?_)
  dsimp only
  rw [hat]

theorem exec_of_illegal {s : State} {c sl : Nat} (hcurr : s.curr = true) (hc : s.curCore = c) (hsl : s.curSlot = sl)
    (hk : (s.thread c sl).lineFault = none) (hd : decodeAt (s.thread c sl).lineCopy (headOf (s.thread c sl).pc.toNat) = .illegal) :
    exec .illegalEncoding s = .next (s.trap c sl .illegal 0) := by
  have hat : (s.thread c sl).atPc = .illegal := by
    rw [Thread.atPc, hk]
    dsimp only
    rw [hd]
  refine ((exec_illegalEncoding s).trans (current_turn hcurr hc hsl _)).trans (congrArg _ ?_)
  dsimp only
  rw [hat]

theorem Cause.parks_eq (k : Cause) : k.parks = decide (k ∈ [Cause.poison, .copyfault, .shadowfull, .twinmismatch]) := by
  induction k <;> rfl

theorem eachFetchFaultTraps : Clause.EachFetchFaultTraps := by
  intro s c sl k tword taddr hcurr hc hsl hf
  rcases hf with ⟨hline, hk, hw, ha⟩ | ⟨hline, hbad, hk, hw, ha⟩ | ⟨hline, hm, h1, hn, hd, hk, hw, ha⟩
  · have hp : ¬ k.parks = true := fun h => hk (of_decide_eq_true (k.parks_eq.symm.trans h))
    rw [hw, ha]
    exact State.enterTrap_spec _ s c sl k _ _ ((exec_of_fault hcurr hc hsl hline).trans (congrArg _ (if_neg hp)))
  · rw [hk, hw, ha]
    exact State.enterTrap_spec _ s c sl .illine _ _ (exec_of_illine hcurr hc hsl hline (decodeAt_illine hbad))
  · rw [hk, hw, ha]
    exact trap_takes (exec_of_illegal hcurr hc hsl hline (decodeAt_illegal hm h1 hn hd))

/-- The trap registers written and the thread gone on, as one list. -/
theorem written_and_gone {tepc tcause tword taddr tprog pc regs memory kept rest : Prop}
    (hwritten : tepc ∧ tcause ∧ tword ∧ taddr ∧ tprog) (hgone : pc ∧ regs ∧ memory ∧ kept ∧ rest) :
    pc ∧ tepc ∧ tcause ∧ tword ∧ taddr ∧ tprog ∧ regs ∧ memory ∧ rest := by
  obtain ⟨htepc, htcause, htword, htaddr, htprog⟩ := hwritten
  obtain ⟨hpc, hregs, hmemory, -, hrest⟩ := hgone
  exact ⟨hpc, htepc, htcause, htword, htaddr, htprog, hregs, hmemory, hrest⟩

theorem illegalEncodingCompletes : Clause.IllegalEncodingCompletes := by
  intro s c sl k tword taddr hcurr hc hsl hf hh hsup hpc
  have hne : ¬ inEntry s c sl k tword := fun h => hpc h.2
  obtain ⟨t, he, htrap⟩ := eachFetchFaultTraps s c sl k tword taddr hcurr hc hsl hf
  exact ⟨t, he, written_and_gone (htrap.1 fun h => hne h.1) (htrap.2.2.1 hne hsup hh)⟩

theorem poisonedFetchParks : Clause.PoisonedFetchParks := by
  intro s c sl hcurr hc hsl hline
  obtain ⟨t', hst, hth⟩ := s.park_spec c sl { kind := 1, cause := Cause.poison.code, pc := (s.thread c sl).pc, addr := (s.thread c sl).pc }
  exact ⟨_, (exec_of_fault hcurr hc hsl hline).trans (congrArg _ (if_pos rfl)), hst, by rw [hth], by rw [hth], by rw [hth], park_recorded ..⟩

/-- Settles O43: what the fetch finds is what R26 makes of the line, and its fault is a trap, or parks. -/
theorem fetchFaultsTrap : Obligations.FetchFaultsTrap := ⟨eachFetchFaultTraps, illegalEncodingCompletes, poisonedFetchParks⟩

end Sys2Proof.Machine
end

section
/-!
The value of each scalar instruction (07_issue R169 to R175): the model's word is the number that the rule gives, modulo 2^64.
-/
namespace Sys2Proof.Machine

open Sys2Proof

/-! ### The value of each scalar instruction (R169 to R175) -/

theorem word_toNat (x : Word) : x = BitVec.ofInt 64 x.toNat := by
  rw [BitVec.ofInt_natCast, BitVec.ofNat_toNat, BitVec.setWidth_eq]

theorem word_natCast (n : Nat) : BitVec.ofNat 64 n = BitVec.ofInt 64 n := (BitVec.ofInt_natCast 64 n).symm

theorem word_add (x y : Word) : x + y = BitVec.ofInt 64 (x.toNat + y.toNat) := by
  rw [BitVec.ofInt_add, ← word_toNat, ← word_toNat]

theorem word_addInt (x : Word) (k : Int) : x + wordOf k = BitVec.ofInt 64 (x.toNat + k) := by
  rw [BitVec.ofInt_add, ← word_toNat, wordOf]

theorem word_sub (x y : Word) : x - y = BitVec.ofInt 64 (x.toNat - y.toNat) := by
  rw [Int.sub_eq_add_neg, BitVec.ofInt_add, BitVec.ofInt_neg, ← word_toNat, ← word_toNat, BitVec.sub_eq_add_neg]

theorem word_mul (x y : Word) : x * y = BitVec.ofInt 64 (x.toInt * y.toInt) := by
  rw [BitVec.ofInt_mul, BitVec.ofInt_toInt, BitVec.ofInt_toInt]

theorem word_shl (x : Word) (n : Nat) : x <<< n = BitVec.ofInt 64 (x.toNat * 2 ^ n) := by
  refine BitVec.eq_of_toNat_eq ?_
  rw [BitVec.toNat_shiftLeft, Nat.shiftLeft_eq, BitVec.toNat_ofInt]
  exact_mod_cast rfl

theorem word_shr (x : Word) (n : Nat) : x >>> n = BitVec.ofInt 64 (x.toNat / 2 ^ n) := by
  refine (word_toNat _).trans ?_
  rw [BitVec.toNat_ushiftRight, Nat.shiftRight_eq_div_pow]
  push_cast
  rfl

theorem word_sar (x : Word) (n : Nat) : x.sshiftRight n = BitVec.ofInt 64 (x.toInt / 2 ^ n) := by
  rw [← BitVec.ofInt_toInt (x := x.sshiftRight n), BitVec.toInt_sshiftRight, Int.shiftRight_eq_div_pow]
  rfl

theorem rol_rotateLeft (x : Word) (n : Nat) : rol x n = x.rotateLeft n := by
  rw [rol, BitVec.rotateLeft_def]
  split
  case isTrue h => rw [h, BitVec.shiftLeft_zero, BitVec.ushiftRight_eq_zero (Nat.le_refl _), BitVec.or_zero]
  case isFalse => rfl

theorem word_mulhU (x y : Word) : mulhU x y = BitVec.ofInt 64 (x.toNat * y.toNat / 2 ^ 64) := by
  rw [mulhU, word_natCast]
  rfl

/-- A choice between two words is the choice between their numbers. -/
theorem word_ite {p q : Prop} [Decidable p] [Decidable q] (h : p ↔ q) {x y : Word} {m n : Int} (hx : x = BitVec.ofInt 64 m)
    (hy : y = BitVec.ofInt 64 n) : (if p then x else y) = BitVec.ofInt 64 (if q then m else n) := by
  rw [hx, hy, apply_ite (BitVec.ofInt 64)]
  exact if_congr h rfl rfl

theorem word_minS (x y : Word) : minS x y = BitVec.ofInt 64 (min x.toInt y.toInt) := by
  rw [Int.min_def]
  exact word_ite .rfl BitVec.ofInt_toInt.symm BitVec.ofInt_toInt.symm

theorem word_maxS (x y : Word) : maxS x y = BitVec.ofInt 64 (max x.toInt y.toInt) := by
  rw [Int.max_def]
  exact word_ite .rfl BitVec.ofInt_toInt.symm BitVec.ofInt_toInt.symm

theorem word_minU (x y : Word) : minU x y = BitVec.ofInt 64 (min (x.toNat : Int) y.toNat) := by
  rw [Int.min_def]
  exact word_ite Nat.cast_le.symm (word_toNat x) (word_toNat y)

theorem word_maxU (x y : Word) : maxU x y = BitVec.ofInt 64 (max (x.toNat : Int) y.toNat) := by
  rw [Int.max_def]
  exact word_ite Nat.cast_le.symm (word_toNat y) (word_toNat x)

theorem eq_iff_toNat (x y : Word) : x = y ↔ (x.toNat : Int) = y.toNat := BitVec.toNat_eq.trans Nat.cast_inj.symm

theorem eq_zero_iff (y : Word) : y = 0 ↔ (y.toNat : Int) = 0 := eq_iff_toNat y 0

/-- DIV and REM of the one quotient that a word does not hold (R169). -/
theorem word_overflow {x y : Word} {f : Int → Int → Int} {n : Int} (h : BitVec.ofInt 64 (f (-2 ^ 63) (-1)) = BitVec.ofInt 64 n) :
    BitVec.ofInt 64 (f x.toInt y.toInt) = BitVec.ofInt 64 (if x.toInt = -2 ^ 63 ∧ y.toInt = -1 then n else f x.toInt y.toInt) := by
  split
  case isTrue hxy => rw [hxy.1, hxy.2, h]
  case isFalse => rfl

theorem word_divS (x y : Word) : divS x y = BitVec.ofInt 64 (if (y.toNat : Int) = 0 then -1
    else if x.toInt = -2 ^ 63 ∧ y.toInt = -1 then -2 ^ 63 else x.toInt.tdiv y.toInt) :=
  word_ite (eq_zero_iff y) rfl (word_overflow (f := Int.tdiv) rfl)

theorem word_divU (x y : Word) : divU x y = BitVec.ofInt 64 (if (y.toNat : Int) = 0 then -1 else x.toNat / y.toNat) :=
  word_ite (eq_zero_iff y) rfl (word_natCast _)

theorem word_remS (x y : Word) : remS x y = BitVec.ofInt 64 (if (y.toNat : Int) = 0 then x.toNat
    else if x.toInt = -2 ^ 63 ∧ y.toInt = -1 then 0 else x.toInt - x.toInt.tdiv y.toInt * y.toInt) := by
  rw [Int.mul_comm, ← Int.tmod_def]
  exact word_ite (eq_zero_iff y) (word_toNat x) (word_overflow (f := Int.tmod) rfl)

theorem word_remU (x y : Word) : remU x y = BitVec.ofInt 64 (if (y.toNat : Int) = 0 then (x.toNat : Int) else x.toNat % y.toNat) :=
  word_ite (eq_zero_iff y) (word_toNat x) (word_natCast _)

theorem bit_toNat (x : Word) (i : Nat) : bit x.toNat i = x.getLsbD i := by
  rw [← BitVec.testBit_toNat, Nat.testBit_eq_decide_div_mod_eq, bit]
  rfl

/-- How many come before the first that p picks. -/
theorem length_takeWhile_range' (p : Nat → Bool) (n k : Nat) :
    k + ((List.range' k n).takeWhile fun i => !p i).length = ((List.range' k n).find? p).getD (k + n) := by
  induction n generalizing k with
  | zero => rfl
  | succ n ih =>
    rw [List.range'_succ, List.takeWhile_cons, List.find?_cons]
    cases p k
    case true => rfl
    case false => rw [Nat.add_comm n, ← Nat.add_assoc, ← ih, Nat.add_assoc, Nat.add_comm 1]; rfl

theorem word_zerosBefore (x : Word) (at_ : Nat → Nat) :
    BitVec.ofNat 64 ((List.range 64).takeWhile fun i => !(bit x.toNat (at_ i))).length = BitVec.ofInt 64 (zerosBefore x at_) := by
  rw [← Nat.zero_add (List.length _), List.range_eq_range', length_takeWhile_range' fun i => bit x.toNat (at_ i), word_natCast,
    zerosBefore, List.range_eq_range']
  simp only [bit_toNat]

theorem word_popc (x : Word) : BitVec.ofNat 64 (popc x.toNat 64) = BitVec.ofInt 64 ((List.range 64).countP fun i => x.getLsbD i) := by
  rw [popc, setBits, ← List.countP_eq_length_filter, word_natCast]
  simp only [bit_toNat]

/-- Bits gathered from the first on are the sum of their places counted from the last. -/
theorem foldl_bits (f : Nat → Bool) (n : Nat) : (List.range (n + 1)).foldl (fun r i => 2 * r + (f i).toNat) 0 =
    ((List.range (n + 1)).map fun i => if f (n - i) then 2 ^ i else 0).sum := by
  induction n with
  | zero =>
    show 2 * 0 + (f 0).toNat = (if f 0 then 2 ^ 0 else 0) + 0
    cases f 0 <;> rfl
  | succ n ih =>
    have hd : ((fun i => if f (n + 1 - i) then 2 ^ i else 0) ∘ Nat.succ) = fun i => 2 * if f (n - i) then 2 ^ i else 0 := by
      funext i
      rw [mul_ite, ← Nat.pow_succ', Function.comp_apply, Nat.add_sub_add_right]
    rw [List.range_succ, List.foldl_concat, ih, ← List.range_succ, List.range_succ_eq_map (n := n + 1), List.map_cons, List.map_map, hd,
      List.sum_cons, List.sum_map_mul_left, Nat.add_comm]
    cases f (n + 1) <;> rfl

theorem word_brev (x : Word) : brev x =
    BitVec.ofInt 64 (((List.range 64).map fun i => if x.getLsbD (63 - i) then 2 ^ i else 0).sum : Nat) := by
  rw [brev]
  simp only [bit_toNat]
  exact (congrArg (BitVec.ofNat 64) (foldl_bits x.getLsbD 63)).trans (word_natCast _)

theorem ofBytes_concat (l : List Byte) (b : Byte) : ofBytes (l ++ [b]) = ofBytes l + b.toNat * 2 ^ (8 * l.length) := by
  induction l with
  | nil => simp [ofBytes]
  | cons a l ih =>
    show a.toNat + 256 * ofBytes (l ++ [b]) = a.toNat + 256 * ofBytes l + b.toNat * 2 ^ (8 * l.length + 8)
    rw [ih, Nat.pow_add, ← Nat.mul_assoc, Nat.mul_add, Nat.mul_comm 256 (_ * _), Nat.add_assoc]

theorem ofBytes_reverse_toBytes (n v : Nat) : ofBytes (toBytes (n + 1) v).reverse =
    ((List.range (n + 1)).map fun i => v / 2 ^ (8 * n - 8 * i) % 256 * 2 ^ (8 * i)).sum := by
  induction n generalizing v with
  | zero =>
    show (BitVec.ofNat 8 v).toNat + 256 * 0 = v / 1 % 256 * 1 + 0
    rw [BitVec.toNat_ofNat, Nat.div_one, Nat.mul_one]
  | succ n ih =>
    rw [toBytes, List.reverse_cons, ofBytes_concat, ih, List.length_reverse, toBytes_length, List.range_succ (n := n + 1),
      List.map_append, List.sum_append, List.map_singleton, List.sum_singleton, Nat.sub_self, BitVec.toNat_ofNat, Nat.pow_zero, Nat.div_one]
    refine congrArg (List.sum · + _) (List.map_congr_left fun i hi => ?_)
    have hi : 8 * i ≤ 8 * n := Nat.mul_le_mul_left 8 (Nat.le_of_lt_succ (List.mem_range.1 hi))
    rw [Nat.div_div_eq_div_mul, ← Nat.pow_add 2 8, ← Nat.add_sub_assoc hi, Nat.mul_succ, Nat.add_comm 8]

theorem word_bswap (x : Word) : bswap x =
    BitVec.ofInt 64 (((List.range 8).map fun i => x.toNat / 2 ^ (56 - 8 * i) % 256 * 2 ^ (8 * i)).sum : Nat) :=
  (congrArg (BitVec.ofNat 64) (ofBytes_reverse_toBytes 7 x.toNat)).trans (word_natCast _)

theorem word_truth {p q : Prop} [Decidable p] [Decidable q] (h : p ↔ q) : truth (decide p) = BitVec.ofInt 64 (asBit q) := by
  simp only [truth, decide_eq_true_eq]
  exact word_ite h rfl rfl

theorem word32_of_mod {v : Word} {n : Nat} (h : v.toNat % 2 ^ 32 = n % 2 ^ 32) : word32 v = BitVec.ofInt 64 (sextI n 32) := by
  rw [word32, sext, sextI, h]
  rfl

theorem word_shiftImm (kind : ShKind) (x : Word) (n : Nat) : shiftImm kind x n = BitVec.ofInt 64 (match kind with
    | .shl => (x.toNat : Int) * 2 ^ (n % 64)
    | .shr => (x.toNat : Int) / 2 ^ (n % 64)
    | .sar => x.toInt / 2 ^ (n % 64)
    | .rol => ((x.rotateLeft (n % 64)).toNat : Int)) := by
  cases kind with
  | shl => exact word_shl x _
  | shr => exact word_shr x _
  | sar => exact word_sar x _
  | rol =>
    dsimp only
    rw [BitVec.rotateLeft_mod_eq_rotateLeft, ← rol_rotateLeft]
    exact word_toNat _

theorem word_agen (x y : Word) (disp : Int) (sh : Nat) :
    x + (y <<< sh) + wordOf disp = BitVec.ofInt 64 (x.toNat + y.toNat * 2 ^ sh + disp) := by
  rw [BitVec.ofInt_add, BitVec.ofInt_add, ← word_toNat, ← word_shl, wordOf]

theorem toNat_sub_mod (x y : Word) : (x - y).toNat % 2 ^ 32 = ((x.toNat - y.toNat : Int) % 2 ^ 32).toNat % 2 ^ 32 := by
  rw [word_sub, BitVec.toNat_ofInt]
  generalize (x.toNat - y.toNat : Int) = z
  have h32 : (0 : Int) ≤ 2 ^ 32 := by decide
  have hmod (n : Int) (h : 0 ≤ n) : n.toNat % 2 ^ 32 = (n % 2 ^ 32).toNat := (Int.toNat_emod h h32).symm
  rw [hmod _ (Int.emod_nonneg _ (by decide)), hmod _ (Int.emod_nonneg _ (by decide)), Int.emod_emod,
    Int.emod_emod_of_dvd z (by decide)]

theorem imm32_eq (k : Nat) : imm32 k = BitVec.ofInt 64 (sextI k 32) := rfl

theorem word_addw (x y : Word) : word32 (x + y) = BitVec.ofInt 64 (sextI ((x.toNat + y.toNat) % 2 ^ 32) 32) :=
  word32_of_mod (by rw [BitVec.toNat_add, Nat.mod_mod, Nat.mod_mod_of_dvd _ (by decide)])

theorem word_subw (x y : Word) : word32 (x - y) = BitVec.ofInt 64 (sextI (((x.toNat : Int) - y.toNat) % 2 ^ 32).toNat 32) :=
  word32_of_mod (toNat_sub_mod x y)

theorem word_mulw (x y : Word) : word32 (x * y) = BitVec.ofInt 64 (sextI (x.toNat * y.toNat % 2 ^ 32) 32) :=
  word32_of_mod (by rw [BitVec.toNat_mul, Nat.mod_mod, Nat.mod_mod_of_dvd _ (by decide)])

theorem word_extractField (x : Word) (pos len : Nat) (sx : Bool) : extractField x pos len sx = BitVec.ofInt 64
    (if sx then sextI (x.toNat / 2 ^ pos % 2 ^ len) len else (x.toNat / 2 ^ pos % 2 ^ len : Nat)) :=
  word_ite .rfl rfl (word_natCast _)

end Sys2Proof.Machine
end

section
/-!
Each scalar instruction runs by its form (07_issue R164, R165, R169 to R175): its registers, its turns and its value.
-/
namespace Sys2Proof.Machine

open Sys2Proof

/-- An instruction is a scalar one of this form, at a slot: what it reads, writes and computes, and its turns (R164, R165). -/
def ScalarForm.RunBy (q : ScalarForm) (i : Instr) (s : State) (c sl : Nat) : Prop :=
  ∃ f, exec i s = scalar s q.reads q.d q.turns f ∧ f c sl = BitVec.ofInt 64 q.r

theorem runBy_binary {i : Instr} {s : State} {c sl d a b k : Nat} {op : Word → Word → Word} {r : Word → Word → Int}
    (hr : ∀ x y, op x y = BitVec.ofInt 64 (r x y)) (he : exec i s = binary s d a b k op) :
    ScalarForm.RunBy { reads := [a, b], d := d, turns := k, r := r (s.reg64 c sl a) (s.reg64 c sl b) } i s c sl := ⟨_, he, hr _ _⟩

theorem runBy_unary {i : Instr} {s : State} {c sl d a : Nat} {op : Word → Word} {r : Word → Int}
    (hr : ∀ x, op x = BitVec.ofInt 64 (r x)) (he : exec i s = unary s d a op) :
    ScalarForm.RunBy { reads := [a], d := d, turns := 1, r := r (s.reg64 c sl a) } i s c sl := ⟨_, he, hr _⟩

/-- Each scalar instruction runs by its form (R169 to R175). -/
theorem runBy_scalarForm (i : Instr) (s : State) (c sl : Nat) :
    (scalarForm i (s.reg64 c sl)).elim True fun q => q.RunBy i s c sl := by
  induction i with
  | aluAdd | aluqAdd => exact (runBy_binary word_add :) rfl
  | aluSub | aluqSub => exact (runBy_binary word_sub :) rfl
  | aluAnd | aluqAnd => exact (runBy_binary (fun x y => word_toNat (x &&& y)) :) rfl
  | aluOr | aluqOr => exact (runBy_binary (fun x y => word_toNat (x ||| y)) :) rfl
  | aluXor => exact (runBy_binary (fun x y => word_toNat (x ^^^ y)) :) rfl
  | aluAndn => exact (runBy_binary (fun x y => word_toNat (x &&& ~~~y)) :) rfl
  | aluShl => exact (runBy_binary (op := shlW) (fun x y => word_shl x (y.toNat % 64)) :) rfl
  | aluShr => exact (runBy_binary (op := shrW) (fun x y => word_shr x (y.toNat % 64)) :) rfl
  | aluSar => exact (runBy_binary (op := sarW) (fun x y => word_sar x (y.toNat % 64)) :) rfl
  | aluRol =>
    have hrol (x y : Word) := (rol_rotateLeft x (y.toNat % 64)).trans (word_toNat _)
    exact (runBy_binary (op := fun x y => rol x (amount y)) hrol :) rfl
  | aluMin => exact (runBy_binary word_minS :) rfl
  | aluMax => exact (runBy_binary word_maxS :) rfl
  | aluMinn => exact (runBy_binary word_minU :) rfl
  | aluMaxn => exact (runBy_binary word_maxU :) rfl
  | aluMul => exact (runBy_binary word_mul :) rfl
  | aluMulhn => exact (runBy_binary word_mulhU :) rfl
  | aluMulh => exact (runBy_binary (op := mulhS) (fun x y => rfl) :) rfl
  | liS32 d k => exact ⟨fun _ _ => imm32 k, rfl, imm32_eq k⟩
  | aluDiv => exact (runBy_binary word_divS :) rfl
  | aluDivn => exact (runBy_binary word_divU :) rfl
  | aluRem => exact (runBy_binary word_remS :) rfl
  | aluRemn => exact (runBy_binary word_remU :) rfl
  | aluClz => exact (runBy_unary (fun x => word_zerosBefore x fun i => 63 - i) :) rfl
  | aluCtz => exact (runBy_unary (fun x => word_zerosBefore x fun i => i) :) rfl
  | aluPopc => exact (runBy_unary word_popc :) rfl
  | aluBrev => exact (runBy_unary word_brev :) rfl
  | aluBswap => exact (runBy_unary word_bswap :) rfl
  | aluSel d a b z =>
    exact ⟨fun c sl => if s.reg64 c sl z ≠ 0 then s.reg64 c sl a else s.reg64 c sl b, rfl,
      word_ite (not_congr (eq_zero_iff _)) (word_toNat _) (word_toNat _)⟩
  | aluAddw => exact (runBy_binary word_addw :) rfl
  | aluSubw => exact (runBy_binary word_subw :) rfl
  | aluMulw => exact (runBy_binary word_mulw :) rfl
  | addi d a k => exact (runBy_unary (fun x => word_addInt x k) :) rfl
  | liZ32 d k => exact ⟨fun _ _ => BitVec.ofNat 64 (k % 2 ^ 32), rfl, word_natCast _⟩
  | liHi d a k => exact (runBy_unary (fun x => word_natCast (k % 2 ^ 32 * 2 ^ 32 + x.toNat % 2 ^ 32)) :) rfl
  | logiAnd d a k => exact (runBy_unary (fun x => word_toNat (x &&& imm32 k)) :) rfl
  | logiOr d a k => exact (runBy_unary (fun x => word_toNat (x ||| imm32 k)) :) rfl
  | logiXor d a k => exact (runBy_unary (fun x => word_toNat (x ^^^ imm32 k)) :) rfl
  | logiSh d a kind n => exact (runBy_unary (fun x => word_shiftImm kind x n) :) rfl
  | cmpEq => exact (runBy_binary (fun x y => word_truth (eq_iff_toNat x y)) :) rfl
  | cmpNe => exact (runBy_binary (fun x y => word_truth (not_congr (eq_iff_toNat x y))) :) rfl
  | cmpLt => exact (runBy_binary (fun x y => word_truth (Iff.refl (x.toInt < y.toInt))) :) rfl
  | cmpGe => exact (runBy_binary (fun x y => word_truth (Iff.refl (y.toInt ≤ x.toInt))) :) rfl
  | cmpLtn => exact (runBy_binary (fun x y => word_truth (Nat.cast_lt (α := Int) (m := x.toNat) (n := y.toNat)).symm) :) rfl
  | cmpGen => exact (runBy_binary (fun x y => word_truth (Nat.cast_le (α := Int) (m := y.toNat) (n := x.toNat)).symm) :) rfl
  | bitExt d a p n sx => exact (runBy_unary (fun x => word_extractField x p n sx) :) rfl
  | bitIns d a b p n => exact (runBy_binary (fun x y => word_toNat (insertField x y p n)) :) rfl
  | agen d a b disp sh => exact (runBy_binary (fun x y => word_agen x y disp sh) :) rfl
  | _ => trivial

end Sys2Proof.Machine
end

section
/-!
The checks before an instruction's effect (02_lines R45 to R48, 05_crowns R113, R118): privilege, register limit and a tiller's budget.
-/
namespace Sys2Proof.Machine

open Sys2Proof

/-! ### The checks that stop an instruction (R45 to R48, R113) -/

section
variable {s : State} {c sl : Nat} (hcurr : s.curr = true) (hc : s.curCore = c) (hsl : s.curSlot = sl)
include hcurr hc hsl

theorem guarded_priv {priv : Bool} {names writes : List Nat} {f : Nat → Nat → State} (hpriv : priv = true)
    (hsup : (s.thread c sl).sup = false) : guarded s priv names writes f = .next (s.trap c sl .priv 0) := by
  refine (current_turn hcurr hc hsl _).trans (congrArg _ (if_pos ?_))
  rw [hpriv, hsup]
  rfl

theorem guarded_reglimit {names writes : List Nat} {f : Nat → Nat → State} {r : Nat} (h : overLimit (s.thread c sl) names = some r) :
    guarded s false names writes f = .next (s.trap c sl .reglimit (BitVec.ofNat 64 r)) := by
  refine (current_turn hcurr hc hsl _).trans (congrArg _ ((if_neg Bool.false_ne_true).trans ?_))
  rw [h]

theorem guarded_within {names writes : List Nat} {f : Nat → Nat → State} (h : ∀ r ∈ names, r < (s.thread c sl).limit) :
    guarded s false names writes f = .next (if (s.thread c sl).overBudget writes
      then s.failTiller c sl .copyfault (s.thread c sl).pc else s.reading c sl (writes.foldl List.erase names) (f c sl)) := by
  refine (current_turn hcurr hc hsl _).trans (congrArg _ ((if_neg Bool.false_ne_true).trans ?_))
  rw [overLimit_none _ _ h]

end

theorem cond_intro {b : Bool} {p : Prop} (h : b = true → p) : cond b p True := by
  cases b
  case false => trivial
  case true => exact h rfl

theorem exec_supervisorOnly (i : Instr) {s : State} {c sl : Nat} (hcurr : s.curr = true) (hc : s.curCore = c) (hsl : s.curSlot = sl)
    (hsup : (s.thread c sl).sup = false) : cond (supervisorOnly i) (exec i s = .next (s.trap c sl .priv 0)) True := by
  induction i with
  | csrRead => exact cond_intro fun h => (exec_csrRead ..).trans (guarded_priv hcurr hc hsl h hsup)
  | csrWrite => exact cond_intro fun h => (exec_csrWrite ..).trans (guarded_priv hcurr hc hsl h hsup)
  | csrSet => exact cond_intro fun h => (exec_csrSet ..).trans (guarded_priv hcurr hc hsl h hsup)
  | csrClear => exact cond_intro fun h => (exec_csrClear ..).trans (guarded_priv hcurr hc hsl h hsup)
  | sysIdle => exact (exec_sysIdle ..).trans (guarded_priv hcurr hc hsl rfl hsup)
  | sysTlbinv => exact (exec_sysTlbinv ..).trans (guarded_priv hcurr hc hsl rfl hsup)
  | sysSavectx => exact (exec_sysSavectx ..).trans (guarded_priv hcurr hc hsl rfl hsup)
  | sysLoadctx => exact (exec_sysLoadctx ..).trans (guarded_priv hcurr hc hsl rfl hsup)
  | sysScrub => exact (exec_sysScrub ..).trans (guarded_priv hcurr hc hsl rfl hsup)
  | chanTtset => exact (exec_chanTtset ..).trans (guarded_priv hcurr hc hsl rfl hsup)
  | _ => trivial

theorem privilegeTraps : Clause.PrivilegeTraps := by
  intro i s c sl h hcurr hc hsl hsup
  have he := exec_supervisorOnly i hcurr hc hsl hsup
  rw [h] at he
  exact trap_takes he

/-- The register that REGLIMIT names is the least of those at or above the limit (R48). -/
theorem overLimit_eq (th : Thread) (rs : List Nat) : overLimit th rs = (rs.filter fun r => decide (th.limit ≤ r)).min? := by
  unfold overLimit
  generalize rs.filter _ = l
  cases l with
  | nil => rfl
  | cons x l =>
    rw [List.min?_cons', List.foldl_cons]
    induction l generalizing x with
    | nil => rfl
    | cons y l ih => exact ih (min x y)

theorem overLimit_lowest {th : Thread} {rs : List Nat} {r : Nat} (hr : r ∈ rs) (hlim : th.limit ≤ r)
    (hlow : ∀ x ∈ rs, th.limit ≤ x → r ≤ x) : overLimit th rs = some r := by
  rw [overLimit_eq, List.min?_eq_some_iff]
  refine ⟨List.mem_filter.2 ⟨hr, decide_eq_true hlim⟩, fun x hx => ?_⟩
  obtain ⟨hx, hxl⟩ := List.mem_filter.1 hx
  exact hlow x hx (of_decide_eq_true hxl)

/-- A scalar instruction is its checks, a read of its sources, and a result in its register. -/
theorem exec_scalarForm {i : Instr} {s : State} {c sl : Nat} {q : ScalarForm} (h : scalarForm i (s.reg64 c sl) = some q) :
    ∃ f, exec i s = guarded s false (q.d :: q.reads) [q.d] f ∧
      f c sl = ((s.put c sl q.d (BitVec.ofInt 64 q.r)).finish c sl).turns c sl q.turns := by
  have hrun := runBy_scalarForm i s c sl
  rw [h] at hrun
  obtain ⟨f, he, hf⟩ := hrun
  exact ⟨_, he, by rw [← hf]⟩

theorem registerLimitTraps : Clause.RegisterLimitTraps := by
  intro i s c sl r q hq hcurr hc hsl hr hlim hlow
  obtain ⟨f, he, -⟩ := exec_scalarForm hq
  exact trap_takes (he.trans (guarded_reglimit hcurr hc hsl (overLimit_lowest hr hlim hlow)))

/-! ### A tiller's end (R113, R118, R122, R189) -/

/-- Only a stack-copy invalidation invalidates (09_homing R233). -/
theorem invalidates_none (x : Content) : cond (x.invalidates none) (∃ st l tier g uid, x = .copyInv st l tier g uid) True := by
  induction x with
  | copyInv => exact ⟨_, _, _, _, _, rfl⟩
  | _ => trivial

theorem endWaits_of_performed {s : State} {th : Thread} (hp : th.posted = 0) (hi : th.invals = 0) (hn : NoInvalidations s) :
    s.endWaits th = false := by
  have hb : s.invsBefore th none = false := by
    refine List.any_eq_false.2 fun p h hinv => ?_
    have hx := invalidates_none p.2
    rw [(Bool.and_eq_true_iff.1 hinv).1] at hx
    obtain ⟨st, l, tier, g, uid, hx⟩ := hx
    exact hn p h st l tier g uid hx
  rw [State.endWaits, hp, hi, hb]
  rfl

theorem sendDec_onItsWay (s : State) (c h : Nat) (fail : Bool) : OnItsWay (s.sendDec c h fail) (.joinDec h fail c) := by
  unfold State.sendDec
  split
  · exact notify_onItsWay ..
  · exact coreToCore_onItsWay ..

theorem sendDec_core (s : State) (c h : Nat) (fail : Bool) (k : Nat) :
    ∃ n, (s.sendDec c h fail).core k = { s.core k with outAt := n } := by
  unfold State.sendDec
  split
  · exact ⟨_, rfl⟩
  · exact coreToCore_core ..

/-- What a slot keeps of its thread until the next turn (R189). -/
noncomputable def State.freedSlot (s : State) (c sl : Nat) : Slot :=
  { th := { base := (s.thread c sl).base, limit := (s.thread c sl).limit, tiller := (s.thread c sl).tiller }, freeAt := s.cyc c + 16 }

/-- A tiller ends: its slot is free, no register changes, and its decrement is on its way. -/
structure TillerEnds (s t : State) (c sl h : Nat) (fail : Bool) : Prop where
  slot : t.slot c sl = s.freedSlot c sl
  regs : SameRegs s t
  dec : OnItsWay t (.joinDec h fail c)

theorem TillerEnds.freed {s t : State} {c sl h : Nat} {fail : Bool} (e : TillerEnds s t c sl h fail) : Freed s t c sl where
  st := congrArg Slot.st e.slot
  at_ := congrArg Slot.freeAt e.slot
  base := congrArg (fun x => x.th.base) e.slot
  limit := congrArg (fun x => x.th.limit) e.slot
  tiller := congrArg (fun x => x.th.tiller) e.slot

theorem endThread_ends {s : State} {c sl : Nat} {x : Tiller} (fail : Bool) (hx : (s.thread c sl).tiller = some x)
    (hh : (s.thread c sl).heads = false) (hpair : (s.column (c / 2)).twinctl.getLsbD sl = false) :
    TillerEnds s (s.endThread c sl fail) c sl x.handle fail := by
  have he : s.endThread c sl fail = ((s.setSlot c sl (s.freedSlot c sl)).onColumn (columnOf c)
      fun y => { y with shadowUsed := y.shadowUsed - x.shadowMax }).sendDec c x.handle fail := by
    have htrail : ¬ ((s.column (columnOf c)).twinctl.getLsbD sl && decide (c % 2 = 1)) = true := by
      rw [show columnOf c = c / 2 from rfl, hpair]
      exact Bool.false_ne_true
    refine (if_neg htrail).trans ((if_neg (by rw [hh]; exact Bool.false_ne_true)).trans ?_)
    rw [State.freedSlot, hx]
  have hcore (k : Nat) := sendDec_core ((s.setSlot c sl (s.freedSlot c sl)).onColumn (columnOf c)
    fun y => { y with shadowUsed := y.shadowUsed - x.shadowMax }) c x.handle fail k
  rw [← he] at hcore
  refine ⟨?_, fun k => ?_, he ▸ sendDec_onItsWay ..⟩
  · obtain ⟨n, hn⟩ := hcore c
    rw [State.slot, hn]
    exact s.slot_setSlot c sl _
  · obtain ⟨n, hn⟩ := hcore k
    rw [hn]
    exact ⟨State.rf_setSlot .., State.rfErr_setSlot ..⟩

/-- A record of kind 3 is not reported: no register changes, and nothing is sent (R411). -/
theorem record_unreported (s : State) (c : Nat) {r : ErrRec} (h : r.kind = 3) :
    SameRegs s (s.record c r) ∧ (s.record c r).items = s.items := by
  by_cases hlv : errLv (s.core c).errlog = true
  · have he : s.record c r = (s.setCore c (s.core c).logged).tierWrite _ _ _ := (if_pos hlv).trans (if_pos (by rw [h]; rfl))
    rw [he]
    refine ⟨fun k => ?_, by cases (s.core c).errlog.getLsbD 38 <;> rfl⟩
    rw [core_tierWrite]
    exact (s.setCore_frame c (s.core c).logged ⟨rfl, rfl⟩).1 k
  · have he : s.record c r = s := if_neg hlv
    rw [he]
    exact ⟨fun _ => ⟨rfl, rfl⟩, rfl⟩

theorem TillerEnds.record {s t : State} {c sl h : Nat} {fail : Bool} (e : TillerEnds s t c sl h fail) {r : ErrRec} (hr : r.kind = 3) :
    TillerEnds s (t.record c r) c sl h fail := by
  obtain ⟨hregs, hitems⟩ := record_unreported t c hr
  obtain ⟨id, hid⟩ := e.dec
  exact ⟨(State.slot_record ..).trans e.slot, e.regs.trans hregs, id, hitems ▸ hid⟩

theorem failTiller_ends {s : State} {c sl : Nat} {x : Tiller} (k : Cause) (pc : Word) (hx : (s.thread c sl).tiller = some x)
    (hend : s.endWaits (s.thread c sl) = false) (hpair : (s.column (c / 2)).twinctl.getLsbD sl = false) :
    TillerEnds s (s.failTiller c sl k pc) c sl x.handle true := by
  have hth := s.thread_onThread c sl fun y => { y with heads := false }
  have hnear : Near s (s.onThread c sl fun y => { y with heads := false }) c sl := near_setThread ..
  have e := endThread_ends (s := s.onThread c sl fun y => { y with heads := false }) true (by rw [hth]; exact hx) (by rw [hth]) hpair
  have hslot : (s.onThread c sl fun y => { y with heads := false }).freedSlot c sl = s.freedSlot c sl := by
    rw [State.freedSlot, hth, hnear.cyc]
    rfl
  simp only [State.failTiller, hx, hend, Bool.false_eq_true, if_false]
  exact TillerEnds.record ⟨e.slot.trans hslot, hnear.sameRegs.trans e.regs, e.dec⟩ rfl

theorem copyFaultEndsTiller : Clause.CopyFaultEndsTiller := by
  intro i s c sl q x hq hcurr hc hsl hlim hx hd hfind hbud hposted hinvals hinv hpair
  obtain ⟨f, he, -⟩ := exec_scalarForm hq
  have hover : (s.thread c sl).overBudget [q.d] = true := by
    have hnew : (s.thread c sl).newCopies [q.d] = 1 := by
      simp [Thread.newCopies, hx, hd, hfind, List.eraseDups_cons]
    rw [Thread.overBudget, hx, hnew]
    exact decide_eq_true (Nat.lt_succ_of_le hbud)
  have he := he.trans (guarded_within hcurr hc hsl hlim)
  rw [if_pos hover] at he
  have e := failTiller_ends .copyfault (s.thread c sl).pc hx (endWaits_of_performed hposted hinvals hinv) hpair
  exact ⟨_, he, e.freed, e.regs, e.dec⟩

end Sys2Proof.Machine
end

section
/-!
Errors found in the entries that an instruction reads (07_issue R162, 20_traps R402, R409, R410).
-/
namespace Sys2Proof.Machine

open Sys2Proof

/-! ### Errors in the entries read (R402, R409, R410) -/

/-- With one element that f maps, each element once is mapped to that one value. -/
theorem filterMap_eraseDups_single {α : Type} {f : Nat → Option α} {e : Nat} {v : α} (hv : f e = some v)
    (hf : ∀ x, x ≠ e → f x = none) {l : List Nat} (hl : e ∈ l) : l.eraseDups.filterMap f = [v] := by
  induction h : l.length using Nat.strong_induction_on generalizing l with
  | _ n ih =>
    cases l with
    | nil => exact absurd hl List.not_mem_nil
    | cons a l =>
      rw [List.eraseDups_cons, List.filterMap_cons]
      by_cases ha : a = e
      · have hnone : ((l.filter fun b => !b == a).eraseDups).filterMap f = [] := by
          refine List.filterMap_eq_nil_iff.2 fun b hb => hf b ?_
          have := (List.mem_filter.1 (List.mem_eraseDups.1 hb)).2
          rintro rfl
          simp [ha] at this
        rw [ha, hv, ← ha, hnone]
      · have hlt : (l.filter fun b => !b == a).length < n := by
          rw [← h]
          exact Nat.lt_succ_of_le (List.length_filter_le ..)
        have he : e ∈ l.filter fun b => !b == a := by
          refine List.mem_filter.2 ⟨(List.mem_cons.1 hl).resolve_left (Ne.symm ha), ?_⟩
          simp [Ne.symm ha]
        rw [hf a ha]
        exact ih _ hlt he rfl

/-- With one bad entry, which a source of a plain thread is read from, that entry's error is what is found. -/
theorem errorsIn_single {th : Thread} {errs : List (Nat × Bool)} {rs : List Nat} {a : Nat} {u : Bool} (hplain : th.tiller = none)
    (ha : a ∈ rs) (h0 : a ≠ 0) (honly : ∀ x, find errs x ≠ none → x = th.base + a) (hu : find errs (th.base + a) = some u) :
    th.errorsIn errs rs = [(th.base + a, u)] := by
  have hentry : th.entryOf a = some (th.base + a) := by rw [Thread.entryOf, if_neg h0, hplain]
  refine filterMap_eraseDups_single (by rw [hu]; rfl) (fun x hx => ?_) (List.mem_filterMap.2 ⟨a, ha, hentry⟩)
  rw [not_imp_comm.1 (honly x) hx]
  rfl

/-- Outside the two tiers no memory changes. -/
def SameMemoryButTiers (s t : State) : Prop := SameMemory { s with hbm := t.hbm, lp := t.lp } t

theorem record_memory (s : State) (c : Nat) (r : ErrRec) : SameMemoryButTiers s (s.record c r) := by
  by_cases hlv : errLv (s.core c).errlog = true
  · obtain ⟨hm, -⟩ := record_logs r hlv
    revert hm
    cases (s.core c).errlog.getLsbD 38 <;>
      exact fun hm => ⟨hm.bank, hm.column, fun _ => rfl, fun _ => rfl, hm.bankBad, hm.colBad, hm.bankErr, hm.colErr, hm.sectors,
        hm.lines⟩
  · rw [show s.record c r = s from if_neg hlv]
    exact ⟨fun _ => rfl, fun _ => rfl, fun _ => rfl, fun _ => rfl, rfl, rfl, rfl, rfl, rfl, fun _ => rfl⟩

theorem sameMemory_zeroRegs (s : State) (c sl : Nat) : SameMemory s (s.zeroRegs c sl) := by
  unfold State.zeroRegs
  dsimp only
  split
  case h_1 => exact ⟨fun _ => rfl, fun _ => rfl, fun _ => rfl, fun _ => rfl, rfl, rfl, rfl, rfl, rfl, fun _ => rfl⟩
  case h_2 => exact ⟨fun _ => rfl, fun _ => rfl, fun _ => rfl, fun _ => rfl, rfl, rfl, rfl, rfl, rfl, fun _ => rfl⟩

theorem park_memory (s : State) (c sl : Nat) (r : ErrRec) : SameMemoryButTiers s (s.park c sl r) := by
  have h := sameMemory_zeroRegs s c sl
  have g := record_memory (s.halt c sl r.cause) c { r with slot := sl, tid := ((s.halt c sl r.cause).thread c sl).tid }
  exact ⟨fun a => (g.bank a).trans (h.bank a), fun a => (g.column a).trans (h.column a), fun _ => rfl, fun _ => rfl,
    g.bankBad.trans h.bankBad, g.colBad.trans h.colBad, g.bankErr.trans h.bankErr, g.colErr.trans h.colErr,
    g.sectors.trans h.sectors, fun k => (g.lines k).trans (h.lines k)⟩

/-- Of its core, a record changes only the log's place and the reports. -/
theorem record_core (s : State) (c : Nat) (r : ErrRec) : ((s.record c r).core c).unlogged = (s.core c).unlogged := by
  by_cases hlv : errLv (s.core c).errlog = true
  · obtain ⟨-, hk⟩ := record_logs r hlv
    rw [core_tierWrite, State.core_setCore] at hk
    exact congrArg (fun k : Core => { k with errNext := 0, errSeq := 0 }) hk
  · rw [show s.record c r = s from if_neg hlv]

/-- A core whose entry e holds no error any more. -/
noncomputable def Core.withoutError (k : Core) (e : Nat) : Core := { k with rfErr := unset k.rfErr e }

/-- What the read of an entry leaves whose error the code corrects: the error is gone, and a record of kind 7 is written (R409). -/
noncomputable def State.corrected (s : State) (c sl e : Nat) (th : Thread) : State :=
  (s.onCore c fun k => k.withoutError e).record c
    { kind := 7, slot := sl, pc := th.pc, tid := th.tid, w4 := 3, w5 := e, w6 := 1 }

theorem corrected_slot (s : State) (c sl e : Nat) (th : Thread) (j : Nat) : (s.corrected c sl e th).slot c j = s.slot c j :=
  (State.slot_record ..).trans (State.slot_onCore_slots _ _ (fun k => k.withoutError e) (fun _ => rfl) _ _)

theorem corrected_core (s : State) (c sl e : Nat) (th : Thread) :
    ((s.corrected c sl e th).core c).unlogged = ((s.core c).withoutError e).unlogged := by
  rw [State.corrected, record_core, State.core_onCore]

theorem corrected_recorded {s u : State} {c sl e : Nat} {th : Thread} (hlog : (u.core c).log = (s.core c).log) :
    Recorded s (u.corrected c sl e th) c 7 0 sl [th.pc.toNat, 0, th.tid % 65536, 3, e, 1, 0] :=
  (record_recorded _ c _).of_log ((log_onCore u c (fun k => k.withoutError e) fun _ => rfl).trans hlog)

theorem corrected_reg (s : State) (c sl e : Nat) (th : Thread) (r : Nat) : (s.corrected c sl e th).reg c sl r = s.reg c sl r := by
  have hk := corrected_core s c sl e th
  have hrf := congrArg Core.rf hk
  have hcr := congrArg Core.crowns hk
  change ((s.corrected c sl e th).core c).rf = (s.core c).rf at hrf
  change ((s.corrected c sl e th).core c).crowns = (s.core c).crowns at hcr
  rw [State.reg, State.reg, State.thread, State.thread, corrected_slot, State.regOf, State.regOf, hrf, hcr]

theorem reading_uncorrected {s : State} {c sl e : Nat} {rs : List Nat} {after : State}
    (h : (s.thread c sl).errorsIn (s.core c).rfErr rs = [(e, true)]) : s.reading c sl rs after =
      s.park c sl { kind := 1, cause := Cause.poison.code, pc := (s.thread c sl).pc, w4 := 3, w5 := e, w6 := 2 } := by
  unfold State.reading
  dsimp only
  rw [h]
  rfl

theorem reading_corrected {s : State} {c sl e : Nat} {rs : List Nat} {after : State}
    (h : (s.thread c sl).errorsIn (s.core c).rfErr rs = [(e, false)]) :
    s.reading c sl rs after = after.corrected c sl e (s.thread c sl) := by
  unfold State.reading
  dsimp only
  rw [h]
  rfl

theorem park_parked (s : State) (c sl : Nat) (r : ErrRec) : ((s.park c sl r).slot c sl).st = .parked :=
  (s.park_spec c sl r).choose_spec.1

/-- A result written, with the error of an entry read gone. -/
theorem put_corrected {s u : State} {c sl d k e : Nat} {v : VWord} (hroom : HasRoom s c sl d)
    (hu : u = ((s.setReg c sl d v).finish c sl).turns c sl k) :
    ((u.corrected c sl e (s.thread c sl)).thread c sl).pc = (s.thread c sl).nextPc ∧
      (u.corrected c sl e (s.thread c sl)).reg c sl d = (if d = 0 then 0 else v) ∧ (u.core c).log = (s.core c).log := by
  have hdone := putDone s c sl d k v hroom
  rw [← hu] at hdone
  obtain ⟨hgets, hpc, -, -, -, hrest⟩ := hdone
  have hlog := congrArg Core.log hrest.core
  exact ⟨(congrArg (fun x : Slot => x.th.pc) (corrected_slot ..)).trans hpc, (corrected_reg ..).trans hgets.value, hlog⟩

theorem corrected_rfErr (s : State) (c sl e : Nat) (th : Thread) : find ((s.corrected c sl e th).core c).rfErr e = none := by
  have hk := congrArg Core.rfErr (corrected_core s c sl e th)
  exact (congrArg (find · e) hk).trans (find_unset_self ..)

/-- A scalar instruction of a plain thread within its limit only reads its sources before its meaning. -/
theorem exec_plain {i : Instr} {s : State} {c sl : Nat} {q : ScalarForm} (hq : scalarForm i (s.reg64 c sl) = some q)
    (hcurr : s.curr = true) (hc : s.curCore = c) (hsl : s.curSlot = sl) (hlim : ∀ r ∈ q.d :: q.reads, r < (s.thread c sl).limit)
    (hplain : (s.thread c sl).tiller = none) : exec i s = .next (s.reading c sl q.reads
      (((s.put c sl q.d (BitVec.ofInt 64 q.r)).finish c sl).turns c sl q.turns)) := by
  obtain ⟨f, he, hf⟩ := exec_scalarForm hq
  have hover : ¬ (s.thread c sl).overBudget [q.d] = true := by
    rw [Thread.overBudget, hplain]
    exact Bool.false_ne_true
  rw [he, guarded_within hcurr hc hsl hlim, if_neg hover, hf]
  exact congrArg (fun rs => Host.Outcome.next (s.reading c sl rs _)) (List.erase_cons_head ..)

theorem registerErrorsAreFound : Clause.RegisterErrorsAreFound := by
  intro i s c sl a e q hq hcurr hc hsl hlim hplain ha h0 he honly
  have hexec := exec_plain hq hcurr hc hsl hlim hplain
  rw [he] at honly
  have hsingle (u : Bool) (hu : find (s.core c).rfErr e = some u) : (s.thread c sl).errorsIn (s.core c).rfErr q.reads = [(e, u)] :=
    he ▸ errorsIn_single hplain ha h0 honly (he ▸ hu)
  refine ⟨fun hu => ?_, fun hu => ?_⟩
  · exact ⟨_, hexec.trans (congrArg _ (reading_uncorrected (hsingle true hu))), park_parked .., park_memory .., park_recorded ..⟩
  · have hroom : HasRoom s c sl q.d := fun x hx => absurd (hplain.symm.trans hx) (Option.some_ne_none x).symm
    obtain ⟨hpc, hreg, hlog⟩ := put_corrected (e := e) hroom rfl
    exact ⟨_, hexec.trans (congrArg _ (reading_corrected (hsingle false hu))), hpc, hreg, corrected_rfErr .., corrected_recorded hlog⟩

/-- Settles O4: each check stops the instruction before its meaning, and what it does in its stead is a trap, a tiller's end or a record. -/
theorem checksComeBeforeEffects : Obligations.ChecksComeBeforeEffects :=
  ⟨privilegeTraps, registerLimitTraps, copyFaultEndsTiller, registerErrorsAreFound⟩

end Sys2Proof.Machine
end

section
/-!
Words worked out in the spec (02_lines R22, R23, R25, R26, R43, R44).
-/
namespace Sys2Proof.Machine

open Sys2Proof

/-- Settles O56, by evaluating the decoder on the words. -/
theorem wordsDecode : Obligations.WordsDecode := by
  unfold Obligations.WordsDecode
  decide

end Sys2Proof.Machine
end
